-- ==== Sys2Proof/Word.lean ====
section
/-! DEFINITION. The word types of the ZW24-M model. Registers are 64 bits wide (R9), memory is
addressed by bytes (R14), and multi-byte fields are little-endian (R6). -/

namespace Sys2Proof

/-- One byte of memory, of a packet or of a cell. -/
abbrev Byte := BitVec 8

/-- One register (R9: every register is 64 bits wide). -/
abbrev Word := BitVec 64

/-- A sparse table by number: an entry per listed key, in rising key order, no entry equal to the
value an unlisted key reads as. The operations stand in Machine/Ops.lean. -/
abbrev Tab (α : Type) := List (Nat × α)

/-- Where a bit error is met: in a stored granule, by its address; in a granule of that address while it crosses a Dovetail or the
mesh; in a granule of the accumulator store of the core that works (R47, R182). -/
inductive HitPlace where
  | store | transit | accumulator
deriving DecidableEq, Repr

/-- The bit errors met in the course of a command: place, granule address (or number in the accumulator store), and the pattern of
the 144 granule bits (R180) that differ from what was stored or sent. A fact of the physical world. -/
abbrev BitErrors := List (HitPlace × Nat × BitVec 144)

end Sys2Proof
end

