-- ==== Sys2Proof/Syntax.lean ====
section
/-! DEFINITION. The commands of the module as syntax: one constructor of `Instr` per row of
spec/opcode_table.json, and the types of their operands. -/

namespace Sys2Proof

/-- Unit kinds that can be clamped (R64, R440). -/
inductive UnitKind where
  | core | cluster | die
deriving DecidableEq, Repr

/-- The two kinds of calibration window (R191, R192). -/
inductive CalKind where
  | lpddr6 | inlay
deriving DecidableEq, Repr

/-- The reset domains of R462. -/
inductive DomainCode where
  | core | cluster | die | router | memory | bench | cold
deriving DecidableEq, Repr

/-- Why the write of an image object fails (R393). -/
inductive ObjectFault where
  | timeout | poison | noResource
deriving DecidableEq, Repr

/-- One RDMA packet received on an Ethernet port (R225 to R231). `kind` as its transport opcode says. -/
inductive RdmaKind where
  /-- SEND of a payload (bridge traffic, R315, or a storage capsule, R390). -/
  | send (payload : List Byte)
  /-- RDMA WRITE of `payload` at `address` under a remote key; `last` ends the message, which may carry
  an immediate value. -/
  | write (address rkey : Nat) (payload : List Byte) (last : Bool) (immediate : Option (BitVec 32))
  /-- RDMA READ request of `length` bytes. -/
  | read (address rkey length : Nat)
  /-- One packet of the response to an RDMA READ. -/
  | readResponse (payload : List Byte) (last : Bool)
  /-- Cumulative acknowledgement up to this packet's PSN. -/
  | ack
  /-- NAK: the PSN is the first one missing (R228). -/
  | nak
  /-- Selective acknowledgement, transport opcode 0xC1 (R229). -/
  | selectiveAck (bitmap : BitVec 128)
  /-- Receiver not ready (R315). -/
  | notReady
  /-- NAK of a request that cannot be carried out, here for poison (R183). -/
  | nakError
deriving DecidableEq, Repr

/-- One RDMA packet with what its checks found (R231). -/
structure RdmaPacket where
  qpn : Nat
  psn : BitVec 24
  kind : RdmaKind
  /-- UDP source port (R226), priority of the IEEE 802.1Q tag where there is one (R225, R243), DSCP, and whether it is marked
  ECN-capable (R230). -/
  sourcePort : Nat
  priority : Option Nat
  dscp : Nat
  ecnCapable : Bool
  /-- The Ethernet frame check and the invariant CRC have passed (R231). -/
  checksOk : Bool
  /-- The packet carries a congestion-experienced mark (R230). -/
  congestion : Bool
deriving DecidableEq, Repr

/-- Kinds of IEEE 1588 message that a slave takes under the delay request-response mechanism (R250). Times are TAI instants,
corrections applied: seconds and nanoseconds. -/
inductive PtpKind where
  /-- Sync: of a one-step source with its time of departure, of a two-step source without it. -/
  | sync (origin : Option (Nat × Nat))
  /-- Follow_Up of a two-step source: the time of departure of the Sync of the same sequence number. -/
  | followUp (origin : Nat × Nat)
  /-- Delay_Resp: when the source received the Delay_Req of the same sequence number. -/
  | delayResponse (received : Nat × Nat)
deriving DecidableEq, Repr

/-- An IEEE 1588 message over UDP (R250). -/
structure PtpMessage where
  domain : Nat
  seq : Nat
  /-- The source is in sync. -/
  inSync : Bool
  /-- Sync interval of the source in ms. -/
  intervalMs : Nat
  kind : PtpKind
deriving DecidableEq, Repr

/-- One entry of the principal table (chapter 14, "Principals and sessions"). -/
structure PrincipalEntry where
  index : BitVec 16
  ownerAllowed : Bool
  keyHash : List Byte
deriving DecidableEq, Repr

/-- What the signed configuration image carries (R29, R35, R36, R52, R503, R512). -/
structure ConfigImage where
  /-- The pairing table as stored (R29). -/
  pairing : List Byte
  serial : Word
  substrateRev : BitVec 8
  /-- Manufacturing bypass map by engine (R52). -/
  bypass : List (Nat × BitVec 32)
  principals : List PrincipalEntry
  /-- Two bits per alarm source (R517). -/
  alarmMap : BitVec 14
deriving DecidableEq, Repr

/-- What the end of a boot stage finds (R483, R486). -/
inductive StageOutcome where
  /-- Stage 0: the Grain was reconstructed, or not (R496); a stage-1 image verified, or not. -/
  | rom (grainOk stage1Ok : Bool)
  /-- Stage 1: the stage-2 image verifies; the configuration image verifies; the anti-rollback tag
  verifies (R500); which copies run (region numbers); the running images' security versions and revoke
  masks; the mesh is found open (R512). -/
  | images (stage2Ok configOk rollbackOk : Bool) (running : Nat × Nat × Nat)
      (versions : BitVec 32 × BitVec 32 × BitVec 32) (revoke : BitVec 4) (keyIndex : Nat × Nat × Nat)
      (config : ConfigImage)
  /-- Stage 2: the journal is recovered. -/
  | journal
  /-- Stage 3: stepping code of each compute die (0 = no answer), of the Carcass and of the Bench, dies
  with a failed bond lane, dies whose spares run out, dies that fail the mesh test (R28, R32). -/
  | dies (steppings : List (BitVec 8)) (carcass bench : BitVec 8) (laneFail spareFail meshFail : BitVec 24)
  /-- Stage 4: command-ready. -/
  | commandReady
  /-- Stage 5: LPDDR6 sub-channels that fail training by device, dies whose Inlay fails. -/
  | memory (lpFail : List (Nat × BitVec 8)) (inlayFail : BitVec 24)
  /-- Stage 6: columns that fail self-test by engine, engines with a row-path fault, clusters whose row
  unit or fused row path fails. -/
  | compute (columns : List (Nat × BitVec 32)) (rowPath clusters : List Nat)
  /-- Stage 7: training-ready. -/
  | trainingReady
deriving DecidableEq, Repr

/-- One die's telemetry record as measured (R541). -/
structure DieTelemetry where
  railDw : BitVec 16
  hottest : BitVec 16
  sensor : BitVec 16
  railMv : BitVec 16
deriving DecidableEq, Repr

/-- What the power manager reads at an evaluation (R530, R541, R560): the input power, the records of
the 24 compute dies, the Bench and the Carcass, and the inputs. -/
structure Telemetry where
  inputW : BitVec 16
  records : List DieTelemetry
  feed0Dv : BitVec 10
  feed1Dv : BitVec 10
  auxMv : BitVec 12
  feed0Da : BitVec 12
  feed1Da : BitVec 12
deriving DecidableEq, Repr

/-- The commands of the block. `slot` is a marker slot as a port receives it: the marker block of each physical lane, empty where a
lane brings none (R206, R207). One constructor per row of spec/opcode_table.json (95_what_each_step_holds.md:
each row is one whole, indivisible step). Operands are what comes from outside the module: the unit
addressed, the packet or cell that arrives, or the outcome of a physical process. -/
inductive Instr where
  /-- SPEAS_FRAME (R233). A Speas frame arrives whole on a wavelength and is ordered by sequence, acknowledged and assembled into a Knaber packet. -/
  | speasFrame (port : Nat) (wave : Nat) (frame : List Byte)
  /-- SPEAS_RETRANSMIT_TIMEOUT (R234). With no acknowledgement progress for 50 µs the sender resends from the oldest unacknowledged frame; after 64 such expiries in a row the link goes down and its sessions close. -/
  | speasRetransmitTimeout (port : Nat)
  /-- SPEAS_ROTATION (R235). At its 250 ms fabric-time instant a Speas port starts a wavelength rotation, following the lane rotation procedure with wavelengths. -/
  | speasRotation (port : Nat)
  /-- SESSION_INIT (R503). Handshake message 1 creates a half-open session and returns the session ID and handshake message 2. -/
  | sessionInit
  /-- SESSION_CONFIRM (R505). Handshake message 3 opens a half-open session if the principal key, signature and tag check, and otherwise closes it with BAD_TAG. -/
  | sessionConfirm
  /-- SESSION_HALF_OPEN_EXPIRY (R505). A half-open session with no confirmation after 1 s closes. -/
  | sessionHalfOpenExpiry (session : Nat)
  /-- SESSION_IDLE_EXPIRY (R424). A session with no valid packet for CMD_CTRL.IDLE_S seconds closes, and its ownership ends. -/
  | sessionIdleExpiry (session : Nat)
  /-- SESSION_CLOSE (R424). The session closes after the reply; its long operations and pending commands continue. -/
  | sessionClose
  /-- PING (R429). Returns the given value and the current fabric time. -/
  | ping
  /-- OWNER_CLAIM (R425). Gains ownership when there is no owner, when the claimant is the owner, or by TAKEOVER from the same principal, and otherwise refuses with NOT_OWNER. -/
  | ownerClaim
  /-- OWNER_RELEASE (R425). Ends ownership by the owner session. -/
  | ownerRelease
  /-- SESSION_LIST (R429). Returns the open sessions with their port, owner flag, principal and opening FT. -/
  | sessionList
  /-- IDENTITY (R495). Returns the module ID, the serial, the public key hash and the certificate length. -/
  | identity
  /-- CERT_READ (R495). Returns bytes of the device certificate from NOR region 6. -/
  | certRead
  /-- ATTEST (R511). Returns the measurement log signed by the device key over the given nonce. -/
  | attest
  /-- REG_READ (R432). Reads the listed registers in order, or gives BAD_PARAM with no reads if any address is invalid. -/
  | regRead
  /-- REG_WRITE (R432). Checks every address and value pair and then writes them all in order, or writes none and names the pair that refused; this is the row for registers without behaviour of their own. `sets`: RW1C bits that hardware sets in the same cycle, by register address (R11). -/
  | regWrite (sets : List (Nat × Word))
  /-- REG_WRITE_MASKED (R432). As REG_WRITE, but changes only the bits set in each mask. -/
  | regWriteMasked (sets : List (Nat × Word))
  /-- MEM_READ (R433). Reads device memory, or replies POISON with the address of the first poisoned granule. -/
  | memRead (errs : BitErrors)
  /-- MEM_WRITE (R433). Writes data into device memory, subject to the address rules and to the protection of step data. -/
  | memWrite
  /-- MEM_FILL (R433). Starts a long fill of a memory range with a 16-byte pattern on a memory engine. -/
  | memFill
  /-- MEM_COPY (R433). Starts a long copy of a memory range on a memory engine. -/
  | memCopy
  /-- MEM_DIGEST (R433). Starts a long SHAKE256 digest of a memory range on a memory engine. -/
  | memDigest
  /-- PARTITION_SET (R295). Checks the partition descriptor and, if it is accepted, applies the new tag, geometry, twin and coordinator between two cells. -/
  | partitionSet
  /-- PARTITION_GET (R435). Returns the partition descriptor in force. -/
  | partitionGet
  /-- QP_CREATE (R435). Creates a RoCEv2 queue pair with its window and returns the local QPN. -/
  | qpCreate
  /-- QP_DESTROY (R435). Destroys a queue pair, whose outstanding operations end with TIMEOUT, unless a bridge or checkpoint target names it. -/
  | qpDestroy
  /-- DEST_TABLE_LOAD (R435). Writes destination table entries in ascending index order. -/
  | destTableLoad
  /-- PROGRAM_LOAD (R437). Checks a program image in place under R133 and the related rules, loads it, and places its logical cores. -/
  | programLoad
  /-- PROGRAM_UNLOAD (R437). Unloads a program number, unless a step or its EVAL slot is open. -/
  | programUnload
  /-- TT_WRITE (R257). Checks timetable entries and writes all of them, or refuses as a whole. -/
  | ttWrite
  /-- TT_REMOVE (R257). Removes timetable entries, or refuses as a whole. -/
  | ttRemove
  /-- TT_READ (R436). Returns timetable entries; unused entries read as zeros. -/
  | ttRead
  /-- STEP_PARAM (R438). Stores or replaces the step parameter block of a step ID within the accepted range. -/
  | stepParam
  /-- STEP_CONTROL_RESUME (R439). Clears a halt so that the next STEP_OPEN occurrence opens the named step ID and attempt. -/
  | stepControlResume
  /-- STEP_CONTROL_HALT (R381). Runs orders 1 to 8 of the recall for every unsealed step and holds, as a long operation. -/
  | stepControlHalt
  /-- STEP_CONTROL_SEAL (R354). Delivers SEAL of the named step and attempt, with the same effect as the SEAL cell. -/
  | stepControlSeal
  /-- STEP_CONTROL_RECALL (R354). Delivers RECALL with the replay FT and an optional HALT, as a long operation. -/
  | stepControlRecall
  /-- STEP_STATUS (R436). Returns the sealed step, the next step, the attempt, the sealed letter, the open steps, the phase and the flags. -/
  | stepStatus
  /-- CLAMP (R440). Clamps a core, cluster or die by command, with the effects of R23, R24, R65 and R155. -/
  | clamp
  /-- UNCLAMP (R66). Lifts a clamp made by command, only between steps and only when the enclosing units are not clamped. -/
  | unclamp
  /-- LEDGER_INDEX (R440). Returns the state, the pin flag and the step of all 512 ledger entries. -/
  | ledgerIndex
  /-- LEDGER_READ (R440). Returns bytes of a pattern ledger entry. -/
  | ledgerRead
  /-- LEDGER_PIN (R344). Pins or unpins a ledger entry. -/
  | ledgerPin
  /-- FIELD_TEST (R345). Runs a ledger entry on a core under every rotation and compares the fingerprints; a core with any failing run takes one strike. -/
  | fieldTest (failing : List (Nat × Nat × Nat))
  /-- TWIN_SEND (R383). Sends both sealed Veneers and their digest records to a receiving spare on stream contexts. -/
  | twinSend
  /-- TWIN_RECEIVE (R383). Arms the module as a receiving spare for a named sender, step, generation and letter. -/
  | twinReceive
  /-- TWIN_ADOPT (R384). Makes the sealed mirror shard an adopted own shard and clears MIRROR_VALID. -/
  | twinAdopt
  /-- CKPT_CUT (R394). Holds step n at its FWD to BWD boundary and writes a phase image. -/
  | ckptCut
  /-- CHECKPOINT_RELEASE (R392). Unfreezes the Veneer frozen for a step's image. -/
  | checkpointRelease
  /-- CKPT_RETRY (R393). Rewrites a failed image from the frozen Veneers into the same slot under a new image number. -/
  | ckptRetry
  /-- RESTORE (R395). Starts the restore of a glue-up image from the storage targets, beginning with the header pass. -/
  | restoreImage
  /-- JOURNAL_SUMMARY (R455). Returns the journal summary with its principal entries and open commands. -/
  | journalSummary
  /-- JOURNAL_READ (R456). Returns ring records or snapshot outcome entries from a given journal sequence. -/
  | journalRead
  /-- JOURNAL_COMPACT (R452). Starts a compaction of the journal into the inactive snapshot slot. -/
  | journalCompact
  /-- JOURNAL_COMPACTION_END (R452). The commit word of the new snapshot is written, the slot becomes active, ring space is freed and waiting events are sent. -/
  | journalCompactionEnd
  /-- SNAPSHOT_NOW (R522). Latches every counter into the snapshot store under a tag. -/
  | snapshotNow
  /-- SNAPSHOT_READ (R523). Returns the counters of a stored snapshot, waiting if the snapshot is not yet complete. -/
  | snapshotRead
  /-- TRACE_OFF (R525). TRACE_CTRL action 0 turns the selected rings off and keeps their entries. -/
  | traceOff
  /-- TRACE_ON (R525). TRACE_CTRL action 1 turns the selected rings on. -/
  | traceOn
  /-- TRACE_FREEZE (R525). TRACE_CTRL action 2 freezes the selected rings. -/
  | traceFreeze
  /-- TRACE_CLEAR (R525). TRACE_CTRL action 3 discards the entries of the selected rings and keeps their states. -/
  | traceClear
  /-- TRACE_READ (R525). Returns entries of a ring that is not ON. -/
  | traceRead
  /-- TELEMETRY_READ (R541). Returns the header and the per-die records of the latest power evaluation. -/
  | telemetryRead
  /-- PWR_STATUS (R537). Returns the PWR_STATUS register. -/
  | pwrStatus
  /-- PWR_CAP (R531). Sets a module or die power cap, which takes effect at the next evaluation. -/
  | pwrCap
  /-- RESET_CORE (R466). RESET_DOMAIN code 0 fences, drains and resets one core. -/
  | resetCore
  /-- RESET_CLUSTER (R466). RESET_DOMAIN code 1 fences, drains and resets one cluster. -/
  | resetCluster
  /-- RESET_COMPUTE_DIE (R466). RESET_DOMAIN code 2 fences, drains and resets one compute die with its Inlay. -/
  | resetComputeDie
  /-- RESET_CARCASS_ROUTER (R470). RESET_DOMAIN code 3 fences the fabric router and sends LINK_DARK notices on every admitted port. -/
  | resetCarcassRouter
  /-- RESET_CARCASS_MEMORY (R469). RESET_DOMAIN code 4 writes the Drawers back, puts LPDDR6 in self-refresh and resets the controllers. -/
  | resetCarcassMemory
  /-- RESET_BENCH (R472). RESET_DOMAIN code 5 replies and then fences and resets the Bench. -/
  | resetBench
  /-- COLD_RESET (R483). Replies and then starts a module cold reset with power held. -/
  | coldReset
  /-- IMAGE_WRITE (R501). Writes data into a NOR region whose copy is not running. -/
  | imageWrite
  /-- IMAGE_COMMIT (R501). Verifies a NOR region under R499; the image takes effect at the next cold reset. `pairing` is the pairing table that the payload of a configuration image carries (R29): no rule says where it lies there. -/
  | imageCommit (pairing : List Byte)
  /-- RESET_STATUS (R488). Returns the generation tags of every reset domain instance. -/
  | resetStatus
  /-- JOB_KEY_INSTALL (R508). Unwraps and installs a job key or the notice key according to its ID. -/
  | jobKeyInstall
  /-- JOB_KEY_ERASE (R508). Removes a job key from the key store. -/
  | jobKeyErase
  /-- ALARM_STATUS (R515). Returns the alarm record. -/
  | alarmStatus
  /-- ALARM_CLEAR (R515). Clears a latched alarm level 1, or level 2 once the wipe is done. -/
  | alarmClear
  /-- NOT_BEFORE_EXECUTE (R253). A pending command reaches its not-before FT and executes, and its outcome is reported in an event. -/
  | notBeforeExecute (errs : BitErrors) (failing : List (Nat × Nat × Nat)) (pairing : List Byte)
  /-- NOT_BEFORE_LOCK_TIMEOUT (R255). Pending commands held across a Bench reset are closed with DEADLINE when 60 s pass without the counter reaching LOCKED. -/
  | notBeforeLockTimeout
  /-- LONG_OPERATION_END (R422). A long operation ends; its outcome record is written and its closing event is sent. -/
  | longOperationEnd (jseq : Nat) (errs : BitErrors)
  /-- WORK_ITEM_START (R137). The core's arbiter takes the next work entry from a qualifying ring and starts the item. -/
  | workItemStart (core : Nat)
  /-- NOP (R139). The sequencer instruction that does nothing. -/
  | nop (core : Nat)
  /-- TILE (R143). Issues a run of tile descriptors to the engines after checking each one. -/
  | tileRun (core : Nat) (errs : BitErrors) (wrong : List (Nat × Byte))
  /-- ROW (R148). Issues one row-unit operation. -/
  | rowOp (core : Nat) (errs : BitErrors) (wrong : List (Nat × Byte))
  /-- COPY (R149). Issues one transfer, with an optional layout change through the Rabbet. -/
  | copyOp (core : Nat) (errs : BitErrors)
  /-- GATHER (R158). Issues a gather of indexed rows into the Tray. -/
  | gatherOp (core : Nat) (errs : BitErrors)
  /-- SCATTER (R158). Issues a scatter that stores or adds Tray rows at indexed targets. -/
  | scatterOp (core : Nat) (errs : BitErrors)
  /-- BIND (R62). Binds a fused row path slot from the slot table. -/
  | bindSlot (core : Nat)
  /-- CLOSE (R107). Closes a fused row path slot and writes its statistics. -/
  | closeSlot (core : Nat)
  /-- WAIT (R140). Starts a wait for the earlier ops of the masked classes. -/
  | waitOps (core : Nat)
  /-- WAIT_SATISFIED (R140). The ops that a WAIT, BNZ or END awaits have completed, and the item continues or ends. -/
  | waitSatisfied (core : Nat)
  /-- SIGNAL (R141). Adds to a sync counter, deferred to the end of a RESTARTABLE item. -/
  | signalCounter (core : Nat)
  /-- WAITC (R141). Starts a wait until a sync counter reaches a value. -/
  | waitc (core : Nat)
  /-- WAITC_SATISFIED (R141). The sync counter reaches the awaited value and the item continues. -/
  | waitcSatisfied (core : Nat)
  /-- POST (R136). Copies a work entry into a POST ring and advances its TAIL. -/
  | postEntry (core : Nat)
  /-- LOOPSET (R139). Sets a loop register. -/
  | loopset (core : Nat)
  /-- DJNZ (R139). Decrements a loop register and jumps if the result is not zero. -/
  | djnz (core : Nat)
  /-- BNZ (R139). Waits for all ops and then jumps if a Tray word is not zero. -/
  | bnz (core : Nat)
  /-- JUMP (R139). Jumps to an instruction address. -/
  | jump (core : Nat)
  /-- PARAM (R150). Copies the step parameter block of the item's step into the Tray. -/
  | paramBlock (core : Nat)
  /-- END (R142). Waits for all ops and then ends the item. -/
  | endItem (core : Nat)
  /-- TILE_COMPLETE (R153). A tile retires, writes its record or is counted as quiet, and may advance the step phase. -/
  | tileComplete (core : Nat)
  /-- ROW_OP_COMPLETE (R153). A row-unit operation completes and writes its record. -/
  | rowOpComplete (core : Nat)
  /-- TRANSFER_COMPLETE (R153). A COPY, GATHER or SCATTER completes and writes its record. -/
  | transferComplete (core : Nat)
  /-- UNIT_FIELD_FAULT (R64). An uncorrectable fault in a core or in a shared part clamps the unit; work moves to substitutes and restarts. -/
  | unitFieldFault (kind : UnitKind) (unit : Nat)
  /-- CAPTURE_END (R332). The capture of a sampled unit into the check store ends, and the unit's records are released. -/
  | captureEnd (unit : Nat)
  /-- DUPLICATE_RUN (R336). The checker's arbiter takes a pending duplicate and runs the captured unit with new rotations. -/
  | duplicateRun (core : Nat) (errs : BitErrors) (wrong : Word)
  /-- FINGERPRINT_COMPARE (R339). Both fingerprints of a unit exist and the Bench compares them, settling the unit or calling the referee. -/
  | fingerprintCompare (unit : Nat)
  /-- REFEREE_RUN (R340). The referee runs the captured unit, and the majority decides strikes, watches and the verdict. -/
  | refereeRun (core : Nat) (errs : BitErrors) (wrong : Word)
  /-- STREAM_DESCRIPTOR_START (R305). A collective engine starts the stream descriptor at HEAD once its contexts are free and its counter is reached. -/
  | streamDescriptorStart (queue : Nat)
  /-- OPEN (R301). An OPEN cell arrives at a receive half of a stream context. -/
  | openCell (port : Nat) (bytes : List Byte)
  /-- DATA (R301). A DATA cell arrives, is written to memory and acknowledged, or is reduced and forwarded in a collective. -/
  | dataCell (port : Nat) (bytes : List Byte)
  /-- ACK (R303). An ACK cell raises the acknowledged count of a transmit half or completes the stream. -/
  | ackCell (port : Nat) (bytes : List Byte)
  /-- VERDICT (R349). A VERDICT cell reaches the seal logic and is combined with the others; at the coordinator this may decide SEAL or RECALL. -/
  | verdictCell (port : Nat) (bytes : List Byte)
  /-- SEAL (R352). The first copy of SEAL commits the Veneer of the step, is forwarded to the children, and may start a digest or an image write. -/
  | sealCell (port : Nat) (bytes : List Byte)
  /-- RECALL (R356). The first copy of RECALL runs the recall sequence and schedules the replay, or holds on HALT. -/
  | recallCell (port : Nat) (bytes : List Byte)
  /-- TIME (R248). A time cell arrives and updates the offset and delay measurement and the choice of time source. -/
  | timeCell (port : Nat) (bytes : List Byte)
  /-- LINK_DARK (R288). A LINK_DARK cell makes the port stop sending routed cells and requeue them. -/
  | linkDarkCell (port : Nat) (bytes : List Byte)
  /-- CREDIT (R279). A CREDIT cell returns virtual channel credits to the port. -/
  | creditCell (port : Nat) (bytes : List Byte)
  /-- CODEWORD (R209). A codeword is received and decoded; an uncorrectable one discards the cells it holds. `corrected`: symbols corrected on each physical lane; `lockLost`: the decoder has lost lock (R221); `cells`: cells that lie wholly or partly in it, and in no earlier one that was lost. -/
  | codeword (port : Nat) (corrected : List Nat) (uncorrectable lockLost : Bool) (cells : Nat)
  /-- CELL_ESCAPE (R280). A cell that has waited 64 network cycles at the head of its queue moves to escape. `queue`: 0 to 15 the egress queues of a port, 16 + d the bridge of direction d, 24 + n the ingress buffers of port n, 40 the cells of this module that wait for an output. -/
  | cellEscape (queue : Nat) (vc : Nat)
  /-- CELL_STALL_DISCARD (R290). A cell that has waited STALL_US without an output is discarded as unroutable. `queue` as for CELL_ESCAPE. -/
  | cellStallDiscard (queue : Nat) (vc : Nat)
  /-- CREDIT_RETURN (R279). A port sends a CREDIT cell within 256 ns of owing credits. -/
  | creditReturn (port : Nat)
  /-- THROTTLE_RECOVERY (R292). Every microsecond the injection rate of a port below watermark W1 rises by STEP. -/
  | throttleRecovery
  /-- TIME_CELL_SEND (R248). Every 16 µs each admitted or discovered tensor port sends a time cell. -/
  | timeCellSend (port : Nat)
  /-- STREAM_RETRY_TIMEOUT (R302). A transmit half with no progress for TIMEOUT retries with a new attempt, or completes with TIMEOUT after RETRY retries. -/
  | streamRetryTimeout (context : Nat)
  /-- STREAM_RECEIVE_TIMEOUT (R301). A receive half with no cell for TIMEOUT × (RETRY + 1) writes a TIMEOUT record and returns to IDLE. -/
  | streamReceiveTimeout (context : Nat)
  /-- BRIDGE_PACK_TIMEOUT (R315). A partly filled bridge packet is sent as a SEND after 200 ns. -/
  | bridgePackTimeout (dir : Nat)
  /-- SIGNAL_DETECT (R211). Signal is detected on at least 4 lanes of a port that is DOWN or DARK, and training starts. -/
  | signalDetect (port : Nat) (lanes : Nat)
  /-- BRING_UP_ATTEMPT (R211). Every 10 ms a port that is DOWN with signal present starts a bring-up attempt. -/
  | bringUpAttempt (port : Nat)
  /-- TRAINING_TIMEOUT (R211). A port still training after 20 ms returns to DOWN. -/
  | trainingTimeout (port : Nat)
  /-- PORT_LOCK (R211). All lanes are locked and deskewed and the FEC is in lock, so the port enters DISCOVERED. -/
  | portLock (port : Nat) (txUsable : BitVec 5) (rxUsable : BitVec 5)
  /-- DISCOVERY_WORD (R212). A discovery word with a valid CRC updates PORT_Tn_PEER and applies the admission test. -/
  | discoveryWord (port : Nat) (slot : List (List Byte))
  /-- LOSS_OF_SIGNAL (R214). A port loses signal and enters DOWN, or enters DARK after a LINK_DARK notice; without a notice it reports PEER_LOST. -/
  | lossOfSignal (port : Nat)
  /-- PORT_TN_ADMIT (R212). A write of the expected peer of a tensor port reapplies the admission test at once. -/
  | portTnAdmit
  /-- RETRAIN (R214). A write of 1 to PORT_Tn_ADMIT.RETRAIN takes the port DOWN and starts a bring-up. -/
  | retrain
  /-- JIG_ROTATION (R215). At the port's PHASE_MS instant the transmitter starts a lane rotation by sending MIRROR, or skips the instant and counts it. -/
  | jigRotation (port : Nat)
  /-- MIRROR (R216). The receiver gets MIRROR in a marker and starts comparing the shim lane with the mirrored lane. -/
  | mirrorLane (port : Nat) (slot : List (List Byte))
  /-- MIRROR_COMPARE_END (R216). After 256 codewords the receiver switches to the shim lane and sends STEER_ACK, or sends STEER_NAK. -/
  | mirrorCompareEnd (port : Nat) (matched : Bool)
  /-- STEER_ACK (R216). The transmitter gets STEER_ACK and sends TRAIN for the lane that was left. -/
  | steerAck (port : Nat) (slot : List (List Byte))
  /-- STEER_NAK (R218). The transmitter gets STEER_NAK, abandons the rotation and retrains the shim lane in place. -/
  | steerNak (port : Nat) (slot : List (List Byte))
  /-- STEER_ACK_TIMEOUT (R218). No STEER_ACK within 4 marker slots abandons the rotation. -/
  | steerAckTimeout (port : Nat)
  /-- TRAIN (R216). The receiver gets TRAIN and starts equaliser adaptation and margin scan of the lane. -/
  | trainLane (port : Nat) (slot : List (List Byte))
  /-- LANE_TRAINING_END (R216). The receiver ends training of a lane and sends TRAIN_PASS or TRAIN_FAIL. -/
  | laneTrainingEnd (port : Nat) (pass : Bool) (margin : Word)
  /-- TRAIN_PASS (R216). The transmitter gets TRAIN_PASS and makes the lane the new shim, completing the rotation. -/
  | trainPass (port : Nat) (slot : List (List Byte))
  /-- TRAIN_FAIL (R216). The transmitter gets TRAIN_FAIL and fails the lane permanently. -/
  | trainFail (port : Nat) (slot : List (List Byte))
  /-- MARKER_LOCK_LOSS (R219). The receiver declares a lane failed in service after losing marker lock or over-correcting, and sends LANE_FAIL. -/
  | markerLockLoss (port : Nat) (phys : Nat)
  /-- LANE_FAIL (R220). The transmitter gets LANE_FAIL and moves the lane onto the shim lane, or restripes to three lanes. -/
  | laneFail (port : Nat) (slot : List (List Byte))
  /-- RESTRIPE_3 (R221). The receiver switches to three-lane striping from the next codeword. -/
  | restripe3 (port : Nat) (slot : List (List Byte))
  /-- RESTRIPE_4 (R222). The receiver returns to four-lane striping with the joining lane. -/
  | restripe4 (port : Nat) (slot : List (List Byte))
  /-- RDMA_PACKET (R228). An RDMA packet, acknowledgement, NAK or selective acknowledgement arrives on a queue pair and is placed, acknowledged or triggers resends. -/
  | rdmaPacket (port : Nat) (packet : RdmaPacket)
  /-- RDMA_RETRANSMIT_TIMEOUT (R228). PORT_En_RDMA.TIMEOUT expires with no progress; the sender resends, and after RETRY expiries the queue pair enters the error state. -/
  | rdmaRetransmitTimeout (port : Nat) (qpn : Nat)
  /-- CONGESTION_NOTIFICATION (R230). A congestion notification packet halves the rate of the queue pair. -/
  | congestionNotification (port : Nat) (qpn : Nat)
  /-- RATE_RECOVERY (R230). Each 50 µs without a notification raises the rate of a queue pair by 1 GB/s. -/
  | rateRecovery (port : Nat) (qpn : Nat)
  /-- PRIORITY_FLOW_CONTROL (R230). A priority-based pause frame pauses or resumes the RoCEv2 priority. -/
  | priorityFlowControl (port : Nat) (priority : Nat) (pause : Bool)
  /-- PTP_MESSAGE (R250). An IEEE 1588 message arrives on the PTP port and disciplines fabric time. -/
  | ptpMessage (port : Nat) (message : PtpMessage)
  /-- FT_LOCK (R251). The offset stays within ±8 ticks for 1 s and the counter enters LOCKED. -/
  | ftLock
  /-- FT_SOURCE_LOST (R251). The time source is lost; the counter enters HOLDOVER and raises the alarm. -/
  | ftSourceLost
  /-- FT_HOLDOVER_EXPIRY (R251). HOLDOVER_MS passes in holdover and the counter enters FREE. -/
  | ftHoldoverExpiry
  /-- FT_EPOCH (R267). A write of the TAI epoch takes effect only in FREE or ACQUIRING. -/
  | ftEpoch
  /-- TT_CTRL (R257). A write of ARM arms or disarms the timetable, and is refused while the counter is FREE or ACQUIRING. -/
  | ttCtrl
  /-- STEP_OPEN (R259). An occurrence of STEP_OPEN opens LOAD of its step if the step is ready, waits, or is skipped under a hold. -/
  | stepOpen (entry : Nat)
  /-- LOAD_OPEN (R259). A waiting STEP_OPEN finds its step ready and opens LOAD, resetting sync counters and stream queues. -/
  | loadOpen (entry : Nat)
  /-- STEP_OPEN_WINDOW_END (R259). Readiness does not come within the window, so the opening is missed and the entry stops repeating. -/
  | stepOpenWindowEnd (entry : Nat)
  /-- HOLD (R262). A HOLD occurrence blocks STEP_OPEN and starts the boundary image write at the later of its FT and SEAL. -/
  | holdEntry (entry : Nat)
  /-- HOLD_END (R262). The hold ends at the later of its window and the end of the image write, or without an image if SEAL has not come. -/
  | holdEnd
  /-- CHECK_CLOSE (R261). CHECK_CLOSE closes CHECK of the addressed step, and a module not ready sends FAIL with LATE. -/
  | checkClose (entry : Nat)
  /-- CLOCK (R532). The CLOCK action changes the core clock within 2 µs when no phase from LOAD to UPDATE is open. -/
  | clockEntry (entry : Nat)
  /-- SNAPSHOT (R522). The SNAPSHOT action latches every counter at its tick. -/
  | snapshotEntry (entry : Nat)
  /-- EVAL (R262). An EVAL occurrence opens the evaluation slot or waits for the step phases to close. -/
  | evalEntry (entry : Nat)
  /-- EVAL_SLOT_OPEN (R129). A waiting EVAL slot opens once no phase from LOAD to UPDATE is open, and reads the Veneer last sealed. -/
  | evalSlotOpen
  /-- EVAL_SLOT_CLOSE (R131). At start plus window the slot closes; evaluation tiles not started end DEADLINE, and a pending replay may start. -/
  | evalSlotClose
  /-- CAL_LP (R191). The CAL_LP action opens an LPDDR6 sub-channel calibration window, or waits within its window. -/
  | calLp (entry : Nat)
  /-- CAL_INL (R192). The CAL_INL action opens an Inlay channel calibration window, or waits within its window. -/
  | calInl (entry : Nat)
  /-- CAL_WAIT_EXPIRY (R262). A calibration action still waiting at the end of its window is missed. -/
  | calWaitExpiry (entry : Nat)
  /-- CALIBRATION_WINDOW_END (R194). A calibration window ends; new settings are applied, or the old ones are kept and a failure is reported. -/
  | calibrationWindowEnd (kind : CalKind) (unit : Nat) (channel : Nat) (marginOk : Bool)
  /-- FORCED_WINDOW (R193). A channel overdue by twice its interval has a calibration window opened by its controller. -/
  | forcedWindow (kind : CalKind) (unit : Nat) (channel : Nat)
  /-- MARK (R258). The MARK action emits TT_MARK with its parameter. -/
  | markEntry (entry : Nat)
  /-- SEAL_DEADLINE (R349). Verdicts not all in at Tc plus height times HOP make the seal logic send FAIL with MISSING. -/
  | sealDeadline (step : Nat)
  /-- SEAL_COPY_RESEND (R351). The coordinator sends outcome copies 1 and 2 at 1 µs intervals. -/
  | sealCopyResend
  /-- OUTCOME_OVERDUE (R354). No outcome by Tc plus OUTCOME_MS sets UNKNOWN and sends a fault notice. -/
  | outcomeOverdue (step : Nat)
  /-- REPLAY_OPEN (R356). At the later of the replay FT and the end of the recall sequence, LOAD of the recalled step reopens with the next attempt. -/
  | replayOpen
  /-- WEIGHT_DIGEST_END (R358). The digest of the sealed master arrays completes and its records are sent to the group and the twin. -/
  | weightDigestEnd
  /-- DIGEST_COMPARE (R361). When all digest records are in, or after WAIT_MS, the module compares them and reports mismatches. -/
  | digestCompare
  /-- DRAWER_CARVE_DONE (R174). Every slice finishes a way reassignment and BUSY clears. -/
  | drawerCarveDone
  /-- MEM_DRW_CARVE (R174). A write that changes the Drawer way assignment starts the write-back and reassignment, or completes with BUSY. -/
  | memDrwCarve
  /-- SCRUB_REQUEST (R190). Patrol scrub reads and checks the next granule of a channel. -/
  | scrubRequest (address : Nat) (errs : BitErrors)
  /-- CORE_WRING_BASE (R160). A write of a work ring base is checked for containment and the reserved area. -/
  | coreWringBase
  /-- CORE_WRING_CTRL (R160). A write of a work ring's configuration is checked and applied. -/
  | coreWringCtrl
  /-- CORE_WRING_PTR (R136). A write of TAIL posts entries to a control-node ring, or sets ERROR on a POST ring or on overfill. -/
  | coreWringPtr
  /-- NET_CRING_BASE (R164). A write of a completion ring base is checked for containment and the reserved area. -/
  | netCringBase
  /-- NET_CRING_CTRL (R164). A write of a completion ring's configuration is checked and applied. -/
  | netCringCtrl
  /-- NET_CRING_PTR (R166). A write of HEAD frees records, letting held records be written and stalled producers resume. -/
  | netCringPtr
  /-- NET_SQ_PTR (R325). A write of TAIL posts stream descriptors, or sets ERROR on overfill. -/
  | netSqPtr
  /-- NET_CHIP (R317). A write of the chip ID, refused while a partition is set. -/
  | netChip
  /-- NET_GEOMETRY (R318). A write of the torus geometry, checked and refused while a partition is set. -/
  | netGeometry
  /-- NET_THROTTLE (R322). A write of the throttle watermarks, refused unless the watermarks rise. -/
  | netThrottle
  /-- NET_BRIDGE (R327). A write of a bridge mapping, restricted to PORT and QP while a partition is set. -/
  | netBridge
  /-- STEP_RETAIN_CTRL (R376). A write that changes the retention depth, refused while a step is unsealed or a Veneer is frozen. -/
  | stepRetainCtrl
  /-- CORE_HANG (R475). A core's progress window expires; the core is fenced, its work moves, and it is reset or clamped. -/
  | coreHang (core : Nat)
  /-- STREAM_STALL (R477). A collective engine's window expires; its streams end with TIMEOUT and it restarts, or the router resets on a second expiry. -/
  | streamStall (engine : Nat)
  /-- PORT_STALL (R474). A tensor port sends no cell within PORT_MS while holding cells, and goes DOWN to bring-up. -/
  | portStall (port : Nat)
  /-- BENCH_HANG (R478). A control core heartbeat lapses; the watchdog resets the Bench, or cold-resets the module on the third hang in an hour. -/
  | benchHang (lapsed : BitVec 4)
  /-- ROM_TIMER (R478). Stage 1 has not started within 5 s, so the ROM timer resets the Bench. -/
  | romTimer
  /-- DRAIN_WINDOW_END (R465). A reset's drain window ends; requests not started are answered, and the reset asserts. -/
  | drainWindowEnd (domain : DomainCode) (inst : Nat)
  /-- ROUTER_INGRESS_CLOSE (R470). 100 µs after the router fence, ingress closes and the egress queues drain. -/
  | routerIngressClose
  /-- ROUTER_ASSERT (R470). 150 µs after the fence, the remaining cells are discarded, local streams end DEADLINE and the router asserts reset. -/
  | routerAssert
  /-- RESET_RELEASE (R465). A domain finishes self-test and training and returns to service. -/
  | resetRelease (domain : DomainCode) (inst : Nat) (passed : Bool)
  /-- BOOT_STAGE_END (R483). A boot stage completes, or fails, and the next stage starts; BOOT events are sent at command-ready and training-ready. -/
  | bootStageEnd (outcome : StageOutcome)
  /-- FEED_QUALIFIED (R542). A feed that has been in range for 10 ms qualifies, joins the sharing, or starts power-up. -/
  | feedQualified (feed : Nat)
  /-- FEED_LEAVES_RANGE (R543). A feed leaves 40 to 59 V; the other feed takes the load and FEED_LOST is sent. -/
  | feedLeavesRange (feed : Nat)
  /-- POWER_GOOD (R545). The power-up sequence ends with PWR_GOOD released and boot stage 0 begins. -/
  | powerGood
  /-- POWER_FAIL (R400). Both feeds stay below 40 V for 20 µs, and the power-fail sequence starts. -/
  | powerFail
  /-- DARK_FT_REACHED (R400). The announced dark FT arrives; the ports go dark and queued cells are discarded. -/
  | darkFtReached
  /-- POWER_FAIL_RAILS_OFF (R400). 200 µs into the power-fail sequence the core rails are switched off in reverse order. -/
  | powerFailRailsOff
  /-- COLD_RESET_N (R547). COLD_RESET_N held low for 10 µs starts the power-fail sequence, and its release powers the module up. -/
  | coldResetN (level : Bool) (widthNs : Nat)
  /-- THERMAL_TRIP (R548). A die sensor above 135 °C for 1 ms runs the power-fail sequence and keeps the rails off. -/
  | thermalTrip (die : Nat)
  /-- THERMAL_TRIP_CLEAR (R548). All die sensors fall below 85 °C with a qualified feed, and the module powers up. -/
  | thermalTripClear
  /-- SVC_EN (R553). SVC_EN with both feeds absent and the auxiliary input present connects the NOR to the service contacts. -/
  | svcEn (level : Bool)
  /-- POWER_EVALUATION (R530). Every 100 µs the power manager reads telemetry and writes each die's duty from the caps and the thermal limit. -/
  | powerEvaluation (telemetry : Telemetry)
  /-- ALARM_TRIGGER (R513). An alarm source triggers above the latched level and its actions run. -/
  | alarmTrigger (sources : BitVec 7) (sensor : BitVec 16) (reading : BitVec 16)
  /-- WIPE_END (R513). The level 2 memory wipe ends and WIPE_DONE is set. -/
  | wipeEnd
  /-- NOTICE_UDP_REPEAT (R480). The second copy of a UDP fault notice is sent 10 µs after the first. -/
  | noticeUdpRepeat
  /-- GLUE_UP_WRITE_END (R391). Every object of an image is written and flushed; CKPT_DONE with OK is emitted and NEXT_SLOT flips. -/
  | glueUpWriteEnd
  /-- OBJECT_WRITE_FAIL (R393). An object write, Flush or source read fails; the image write stops and CKPT_DONE carries the failure. -/
  | objectWriteFail (shard : Nat) (cause : ObjectFault)
  /-- TWIN_TRANSFER_END (R383). All streams of a twin transfer complete and the receiving spare starts digesting the received master arrays. -/
  | twinTransferEnd
  /-- TWIN_DIGEST_END (R383). The spare's digests are compared with the records; the transfer activates or fails, and TWIN_XFER is emitted. -/
  | twinDigestEnd
  /-- RESTORE_HEADER_PASS_END (R396). All shard headers have been read and checked; the restore is refused or the payload pass starts. -/
  | restoreHeaderPassEnd (headers : List (Option (List Byte)))
  /-- RESTORE_PAYLOAD_PASS_END (R399). All payloads have been decrypted and checked; the image is activated, or the module enters restore failed. -/
  | restorePayloadPassEnd (payloads : List (Option (List Byte)))
  /-- SPEAS_LINK_UP (R235). A Speas link that was down comes up again, tests all three wavelengths and sets SPEAS_STATUS.LINK_UP so that sessions can open. -/
  | speasLinkUp (port : Nat)
  /-- SPEAS_WAVELENGTH_FAIL (R235). An active Speas wavelength fails in service and is replaced by the spare, or the port drops to one wavelength, or the link goes down. -/
  | speasWavelengthFail (port : Nat) (wave : Nat)
  /-- ETHERNET_LINK_CHANGE (R242). The PCS of an Ethernet port reports link up or link down, which changes PORT_En_STATUS.LINK_UP and the availability of bridges, storage targets and UDP notices. -/
  | ethernetLinkChange (port : Nat) (up : Bool)
  /-- AUXILIARY_INPUT_CHANGE (R544). The 3.3 V auxiliary input appears or disappears, which changes AUX_OK and whether the standby domain, tamper watch and service path stay powered while both feeds are absent. -/
  | auxiliaryInputChange (present : Bool)
  /-- POWER_FAIL_NOTICE (R400). 40 µs into the power-fail sequence the Bench sends the fault notice and the fabric router sends LINK_DARK with reason 2 on every admitted port. -/
  | powerFailNotice
  /-- SNAPSHOT_COMPLETE (R523). A snapshot becomes complete in the store 1 µs after its tick, and a SNAPSHOT_READ that was waiting for it replies. -/
  | snapshotComplete (tag : BitVec 32)
deriving DecidableEq, Repr

end Sys2Proof
end

