-- ==== Sys2Proof/Decode.lean ====
section
/-! DEFINITION. Decoding. The block takes commands, not instruction words: no row of the opcode table has bits, so no word
spells a command (95_what_each_step_holds.md). Packets, frames, cells, work entries and sequencer instructions have
encodings of their own, which the rows that receive or run them decode. -/

namespace Sys2Proof

/-- The command that a word spells by the table's bits: none, for no row has any. -/
def decodeTableWord (_nbits _w : Nat) : Option Instr := none

end Sys2Proof
end

