-- ==== Sys2Proof/Config.lean ====
section
/-! DEFINITION. What this implementation leaves open: free values and the cryptographic functions that
the spec takes from published standards. Each is an opaque constant: nothing can evaluate it, so a
statement holds whatever it is (assumption log 2 and 3). -/

namespace Sys2Proof.Config

/-- FREE. Layer of the stash table that a tile belongs to: the decisions of R111 and the segments of R114 go by layer, and no
field of a descriptor or of a work entry names one. The argument is the descriptor. -/
opaque tileLayer : (descriptor : List Byte) → Nat

/-- FREE. Row-unit transcendental functions (R60: same bits on every row unit; used only where it keeps within 2 units in the last
place, see `Machine.transcendBits`): `fn` is the function code of R148 (0x10 EXP, 0x11 LOG, 0x12 RCP, 0x13 RSQRT, 0x14 TANH),
the operand and the result are FP32 bit patterns. -/
opaque rowTranscendental : (fn : Nat) → BitVec 32 → BitVec 32

/-- FREE. FP32 results of the norm and softmax functions 0x20 to 0x25 before the store's conversion (R106, R108): the spec gives
their costs and paths and no formula. Arguments: function code, fused path or not, the scalar, the FP32 patterns of the rows of
sources 0 and 1, the values at source 2 (rows, or kept statistics), row and column. No address is among them: the same operands
give the same bits on every run, replay and recomputation. -/
opaque rowNorm (fn : Nat) (fused : Bool) (scalar : BitVec 32) (src0 src1 src2 : List (List (BitVec 32))) (row col : Nat) :
  BitVec 32

/-- FREE. Whether an arithmetic step inside a function 0x20 to 0x25 overflows from finite operands (R93, R563). Arguments as
`rowNorm`. -/
opaque rowNormOverflow (fn : Nat) (fused : Bool) (scalar : BitVec 32) (src0 src1 src2 : List (List (BitVec 32))) : Bool

/-- FREE. What a row of no elements reduces to, by function code: no rule says (R61, R148). -/
opaque emptyReduction : (fn : Nat) → BitVec 32

/-- FREE. Exponential inside a SOFTMAX_STATS merge (R62, R60), used as `rowTranscendental` is. -/
opaque fusedExp : BitVec 32 → BitVec 32

/-- UNINTERPRETED. SHAKE256 to `n` bytes (FIPS 202). -/
opaque shake256 : (msg : List Byte) → (n : Nat) → List Byte

/-- UNINTERPRETED. KMAC256(key, message, 256, label) (NIST SP 800-185). -/
opaque kmac256 : (key msg label : List Byte) → List Byte

/-- UNINTERPRETED. The Grain seed G that the helper data reconstruct (R494). -/
opaque grainSeed : (helper : List Byte) → List Byte

/-- UNINTERPRETED. ML-DSA-65 (FIPS 204): the public key of KeyGen_internal on a 32-byte seed (R494). -/
opaque dsaPublicKey : (seed : List Byte) → List Byte

/-- UNINTERPRETED. ML-DSA-65: a hedged signature of a message with a context string under the key pair of a seed. -/
opaque dsaSign : (seed msg context : List Byte) → List Byte

/-- UNINTERPRETED. ML-DSA-65: whether a signature of a message with a context string verifies under a public key. -/
opaque dsaVerify : (key msg context signature : List Byte) → Bool

/-- FREE. The root-key hash that the ROM holds at an index (R499). -/
opaque rootKeyHash : (index : Nat) → List Byte

/-- FREE. The module nonce Nm of the handshake of a session ID (R503). -/
opaque moduleNonce : (session : Nat) → List Byte

/-- FREE. The ML-KEM-1024 ciphertext of an encapsulation for a session (R503). -/
opaque kemCiphertext : (session : Nat) → (ek : List Byte) → List Byte

/-- FREE. The ML-KEM-1024 shared secret of a session (R504). -/
opaque kemSecret : (session : Nat) → (ek : List Byte) → List Byte

/-- UNINTERPRETED. AES-256-GCM (NIST SP 800-38D): ciphertext of a payload. -/
opaque gcmEncrypt : (key nonce aad plain : List Byte) → List Byte

/-- UNINTERPRETED. AES-256-GCM: plaintext of a ciphertext whose tag has been checked. -/
opaque gcmDecrypt : (key nonce aad cipher : List Byte) → List Byte

/-- UNINTERPRETED. AES-256-GCM: the 16-byte tag of a payload. -/
opaque gcmTag : (key nonce aad plain : List Byte) → List Byte

/-- FREE. The random bytes that a level 3 alarm writes over the Grain helper data (R513). -/
opaque randomByte : (seed : Nat) → (index : Nat) → Byte

/-- FREE. The site of the router stop that a memory engine of the Carcass (R433) uses: no rule places them. -/
opaque memoryEngineSite : Nat

/-- FREE. The site of the router stop on an edge of the Carcass that its collective engine uses (R20, R270): 0 north, 1 east, 2
south, 3 west; 4 for a stream of which no rule names the engine. -/
opaque edgeSite : (edge : Nat) → Nat

/-- FREE. The address that the poison log shows for a granule that has none: one of a cell that no stream takes (R197, R275). -/
opaque granuleAddress : (cell : List Byte) → Nat

/-- FREE. Medium and address that the poison log and the fault notice show for a granule of an accumulator store (R47, R184, R197
list none): core, granule number. -/
opaque accumulatorGranule : (core granule : Nat) → Nat × Nat

/-- FREE. The fixed PHY latency, in ticks, that a tensor port subtracts from its time stamps (R248): package timing set, and whether
the cell comes in. -/
opaque phyLatency : (timingSet : Nat) → (incoming : Bool) → Nat

/-- FREE. What a byte of a checker's Tray that a duplicate or referee used holds afterwards (R157, R336). -/
opaque discardedByte : (draw address : Nat) → Byte

/-- FREE. The inbox of a digest context in the reserved area (R360): no rule places it. -/
opaque digestInbox : (context : Nat) → Nat

/-- FREE. How many dirty Drawer lines a drain window leaves unwritten (R175): dirty lines, window in µs. -/
opaque linesLost : (dirtyLines us : Nat) → Nat

/-- FREE. Whether the contents of an evaluation program's image break R129 in what its header and tables do not show: no
rule says how a load reads that from the image. -/
opaque evalRulesBroken : (image : List Byte) → Bool

/-- FREE. Contents of LPDDR6 bytes whose dirty Drawer line was lost (R175). -/
opaque lostByte : (draw address : Nat) → BitVec 8

/-- FREE. Acceptance FT in the duplicate reply of a command that only a snapshot's outcome entry still
names (R426 asks for it, the entry of R452 does not hold it). -/
opaque snapshotAcceptFt : (jseq : Nat) → BitVec 64

/-- FREE. A duration in cycles that a trace entry reports (R526): core, event code, how many were drawn. -/
opaque traceCycles : (unit code draw : Nat) → BitVec 16

/-- FREE. Whether a COLD_RESET_N pulse of 1 to 10 µs acts (R547: it may or may not). -/
opaque shortResetActs : (widthNs : Nat) → Bool

end Sys2Proof.Config
end

