-- ==== Sys2Proof/Machine/State.lean ====
section
/-! DEFINITION. Every piece of state the spec gives the module, as plain data, and the state after
reset. Software-written register bits live in one bank (`State.regs`, keyed by register address); state
that hardware keeps lives in the typed fields below, and a register that reports it is computed from it
(Machine/Registers.lean). -/

namespace Sys2Proof.Machine

/-! ### Vocabulary -/

/-- Status values (R427). -/
inductive Status where
  | ok | accepted | busy | deadline | badOpcode | badParam | badTag | notOwner | staleSeq
  | clamped | poison | timeout | recalled | mixedStep | stashExhausted | noResource | alarm
deriving DecidableEq, Repr

/-- Event classes (R446), which fix who receives an event (R445). -/
inductive EventClass where
  | command | fault | step | timetable | fabric | integrity | retention
deriving DecidableEq, Repr

/-- Where an event goes first (R445): closing events name the session that issued the command. -/
structure Event where
  code : Nat
  cls : EventClass
  status : Status
  body : List Byte
  /-- Sequence of the related command; 0 if none (R419). -/
  related : Word
  /-- Journal sequence of the related command; 0 if none (R448). -/
  concerns : Nat
  /-- For a closing event: the session that issued the command. -/
  toSession : Option Nat
deriving DecidableEq, Repr

/-- A reply packet (R418), before its tag. -/
structure Reply where
  session : Nat
  duplicate : Bool
  pending : Bool
  opcode : Nat
  seq : Word
  status : Status
  jseq : Nat
  acceptFt : Word
  data : List Byte
deriving DecidableEq, Repr

/-- What leaves the module. The newest stands first in `State.outbox`. -/
inductive Output where
  /-- A reply packet on a Speas port (R418). -/
  | reply (port : Nat) (r : Reply)
  /-- An event packet to one session (R419): journal sequence, FT of the event, recipient. -/
  | event (port session jseq : Nat) (ft : Word) (e : Event)
  /-- A datagram of a fault notice on E0 (R480): DSCP, destination port and address, contents with its tag. -/
  | udpNotice (dscp udpPort : Nat) (address0 address1 : Word) (bytes : List Byte)
  /-- A Speas frame on a wavelength, CRC included (R233). -/
  | speasFrame (port wave : Nat) (bytes : List Byte)
  /-- A 64-byte cell on a tensor port (R271). -/
  | cell (port : Nat) (bytes : List Byte)
  /-- An alignment marker slot of a tensor port: the marker block of each physical lane, empty for a lane that carries its training
  pattern instead (R206, R207). -/
  | marker (port : Nat) (blocks : List (List Byte))
  /-- An RDMA packet on an Ethernet port (R225 to R229). -/
  | rdma (port : Nat) (packet : RdmaPacket)
  /-- A PTP Delay_Req of the domain, with its sequence number, on an Ethernet port (R250). -/
  | delayRequest (port domain seq : Nat)
  /-- A congestion notification packet for a queue pair (R230). -/
  | congestion (port qpn : Nat)
  /-- An image object written at a storage target: Ethernet port, queue pair, namespace, byte offset (R387, R390). -/
  | object (port qp nsid offset : Nat) (bytes : List Byte)
  /-- An NVMe over Fabrics Connect to a storage target, and a Read of `length` bytes of its namespace (R390, R396, R398). -/
  | connect (port qp nsid : Nat)
  | objectRead (port qp nsid offset length : Nat)
  /-- An NVMe Flush of a storage target (R391). -/
  | flush (port qp nsid : Nat)
deriving DecidableEq, Repr

/-! ### Sessions, commands and the journal (chapters 12 and 14) -/

/-- A session (R424, R503 to R505). -/
structure Session where
  id : Nat
  port : Nat
  principal : Nat
  /-- False while half-open (R505). -/
  confirmed : Bool
  openedFt : Word
  /-- Local tick of handshake message 1, for the 1 s limit of R505. -/
  initAt : Nat
  /-- Local tick of the last valid packet, for the idle limit of R424. -/
  lastAt : Nat
  keyCm : List Byte
  keyMc : List Byte
  /-- Handshake transcript T (R503). -/
  transcript : List Byte
  /-- Packets tagged in each direction, towards the limit of R505: sent and received. -/
  tagged : Nat
  heard : Nat
deriving DecidableEq, Repr

/-- Current epoch and highest number of a principal (R426). -/
structure PrincipalSeq where
  index : Nat
  epoch : Nat
  highest : Nat
deriving DecidableEq, Repr

/-- Where an accepted command stands. -/
inductive CmdPhase where
  /-- Journaled; waits for its turn in journal order (R423). -/
  | waiting
  /-- Held for its not-before FT (R253); true when it is kept across a Bench reset (R255). -/
  | held (acrossReset : Bool)
  /-- A long operation that has started (R422). -/
  | running
deriving DecidableEq, Repr

/-- What the security block finds in a packet as it arrives, under the keys of its session (R505, R507). -/
structure PacketFacts where
  /-- SESSION_CONFIRM: the public key hashes to the principal's table entry. -/
  keyOk : Bool
  /-- SESSION_CONFIRM: the signature of handshake message 3 is valid. -/
  sigOk : Bool
  /-- JOB_KEY_INSTALL: the wrapped key passes its GCM tag. -/
  unwrapOk : Bool
  /-- JOB_KEY_INSTALL: the unwrapped 32-byte key. -/
  key : List Byte
deriving DecidableEq, Repr

/-- An open command: journaled, no outcome record yet (R449). -/
structure OpenCmd where
  jseq : Nat
  opcode : Nat
  session : Nat
  port : Nat
  principal : Nat
  epoch : Nat
  number : Nat
  ackWanted : Bool
  notBefore : Option Word
  idempotent : Bool
  long : Bool
  deadlineUs : Nat
  arrivedAt : Nat
  acceptFt : Word
  params : List Byte
  facts : PacketFacts
  phase : CmdPhase
  /-- Sessions and ports that wait for a duplicate reply of this command (R426). -/
  duplicates : List (Nat × Nat)
  /-- JOURNAL_SUMMARY: the reply data, taken as the journal stood when the record was written (R455). -/
  summary : List Byte
deriving DecidableEq, Repr

/-- Journal record kinds (R448). -/
inductive JKind where
  | command | outcome | event | pad
deriving DecidableEq, Repr

/-- A journal record (R448). `status` is 0xFFFF while a command executes. -/
structure JRec where
  seq : Nat
  ft : Word
  session : Nat
  opcode : Nat
  kind : JKind
  truncated : Bool
  long : Bool
  notBeforeFlag : Bool
  portB : Bool
  closedAtRecovery : Bool
  cmdSeq : Word
  status : BitVec 16
  total : Nat
  concerns : Nat
  notBeforeFt : Word
  principal : Nat
  params : List Byte
  /-- Ring offset at which the record stands. -/
  offset : Nat
deriving DecidableEq, Repr

/-- An outcome entry of a snapshot (R452). -/
structure OutcomeEntry where
  seq : Nat
  cmdSeq : Word
  opcode : Nat
  status : BitVec 16
  principal : Nat
  flags : BitVec 16
deriving DecidableEq, Repr

/-- A snapshot slot (R452). -/
structure JSnapshot where
  valid : Bool
  generation : Nat
  covered : Nat
  ringOffset : Nat
  principals : List PrincipalSeq
  openRecs : List JRec
  outcomes : List OutcomeEntry
deriving DecidableEq, Repr

/-- The Scribe (R447 to R453). All of it but `compacting` and `waiting` is MRAM content. -/
structure Journal where
  /-- Records in the ring, oldest first. -/
  ring : List JRec
  nextSeq : Nat
  writePos : Nat
  slotA : JSnapshot
  slotB : JSnapshot
  /-- False: slot A is active; true: slot B (JNL_STATUS.ACTIVE_SLOT, R461). -/
  activeB : Bool
  /-- The covered sequence S of a compaction that runs, and the commands that asked for it. -/
  compacting : Option (Nat × List Nat)
  ringFull : Bool
  /-- Events that wait for ring space (R451), oldest first. -/
  waiting : List Event
  lastAccepted : Nat
  lastCompleted : Nat
deriving DecidableEq, Repr

/-- Sessions, ownership, open commands (R420 to R426). -/
structure Commands where
  sessions : List Session
  owner : Option Nat
  /-- MRAM: the last session ID assigned (R424). -/
  lastSession : Nat
  /-- MRAM: E and H by principal (R426). -/
  principals : List PrincipalSeq
  /-- In journal order. -/
  opened : List OpenCmd
  /-- CMD_STATUS.TIE_NEXT (R423). -/
  tieNext : Bool
  /-- CMD_DISCARDS (R458). -/
  malformed : BitVec 32
  badTag : BitVec 32
  /-- Local ticks of authentication failures, newest first (R512, R518). -/
  authFailures : List Nat
  /-- SEC_AUTH_FAIL.TOTAL (R518). -/
  authTotal : BitVec 32
deriving DecidableEq, Repr

/-- What a long operation does at its end (R422, R433 and the opcodes marked L). -/
inductive LongOp where
  | memFill (address length : Nat) (pattern : List Byte)
  | memCopy (destination source length : Nat)
  | memDigest (address length : Nat)
  | programLoad (address number : Nat)
  | stepHalt
  | stepRecall (step attempt : Nat) (halt : Bool) (replayFt : Word)
  | fieldTest (entry core : Nat) (failing : List (Nat × Nat × Nat))
  | twinSend | twinReceive
  | ckptCut | ckptRetry
  | restore
  | compact
  | resetDomain (domain : DomainCode) (inst : Nat)
  | imageCommit (region : Nat) (pairing : List Byte)
  /-- An opcode that is not marked L, run with LONG or NOT_BEFORE set: its outcome is known. -/
  | done (status : Status) (data : List Byte)
deriving DecidableEq, Repr

/-! ### The Speas ports (chapter 7) -/

/-- A rotation of lanes or wavelengths, at the transmitter (R216, R235): MIRROR sent, TRAIN sent for the lane
that was left, or TRAIN sent for the shim after STEER_NAK (R218). -/
inductive RotStep where
  | mirrorSent | trainSent | retrain
deriving DecidableEq, Repr

/-- One Speas port (R232 to R235, R244). -/
structure SpeasPort where
  linkUp : Bool
  active : BitVec 3
  failed : BitVec 3
  rxNext : BitVec 32
  /-- Payload of the packet being assembled; none between packets (R416). -/
  partialPacket : Option (List Byte)
  txNext : BitVec 32
  /-- Data frames not acknowledged, oldest first: sequence, flags and payload. The first 512 have been
  sent (R234); later ones wait for the window. -/
  txUnacked : List (BitVec 32 × Nat × List Byte)
  expiries : Nat
  progressAt : Nat
  retransmits : BitVec 16
  rotations : BitVec 16
  /-- The next frame leaves on the second of the two active wavelengths (R233). -/
  second : Bool
  /-- Wavelength being rotated. -/
  rotating : Option (Nat × RotStep)
deriving DecidableEq, Repr

/-! ### Tensor ports (chapters 7 and 9) -/

/-- Tensor port states (R211). -/
inductive PortState where
  | down | training | discovered | admitted | dark
deriving DecidableEq, Repr

/-- A 64-byte cell with the port it came in on, its channel in this module and when it was queued. -/
structure QueuedCell where
  /-- The cell as it leaves here. -/
  bytes : List Byte
  /-- The cell as it came in or was injected: what routing looks at again (R287). -/
  origin : List Byte
  /-- Ingress port; none for a cell injected here. -/
  ingress : Option Nat
  /-- Channel that it came in on. -/
  vc : Nat
  /-- It still fills a place of the ingress buffer of that channel (R277, R279). -/
  held : Bool
  queuedAt : Nat
  /-- Local tick since which it has stood at the head of its queue (R280, R290). -/
  headAt : Option Nat
deriving DecidableEq, Repr

/-- One tensor port. -/
structure TensorPort where
  state : PortState
  signal : Bool
  /-- Local tick at which TRAINING was entered (R211: 20 ms). -/
  trainingSince : Nat
  threeLane : Bool
  /-- Physical lanes failed, transmit and receive (R224, R236). -/
  txFailed : BitVec 5
  rxFailed : BitVec 5
  /-- Physical lane of logical lanes 0 to 3 and of the shim; 7 means none (R237). -/
  txData : List Nat
  txShim : Nat
  rxData : List Nat
  rxShim : Nat
  nextLogical : Nat
  /-- Transmit rotation: logical lane, its physical lane, step, and whether it follows a lane failure (R216, R220). -/
  txRot : Option (Nat × Nat × RotStep × Bool)
  /-- Local tick at which MIRROR was sent (R218: 4 marker slots). -/
  mirrorAt : Nat
  /-- Receive side: logical lane mirrored, or physical lane in training (R216). -/
  rxMirror : Option Nat
  rxTraining : Option Nat
  /-- Physical lanes the receiver has declared failed and still reports, first first (R219). -/
  rxLaneFail : List Nat
  /-- The answer of the receiver that its markers repeat, and the RESTRIPE code that the next marker carries (R208, R221). -/
  rxAnswer : Option (Nat × Nat)
  txOnce : Option (Nat × Nat)
  /-- Markers sent, modulo 65,536, and the local tick of the last (R205, R207). -/
  markerCount : BitVec 16
  markerAt : Nat
  /-- Codewords received in the marker period, and corrected symbols of each physical lane in it (R219). -/
  rxWords : Nat
  laneSymbols : List Nat
  margin : Word
  done : BitVec 16
  aborted : BitVec 8
  peerMismatch : Bool
  /-- The discovery word last received, and whether one was since the last DOWN or DARK (R239). -/
  peer : Word
  peerValid : Bool
  /-- A LINK_DARK notice received and not yet followed by loss of signal (R288). -/
  darkNotice : Option Word
  /-- PORT_Tn_FEC (R241). -/
  fecCorrected : BitVec 32
  fecUncorrectable : BitVec 32
  /-- PORT_Tn_DISCARD (R329). -/
  discardFec : BitVec 16
  discardCrc : BitVec 16
  discardPartition : BitVec 16
  discardUnroutable : BitVec 16
  /-- Egress queues, all channels, head first within a channel (R277). -/
  egress : List QueuedCell
  /-- Credits held for channels 0 to 5 at the peer, and credits owed to it (R279). -/
  credits : List Nat
  owed : List Nat
  owedSince : Nat
  /-- Rotating pointer among VC0 to VC2, and by channel whether an injected cell is next (R281). -/
  vcPointer : Nat
  turns : List Bool
  /-- Injection throttle (R292): rate, last queue, and the token bucket, in 4,096ths of a cell at a local tick. -/
  rate : Nat
  qPrev : Nat
  tokens : Nat
  tokensAt : Nat
  /-- Time cells (R248): FT of the last one sent, FT the peer stamped on its last one (t3), FT at which
  that one arrived (t4), the peer's state and hop count, and the last offset and link delay. -/
  timeSent : Word
  timePeerSent : Word
  timeReceived : Word
  timeSentAt : Nat
  peerFtState : Nat
  peerHops : Nat
  offset : Int
  delay : Int
  /-- Local tick of the last cell sent, for the stall window of R474. -/
  sentAt : Nat
deriving DecidableEq, Repr

/-! ### Ethernet ports (chapter 7) -/

/-- Queue pair states: usable, or the error state of R228. -/
structure QueuePair where
  remoteQpn : Nat
  remoteIp : List Byte
  selective : Bool
  dscp : Nat
  sendPsn : BitVec 24
  recvPsn : BitVec 24
  windowBase : Nat
  windowLength : Nat
  error : Bool
  /-- Rate in GB/s (R230). -/
  rate : Nat
  /-- Local tick of the last congestion notification received, and of the last one returned. -/
  notifiedAt : Nat
  notifySentAt : Option Nat
  /-- Packets sent and not acknowledged, oldest first (R227). -/
  retained : List RdmaPacket
  /-- READ response packets sent and not acknowledged, and the READs still to be answered: next PSN, address, bytes left (R227). -/
  responses : List RdmaPacket
  reads : List (BitVec 24 × Nat × Nat)
  /-- The PSN that the last selective acknowledgement gave as cumulative (R229). -/
  selectiveFrom : Option (BitVec 24)
  expiries : Nat
  progressAt : Nat
  /-- Packets placed beyond the cumulative one under selective repeat: PSN, and the message end with its immediate value (R229). -/
  placed : List (BitVec 24 × Option (Option (BitVec 32)))
  /-- Messages whose completion has been delivered, newest first: last PSN and immediate value (R229). -/
  delivered : List (BitVec 24 × Option (BitVec 32))
  /-- Operations that have completed here, newest first: first PSN and status (R228). -/
  completions : List (BitVec 24 × Status)
deriving DecidableEq, Repr

/-- One Ethernet port (R225 to R231, R242). -/
structure EthPort where
  linkUp : Bool
  pcsLock : Bool
  qps : List (Nat × QueuePair)
  /-- Priorities paused by flow control (R230, R243), and the packets that wait for them: queue pair and packet. -/
  paused : BitVec 8
  held : List (Nat × RdmaPacket)
  framesIn : Nat
  framesBad : Nat
  /-- Operations that ended with their queue pair: its number, PSN and status (R435). -/
  ended : List (Nat × BitVec 24 × Status)
deriving DecidableEq, Repr

/-! ### Fabric time and the timetable (chapter 8) -/

/-- Fabric-time states (R251). -/
inductive FtState where
  | free | acquiring | locked | holdover
deriving DecidableEq, Repr

/-- The time source in use (R249). -/
inductive TimeSource where
  | none | ptp (port : Nat) | cells (port : Nat)
deriving DecidableEq, Repr

/-- A delay request-response exchange with a PTP source (R250): its port and sequence number, the source's FT of the Sync message
once it is known, the module's FT of its arrival, and of the Delay_Req that answers it. -/
structure PtpExchange where
  port : Nat
  seq : Nat
  t1 : Option Word
  t2 : Word
  t3 : Option Word
deriving DecidableEq, Repr

/-- The fabric-time unit (R245 to R252). The counter itself is `State.ft`. -/
structure FabricTime where
  state : FtState
  source : TimeSource
  hops : Nat
  offset : Int
  /-- Set once the counter has entered LOCKED since the last Bench reset (R247). -/
  lockedOnce : Bool
  /-- ACQUIRING has stepped to the source (R251). -/
  stepped : Bool
  /-- Local tick since which the offset has stayed within ±8 ticks (R251). -/
  withinSince : Option Nat
  holdoverSince : Nat
  /-- The last offset measured exceeds the alarm threshold (R252). -/
  exceeding : Bool
  /-- Ticks that the servo has still to gain, or to lose, and the local tick of its last correction (R247). -/
  slew : Int
  slewAt : Nat
  /-- The Ethernet port on which a PTP source is in sync (R249), and the exchange with it (R250). -/
  ptpSync : Option Nat
  ptp : Option PtpExchange
deriving DecidableEq, Repr

/-- A timetable entry (R256). -/
structure TTEntry where
  startFt : Word
  periodUs : BitVec 32
  windowUs : BitVec 32
  action : BitVec 8
  repeatCount : BitVec 16
  paramA : BitVec 32
  paramB : Word
deriving DecidableEq, Repr

/-- A timetable entry with its progress. -/
structure TTSlot where
  entry : TTEntry
  /-- Index of the next occurrence (R256). -/
  next : Nat
  /-- Set when the entry has stopped repeating (R259). -/
  stopped : Bool
  /-- FT of an occurrence that still waits: STEP_OPEN for readiness, EVAL for its slot, CAL to open. -/
  waiting : Option Word
  /-- STEP_OPEN: the steps opened so far, by occurrence (R260). -/
  openedBy : List (Nat × Nat)
  /-- STEP_OPEN: how many steps this entry has opened. -/
  openedCount : Nat
deriving DecidableEq, Repr

/-- The timetable sequencer (R256 to R263). -/
structure Timetable where
  slots : List (Nat × TTSlot)
  missed : BitVec 16
  skipped : BitVec 16
  /-- A HOLD in force: step, entry, FT at which its window ends, and whether its image has been started
  and has ended (R262). -/
  hold : Option (Nat × Nat × Word × Bool × Bool)
deriving DecidableEq, Repr

/-! ### Programs and cores (chapters 2 to 5) -/

/-- A placement table entry (R132). -/
structure Placement where
  primary : Nat
  minWidth : Nat
  bindsSlots : Bool
  substitutes : List Nat
deriving DecidableEq, Repr

/-- A slot table entry (R132). -/
structure SlotEntry where
  logical : Nat
  slot : Nat
  function : Nat
  rows : Nat
deriving DecidableEq, Repr

/-- A stash table entry (R109). -/
structure StashEntry where
  layer : Nat
  segmentStart : Bool
  stashPages : List Nat
  boundaryPages : List Nat
deriving DecidableEq, Repr

/-- A loaded program (R132, R437). -/
structure Program where
  base : Nat
  length : Nat
  strict : Bool
  rabbet : Bool
  eval : Bool
  placement : List Placement
  slots : List SlotEntry
  stash : List StashEntry
  /-- FT of measurement and digest of the image (R511). -/
  measuredFt : Word
  digest : List Byte
deriving DecidableEq, Repr

/-- Op classes and kinds (R140, R152). -/
inductive OpKind where
  | tile | row | transfer
deriving DecidableEq, Repr

/-- A deferred effect of a RESTARTABLE item (R156). -/
inductive Deferred where
  | signal (counter : Nat) (increment : BitVec 32)
  | post (ring : Nat) (entry : List Byte)
deriving DecidableEq, Repr

/-- An op in flight: issued, not completed. What it computed at issue is committed at completion. -/
structure Op where
  kind : OpKind
  instrIndex : Nat
  descIndex : Nat
  tileId : BitVec 32
  quiet : Bool
  status : Status
  /-- Numeric flags, bits as CORE_NUM_FLAGS (R93). -/
  flags : BitVec 6
  /-- Bytes it writes at completion: address and byte, in order. -/
  writes : List (Nat × Byte)
  /-- Granules it writes poisoned (R185). -/
  poisoned : List Nat
  /-- Compute dies whose Inlay it reads or writes (R23, R466). -/
  reach : List Nat
  /-- Check unit whose capture must end first (R332). -/
  unit : Option Nat
  /-- Last tile of its accumulation. -/
  last : Bool
deriving DecidableEq, Repr

/-- What an item waits for (R139 to R142). -/
inductive ItemWait where
  | none
  /-- WAIT with a class mask. -/
  | ops (mask : BitVec 3)
  /-- WAITC: counter and value. -/
  | counter (number : Nat) (value : BitVec 32)
  /-- BNZ: address of the word tested. -/
  | bnz (address : Nat)
  /-- END. -/
  | ending
deriving DecidableEq, Repr

/-- A TILE instruction whose descriptors are being fetched (R139, R140): address of the first, how many it names, the next to
fetch, and what a defective part adds to the patterns its tiles write. -/
structure TileRun where
  base : Nat
  count : Nat
  next : Nat
  wrong : List (Nat × Byte)
deriving DecidableEq, Repr

/-- A work item in progress on a physical core (R135 to R142, R156). -/
structure Item where
  ring : Nat
  logical : Nat
  phase : Nat
  /-- The step it belongs to (R562). -/
  step : Option Nat
  /-- It enters the verdict of that step (R562). -/
  verdict : Bool
  tag : BitVec 32
  restartable : Bool
  reportAll : Bool
  entryPc : Nat
  pc : Nat
  args : List Nat
  loops : List (BitVec 32)
  instrIndex : Nat
  wait : ItemWait
  /-- The TILE instruction at `pc` is under way. -/
  run : Option TileRun
  /-- The EVAL slot in which it was taken has closed (R131). -/
  late : Bool
  ops : List Op
  /-- First status other than OK, in issue order (R142), with its place in that order: instruction index × 65,536 plus
  descriptor index. -/
  failed : Option (Nat × Status)
  quiet : Nat
  deferred : List Deferred
  restarted : Bool
deriving DecidableEq, Repr

/-- One element of the accumulator store (R47): its FP32 or INT32 pattern, and the flags of R80 that are
kept with it: some product, operand or initial value was NaN (or a product infinity × 0, or infinities of both signs), +∞, −∞. -/
structure AccElem where
  value : BitVec 32
  nan : Bool
  pinf : Bool
  ninf : Bool
deriving DecidableEq, Repr

/-- An open accumulation (R145): the descriptor that opened it (128 bytes) and the accumulator store, row
by row. -/
structure Accumulation where
  opener : List Byte
  /-- It accumulates in strict form, as the program that opened it asks (R57). -/
  strict : Bool
  values : List AccElem
  /-- Sampled check unit, if any (R331). -/
  unit : Option Nat
deriving DecidableEq, Repr

/-- One physical core (chapters 2 and 5). -/
structure CoreState where
  item : Option Item
  /-- Rotating pointer of the arbiter of R137: a ring number, or 49,152 for the queue of R336. -/
  pointer : Nat
  acc : Option Accumulation
  tilesRetired : Word
  /-- Own clamp reason (R68); 0 not clamped itself. -/
  clampReason : Nat
  /-- A clamp by command, which UNCLAMP lifts (R66). -/
  clampByCommand : Bool
  /-- CORE_STATUS.CLAMP_REASON: the first reason, those of cluster and die included (R68). -/
  shownReason : Nat
  /-- Items that run again here after a clamp or a reset of their core (R156). -/
  restarts : List Item
  /-- CORE_SQ_STATE (R371). -/
  strikes : Nat
  watch : Bool
  /-- The watch was entered by a strike (R341). -/
  watchStrike : Bool
  watchLeft : Nat
  strikeTotal : Nat
  /-- A field test holds the core (R345). -/
  testing : Bool
  /-- Returned from a reset since the last PROGRAM_LOAD of program 0: hosts nothing of its own (R468). -/
  returned : Bool
  /-- Tiles retired when it returned from a hang reset (R476); none if it has not. -/
  hangMark : Option Nat
  /-- Duplicate and referee runs queued (R336): check unit, and whether referee. -/
  checks : List (Nat × Bool)
  /-- Local tick of its last progress (R474). -/
  progressAt : Nat
deriving DecidableEq, Repr

/-- A chunk that a fused row path slot has taken: the logical core it came from, its output row and its FP32 values. -/
structure FusedChunk where
  logical : Nat
  row : Nat
  values : List (BitVec 32)
deriving DecidableEq, Repr

/-- A fused row path slot (R62, R63, R107). The state per row is what its chunks merge to, those of a lower core first. -/
structure FusedSlot where
  /-- Logical cores that have bound it. -/
  owners : List Nat
  function : Nat
  rows : Nat
  /-- Chunks taken, in the order the tiles were issued. -/
  chunks : List FusedChunk
deriving DecidableEq, Repr

/-- One cluster. -/
structure ClusterState where
  clampReason : Nat
  clampByCommand : Bool
  /-- CL_STATUS.CLAMP_REASON: the first reason, that of the die included (R70). -/
  shownReason : Nat
  slots : List (Nat × FusedSlot)
  /-- Logical cores whose slot of a number has lost its state, until they bind it again (R65). -/
  lost : List (Nat × Nat)
  /-- CL_SQ_STATE (R371). -/
  strikes : Nat
  watch : Bool
  /-- The watch was entered by a strike (R341). -/
  watchStrike : Bool
  watchLeft : Nat
  strikeTotal : Nat
  hangMark : Option Nat
  /-- Rotating pointer of the row unit's arbiter (R149). -/
  rowPointer : Nat
deriving DecidableEq, Repr

/-- One compute die. -/
structure DieState where
  stepping : BitVec 8
  present : Bool
  clampReason : Nat
  clampByCommand : Bool
  /-- Duty register (R529). -/
  duty : Nat
deriving DecidableEq, Repr

/-- Column bypass of an engine (R52, R67). -/
structure EngineState where
  manufacturing : BitVec 32
  boot : BitVec 32
deriving DecidableEq, Repr

/-- A completion ring beyond its configuration registers (R152, R154). -/
structure CompletionRing where
  tail : BitVec 32
  /-- Records held for space, oldest first, each with the physical core that holds it. -/
  held : List (List Byte × Nat)
  /-- The stall has been reported and no held record written since (R154). -/
  notified : Bool
deriving DecidableEq, Repr

/-! ### Steps (chapters 4, 8, 10, 11) -/

/-- What forward ran of a dry-fit segment, to be run again in backward (R114, R115): a FWD tile that ends an accumulation, or
a fused row path slot that closed. -/
structure ForwardRun where
  /-- First layer of the segment. -/
  segment : Nat
  logical : Nat
  isTile : Bool
  flags : BitVec 6
  /-- Bytes it wrote, by the device address it wrote them to. -/
  writes : List (Nat × Byte)
deriving DecidableEq, Repr

/-- The recompute reserve while a dry-fit segment holds it (R114): the recompute runs still to retire, and the bytes that
those retired have placed, by the address at which forward wrote them. -/
structure Reserve where
  step : Nat
  segment : Nat
  /-- Pages in use, by die. -/
  pages : List (Nat × Nat)
  pending : List ForwardRun
  contents : List (Nat × Byte)
deriving DecidableEq, Repr

/-- A step that is open or unsealed. -/
structure StepRec where
  id : Nat
  attempt : Nat
  /-- Letters read and written: 0 A, 1 B, 2 C (R374). -/
  reads : Nat
  writes : Nat
  /-- Phase reached: 1 LOAD, 2 FWD, 3 BWD, 5 UPDATE, 7 CHECK, 0 ended early. -/
  phase : Nat
  /-- REDUCE (R138): 0 not begun, 1 in progress, 2 ended. -/
  reduce : Nat
  /-- FT of CHECK_CLOSE, when it has fallen (R349, Tc). -/
  closed : Option Word
  /-- Reasons of R346 met so far, and whether the verdict has been sent and was FAIL. -/
  reasons : List Nat
  verdictSent : Option Nat
  /-- Own verdict in the seal logic: reason, 0 for PASS (R349). -/
  own : Option Nat
  /-- Combined verdicts heard: child chip, members, verdict, reason, failing chip. -/
  children : List (Nat × Nat × Bool × Nat × Nat)
  combinedSent : Bool
  /-- Work ring HEAD and TAIL at the opening of LOAD (R356, order 7). -/
  rings : List (Nat × Word)
  /-- Stash mode (R111): first dry-fit layer. -/
  dryfit : Option Nat
  exhausted : Option Nat
  /-- Layers of the stash table that have been decided (R111). -/
  decided : Nat
  /-- What forward ran in dry-fit mode (R114). -/
  forward : List ForwardRun
  /-- CKPT_CUT pending: CONTINUE flag (R394). -/
  cut : Option Bool
  /-- How the stream that brings the twin's gradient ended, if it did not end OK (R379). -/
  twinFailed : Option Status
deriving DecidableEq, Repr

/-- A child's verdict for a step and attempt that have not opened here yet; the entry is as in `StepRec.children`
(R347, R349; assumption log 53). -/
structure EarlyVerdict where
  step : Nat
  attempt : Nat
  entry : Nat × Nat × Bool × Nat × Nat
deriving DecidableEq, Repr

/-- An outcome decided or received (R351, R367). -/
structure Outcome where
  step : Nat
  generation : Nat
  members : Nat
  isRecall : Bool
  halt : Bool
  reason : Nat
  attempt : Nat
  chip : Nat
  replayFt : Word
deriving DecidableEq, Repr

/-- Step control, the seal logic and stash accounting. -/
structure Steps where
  opened : List StepRec
  /-- Sealed letter, 3 none, and sealed step (R407). -/
  sealedLetter : Nat
  sealedStep : Nat
  /-- A step has been sealed since the last restore or activation (R562). -/
  sealedSince : Bool
  /-- Next step ID and attempt, when step control has named them (R439). -/
  next : Option (Nat × Nat)
  halted : Bool
  restoreFailed : Bool
  /-- Step parameter blocks held (R438), by step ID; and the block of the sealed step (R150). -/
  params : List (Nat × List Byte)
  sealedParams : Option (Nat × List Byte)
  /-- Depth under which the open steps run (R376). -/
  depth : Nat
  /-- The latest outcome, and the steps whose outcome is overdue (R367, R354). -/
  latest : Option Outcome
  overdue : List Nat
  /-- Copies the coordinator still sends: outcome, number of the next copy, local tick of the last one (R351). -/
  copies : List (Outcome × Nat × Nat)
  /-- Copies forwarded: step, attempt, recall, copy (R351). -/
  forwarded : List (Nat × Nat × Bool × Nat)
  /-- Replays waiting: step, attempt and replay FT (R356). -/
  replays : List (Nat × Nat × Word)
  /-- Runs in an open EVAL slot: entry, program number, end FT, step and letter read (R129). -/
  evalSlot : Option (Nat × Nat × Word × Nat × Nat)
  /-- Stash pages used: Inlay by die, spill; highest values (R110, R125). -/
  inlayUsed : List (Nat × Nat)
  spillUsed : Nat
  inlayMax : Nat
  spillMax : Nat
  /-- The recompute reserve, while a segment holds it (R114, R118). -/
  reserve : Option Reserve
  /-- STEP_STASH_STATUS (R124): DRYFIT, EXHAUSTED and their layers. -/
  stashDryfit : Option Nat
  stashExhausted : Option Nat
  /-- Attempts of steps that have been recalled (R347). -/
  attempts : List (Nat × Nat)
  /-- Verdicts of children for a step and attempt that have not opened here yet (R347, R349). -/
  early : List EarlyVerdict
deriving DecidableEq, Repr

/-! ### Square check (chapter 10) -/

/-- Fingerprints and runs of a sampled unit (R330 to R342). -/
structure CheckUnit where
  step : Nat
  attempt : Nat
  training : Bool
  isRow : Bool
  original : Nat
  checker : Option Nat
  referee : Option Nat
  /-- Generator output r_s of R331. -/
  sample : BitVec 32
  q0 : Nat
  c0 : Nat
  width : Nat
  key : Word
  /-- The accumulation runs in strict mode (R57). -/
  strict : Bool
  fpOriginal : Option Word
  fpDuplicate : Option Word
  fpReferee : Option Word
  /-- Capture still runs (R332); bytes captured, the pages of the check store that hold them, in order, and how many descriptors
  or blocks they begin. -/
  capturing : Bool
  captured : Nat
  descriptors : Nat
  pages : List Nat
  /-- Cores that the run now due has been given up on (R337). -/
  used : List Nat
  /-- FT at which the fingerprints were found to differ (R343). -/
  disagreedFt : Word
  originalDone : Bool
  originalOk : Bool
deriving DecidableEq, Repr

/-- A pattern ledger entry (R343, R440). State: 0 free, 1 valid, 2 invalid. -/
structure LedgerEntry where
  state : Nat
  pinned : Bool
  step : Nat
  /-- Order in which it was written, for "the oldest" of R344. -/
  age : Nat
  truncated : Bool
  noMajority : Bool
  /-- Output width, key and majority fingerprint, for the field test (R345). -/
  width : Nat
  isRow : Bool
  bytes : List Byte
deriving DecidableEq, Repr

/-- The units of the square check, SQ_STATUS counts (R365) and the pattern ledger. -/
structure SquareCheck where
  units : List (Nat × CheckUnit)
  nextUnit : Nat
  sampled : BitVec 16
  skipped : BitVec 16
  disagreed : BitVec 8
  wrong : BitVec 8
  reason : BitVec 8
  sent : Bool
  sentFail : Bool
  ledger : List (Nat × LedgerEntry)
  ledgerAge : Nat
  /-- Captures dropped for want of unpinned entries (R344). -/
  ledgerDropped : Nat
deriving DecidableEq, Repr

/-- A digest record received (R360). -/
structure DigestRecord where
  chip : Nat
  /-- 0 own array, 1 mirror array. -/
  array : Nat
  valid : Bool
  generation : Nat
  step : Nat
  digest : List Byte
deriving DecidableEq, Repr

/-- Weight digests (R358 to R361). -/
structure Digests where
  /-- A digest runs: step, letter, and whether a reset has made it invalid. -/
  running : Option (Nat × Nat × Bool)
  /-- Own records of the latest digest: own array and mirror array, bytes and validity. -/
  ownDigest : List Byte
  mirrorDigest : List Byte
  ownValid : Bool
  mirrorValid : Bool
  /-- Local tick at which the own digest ended; none once compared. -/
  endedAt : Option Nat
  /-- Records received from the group and the twin. -/
  received : List DigestRecord
  /-- SQ_DIGEST_STATUS (R369). -/
  step : Nat
  valid : Bool
  mismatch : Bool
  selfOdd : Bool
  noMajority : Bool
  missing : Bool
deriving DecidableEq, Repr

/-! ### Twin, checkpoint, restore (chapter 11) -/

/-- Twin transfer in progress (R383). -/
structure TwinTransfer where
  sending : Bool
  peer : Nat
  generation : Nat
  step : Nat
  letter : Nat
  stripes : Nat
  baseStream : Nat
  cmd : Nat
  /-- Receiving side: digest of the received arrays runs. -/
  digesting : Bool
  /-- Receiving side: the digest records that have come in (R383). -/
  records : List DigestRecord
deriving DecidableEq, Repr

/-- The twin relation (R378 to R384, R409). ROLE: 0 none, 1 paired, 2 adopted, 3 receiving. -/
structure Twin where
  role : Nat
  mirrorValid : Bool
  peer : Nat
  transfer : Option TwinTransfer
  /-- A new pairing that receives nothing: MIRROR_VALID is set when its first step is sealed (R380). -/
  newPairing : Bool
deriving DecidableEq, Repr

/-- An image write (R386 to R394). -/
structure ImageWrite where
  step : Nat
  phaseImage : Bool
  imageNumber : Nat
  slot : Nat
  shards : Nat
  letter : Nat
  /-- Command that is closed by CKPT_DONE (CKPT_CUT, CKPT_RETRY); none for a HOLD. -/
  cmd : Option Nat
  /-- The timetable entry of the hold, if any. -/
  holdEntry : Option Nat
  continueAfter : Bool
  /-- Sections 1 to 4 and the step parameters, as they stood when the image was first started: code and bytes. -/
  captured : List (Nat × List Byte)
deriving DecidableEq, Repr

/-- A restore in progress (R395 to R399). -/
structure Restore where
  step : Nat
  generation : Nat
  chip : Nat
  imageNumber : Nat
  slot : Nat
  cmd : Nat
  /-- Headers accepted by the header pass, by shard. -/
  headers : List (List Byte)
deriving DecidableEq, Repr

/-- A job key (R508). -/
structure JobKey where
  id : Nat
  key : List Byte
  restoreOnly : Bool
deriving DecidableEq, Repr

/-- Checkpoint state (R412 to R415). STATE: 0 idle, 1 writing, 2 written, 3 failed, 4 restoring. -/
structure Checkpoint where
  state : Nat
  writing : Option ImageWrite
  last : Option ImageWrite
  /-- Frozen Veneers: letter and step (R392). -/
  frozen : Option (Nat × Nat)
  latestPhase : Bool
  latestStep : Nat
  restore : Option Restore
  /-- MRAM counters (R389, R414). -/
  imageNumber : BitVec 32
  underKey : BitVec 23
  /-- Copies of job keys in the Carcass engine of an image write or restore that runs (R510). -/
  engineKeys : List (Nat × JobKey)
deriving DecidableEq, Repr

/-! ### Fabric (chapter 9) -/

/-- Axis of a partition descriptor (R294). -/
structure Axis where
  low : Nat
  length : Nat
  wrap : Bool
deriving DecidableEq, Repr

/-- The partition descriptor in force (R294). -/
structure Partition where
  tag : Nat
  generation : Nat
  axes : List Axis
  twin : Nat
  coordinator : Nat
deriving DecidableEq, Repr

/-- Transmit half of a stream context (R299, R302). -/
structure StreamTx where
  destChip : Nat
  address : Nat
  source : Nat
  length : Nat
  step : Nat
  attempt : Nat
  acked : Nat
  sent : Nat
  retries : Nat
  progressAt : Nat
  /-- Queue and descriptor it serves, completion ring and work tag. -/
  queue : Option Nat
  cring : Nat
  rxCring : Nat
  tag : BitVec 32
  /-- It belongs to a twin transfer (R383); it carries a digest record (R360, R383). -/
  transfer : Bool
  digest : Bool
  /-- Base stream of the collective it serves (R308), and whether it is that collective's twin copy (R312). -/
  coll : Option Nat
  twinCopy : Bool
  /-- Place of the stream in the issue order of that collective (R314). -/
  issue : Nat
  /-- Port of the first hop of a ring step (R308, R309). -/
  via : Option Nat
  /-- What a collective engine sends: bytes, and 16-byte pieces that are poisoned; none reads memory. -/
  content : Option (List Byte × List Nat)
deriving DecidableEq, Repr

/-- Receive half of a stream context (R301). -/
structure StreamRx where
  completed : Bool
  sender : Nat
  address : Nat
  length : Nat
  step : Nat
  attempt : Nat
  /-- DATA cells received in contiguous order, and those received beyond. -/
  count : Nat
  beyond : List Nat
  cring : Nat
  poison : Bool
  lastAt : Nat
  /-- Carried on VC2: a ring step, which has no record of its own (R304), and whether it has been taken in. -/
  ring : Bool
  taken : Bool
  /-- The final ACK is withheld until the record is written (R304). -/
  ackDue : Bool
deriving DecidableEq, Repr

/-- A stream context (R298). -/
structure StreamContext where
  tx : Option StreamTx
  rx : Option StreamRx
deriving DecidableEq, Repr

/-- One stripe of one sub-ring of a collective on its current axis (R308, R311, R313). Elements are patterns with
their poison. -/
structure RingPart where
  /-- Ring steps whose stream has been started, has ended, and that have been received and taken in. -/
  sent : Nat
  ended : Nat
  received : Nat
  /-- Elements of the ring step now received that have been taken in, by pieces of 64 KiB (R308). -/
  got : Nat
  /-- What ring step k + 1 sends, by k: the own contribution or block for 0, else what came of received step k, as far as it goes. -/
  data : List (Nat × List (Nat × Bool))
deriving DecidableEq, Repr

/-- A collective in progress (R308 to R314), by base stream. -/
structure Collective where
  queue : Nat
  descriptor : List Byte
  step : Nat
  /-- Index of the axis being worked, in the descriptor's order, and whether it gathers. -/
  axis : Nat
  gathering : Bool
  /-- Elements this module has on the axis: its inputs, or its block of a gather. -/
  buffer : List (Nat × Bool)
  parts : List RingPart
  /-- Blocks gathered on the axis, by position. -/
  blocks : List (Nat × List (Nat × Bool))
  /-- Streams issued, and the first status other than OK in issue order with its place there (R314). -/
  issued : Nat
  failed : Option (Nat × Status)
  /-- The twin copy has been started, and has ended. -/
  twinSent : Bool
  twinDone : Bool
deriving DecidableEq, Repr

/-- A stream queue beyond its registers (R305). -/
structure StreamQueue where
  head : BitVec 32
  running : Nat
  waiting : Bool
deriving DecidableEq, Repr

/-- The fabric router and the collective engines. -/
structure Fabric where
  partition : Partition
  contexts : List (Nat × StreamContext)
  queues : List (Nat × StreamQueue)
  collectives : List (Nat × Collective)
  /-- Stream cells and OPENs discarded and counted (R301). -/
  streamDiscards : Nat
  /-- Cells packed for a bridged direction and not yet sent: direction, cells, tick of the first (R315). -/
  bridges : List (Nat × List QueuedCell × Nat)
  /-- Cells in ingress buffers, or injected, that no output can take yet (R277, R290). -/
  waiting : List QueuedCell
  /-- Streams of this module whose poisoned data a bridge has refused (R183). -/
  barred : List Nat
  /-- Cells of this module's own dropped for want of a route (R290). -/
  ownUnroutable : Nat
  /-- Bridged directions that wait for a new queue pair (R327, R471). -/
  bridgeDown : List Nat
  /-- Sync counters by number (R141). -/
  counters : List (Nat × BitVec 32)
  /-- Local tick of the last engine restart (R477), by engine. -/
  stallAt : List (Nat × Nat)
  /-- Rotating pointers of the router outputs (R281, R284). -/
  pointer : Nat
  /-- Seal cells of another attempt or generation discarded (R347). -/
  sealDiscards : Nat
deriving DecidableEq, Repr

/-! ### Resets, hangs, boot, power, security (chapters 13 to 16) -/

/-- A reset sequence under way (R465). -/
inductive ResetPhase where
  | fenced (since : Nat) | ingressClosed (since : Nat) | asserted (since : Nat)
  /-- Released; the ports of the fabric router still train (R466, R470). -/
  | returning (since : Nat)
deriving DecidableEq, Repr

/-- A domain instance in reset, with what started it. -/
structure ResetRun where
  domain : DomainCode
  inst : Nat
  phase : ResetPhase
  /-- RESET_DOMAIN command to close; none for an automatic reset. -/
  cmd : Option Nat
  /-- Started by a hang: RECOVERED notice at release (R475). -/
  hang : Bool
deriving DecidableEq, Repr

/-- Generation tags that have been incremented (R464), by domain. -/
structure Tags where
  core : List (Nat × BitVec 8)
  cluster : List (Nat × BitVec 8)
  die : List (Nat × BitVec 8)
  router : BitVec 8
  memory : BitVec 8
  bench : BitVec 8
  /-- Boots of every cause, in MRAM (R488). -/
  boots : BitVec 8
deriving DecidableEq, Repr

/-- Boot state (R483 to R487, R493). -/
structure Boot where
  /-- Stage reached: the stage in progress, or the last one once boot has ended. -/
  stage : Nat
  cause : Nat
  stopped : Bool
  /-- Boot will stop after this stage (R486). -/
  stopAfter : Option Nat
  stopStatus : Status
  commandReady : Bool
  trainingReady : Bool
  startedAt : Nat
  /-- Local tick of command-ready. -/
  readyAt : Nat
  cmdReadyMs : BitVec 16
  trainReadyMs : BitVec 16
  journalEmpty : Bool
  closedAtRecovery : Nat
  bootBypass : Nat
  /-- Pairing outcome (R39, R40) and die steppings of the package. -/
  timingSet : Nat
  entries : Nat
  tableVersion : Nat
  mixed : Bool
  features : Word
  carcassStepping : BitVec 8
  benchStepping : BitVec 8
  /-- First stage whose work is still to be done since the module cold reset (R33, R484): 8 once boot is over. -/
  frontier : Nat
  /-- Stage 4 has released the Carcass router since the module cold reset. -/
  released : Bool
  /-- Boot cause of the module cold reset, which a Bench reset does not change (R402, R483). -/
  coldCause : Nat
  /-- Power fail was declared: kept in MRAM until the next boot (R483). -/
  failDeclared : Bool
  /-- Local ticks of Bench hangs, newest first (R478). -/
  benchHangs : List Nat
  /-- Stage 1 has armed the watchdog (R478). -/
  watchdogArmed : Bool
deriving DecidableEq, Repr

/-- State of the rails (R545, R547, R548). -/
inductive Rails where
  | off
  /-- Power-up sequence running since the tick. -/
  | rising (since : Nat)
  | on
  /-- Power-fail sequence, declared at the tick: 20 µs in the times of R400. -/
  | failing (since : Nat)
deriving DecidableEq, Repr

/-- Inputs and rails (R542 to R553). -/
structure Power where
  rails : Rails
  /-- Feed in range, and qualified, for feeds 0 and 1. -/
  inRange0 : Bool
  inRange1 : Bool
  qualified0 : Bool
  qualified1 : Bool
  aux : Bool
  /-- FEED_LOST has been sent for a feed that has not qualified again (R543). -/
  feedLost0 : Bool
  feedLost1 : Bool
  /-- Local tick since which both feeds have been out of range. -/
  bothLostAt : Option Nat
  coldResetHeld : Bool
  tripped : Bool
  svcEn : Bool
  /-- Power-fail notices sent; ports dark (R400). -/
  noticed : Bool
  dark : Bool
  /-- PWR_STATUS (R537) and the latest evaluation. -/
  clock : Nat
  capped : Bool
  thermal : Bool
  moduleDuty : Nat
  inputW : BitVec 16
  hottest : BitVec 16
  evaluatedFt : Word
  feedsReg : Word
  records : List DieTelemetry
  /-- Duty by die under the die cap and the thermal limit; flags by die. -/
  dieDuty : List (Nat × (Nat × Nat))
  cappedDies : List Nat
  thermalDies : List Nat
deriving DecidableEq, Repr

/-- The security block (R494 to R519). -/
structure Security where
  /-- MRAM: latched level, level of the latest event, sources, first FT, wipe end FT, WIPE_DONE, sensor. -/
  level : Nat
  eventLevel : Nat
  sources : BitVec 7
  firstFt : Word
  wipeFt : Word
  wipeDone : Bool
  sensor : BitVec 16
  reading : BitVec 16
  noIdentity : Bool
  keys : List (Nat × JobKey)
  active : Option Nat
  /-- MRAM: H_k and its check value (R508). -/
  highestKey : Nat
  highestCheck : List Byte
  noticeKey : Option (List Byte)
  /-- MRAM: anti-rollback record (R500). -/
  rollback : BitVec 32 × BitVec 32 × BitVec 32
  revoked : BitVec 4
  recordValid : Bool
  /-- The NOR regions 0 to 7 as sparse bytes (R497). -/
  nor : List Host.Cell
  /-- Regions of the running copies (R499), security versions, revoke masks, root key indices. -/
  running : Nat × Nat × Nat
  runningVersions : BitVec 32 × BitVec 32 × BitVec 32
  runningRevoke : BitVec 4
  runningKeys : List Nat
  measured : List (Nat × Nat × BitVec 32 × Word × List Byte)
  config : ConfigImage
  /-- The NOR is connected to the service contacts (R553). -/
  service : Bool
deriving DecidableEq, Repr

/-- A fault notice held for want of a path (R479). -/
structure Notices where
  /-- Held notices, oldest first: journal sequence, FT and the notice. -/
  held : List (Nat × Word × Event)
  dropped : BitVec 8
  /-- Datagrams whose second copy is still to be sent (R480), oldest first, with the local tick of the first. -/
  repeats : List (Output × Nat)
  /-- Notices sent while the Bench was fenced or in reset, to be journaled on its return. -/
  unjournaled : List Event
deriving DecidableEq, Repr

/-! ### Counters and trace (chapter 15) -/

/-- A snapshot of the counters (R523). -/
structure CounterSnapshot where
  tag : BitVec 32
  ft : Word
  takenAt : Nat
  complete : Bool
  generation : Nat
  values : List (Nat × Word)
deriving DecidableEq, Repr

/-- A trace ring (R524, R525). State: 0 OFF, 1 ON, 2 FROZEN. Entries newest first. -/
structure TraceRing where
  state : Nat
  entries : List (List Byte)
  written : BitVec 32
deriving DecidableEq, Repr

/-- Counters, snapshots, trace rings. -/
structure Observability where
  counters : List (Nat × Word)
  snapshots : List (Nat × CounterSnapshot)
  rings : List (Nat × TraceRing)
  /-- SNAPSHOT_READ commands that wait for a snapshot to complete (R523): journal sequences. -/
  waitingReads : List Nat
deriving DecidableEq, Repr

/-! ### Memory (chapter 6) -/

/-- A Drawer cache line (R172): tag (device-local line number), dirty; most recently used first. -/
structure DrawerSet where
  lines : List (Nat × Bool)
deriving DecidableEq, Repr

/-- Memory, its check bits, the Drawers and calibration. -/
structure Memory where
  /-- Data bytes by device physical address; an unlisted byte is 0 (R171, R466, R483). -/
  bytes : List Host.Cell
  /-- Granules whose stored bits differ from a clean codeword: the 144-bit difference (R180, R184). -/
  errors : List (Nat × BitVec 144)
  /-- Bit errors that the command under way meets on the mesh or in an accumulator store, and granules that reached it poisoned in
  transit (R182, R184). Both are empty between commands. -/
  inflight : List (HitPlace × Nat × BitVec 144)
  delivered : List Nat
  /-- Drawer sets with cached lines, keyed slice × 8192 + set. -/
  drawers : List (Nat × DrawerSet)
  /-- MEM_DRW_CARVE in force and BUSY (R174); ways as assigned. -/
  carveBusy : Bool
  /-- HOME_GIB in force (R178). -/
  homeGib : Nat
  /-- MEM_ERR_COUNT (R198). -/
  corrected : BitVec 32
  uncorrectable : BitVec 32
  /-- Captured granule: medium and address (R197). -/
  poisonMedium : Nat
  poisonAddr : Nat
  /-- Fresh uncorrectable granules by Tray bank in the current step window (R189). -/
  bankFresh : List (Nat × Nat)
  /-- Local ticks of fresh uncorrectable granules by channel (R189). -/
  channelFresh : List (Nat × List Nat)
  /-- Open calibration windows: kind, unit, channel, tick of opening, forced (R191 to R193). -/
  windows : List (CalKind × Nat × Nat × Nat × Bool)
  /-- Local tick of the last window by channel: 8 × device + sub-channel, or 1000 + 32 × die + channel. -/
  windowAt : List (Nat × Nat)
  /-- MEM_CAL_STATUS latest failure (R200). -/
  failUnit : Nat
  failChannel : Nat
  /-- LPDDR6 contents have been declared invalid (R175). -/
  lpddr6Invalid : Bool
deriving DecidableEq, Repr

/-! ### The whole module -/

/-- The state of one ZW24-M module. -/
structure State where
  /-- Commands waiting at the block, first in first out. -/
  pending : List Instr
  /-- Everything sent, newest first. -/
  outbox : List Output
  /-- Local oscillator ticks since the model's origin: interval timers count these (model's own). -/
  now : Nat
  /-- The fabric-time counter (R246, R264). -/
  ft : Word
  /-- Software-written register bits by register address (R10, R179). -/
  regs : List (Nat × Word)
  cmds : Commands
  journal : Journal
  longOps : List (Nat × LongOp)
  speas : List (Nat × SpeasPort)
  ports : List (Nat × TensorPort)
  eths : List (Nat × EthPort)
  time : FabricTime
  table : Timetable
  programs : List (Nat × Program)
  cores : List (Nat × CoreState)
  clusters : List (Nat × ClusterState)
  dies : List (Nat × DieState)
  engines : List (Nat × EngineState)
  /-- Host of each logical core that has one, and whether none qualified (R163). -/
  hosts : List (Nat × Nat)
  noHost : List Nat
  /-- HEAD of work rings (R162); TAIL stands in `regs`. -/
  ringHeads : List (Nat × BitVec 32)
  crings : List (Nat × CompletionRing)
  steps : Steps
  square : SquareCheck
  digests : Digests
  twin : Twin
  ckpt : Checkpoint
  fabric : Fabric
  resets : List ResetRun
  tags : Tags
  boot : Boot
  power : Power
  security : Security
  notices : Notices
  obs : Observability
  mem : Memory
  /-- RW1C bits that hardware sets in the very cycle of the register write under way (R11). Empty between commands. -/
  colliding : List (Nat × Word)
  /-- Model's own: free values drawn so far. -/
  freeDraws : Nat
deriving DecidableEq, Repr

/-- Why the model stops. -/
inductive Fault where
  /-- A command names a unit the module does not have (a core of 384 or above, a port of 16 or above):
  there is no such command. Raised by every meaning with such an operand; safe. -/
  | noSuchUnit
deriving DecidableEq, Repr

/-- Why a command has no meaning in this model. -/
inductive Refusal where
  /-- An arm of Machine/Dispatch.lean that has no meaning yet. Raised by such arms only; safe. -/
  | notModelled (mnemonic : String)
deriving DecidableEq, Repr

/-! ### After reset

`State.reset` is the module at power-good, as boot stage 0 begins (R483, R545): every register at the
reset value the spec gives, nothing in the sparse tables, and the values of assumption log 4 where the
spec gives none. Tables list only what differs from the defaults below. -/

/-- A tensor port after a router reset (R236 to R241, R277, R292, R329). -/
def tensorPortReset : TensorPort :=
  { state := .down, signal := false, trainingSince := 0, threeLane := false, txFailed := 0,
    rxFailed := 0, txData := [7, 7, 7, 7], txShim := 7, rxData := [7, 7, 7, 7], rxShim := 7,
    nextLogical := 0, txRot := none, mirrorAt := 0, rxMirror := none, rxTraining := none,
    rxLaneFail := [], rxAnswer := none, txOnce := none, markerCount := 0, markerAt := 0, rxWords := 0,
    laneSymbols := [0, 0, 0, 0, 0], margin := 0, done := 0, aborted := 0,
    peerMismatch := false, peer := 0, peerValid := false, darkNotice := none, fecCorrected := 0,
    fecUncorrectable := 0, discardFec := 0, discardCrc := 0, discardPartition := 0,
    discardUnroutable := 0, egress := [], credits := [0, 0, 0, 0, 0, 0], owed := [0, 0, 0, 0, 0, 0],
    owedSince := 0, vcPointer := 0, turns := [false, false, false, false, false, false], rate := 256, qPrev := 0,
    tokens := 65536, tokensAt := 0, timeSent := 0, timePeerSent := 0, timeReceived := 0,
    timeSentAt := 0, peerFtState := 0, peerHops := 15, offset := 0, delay := 0, sentAt := 0 }

/-- A Speas port after a Bench reset (R244). -/
def speasPortReset : SpeasPort :=
  { linkUp := false, active := 0, failed := 0, rxNext := 0, partialPacket := none, txNext := 0,
    txUnacked := [], expiries := 0, progressAt := 0, retransmits := 0, rotations := 0,
    second := false, rotating := none }

/-- An Ethernet port after a router reset (R242). -/
def ethPortReset : EthPort :=
  { linkUp := false, pcsLock := false, qps := [], paused := 0, held := [], framesIn := 0, framesBad := 0, ended := [] }

/-- A core after a module cold reset (R68, R69, R371). -/
def coreReset : CoreState :=
  { item := none, pointer := 0, acc := none, tilesRetired := 0, clampReason := 0,
    clampByCommand := false, shownReason := 0, restarts := [], strikes := 0, watch := false, watchStrike := false,
    watchLeft := 0, strikeTotal := 0, testing := false, returned := false, hangMark := none, checks := [], progressAt := 0 }

/-- A cluster after a module cold reset (R70, R371). -/
def clusterReset : ClusterState :=
  { clampReason := 0, clampByCommand := false, shownReason := 0, slots := [], lost := [], strikes := 0, watch := false, watchStrike := false,
    watchLeft := 0, strikeTotal := 0, hangMark := none, rowPointer := 0 }

/-- A compute die before stage 3 of boot has read it (R37, R540). -/
def dieReset : DieState :=
  { stepping := 0, present := false, clampReason := 0, clampByCommand := false, duty := 64 }

/-- An engine before stage 6 of boot has tested it (R67). -/
def engineReset : EngineState := { manufacturing := 0, boot := 0 }

/-- A completion ring after a Bench reset (R166). -/
def completionRingReset : CompletionRing := { tail := 0, held := [], notified := false }

/-- A stream context in use by nobody (R301). -/
def streamContextReset : StreamContext := { tx := none, rx := none }

/-- A stream queue after a router reset (R325, R326). -/
def streamQueueReset : StreamQueue := { head := 0, running := 0, waiting := false }

/-- A trace ring after a module cold reset (R525, R536). -/
def traceRingReset : TraceRing := { state := 0, entries := [], written := 0 }

/-- An empty ledger entry (R440). -/
def ledgerEntryReset : LedgerEntry :=
  { state := 0, pinned := false, step := 0, age := 0, truncated := false, noMajority := false,
    width := 0, isRow := false, bytes := [] }

/-- A snapshot slot never written (R452, R453). -/
def jSnapshotReset : JSnapshot :=
  { valid := false, generation := 0, covered := 0, ringOffset := 0, principals := [], openRecs := [],
    outcomes := [] }

/-- The journal of a new module: slot A valid and empty (assumption log 4). -/
def journalReset : Journal :=
  { ring := [], nextSeq := 1, writePos := 0, slotA := { jSnapshotReset with valid := true },
    slotB := jSnapshotReset, activeB := false, compacting := none, ringFull := false, waiting := [],
    lastAccepted := 0, lastCompleted := 0 }

/-- Sessions and commands with none open. -/
def commandsReset : Commands :=
  { sessions := [], owner := none, lastSession := 0, principals := [], opened := [], tieNext := false,
    malformed := 0, badTag := 0, authFailures := [], authTotal := 0 }

/-- The fabric-time unit in FREE (R265). -/
def fabricTimeReset : FabricTime :=
  { state := .free, source := .none, hops := 15, offset := 0, lockedOnce := false, stepped := false,
    withinSince := none, holdoverSince := 0, exceeding := false, slew := 0, slewAt := 0, ptpSync := none, ptp := none }

/-- An empty timetable (R263, R269). -/
def timetableReset : Timetable := { slots := [], missed := 0, skipped := 0, hold := none }

/-- Step control with nothing sealed and nothing open (R407). -/
def stepsReset : Steps :=
  { opened := [], sealedLetter := 3, sealedStep := 0, sealedSince := false, next := none,
    halted := false, restoreFailed := false, params := [], sealedParams := none, depth := 1,
    latest := none, overdue := [], copies := [], forwarded := [], replays := [],
    evalSlot := none, inlayUsed := [], spillUsed := 0, inlayMax := 0, spillMax := 0, reserve := none,
    stashDryfit := none, stashExhausted := none, attempts := [], early := [] }

/-- Square checking with nothing sampled (R365). -/
def squareReset : SquareCheck :=
  { units := [], nextUnit := 0, sampled := 0, skipped := 0, disagreed := 0, wrong := 0, reason := 0,
    sent := false, sentFail := false, ledger := [], ledgerAge := 0,
    ledgerDropped := 0 }

/-- No digest (R369). -/
def digestsReset : Digests :=
  { running := none, ownDigest := [], mirrorDigest := [], ownValid := false, mirrorValid := false,
    endedAt := none, received := [], step := 0, valid := false, mismatch := false, selfOdd := false,
    noMajority := false, missing := false }

/-- No twin (R409). -/
def twinReset : Twin :=
  { role := 0, mirrorValid := false, peer := 0, transfer := none, newPairing := false }

/-- No image (R412 to R414). -/
def checkpointReset : Checkpoint :=
  { state := 0, writing := none, last := none, frozen := none, latestPhase := false, latestStep := 0,
    restore := none, imageNumber := 0, underKey := 0, engineKeys := [] }

/-- No partition (R293, R319, R320). -/
def partitionReset : Partition :=
  { tag := 0, generation := 0,
    axes := [⟨0, 1, false⟩, ⟨0, 1, false⟩, ⟨0, 1, false⟩, ⟨0, 1, false⟩], twin := 0,
    coordinator := 0 }

/-- The fabric router after reset (R471). -/
def fabricReset : Fabric :=
  { partition := partitionReset, contexts := [], queues := [], collectives := [],
    streamDiscards := 0, bridges := [], waiting := [], barred := [], ownUnroutable := 0, bridgeDown := [], counters := [], stallAt := [], pointer := 0,
    sealDiscards := 0 }

/-- Boot at power-good: no stage has ended (R483, R493). -/
def bootReset : Boot :=
  { stage := 0, cause := 0, stopped := false, stopAfter := none, stopStatus := .ok,
    commandReady := false, trainingReady := false, startedAt := 0, readyAt := 0, cmdReadyMs := 0,
    trainReadyMs := 0, journalEmpty := false, closedAtRecovery := 0, bootBypass := 0, timingSet := 0,
    entries := 0, tableVersion := 0, mixed := false, features := 0, carcassStepping := 0xA0,
    benchStepping := 0xA0, frontier := 0, released := false, coldCause := 0, failDeclared := false, benchHangs := [],
    watchdogArmed := false }

/-- Rails on, both feeds qualified, nothing evaluated yet (R537, R545, R560; assumption log 4). -/
def powerReset : Power :=
  { rails := .on, inRange0 := true, inRange1 := true, qualified0 := true, qualified1 := true,
    aux := true, feedLost0 := false, feedLost1 := false, bothLostAt := none, coldResetHeld := false, tripped := false, svcEn := false,
    noticed := false, dark := false, clock := 0, capped := false,
    thermal := false, moduleDuty := 64,
    inputW := 0, hottest := 0, evaluatedFt := 0, feedsReg := 0, records := [], dieDuty := [],
    cappedDies := [], thermalDies := [] }

/-- A configuration image that has not been read. -/
def configImageReset : ConfigImage :=
  { pairing := [], serial := 0, substrateRev := 0, bypass := [], principals := [], alarmMap := 0 }

/-- The security block of a new module (R516 to R519; assumption log 4). -/
def securityReset : Security :=
  { level := 0, eventLevel := 0, sources := 0, firstFt := 0, wipeFt := 0, wipeDone := false,
    sensor := 0, reading := 0, noIdentity := false, keys := [], active := none, highestKey := 0,
    highestCheck := [], noticeKey := none, rollback := (0, 0, 0), revoked := 0, recordValid := false,
    nor := [], running := (0, 2, 4), runningVersions := (0, 0, 0), runningRevoke := 0,
    runningKeys := [0, 0, 0], measured := [], config := configImageReset, service := false }

/-- Memory: every byte 0 with clean check bits (R171, R466, R483), Drawers empty, H = 0 (R195). -/
def memoryReset : Memory :=
  { bytes := [], errors := [], inflight := [], delivered := [], drawers := [], carveBusy := false, homeGib := 0, corrected := 0,
    uncorrectable := 0, poisonMedium := 0, poisonAddr := 0, bankFresh := [], channelFresh := [],
    windows := [], windowAt := [], failUnit := 0, failChannel := 0, lpddr6Invalid := false }

/-- Generation tags at zero (R68, R464). -/
def tagsReset : Tags :=
  { core := [], cluster := [], die := [], router := 0, memory := 0, bench := 0, boots := 1 }

/-- The module right after reset. -/
def State.reset : State :=
  { pending := [], outbox := [], now := 0, ft := 0, regs := [], cmds := commandsReset,
    journal := journalReset, longOps := [], speas := [], ports := [], eths := [],
    time := fabricTimeReset, table := timetableReset, programs := [], cores := [], clusters := [],
    dies := [], engines := [], hosts := [], noHost := [], ringHeads := [], crings := [],
    steps := stepsReset, square := squareReset, digests := digestsReset, twin := twinReset,
    ckpt := checkpointReset, fabric := fabricReset, resets := [], tags := tagsReset,
    boot := bootReset, power := powerReset, security := securityReset,
    notices := { held := [], dropped := 0, repeats := [], unjournaled := [] },
    obs := { counters := [], snapshots := [], rings := [], waitingReads := [] },
    mem := memoryReset, colliding := [], freeDraws := 0 }

end Sys2Proof.Machine
end

