-- ==== Sys2Proof/Machine/Ops.lean ====
section
/-! DEFINITION. Shared operations: bit fields, little-endian bytes, checksums, sparse tables, the
addresses of memory, and what leaves the module. -/

namespace Sys2Proof.Machine

/-! ### Bit fields and bytes (R6) -/

/-- `n` bits of `w` from bit `lo` up. -/
def bits (w lo n : Nat) : Nat := (w >>> lo) % 2 ^ n

/-- `n` bits of a register from bit `lo` up. -/
def field (w : Word) (lo n : Nat) : Nat := bits w.toNat lo n

/-- `v` placed at bit `lo` of a field of `n` bits. -/
def place (v lo n : Nat) : Nat := (v % 2 ^ n) <<< lo

/-- Bit `b` at position `lo`. -/
def placeB (b : Bool) (lo : Nat) : Nat := if b then 2 ^ lo else 0

/-- A register value from disjoint placed fields. -/
def word (v : Nat) : Word := BitVec.ofNat 64 v

/-- The bits of `mask` from `new`, the others from `old`. -/
def blend (mask new old : Word) : Word := (new &&& mask) ||| (old &&& ~~~mask)

/-- `v` as `n` little-endian bytes (R6). -/
def le : (n v : Nat) → List Byte
  | 0, _ => []
  | n + 1, v => BitVec.ofNat 8 v :: le n (v / 256)

/-- The value of little-endian bytes (R6). -/
def unle : List Byte → Nat
  | [] => 0
  | b :: r => b.toNat + 256 * unle r

/-- `n` bytes from offset `off`. -/
def slice (bs : List Byte) (off n : Nat) : List Byte := (bs.drop off).take n

/-- Unsigned little-endian field of `n` bytes at offset `off`; bytes that are not there count as 0. -/
def uAt (bs : List Byte) (off n : Nat) : Nat := unle (slice bs off n)

/-- `n` zero bytes. -/
def zeros (n : Nat) : List Byte := List.replicate n 0

/-- `bs` padded with zeros to `n` bytes. -/
def padTo (n : Nat) (bs : List Byte) : List Byte := bs ++ zeros (n - bs.length)

/-- Exactly `n` bytes: the first `n` of `bs`, zeros where it ends. -/
def exactly (n : Nat) (bs : List Byte) : List Byte := (List.range n).map fun i => bs.getD i 0

/-- Every byte from `lo` up to `hi` is zero (reserved bytes of R428). -/
def zeroFrom (bs : List Byte) (lo hi : Nat) : Bool := (slice bs lo (hi - lo)).all (· == 0)

/-- Smallest multiple of `m` not below `n`. -/
def roundUp (n m : Nat) : Nat := (n + m - 1) / m * m

/-- A counter that saturates at its largest value. -/
def satAdd {w : Nat} (c : BitVec w) (n : Nat) : BitVec w :=
  if c.toNat + n < 2 ^ w then c + BitVec.ofNat w n else BitVec.allOnes w

/-- A signed value as `n` bits, two's complement, saturating. -/
def satInt (v : Int) (n : Nat) : Nat :=
  let hi : Int := 2 ^ (n - 1) - 1
  let lo : Int := -(2 ^ (n - 1))
  let c := if hi < v then hi else if v < lo then lo else v
  (c % 2 ^ n).toNat

/-! ### Checksums -/

/-- One step of a CRC of `width` bits, most significant bit first. -/
def crcStep (width poly : Nat) (c bit : Nat) : Nat :=
  let top := (c >>> (width - 1)) % 2
  let c' := (c <<< 1) % 2 ^ width
  if top ^^^ bit = 1 then c' ^^^ poly else c'

/-- CRC over `n` bits of `v`, most significant first. -/
def crcBits (width poly : Nat) : (n v c : Nat) → Nat
  | 0, _, c => c
  | n + 1, v, c => crcBits width poly n v (crcStep width poly c (bits v n 1))

/-- CRC over bytes, most significant bit of each first. -/
def crcBytes (width poly : Nat) : List Byte → Nat → Nat
  | [], c => c
  | b :: r, c => crcBytes width poly r (crcBits width poly 8 b.toNat c)

/-- One step of a reflected CRC-32. -/
def crcReflStep (poly c : Nat) : Nat := if c % 2 = 1 then (c >>> 1) ^^^ poly else c >>> 1

/-- `n` steps of a reflected CRC-32. -/
def crcReflSteps (poly : Nat) : Nat → Nat → Nat
  | 0, c => c
  | n + 1, c => crcReflSteps poly n (crcReflStep poly c)

/-- A reflected CRC-32 over bytes. -/
def crcReflBytes (poly : Nat) : List Byte → Nat → Nat
  | [], c => c
  | b :: r, c => crcReflBytes poly r (crcReflSteps poly 8 (c ^^^ b.toNat))

/-- CRC-32C (Castagnoli) as R448 and the packet formats use it: reflected polynomial 0x82F63B78, initial
value and final complement all ones. PRESUMED parameters (assumption log 5). -/
def crc32c (bs : List Byte) : Nat := crcReflBytes 0x82F63B78 bs 0xFFFFFFFF ^^^ 0xFFFFFFFF

/-! ### Sparse tables in canonical form -/

/-- Entry `k` of a table whose unlisted entries read `d`. -/
def tabGet {α : Type} (d : α) : List (Nat × α) → Nat → α
  | [], _ => d
  | (j, v) :: r, k => if j = k then v else tabGet d r k

/-- Set entry `k`, keeping keys rising and no entry equal to `d`. -/
def tabSet {α : Type} [DecidableEq α] (d : α) : List (Nat × α) → Nat → α → List (Nat × α)
  | [], k, v => if v = d then [] else [(k, v)]
  | (j, w) :: r, k, v =>
    if k < j then (if v = d then (j, w) :: r else (k, v) :: (j, w) :: r)
    else if k = j then (if v = d then r else (k, v) :: r)
    else (j, w) :: tabSet d r k v

/-- Entry `k`, if listed. -/
def tabFind {α : Type} : List (Nat × α) → Nat → Option α
  | [], _ => none
  | (j, v) :: r, k => if j = k then some v else tabFind r k

/-- List entry `k` as `v`, keys rising. -/
def tabPut {α : Type} : List (Nat × α) → Nat → α → List (Nat × α)
  | [], k, v => [(k, v)]
  | (j, w) :: r, k, v =>
    if k < j then (k, v) :: (j, w) :: r
    else if k = j then (k, v) :: r
    else (j, w) :: tabPut r k v

/-- Remove entry `k`. -/
def tabDel {α : Type} (t : List (Nat × α)) (k : Nat) : List (Nat × α) := t.filter (·.1 ≠ k)

/-- Apply `f` to entry `k` of a table with default `d`. -/
def tabMod {α : Type} [DecidableEq α] (d : α) (t : List (Nat × α)) (k : Nat) (f : α → α) :
    List (Nat × α) := tabSet d t k (f (tabGet d t k))

/-- Keys strictly rise. -/
def keysRise {α : Type} : List (Nat × α) → Bool
  | [] => true
  | [_] => true
  | (j, _) :: (k, v) :: r => decide (j < k) && keysRise ((k, v) :: r)

/-- The canonical form of a table with default `d`: keys rise and no entry equals `d`. -/
def tabWf {α : Type} [DecidableEq α] (d : α) (t : List (Nat × α)) : Bool :=
  keysRise t && t.all (fun e => decide (e.2 ≠ d))

/-- Numbers `lo`, `lo + 1`, …, `n` of them. -/
def upFrom (lo n : Nat) : List Nat := (List.range n).map (lo + ·)

/-- The first number below `n` that `p` accepts. -/
def firstBelow (n : Nat) (p : Nat → Bool) : Option Nat := (List.range n).find? p

/-- The rotating-pointer arbiter: the first candidate among 0 … `n − 1` that `p` accepts, walking up
from `start` and wrapping. -/
def rotate (n start : Nat) (p : Nat → Bool) : Option Nat :=
  ((List.range n).map (fun i => (start + i) % n)).find? p

/-- Element `i` of a list, or `d`. -/
def nth {α : Type} (d : α) (l : List α) (i : Nat) : α := l.getD i d

/-- Set element `i` of a list. -/
def setNth {α : Type} (l : List α) (i : Nat) (v : α) : List α := l.set i v

/-! ### The address map (R14, R15, R176, R177) -/

/-- Regions of the device physical address space (R14). -/
inductive Region where
  | inlay | lpddr6 | tray | registers | none
deriving DecidableEq, Repr

/-- First address of the LPDDR6 region (R14). -/
def lpddr6Base : Nat := 0x004000000000
/-- First address of the Tray windows (R14). -/
def trayBase : Nat := 0x010000000000
/-- First address of the register space (R14). -/
def registerBase : Nat := 0x020000000000
/-- First address of the reserved area (R177). -/
def reservedBase : Nat := 0x00CFD0000000
/-- First address past the LPDDR6 region. -/
def lpddr6End : Nat := 0x00D000000000

/-- The region of an address (R14). -/
def regionOf (a : Nat) : Region :=
  if a < 0x001800000000 then .inlay
  else if lpddr6Base ≤ a ∧ a < lpddr6End then .lpddr6
  else if trayBase ≤ a ∧ a < 0x010060000000 then .tray
  else if registerBase ≤ a ∧ a < 0x020100000000 then .registers
  else .none

/-- The one region that holds all of `n` bytes from `a`. -/
def regionSpan (a n : Nat) : Region :=
  if n = 0 then regionOf a
  else if regionOf a = regionOf (a + n - 1) then regionOf a else .none

/-- The bytes touch the reserved area (R177). -/
def touchesReserved (a n : Nat) : Bool := decide (a < lpddr6End ∧ reservedBase < a + n)

/-- Wholly inside the Inlay or LPDDR6 region and clear of the reserved area (R160, R164). -/
def inStore (a n : Nat) : Bool :=
  (regionSpan a n = .inlay || regionSpan a n = .lpddr6) && !touchesReserved a n

/-- Compute die of an Inlay address. -/
def inlayDie (a : Nat) : Nat := a / 2 ^ 32

/-- Inlay channel of an address (R170). -/
def inlayChannel (a : Nat) : Nat := bits a 8 5 ^^^ bits a 13 5

/-- Core of a Tray address (R14). -/
def trayCore (a : Nat) : Nat := (a - trayBase) / 2 ^ 22

/-- First address of the Tray of a core. -/
def trayOf (core : Nat) : Nat := trayBase + core * 2 ^ 22

/-- Tray bank of an address (R168). -/
def trayBank (a : Nat) : Nat := bits a 6 6

/-- LPDDR6 device and device-local address (R176). -/
def lpddr6Map (h a : Nat) : Nat × Nat :=
  let off := a - lpddr6Base
  let hashed := 24 * (24 - h) * 2 ^ 30
  if off < hashed then
    let p := off >>> 12
    let r := p / 24
    let f := r ^^^ (r >>> 6) ^^^ (r >>> 12) ^^^ (r >>> 18)
    ((p % 24 + f % 24) % 24, (r <<< 12) + off % 2 ^ 12)
  else
    let x := off - hashed
    (x / (h * 2 ^ 30), (24 - h) * 2 ^ 30 + x % (h * 2 ^ 30))

/-- LPDDR6 sub-channel of a device-local address. -/
def lpddr6SubChannel (l : Nat) : Nat := bits l 8 3

/-- Drawer set of a device-local address (R172). -/
def drawerSet (l : Nat) : Nat := bits l 8 13

/-- Two byte ranges overlap. -/
def overlaps (a n b m : Nat) : Bool := decide (a < b + m ∧ b < a + n ∧ 0 < n ∧ 0 < m)

/-! ### Time -/

/-- Ticks of 0.8 ns (R7) in `us` microseconds. -/
def ticksUs (us : Nat) : Nat := us * 1250
/-- Ticks in `ms` milliseconds. -/
def ticksMs (ms : Nat) : Nat := ms * 1250000
/-- Ticks in `s` seconds. -/
def ticksS (sec : Nat) : Nat := sec * 1250000000

/-! ### Status and class codes -/

/-- Values of R427. -/
def Status.code : Status → Nat
  | .ok => 0x0000 | .accepted => 0x0001 | .busy => 0x0100 | .deadline => 0x0101
  | .badOpcode => 0x0200 | .badParam => 0x0201 | .badTag => 0x0300 | .notOwner => 0x0301
  | .staleSeq => 0x0302 | .clamped => 0x0400 | .poison => 0x0401 | .timeout => 0x0402
  | .recalled => 0x0403 | .mixedStep => 0x0500 | .stashExhausted => 0x0501
  | .noResource => 0x0600 | .alarm => 0x0F00

/-- The status of a code of R427; any other code reads as OK. -/
def Status.ofCode (c : Nat) : Status :=
  ([Status.accepted, .busy, .deadline, .badOpcode, .badParam, .badTag, .notOwner, .staleSeq, .clamped,
    .poison, .timeout, .recalled, .mixedStep, .stashExhausted, .noResource, .alarm].find?
      (fun st => st.code == c)).getD .ok

/-- Codes of R462. -/
def domainNumber : DomainCode → Nat
  | .core => 0 | .cluster => 1 | .die => 2 | .router => 3 | .memory => 4 | .bench => 5 | .cold => 6

/-- Domain of a code of R462. -/
def domainOf : Nat → Option DomainCode
  | 0 => some .core | 1 => some .cluster | 2 => some .die | 3 => some .router | 4 => some .memory
  | 5 => some .bench | 6 => some .cold | _ => none

/-- Instances of a domain (R462). -/
def domainCount : DomainCode → Nat
  | .core => 384 | .cluster => 96 | .die => 24 | _ => 1

/-! ### Sending -/

/-- Put an output on its way. -/
def State.send (s : State) (o : Output) : State := { s with outbox := o :: s.outbox }

/-- `s` with what sending, journaling, counting and tracing may change taken from `t`. The operations
of Machine/Events.lean answer through this, so that every other field is unchanged by definition. -/
def State.withComms (s t : State) : State :=
  { s with outbox := t.outbox, journal := t.journal, notices := t.notices, cmds := t.cmds,
           speas := t.speas, obs := t.obs }

/-- Answer with the state `s'`; unit numbers outside the module fault (R8). -/
def onUnit (n limit : Nat) (s' : State) : Host.Outcome State Fault Refusal :=
  if n < limit then .next s' else .fault .noSuchUnit

end Sys2Proof.Machine
end

