-- ==== Sys2Proof/Machine/Registers.lean ====
section
/-! DEFINITION. The register map (R9, R10, R12, R179 and the register descriptions of chapters 1 to 16):
names, addresses, reset domains, which bits software writes, and the bank that holds those bits. Reading a
register with all its fields stands in Machine/RegisterRead.lean, writing with the refusal rules in
Machine/RegisterWrite.lean. -/

namespace Sys2Proof.Machine

/-- Every register of the module. Indexes are the instances and elements of R179. -/
inductive Reg where
  | moduleId | serial | dieStatus | reasonLo | reasonHi | pairing | features | resetCtrl | hangCtrl
  | noticeCtrl | noticeAddr (i : Nat) | bootStatus
  | cmdStatus | cmdDiscards | cmdCtrl
  | jnlAccepted | jnlCompleted | jnlStatus
  | secStatus | secAlarmMap | secAuthFail | secRollback
  | pwrStatus | pwrCapModule | pwrThermal | pwrFeeds | pwrCapDie (d : Nat)
  | ftNow | ftStatus | ftCtrl | ftEpoch
  | ttCtrl | ttStatus
  | netChip | netGeometry | netPartition | netAxis | netRouteCtrl | netThrottle | netStreamCtrl
  | netBridge (d : Nat) | netSqBase (q : Nat) | netSqCtrl (q : Nat) | netSqPtr (q : Nat)
  | cringBase (n : Nat) | cringCtrl (n : Nat) | cringPtr (n : Nat) | destEntry (c : Nat)
  | portStatus (n : Nat) | portLaneMap (n : Nat) | portJig (n : Nat) | portPeer (n : Nat)
  | portAdmit (n : Nat) | portFec (n : Nat) | portDiscard (n : Nat)
  | ethStatus (n : Nat) | ethRdma (n : Nat)
  | speasStatus (i : Nat)
  | memMap | memDrwCarve | memPoisonLog | memErrCount | memCalCtrl | memCalStatus | memScrubCtrl
  | cdId (d : Nat)
  | clStatus (c : Nat) | clSqState (c : Nat)
  | coreStatus (c : Nat) | coreTiles (c : Nat) | coreNumFlags (c : Nat) | coreRemap (c : Nat)
  | coreSqState (c : Nat)
  | wringBase (c j : Nat) | wringCtrl (c j : Nat) | wringPtr (c j : Nat)
  | engStatus (e : Nat)
  | sqCtrl | sqStoreBase | sqStoreLimit | sqStatus | sqSealCtrl | sqSealStatus | sqDigestCtrl
  | sqDigestStatus | sqDigestGroup (i : Nat)
  | stashInlayLimit | stashSpillBase | stashSpillLimit | stashReserve | stashCtrl | stashStatus
  | stashUse | veneerBase (v : Nat) | veneerSize | retainCtrl | retainStatus | inputBase (i : Nat)
  | twinStatus | twinMirrorSize | twinMirrorBase (v : Nat)
  | ckptCtrl | ckptStatus | ckptCount | ckptTarget (i : Nat)
  | trcCtrl | trcRing (k : Nat)
  | cntSnapDir (i : Nat) | cntValue (i : Nat)
deriving DecidableEq, Repr

/-- First address of a register block (R179). -/
def blockBase (b : Nat) : Nat := registerBase + b * 0x1000000

/-- Address of a register (R179 and the header table of each register). -/
def Reg.addr : Reg → Nat
  | .moduleId => blockBase 0x00 | .serial => blockBase 0x00 + 0x08 | .dieStatus => blockBase 0x00 + 0x10
  | .reasonLo => blockBase 0x00 + 0x18 | .reasonHi => blockBase 0x00 + 0x20
  | .pairing => blockBase 0x00 + 0x28 | .features => blockBase 0x00 + 0x30
  | .resetCtrl => blockBase 0x00 + 0x40 | .hangCtrl => blockBase 0x00 + 0x48
  | .noticeCtrl => blockBase 0x00 + 0x50 | .noticeAddr i => blockBase 0x00 + 0x58 + 8 * i
  | .bootStatus => blockBase 0x00 + 0x68
  | .cmdStatus => blockBase 0x01 | .cmdDiscards => blockBase 0x01 + 0x08 | .cmdCtrl => blockBase 0x01 + 0x10
  | .jnlAccepted => blockBase 0x02 | .jnlCompleted => blockBase 0x02 + 0x08
  | .jnlStatus => blockBase 0x02 + 0x10
  | .secStatus => blockBase 0x03 | .secAlarmMap => blockBase 0x03 + 0x08
  | .secAuthFail => blockBase 0x03 + 0x10 | .secRollback => blockBase 0x03 + 0x18
  | .pwrStatus => blockBase 0x04 | .pwrCapModule => blockBase 0x04 + 0x08
  | .pwrThermal => blockBase 0x04 + 0x10 | .pwrFeeds => blockBase 0x04 + 0x18
  | .pwrCapDie d => blockBase 0x04 + 0x100 + 8 * d
  | .ftNow => blockBase 0x05 | .ftStatus => blockBase 0x05 + 0x08 | .ftCtrl => blockBase 0x05 + 0x10
  | .ftEpoch => blockBase 0x05 + 0x18
  | .ttCtrl => blockBase 0x06 | .ttStatus => blockBase 0x06 + 0x08
  | .netChip => blockBase 0x07 | .netGeometry => blockBase 0x07 + 0x08
  | .netPartition => blockBase 0x07 + 0x10 | .netAxis => blockBase 0x07 + 0x18
  | .netRouteCtrl => blockBase 0x07 + 0x20 | .netThrottle => blockBase 0x07 + 0x28
  | .netStreamCtrl => blockBase 0x07 + 0x30 | .netBridge d => blockBase 0x07 + 0x100 + 8 * d
  | .netSqBase q => blockBase 0x07 + 0x1000 + 0x20 * q
  | .netSqCtrl q => blockBase 0x07 + 0x1008 + 0x20 * q
  | .netSqPtr q => blockBase 0x07 + 0x1010 + 0x20 * q
  | .cringBase n => blockBase 0x07 + 0x100000 + 0x20 * n
  | .cringCtrl n => blockBase 0x07 + 0x100008 + 0x20 * n
  | .cringPtr n => blockBase 0x07 + 0x100010 + 0x20 * n
  | .destEntry c => blockBase 0x07 + 0x400000 + 8 * c
  | .portStatus n => blockBase 0x08 + 0x100000 * n
  | .portLaneMap n => blockBase 0x08 + 0x100000 * n + 0x08
  | .portJig n => blockBase 0x08 + 0x100000 * n + 0x10
  | .portPeer n => blockBase 0x08 + 0x100000 * n + 0x18
  | .portAdmit n => blockBase 0x08 + 0x100000 * n + 0x20
  | .portFec n => blockBase 0x08 + 0x100000 * n + 0x28
  | .portDiscard n => blockBase 0x08 + 0x100000 * n + 0x30
  | .ethStatus n => blockBase 0x09 + 0x100000 * n
  | .ethRdma n => blockBase 0x09 + 0x100000 * n + 0x08
  | .speasStatus i => blockBase 0x0A + 0x100000 * i
  | .memMap => blockBase 0x0B | .memDrwCarve => blockBase 0x0B + 0x08
  | .memPoisonLog => blockBase 0x0B + 0x10 | .memErrCount => blockBase 0x0B + 0x18
  | .memCalCtrl => blockBase 0x0B + 0x20 | .memCalStatus => blockBase 0x0B + 0x28
  | .memScrubCtrl => blockBase 0x0B + 0x30
  | .cdId d => blockBase 0x0E + 0x10000 * d
  | .clStatus c => blockBase 0x0F + 0x1000 * c | .clSqState c => blockBase 0x0F + 0x1000 * c + 0x08
  | .coreStatus c => blockBase 0x10 + 0x2000 * c | .coreTiles c => blockBase 0x10 + 0x2000 * c + 0x08
  | .coreNumFlags c => blockBase 0x10 + 0x2000 * c + 0x10
  | .coreRemap c => blockBase 0x10 + 0x2000 * c + 0x18
  | .coreSqState c => blockBase 0x10 + 0x2000 * c + 0x20
  | .wringBase c j => blockBase 0x10 + 0x2000 * c + 0x1000 + 0x20 * j
  | .wringCtrl c j => blockBase 0x10 + 0x2000 * c + 0x1008 + 0x20 * j
  | .wringPtr c j => blockBase 0x10 + 0x2000 * c + 0x1010 + 0x20 * j
  | .engStatus e => blockBase 0x11 + 0x1000 * e
  | .sqCtrl => blockBase 0x12 | .sqStoreBase => blockBase 0x12 + 0x08
  | .sqStoreLimit => blockBase 0x12 + 0x10 | .sqStatus => blockBase 0x12 + 0x18
  | .sqSealCtrl => blockBase 0x12 + 0x20 | .sqSealStatus => blockBase 0x12 + 0x28
  | .sqDigestCtrl => blockBase 0x12 + 0x30 | .sqDigestStatus => blockBase 0x12 + 0x38
  | .sqDigestGroup i => blockBase 0x12 + 0x40 + 8 * i
  | .stashInlayLimit => blockBase 0x13 | .stashSpillBase => blockBase 0x13 + 0x08
  | .stashSpillLimit => blockBase 0x13 + 0x10 | .stashReserve => blockBase 0x13 + 0x18
  | .stashCtrl => blockBase 0x13 + 0x20 | .stashStatus => blockBase 0x13 + 0x28
  | .stashUse => blockBase 0x13 + 0x30 | .veneerBase v => blockBase 0x13 + 0x40 + 8 * v
  | .veneerSize => blockBase 0x13 + 0x58 | .retainCtrl => blockBase 0x13 + 0x60
  | .retainStatus => blockBase 0x13 + 0x68 | .inputBase i => blockBase 0x13 + 0x70 + 8 * i
  | .twinStatus => blockBase 0x14 | .twinMirrorSize => blockBase 0x14 + 0x08
  | .twinMirrorBase v => blockBase 0x14 + 0x10 + 8 * v
  | .ckptCtrl => blockBase 0x15 | .ckptStatus => blockBase 0x15 + 0x08
  | .ckptCount => blockBase 0x15 + 0x10 | .ckptTarget i => blockBase 0x15 + 0x100 + 8 * i
  | .trcCtrl => blockBase 0x16 | .trcRing k => blockBase 0x16 + 0x10000 + 8 * k
  | .cntSnapDir i => blockBase 0x17 + 8 * i | .cntValue i => blockBase 0x17 + 0x10000 + 8 * i

/-- A register of an array of `n`, `stride` bytes apart from offset `lo`, at offset `o`. -/
def arrayAt (o lo stride n : Nat) (f : Nat → Reg) : Option Reg :=
  if lo ≤ o ∧ (o - lo) % stride = 0 ∧ (o - lo) / stride < n then some (f ((o - lo) / stride)) else none

/-- The register at offset `o` of a block (R179). -/
def Reg.atOffset (block o : Nat) : Option Reg :=
  match block with
  | 0x00 => match o with
    | 0x00 => some .moduleId | 0x08 => some .serial | 0x10 => some .dieStatus | 0x18 => some .reasonLo
    | 0x20 => some .reasonHi | 0x28 => some .pairing | 0x30 => some .features | 0x40 => some .resetCtrl
    | 0x48 => some .hangCtrl | 0x50 => some .noticeCtrl | 0x58 => some (.noticeAddr 0)
    | 0x60 => some (.noticeAddr 1) | 0x68 => some .bootStatus | _ => none
  | 0x01 => match o with
    | 0x00 => some .cmdStatus | 0x08 => some .cmdDiscards | 0x10 => some .cmdCtrl | _ => none
  | 0x02 => match o with
    | 0x00 => some .jnlAccepted | 0x08 => some .jnlCompleted | 0x10 => some .jnlStatus | _ => none
  | 0x03 => match o with
    | 0x00 => some .secStatus | 0x08 => some .secAlarmMap | 0x10 => some .secAuthFail
    | 0x18 => some .secRollback | _ => none
  | 0x04 => match o with
    | 0x00 => some .pwrStatus | 0x08 => some .pwrCapModule | 0x10 => some .pwrThermal
    | 0x18 => some .pwrFeeds | _ => arrayAt o 0x100 8 24 .pwrCapDie
  | 0x05 => match o with
    | 0x00 => some .ftNow | 0x08 => some .ftStatus | 0x10 => some .ftCtrl | 0x18 => some .ftEpoch
    | _ => none
  | 0x06 => match o with
    | 0x00 => some .ttCtrl | 0x08 => some .ttStatus | _ => none
  | 0x07 => match o with
    | 0x00 => some .netChip | 0x08 => some .netGeometry | 0x10 => some .netPartition
    | 0x18 => some .netAxis | 0x20 => some .netRouteCtrl | 0x28 => some .netThrottle
    | 0x30 => some .netStreamCtrl
    | _ =>
      if o < 0x1000 then arrayAt o 0x100 8 8 .netBridge
      else if o < 0x100000 then
        (arrayAt o 0x1000 0x20 16 .netSqBase).orElse fun _ =>
        (arrayAt o 0x1008 0x20 16 .netSqCtrl).orElse fun _ => arrayAt o 0x1010 0x20 16 .netSqPtr
      else if o < 0x400000 then
        (arrayAt o 0x100000 0x20 16384 .cringBase).orElse fun _ =>
        (arrayAt o 0x100008 0x20 16384 .cringCtrl).orElse fun _ =>
          arrayAt o 0x100010 0x20 16384 .cringPtr
      else arrayAt o 0x400000 8 131072 .destEntry
  | 0x08 =>
    let n := o / 0x100000
    if n < 16 then
      match o % 0x100000 with
      | 0x00 => some (.portStatus n) | 0x08 => some (.portLaneMap n) | 0x10 => some (.portJig n)
      | 0x18 => some (.portPeer n) | 0x20 => some (.portAdmit n) | 0x28 => some (.portFec n)
      | 0x30 => some (.portDiscard n) | _ => none
    else none
  | 0x09 =>
    let n := o / 0x100000
    if n < 6 then
      match o % 0x100000 with
      | 0x00 => some (.ethStatus n) | 0x08 => some (.ethRdma n) | _ => none
    else none
  | 0x0A => arrayAt o 0 0x100000 2 .speasStatus
  | 0x0B => match o with
    | 0x00 => some .memMap | 0x08 => some .memDrwCarve | 0x10 => some .memPoisonLog
    | 0x18 => some .memErrCount | 0x20 => some .memCalCtrl | 0x28 => some .memCalStatus
    | 0x30 => some .memScrubCtrl | _ => none
  | 0x0E => arrayAt o 0 0x10000 24 .cdId
  | 0x0F => (arrayAt o 0 0x1000 96 .clStatus).orElse fun _ => arrayAt o 8 0x1000 96 .clSqState
  | 0x10 =>
    let c := o / 0x2000
    let p := o % 0x2000
    if c < 384 then
      match p with
      | 0x00 => some (.coreStatus c) | 0x08 => some (.coreTiles c) | 0x10 => some (.coreNumFlags c)
      | 0x18 => some (.coreRemap c) | 0x20 => some (.coreSqState c)
      | _ =>
        (arrayAt p 0x1000 0x20 128 (.wringBase c)).orElse fun _ =>
        (arrayAt p 0x1008 0x20 128 (.wringCtrl c)).orElse fun _ => arrayAt p 0x1010 0x20 128 (.wringPtr c)
    else none
  | 0x11 => arrayAt o 0 0x1000 1536 .engStatus
  | 0x12 => match o with
    | 0x00 => some .sqCtrl | 0x08 => some .sqStoreBase | 0x10 => some .sqStoreLimit
    | 0x18 => some .sqStatus | 0x20 => some .sqSealCtrl | 0x28 => some .sqSealStatus
    | 0x30 => some .sqDigestCtrl | 0x38 => some .sqDigestStatus
    | _ => arrayAt o 0x40 8 8 .sqDigestGroup
  | 0x13 => match o with
    | 0x00 => some .stashInlayLimit | 0x08 => some .stashSpillBase | 0x10 => some .stashSpillLimit
    | 0x18 => some .stashReserve | 0x20 => some .stashCtrl | 0x28 => some .stashStatus
    | 0x30 => some .stashUse | 0x40 => some (.veneerBase 0) | 0x48 => some (.veneerBase 1)
    | 0x50 => some (.veneerBase 2) | 0x58 => some .veneerSize | 0x60 => some .retainCtrl
    | 0x68 => some .retainStatus | _ => arrayAt o 0x70 8 3 .inputBase
  | 0x14 => match o with
    | 0x00 => some .twinStatus | 0x08 => some .twinMirrorSize | _ => arrayAt o 0x10 8 3 .twinMirrorBase
  | 0x15 => match o with
    | 0x00 => some .ckptCtrl | 0x08 => some .ckptStatus | 0x10 => some .ckptCount
    | _ => arrayAt o 0x100 8 16 .ckptTarget
  | 0x16 => match o with
    | 0x00 => some .trcCtrl | _ => arrayAt o 0x10000 8 1945 .trcRing
  | 0x17 => if o < 0x10000 then arrayAt o 0 8 16 .cntSnapDir else arrayAt o 0x10000 8 1208 .cntValue
  | _ => none

/-- The register at an address; none where R9 answers BAD_PARAM. -/
def Reg.ofAddr (a : Nat) : Option Reg :=
  if a % 8 = 0 ∧ registerBase ≤ a ∧ a < registerBase + 0x18000000 then
    Reg.atOffset ((a - registerBase) / 0x1000000) ((a - registerBase) % 0x1000000)
  else none

/-- Block number of a register (R179). -/
def Reg.block (r : Reg) : Nat := (r.addr - registerBase) / 0x1000000

/-- Reset domain of a register (R13). -/
def Reg.domain : Reg → DomainCode
  | .bootStatus | .cmdStatus | .cmdDiscards | .secAuthFail | .pwrStatus | .pwrCapModule | .pwrThermal
  | .pwrFeeds | .pwrCapDie _ | .ftNow | .ftStatus | .ftCtrl | .ftEpoch | .ttCtrl | .ttStatus
  | .cringBase _ | .cringCtrl _ | .cringPtr _ | .speasStatus _ | .coreRemap _ | .wringBase _ _
  | .wringCtrl _ _ | .wringPtr _ _ | .sqCtrl | .sqStoreBase | .sqStoreLimit | .sqStatus | .sqSealCtrl
  | .sqSealStatus | .sqDigestCtrl | .sqDigestStatus | .sqDigestGroup _ | .stashInlayLimit
  | .stashSpillBase | .stashSpillLimit | .stashReserve | .stashCtrl | .stashStatus | .stashUse => .bench
  | .netRouteCtrl | .netThrottle | .netStreamCtrl | .netSqBase _ | .netSqCtrl _ | .netSqPtr _
  | .portStatus _ | .portLaneMap _ | .portJig _ | .portPeer _ | .portFec _ | .portDiscard _
  | .ethStatus _ | .ethRdma _ => .router
  | .memDrwCarve | .memPoisonLog | .memErrCount | .memCalCtrl | .memCalStatus | .memScrubCtrl => .memory
  | .cdId _ => .die
  | .coreTiles _ | .coreNumFlags _ => .core
  | _ => .cold

/-- Bits `lo` up to `lo + n − 1`. -/
def maskAt (lo n : Nat) : Nat := (2 ^ n - 1) <<< lo

/-- Bits that software sets: fields of access RW and RWL (R10). -/
def Reg.writable : Reg → Word
  | .resetCtrl => word (maskAt 0 64)
  | .hangCtrl => word (maskAt 0 24 + maskAt 32 3)
  | .noticeCtrl => word (maskAt 0 7 + maskAt 16 16)
  | .noticeAddr _ => word (maskAt 0 64)
  | .cmdCtrl => word (maskAt 0 16)
  | .pwrCapModule => word (maskAt 0 16)
  | .pwrThermal => word (maskAt 0 15)
  | .pwrCapDie _ => word (maskAt 0 8)
  | .ftCtrl => word (maskAt 0 36)
  | .ftEpoch => word (maskAt 0 48)
  | .ttCtrl => word (maskAt 0 1 + maskAt 16 16)
  | .netChip => word (maskAt 0 17)
  | .netGeometry => word (maskAt 0 48)
  | .netRouteCtrl => word (maskAt 0 14)
  | .netThrottle => word (maskAt 0 41)
  | .netStreamCtrl => word (maskAt 0 18)
  | .netBridge _ => word (maskAt 0 15)
  | .netSqBase _ => word (maskAt 6 42)
  | .netSqCtrl _ => word (maskAt 0 7)
  | .netSqPtr _ => word (maskAt 32 32)
  | .cringBase _ => word (maskAt 5 43)
  | .cringCtrl _ => word (maskAt 0 6)
  | .cringPtr _ => word (maskAt 32 32)
  | .destEntry _ => word (maskAt 0 35 + maskAt 36 13)
  | .portJig _ => word (maskAt 0 33)
  | .portAdmit _ => word (maskAt 0 23)
  | .ethRdma _ => word (maskAt 0 22)
  | .memMap => word (maskAt 0 5)
  | .memDrwCarve => word (maskAt 0 6 + maskAt 8 3)
  | .memCalCtrl => word (maskAt 0 17)
  | .memScrubCtrl => word (maskAt 0 1 + maskAt 8 16)
  | .wringBase _ _ => word (maskAt 6 42)
  | .wringCtrl _ _ => word (maskAt 0 5 + maskAt 8 14 + maskAt 24 5)
  | .wringPtr _ _ => word (maskAt 32 32)
  | .sqCtrl => word (maskAt 0 9)
  | .sqStoreBase => word (maskAt 12 36)
  | .sqStoreLimit => word (maskAt 0 28)
  | .sqSealCtrl => word (maskAt 0 56)
  | .sqDigestCtrl => word (maskAt 0 23 + maskAt 24 16)
  | .sqDigestGroup _ => word (maskAt 0 17)
  | .stashInlayLimit => word (maskAt 0 21)
  | .stashSpillBase => word (maskAt 12 36)
  | .stashSpillLimit => word (maskAt 0 28)
  | .stashReserve => word (maskAt 0 21)
  | .stashCtrl => word (maskAt 0 17)
  | .veneerBase _ => word (maskAt 12 36)
  | .veneerSize => word (maskAt 0 56)
  | .retainCtrl => word (maskAt 0 30)
  | .inputBase _ => word (maskAt 12 36)
  | .twinMirrorSize => word (maskAt 0 56)
  | .twinMirrorBase _ => word (maskAt 12 36)
  | .ckptCtrl => word (maskAt 0 1 + maskAt 8 16)
  | .ckptTarget _ => word (maskAt 0 14 + maskAt 16 8 + maskAt 40 24)
  | .trcCtrl => word (maskAt 0 2)
  | _ => 0

/-- Bits of access RWL (R10): refused with BUSY while a step is open. -/
def Reg.rwl : Reg → Word
  | .netStreamCtrl => word (maskAt 0 18)
  | .netSqBase _ => word (maskAt 6 42)
  | .netSqCtrl _ => word (maskAt 0 7)
  | .cringBase _ => word (maskAt 5 43)
  | .cringCtrl _ => word (maskAt 0 6)
  | .ethRdma _ => word (maskAt 0 22)
  | .memDrwCarve => word (maskAt 0 6 + maskAt 8 3)
  | .wringBase _ _ => word (maskAt 6 42)
  | .wringCtrl _ _ => word (maskAt 0 5 + maskAt 8 14 + maskAt 24 5)
  | .sqCtrl => word (maskAt 0 9)
  | .sqStoreBase => word (maskAt 12 36)
  | .sqStoreLimit => word (maskAt 0 28)
  | .sqSealCtrl => word (maskAt 0 56)
  | .sqDigestCtrl => word (maskAt 0 23 + maskAt 24 16)
  | .sqDigestGroup _ => word (maskAt 0 17)
  | .stashInlayLimit => word (maskAt 0 21)
  | .stashSpillBase => word (maskAt 12 36)
  | .stashSpillLimit => word (maskAt 0 28)
  | .stashReserve => word (maskAt 0 21)
  | .stashCtrl => word (maskAt 0 17)
  | .veneerBase _ => word (maskAt 12 36)
  | .veneerSize => word (maskAt 0 56)
  | .retainCtrl => word (maskAt 0 30)
  | .inputBase _ => word (maskAt 12 36)
  | .twinMirrorSize => word (maskAt 0 56)
  | .twinMirrorBase _ => word (maskAt 12 36)
  | .ckptCtrl => word (maskAt 8 16)
  | .ckptTarget _ => word (maskAt 0 14 + maskAt 16 8 + maskAt 40 24)
  | _ => 0

/-- Bits of access RW1C (R10): a written 1 clears the bit. -/
def Reg.w1c : Reg → Word
  | .ftStatus => word (maskAt 12 1)
  | .netSqCtrl _ => word (maskAt 8 1)
  | .memPoisonLog => word (maskAt 63 1)
  | .memCalStatus => word (maskAt 0 3)
  | .coreNumFlags _ => word (maskAt 0 6)
  | .wringCtrl _ _ => word (maskAt 29 1)
  | _ => 0

/-- Reset value of the bits the bank holds. -/
def Reg.reset : Reg → Word
  | .resetCtrl => word (100 + 200 <<< 16 + 1000 <<< 32 + 2000 <<< 48)
  | .hangCtrl => word (10 + 2 <<< 8 + 1 <<< 16 + 7 <<< 32)
  | .cmdCtrl => 10
  | .pwrCapModule => 3800
  | .pwrThermal => word (100 + 4 <<< 8)
  | .ftCtrl => word (50 <<< 12 + 10000 <<< 20)
  | .ttCtrl => word (1000 <<< 16)
  | .netRouteCtrl => word (50 + 12 <<< 10)
  | .netThrottle => word (48 + 96 <<< 8 + 144 <<< 16 + 4 <<< 24 + 8 <<< 32 + 1 <<< 40)
  | .netStreamCtrl => word (200 + 2 <<< 14)
  | .netSqCtrl _ => 4
  | .cringCtrl _ => 4
  | .portJig n => word (250 + (15 * n) <<< 16 + 1 <<< 32)
  | .ethRdma _ => word (400 + 7 <<< 14 + 1 <<< 17 + 3 <<< 18 + 1 <<< 21)
  | .memDrwCarve => word (0x0F + 1 <<< 8)
  | .memCalCtrl => word (200 + 100 <<< 8 + 1 <<< 16)
  | .memScrubCtrl => word (1 + 1 <<< 8 + 24 <<< 16)
  | .wringCtrl _ _ => 4
  | .sqCtrl => 4
  | .sqSealCtrl => word (3 + 200 <<< 16 + 3 <<< 32 + 5 <<< 40)
  | .sqDigestCtrl => word (100 + 1 <<< 19 + 1000 <<< 24)
  | .retainCtrl => 1
  | .trcCtrl => 1
  | _ => 0

/-- Replace the `n` bits from `lo` by a function of their value. -/
def mapField (w : Word) (lo n : Nat) (f : Nat → Nat) : Word :=
  blend (word (maskAt lo n)) (word (place (f (field w lo n)) lo n)) w

/-- `v` moved into the range `lo` to `hi`. -/
def clampTo (lo hi v : Nat) : Nat := if v < lo then lo else if hi < v then hi else v

/-- `v` if it lies in the range, else `d`. -/
def inRangeOr (lo hi d v : Nat) : Nat := if lo ≤ v ∧ v ≤ hi then v else d

/-- What a written value reads as and acts as, where a register's description names such values. -/
def Reg.norm (r : Reg) (w : Word) : Word :=
  match r with
  | .resetCtrl =>
    mapField (mapField (mapField (mapField w 0 16 (max 10)) 16 16 (max 10)) 32 16 (max 10)) 48 16 (max 10)
  | .hangCtrl => mapField (mapField (mapField w 0 8 (max 1)) 8 8 (max 1)) 16 8 (max 1)
  | .cmdCtrl => mapField w 0 16 (max 1)
  | .pwrThermal => mapField (mapField w 0 8 (clampTo 70 115)) 8 7 (clampTo 1 64)
  | .ftCtrl => mapField w 1 3 (inRangeOr 0 5 0)
  | .ttCtrl => mapField w 16 16 (max 100)
  | .netRouteCtrl => mapField (mapField w 0 10 (clampTo 1 1000)) 10 4 (max 1)
  | .netThrottle => mapField (mapField w 24 8 (max 1)) 32 8 (max 1)
  | .netStreamCtrl => mapField w 0 14 (clampTo 1 10000)
  | .netSqCtrl _ => mapField w 0 5 (inRangeOr 4 12 4)
  | .cringCtrl _ => mapField w 0 5 (inRangeOr 4 20 4)
  | .portJig _ => mapField w 0 16 (max 10)
  | .ethRdma _ => mapField w 0 14 (clampTo 10 10000)
  | .memMap => mapField w 0 5 (min 24)
  | .memDrwCarve => mapField w 8 3 (inRangeOr 1 4 1)
  | .memCalCtrl => mapField (mapField w 0 8 (max 50)) 8 8 (max 20)
  | .memScrubCtrl => mapField (mapField w 8 8 (max 1)) 16 8 (max 1)
  | .wringCtrl _ _ => mapField w 0 5 (inRangeOr 4 16 4)
  | .sqCtrl => mapField w 0 9 (min 256)
  | .sqSealCtrl => mapField (mapField (mapField w 0 16 (max 1)) 32 8 (max 1)) 40 16 (max 1)
  | .sqDigestCtrl => mapField w 19 4 (clampTo 1 8)
  | .retainCtrl => mapField w 0 2 (inRangeOr 1 2 1)
  | _ => w

/-- Reset value of the bank at an address. -/
def bankDefault (a : Nat) : Word :=
  match Reg.ofAddr a with
  | some r => r.reset
  | none => 0

/-- The bank's bits of a register: what software last wrote and the RW1C bits hardware has set. -/
def State.reg (s : State) (r : Reg) : Word := tabGet r.reset s.regs r.addr

/-- Store the bank's bits of a register. -/
def State.setReg (s : State) (r : Reg) (w : Word) : State :=
  { s with regs := tabSet r.reset s.regs r.addr w }

/-- A field of a register's bank bits. -/
def State.rf (s : State) (r : Reg) (lo n : Nat) : Nat := field (s.reg r) lo n

/-- A single bank bit of a register. -/
def State.rbit (s : State) (r : Reg) (i : Nat) : Bool := s.rf r i 1 == 1

/-- Hardware sets bits of a register. -/
def State.setBits (s : State) (r : Reg) (mask : Word) : State := s.setReg r (s.reg r ||| mask)

/-- Return every bank register that `p` names to its reset value (R13). -/
def State.dropRegs (s : State) (p : Reg → Bool) : State :=
  { s with regs := s.regs.filter (fun e => match Reg.ofAddr e.1 with | some r => !p r | none => true) }

end Sys2Proof.Machine
end

