-- ==== Sys2Proof/Machine/Events.lean ====
section
/-! DEFINITION. Counters, trace entries, Speas transmission, the Scribe's records, replies, events and
fault notices (R233, R418, R419, R445 to R452, R479 to R482, R520 to R527). -/

namespace Sys2Proof.Machine

/-! ### Counters and trace -/

/-- Add `n` to the counter of an index (R521). -/
def State.count (s : State) (i n : Nat) : State :=
  { s with obs := { s.obs with counters := tabMod 0 s.obs.counters i (· + word n) } }

/-- Entries of a ring by ring number (R524). -/
def traceSize (ring : Nat) : Nat :=
  if ring < 384 then 256 else if ring < 1920 then 64 else if ring < 1944 then 128 else 1024

/-- Ring number of the Bench ring (R524). -/
def benchRing : Nat := 1944

/-- Write a trace entry (R525, R526) if the ring is ON. -/
def State.trace (s : State) (ring code a b : Nat) : State :=
  s.withComms <|
  let r := tabGet traceRingReset s.obs.rings ring
  if r.state = 1 then
    let e := le 4 s.ft.toNat ++ le 2 code ++ le 2 a ++ le 8 b
    let r' := { r with entries := (e :: r.entries).take (traceSize ring), written := r.written + 1 }
    { s with obs := { s.obs with rings := tabSet traceRingReset s.obs.rings ring r' } }
  else s

/-- Freeze a ring that is ON (R527). -/
def State.freezeRing (s : State) (ring : Nat) : State :=
  s.withComms <|
  let r := tabGet traceRingReset s.obs.rings ring
  if r.state = 1 then
    { s with obs := { s.obs with rings := tabSet traceRingReset s.obs.rings ring { r with state := 2 } } }
  else s

/-- Freeze every ring that is ON (R527). -/
def State.freezeAllRings (s : State) : State :=
  { s with obs := { s.obs with
      rings := s.obs.rings.map fun e => (e.1, if e.2.state = 1 then { e.2 with state := 2 } else e.2) } }

/-! ### Speas transmission -/

/-- Speas port state. -/
def State.sp (s : State) (port : Nat) : SpeasPort := tabGet speasPortReset s.speas port

/-- Replace a Speas port's state. -/
def State.setSp (s : State) (port : Nat) (p : SpeasPort) : State :=
  { s with speas := tabSet speasPortReset s.speas port p }

/-- The bytes of a Speas frame (R233). -/
def frameBytes (kind flags : Nat) (payload : List Byte) (seq ack : BitVec 32) (control arg : Nat) :
    List Byte :=
  let b := le 1 kind ++ le 1 flags ++ le 2 payload.length ++ le 4 seq.toNat ++ le 4 ack.toNat ++
    le 1 control ++ le 1 arg ++ le 2 0 ++ payload
  b ++ le 4 (crc32c b)

/-- Wavelengths that carry the link (R232). -/
def SpeasPort.waves (p : SpeasPort) : List Nat := [0, 1, 2].filter (fun w => p.active.getLsbD w)

/-- Put one frame on a wavelength: frames alternate between the two active ones (R233). Nothing leaves a link that is
down. While a rotation mirrors a wavelength, its frames are copied on the spare (R235). -/
def State.putFrame (s : State) (port kind flags : Nat) (payload : List Byte) (seq : BitVec 32)
    (control arg : Nat) : State :=
  let p := s.sp port
  match p.waves with
  | [] => s
  | w :: ws =>
    if p.linkUp then
      let wave := if p.second then ws.headD w else w
      let bs := frameBytes kind flags payload seq (p.rxNext - 1) control arg
      let s := ((s.setSp port { p with second := !p.second }).send (.speasFrame port wave bs)).count (1202 + 3 * port) bs.length
      match p.rotating with
      | some (rw, .mirrorSent) =>
        match [0, 1, 2].find? (fun x => !p.active.getLsbD x && !p.failed.getLsbD x) with
        | some spare => if rw = wave then s.send (.speasFrame port spare bs) else s
        | none => s
      | _ => s
    else s

/-- Payloads of at most 4,096 bytes (R233); the count bounds the recursion. -/
def chunks : Nat → List Byte → List (List Byte)
  | 0, _ => []
  | n + 1, bs => if bs.length ≤ 4096 then [bs] else bs.take 4096 :: chunks n (bs.drop 4096)

/-- Queue one data frame and send it if the window of 512 frames has room (R234). -/
def State.queueFrame (s : State) (port flags : Nat) (payload : List Byte) : State :=
  let p := s.sp port
  let room := p.txUnacked.length < 512
  let seq := p.txNext
  let p' := { p with txNext := p.txNext + 1, txUnacked := p.txUnacked ++ [(seq, flags, payload)],
                     progressAt := if p.txUnacked.isEmpty then s.now else p.progressAt }
  let s := s.setSp port p'
  if room then s.putFrame port 0 flags payload seq 0 0 else s

/-- Queue the frames of one packet, the first flagged first and the last flagged last (R416). -/
def State.queueFrames (s : State) (port : Nat) : (first : Bool) → List (List Byte) → State
  | _, [] => s
  | f, [c] => s.queueFrame port ((if f then 1 else 0) + 2) c
  | f, c :: d :: r => (s.queueFrame port (if f then 1 else 0) c).queueFrames port false (d :: r)

/-- Send a packet on a Speas port that is up. -/
def State.sendPacket (s : State) (port : Nat) (bs : List Byte) : State :=
  s.withComms (if (s.sp port).linkUp then s.queueFrames port true (chunks 17 bs) else s)

/-! ### Sessions -/

/-- The open session of an ID. -/
def State.session (s : State) (id : Nat) : Option Session := s.cmds.sessions.find? (·.id == id)

/-- Replace a session. -/
def State.setSession (s : State) (x : Session) : State :=
  { s with cmds := { s.cmds with sessions := s.cmds.sessions.map fun y => if y.id = x.id then x else y } }

/-- ASCII bytes of a label. -/
def ascii (t : String) : List Byte := t.toList.map fun c => BitVec.ofNat 8 c.toNat

/-- A KMAC256 tag of 32 bytes (R504). -/
def knaberTag (key bs : List Byte) : List Byte := exactly 32 (Config.kmac256 key bs (ascii "KNABER"))

/-- Tag and send a packet of a session on the port it was opened on (R416, R504), counting it (R505). -/
def State.sendTagged (s : State) (x : Session) (bs : List Byte) : State :=
  (s.setSession { x with tagged := x.tagged + 1 }).sendPacket x.port (bs ++ knaberTag x.keyMc bs)

/-! ### The Scribe -/

/-- Size of the journal ring (R447). -/
def ringSize : Nat := 0x8000000 - 0x1100000

/-- Bytes a record takes in the ring (R448). -/
def recSize (stored : Nat) : Nat := roundUp (64 + stored + 4) 64

/-- Bytes in use: from the oldest record the active snapshot does not cover to the write position (R450). -/
def Journal.occupancy (j : Journal) : Nat :=
  match j.ring with
  | [] => 0
  | r :: _ => (j.writePos + ringSize - r.offset) % ringSize

/-- Pad bytes that a record of `n` bytes needs before it: none record crosses the end (R449). -/
def Journal.padFor (j : Journal) (n : Nat) : Nat :=
  if j.writePos + n ≤ ringSize then 0 else ringSize - j.writePos

/-- A record of `stored` parameter bytes fits under R451. -/
def Journal.fits (j : Journal) (stored : Nat) : Bool :=
  decide (j.occupancy + j.padFor (recSize stored) + recSize stored < ringSize)

/-- A pad record (R449). -/
def Journal.padRec (j : Journal) : JRec :=
  { seq := j.nextSeq - 1, ft := 0, session := 0, opcode := 0, kind := .pad, truncated := false,
    long := false, notBeforeFlag := false, portB := false, closedAtRecovery := false, cmdSeq := 0,
    status := 0, total := 0, concerns := 0, notBeforeFt := 0, principal := 0, params := [],
    offset := j.writePos }

/-- Write a record that fits, numbering and placing it (R449). -/
def Journal.append (j : Journal) (r : JRec) : Journal :=
  let n := recSize r.params.length
  let pad := j.padFor n
  let ring := if pad = 0 then j.ring else j.ring ++ [j.padRec]
  let pos := if pad = 0 then j.writePos else 0
  { j with ring := ring ++ [{ r with seq := j.nextSeq, offset := pos }], nextSeq := j.nextSeq + 1,
           writePos := (pos + n) % ringSize,
           lastAccepted := if r.kind = .command then j.nextSeq else j.lastAccepted,
           lastCompleted := if r.kind = .outcome then j.nextSeq else j.lastCompleted,
           ringFull := false }

/-- At 75 % occupancy the Scribe starts a compaction that covers the last sequence written (R450, R452). -/
def Journal.startIfDue (j : Journal) : Journal :=
  if j.compacting.isNone ∧ ringSize * 3 ≤ j.occupancy * 4 then
    { j with compacting := some (j.nextSeq - 1, []) }
  else j

/-- Write a record that fits (R449, R450). -/
def State.journalWrite (s : State) (r : JRec) : State :=
  { s with journal := (s.journal.append { r with ft := s.ft }).startIfDue }

/-- The record of an event (R448, kind 2). -/
def eventRec (e : Event) : JRec :=
  { seq := 0, ft := 0, session := e.toSession.getD 0, opcode := e.code, kind := .event,
    truncated := decide (4096 < e.body.length), long := false, notBeforeFlag := false, portB := false,
    closedAtRecovery := false, cmdSeq := e.related, status := BitVec.ofNat 16 e.status.code,
    total := e.body.length, concerns := e.concerns, notBeforeFt := 0, principal := 0,
    params := e.body.take 4096, offset := 0 }

/-! ### Delivery of events -/

/-- The Bench is out of its reset and powered (R462, R545). -/
def State.benchUp (s : State) : Bool :=
  s.power.rails == .on && !s.resets.any (fun r => r.domain == .bench || r.domain == .cold)

/-- The bytes of an event packet before its tag (R419), with the session it goes to. -/
def eventBytes (session jseq : Nat) (ft : Word) (e : Event) : List Byte :=
  let body := padTo (roundUp e.body.length 8) e.body
  le 2 0x5A79 ++ le 1 0x01 ++ le 1 (if e.cls = .fault then 1 else 0) ++ le 2 e.code ++
    le 2 (body.length / 8) ++ le 8 jseq ++ le 4 session ++ le 2 e.status.code ++ le 2 0 ++
    le 8 ft.toNat ++ le 8 e.related.toNat ++ body

/-- Send an event to one session. -/
def State.eventTo (s : State) (jseq : Nat) (ft : Word) (e : Event) (x : Session) : State :=
  (s.send (.event x.port x.id jseq ft e)).sendTagged x (eventBytes x.id jseq ft e)

/-- Sessions that are open: confirmed under R505. -/
def State.openSessions (s : State) : List Session := s.cmds.sessions.filter (·.confirmed)

/-- The owner session. -/
def State.ownerSession (s : State) : Option Session := s.cmds.owner.bind s.session

/-- Who receives an event (R445). -/
def State.recipients (s : State) (e : Event) : List Session :=
  match e.cls with
  | .fault => s.openSessions
  | _ =>
    match e.toSession with
    | some id =>
      match s.openSessions.find? (·.id == id) with
      | some x => [x]
      | none => s.ownerSession.toList
    | none =>
      match s.ownerSession with
      | some x => [x]
      | none => s.openSessions

/-- UDP notices leave on E0 when enabled, the link is up and the notice key is installed (R479, R480,
R509). -/
def State.udpPath (s : State) : Bool :=
  s.rbit .noticeCtrl 0 && (tabGet ethPortReset s.eths 0).linkUp && s.security.noticeKey.isSome

/-- Frame bytes of what leaves on E0 as a datagram (R521; PRESUMED from UDP over IPv6, or IPv4 where the address is mapped, assumption
log 13). -/
def Output.frameBytes : Output → Nat
  | .udpNotice _ _ lo hi bs => 14 + (if lo = 0 ∧ hi.toNat % 2 ^ 32 = 0xFFFF0000 then 20 else 40) + 8 + bs.length + 4
  | _ => 0

/-- Put a datagram on E0. -/
def State.putNotice (s : State) (o : Output) : State := (s.send o).count 1184 o.frameBytes

/-- Send a fault notice by UDP, with a second copy due (R480). -/
def State.sendUdp (s : State) (jseq : Nat) (ft : Word) (e : Event) : State :=
  let bs := eventBytes 0 jseq ft e
  let o := Output.udpNotice (s.rf .noticeCtrl 1 6) (s.rf .noticeCtrl 16 16) (s.reg (.noticeAddr 0))
    (s.reg (.noticeAddr 1)) (bs ++ exactly 32 (Config.kmac256 (s.security.noticeKey.getD []) bs (ascii "ZW24 NOTICE")))
  let s := s.putNotice o
  { s with notices := { s.notices with repeats := s.notices.repeats ++ [(o, s.now)] } }

/-- HELD set in a fault record (R481). -/
def heldBody (e : Event) : Event :=
  if e.code = 0x0002 then { e with body := setNth e.body 3 (nth 0 e.body 3 ||| 2) } else e

/-- Send an event that is already journaled (or carries journal sequence 0) to its recipients. A fault
notice with no path is held, at most 64 of them (R479). -/
def State.deliver (s : State) (jseq : Nat) (ft : Word) (e : Event) : State :=
  s.withComms <|
  let s1 := (s.recipients e).foldl (fun t x => t.eventTo jseq ft e x) s
  if e.cls = .fault then
    if s.udpPath then s1.sendUdp jseq ft e
    else if (s.recipients e).isEmpty then
      if s.notices.held.length < 64 then
        { s with notices := { s.notices with held := s.notices.held ++ [(jseq, ft, e)] } }
      else { s with notices := { s.notices with dropped := satAdd s.notices.dropped 1 } }
    else s1
  else s1

/-- Send the held notices in order once a path exists (R479). -/
def State.releaseHeld (s : State) : State :=
  s.withComms <|
  if s.udpPath || !s.openSessions.isEmpty then
    let h := s.notices.held
    h.foldl (fun t e => t.deliver e.1 e.2.1 (heldBody e.2.2))
      { s with notices := { s.notices with held := [] } }
  else s

/-- The outcome record of a command (R448, kind 1). -/
def outcomeRec (c : OpenCmd) (st : Status) (atRecovery : Bool) : JRec :=
  { seq := 0, ft := 0, session := c.session, opcode := c.opcode, kind := .outcome, truncated := false,
    long := c.long, notBeforeFlag := c.notBefore.isSome, portB := c.port == 1, closedAtRecovery := atRecovery,
    cmdSeq := word (c.epoch <<< 48 + c.number), status := BitVec.ofNat 16 st.code, total := 0, concerns := c.jseq,
    notBeforeFt := c.notBefore.getD 0, principal := c.principal, params := [], offset := 0 }

/-- Write a command's outcome record: the command is open no longer (R449). -/
def State.outcome (s : State) (c : OpenCmd) (st : Status) (atRecovery : Bool) : State :=
  let s := s.journalWrite (outcomeRec c st atRecovery)
  { s with cmds := { s.cmds with opened := s.cmds.opened.filter (·.jseq ≠ c.jseq) } }

/-- Before a closing event, the outcome record of its command, if still open (R449). -/
def State.settleFor (s : State) (e : Event) : State :=
  match if e.concerns = 0 then none else s.cmds.opened.find? (·.jseq == e.concerns) with
  | some c => s.outcome c e.status false
  | none => s

/-- The ring has room for what an event has to write first (R451). -/
def State.roomFor (s : State) (e : Event) : Bool :=
  (e.concerns == 0 || !(s.cmds.opened.any (·.jseq == e.concerns)) || s.journal.fits 0) &&
    (s.settleFor e).journal.fits (min 4096 e.body.length)

/-- Emit an event: journal it first (R445), after the outcome record of the command it closes (R449), unless
the ring is full, when it waits (R451). While the Bench is fenced or in reset a fault notice carries journal
sequence 0 and is journaled later (R479), and a closing event waits for the Bench (R453). -/
def State.emit (s : State) (e : Event) : State :=
  s.withComms <|
  if !s.benchUp then
    if e.cls = .fault then
      let s := { s with notices := { s.notices with unjournaled := s.notices.unjournaled ++ [e] } }
      s.deliver 0 s.ft e
    else if e.concerns ≠ 0 then
      { s with journal := { s.journal with waiting := s.journal.waiting ++ [e] } }
    else s
  else if s.journal.waiting.isEmpty ∧ s.roomFor e then
    let s := s.settleFor e
    (s.journalWrite (eventRec e)).deliver s.journal.nextSeq s.ft e
  else { s with journal := { s.journal with ringFull := true, waiting := s.journal.waiting ++ [e] } }

/-- Emit events that wait for ring space, in order (R451). -/
def State.emitWaiting (s : State) : State :=
  s.withComms <|
  let w := s.journal.waiting
  w.foldl (fun t e => t.emit e) { s with journal := { s.journal with waiting := [] } }

/-- An event that is no closing event. -/
def event (code : Nat) (cls : EventClass) (status : Status) (body : List Byte) : Event :=
  { code := code, cls := cls, status := status, body := body, related := 0, concerns := 0,
    toSession := none }

/-- Unit kinds of the fault record (R481). -/
inductive FaultUnit where
  | module | core (n : Nat) | cluster (n : Nat) | die (n : Nat) | port (n : Nat) | engine (n : Nat)
  | inlayChannel (n : Nat) | lpChannel (n : Nat) | lpDevice (n : Nat)
deriving DecidableEq, Repr

/-- Kind and number of the fault record. -/
def FaultUnit.code : FaultUnit → Nat × Nat
  | .module => (0, 0) | .core n => (1, n) | .cluster n => (2, n) | .die n => (3, n) | .port n => (4, n)
  | .engine n => (5, n) | .inlayChannel n => (6, n) | .lpChannel n => (7, n) | .lpDevice n => (8, n)

/-- The fault record (R481). -/
def State.faultBody (s : State) (code : Nat) (u : FaultUnit) (recovered : Bool) (a b : Nat) : List Byte :=
  le 2 code ++ le 1 u.code.1 ++ le 1 (if recovered then 1 else 0) ++ le 2 u.code.2 ++ le 2 0 ++
    le 8 s.ft.toNat ++ le 8 a ++ le 8 b ++ le 4 (s.rf .netChip 0 17) ++ le 4 s.fabric.partition.generation

/-- Send a FAULT event (R481, R482). -/
def State.fault (s : State) (code : Nat) (u : FaultUnit) (status : Status) (a b : Nat) : State :=
  s.emit (event 0x0002 .fault status (s.faultBody code u false a b))

/-- Send a FAULT event with RECOVERED set (R475). -/
def State.faultRecovered (s : State) (code : Nat) (u : FaultUnit) (status : Status) (a b : Nat) : State :=
  s.emit (event 0x0002 .fault status (s.faultBody code u true a b))

/-! ### Replies -/

/-- The bytes of a reply packet before its tag (R418). -/
def replyBytes (r : Reply) : List Byte :=
  let data := padTo (roundUp r.data.length 8) r.data
  le 2 0x5A78 ++ le 1 0x01 ++ le 1 ((if r.duplicate then 1 else 0) + (if r.pending then 2 else 0)) ++
    le 2 r.opcode ++ le 2 (data.length / 8) ++ le 8 r.seq.toNat ++ le 4 r.session ++
    le 2 r.status.code ++ le 2 0 ++ le 8 r.jseq ++ le 8 r.acceptFt.toNat ++ data

/-- Send a reply: tagged under the session key, with a zero tag for SESSION_INIT and for a session that is
no longer open (R503, R504). -/
def State.reply (s : State) (port : Nat) (r : Reply) : State :=
  s.withComms <|
  let s := s.send (.reply port r)
  match if r.opcode = 0x0001 then none else s.session r.session with
  | some x => s.sendTagged x (replyBytes r)
  | none => s.sendPacket port (replyBytes r ++ zeros 32)

end Sys2Proof.Machine
end

