-- ==== Sys2Proof/Machine/Memory.lean ====
section
/-! DEFINITION. Memory: the (144,128) code (R180 to R188), reading and writing bytes through it, the
Drawer cache (R172), the counters that transfers move (R521), and the checks on addresses (R15, R23,
R177). -/

namespace Sys2Proof.Machine

/-! ### The code over GF(16) -/

/-- Multiply by α modulo x⁴ + x + 1. -/
def gfTimes2 (a : Nat) : Nat := if a ≥ 8 then ((a <<< 1) ^^^ 0x13) % 16 else a <<< 1

/-- Product in GF(16). -/
def gfMul (a b : Nat) : Nat :=
  (if bits b 0 1 = 1 then a else 0) ^^^ (if bits b 1 1 = 1 then gfTimes2 a else 0) ^^^
    (if bits b 2 1 = 1 then gfTimes2 (gfTimes2 a) else 0) ^^^
    (if bits b 3 1 = 1 then gfTimes2 (gfTimes2 (gfTimes2 a)) else 0)

/-- Inverse in GF(16): a¹⁴. -/
def gfInv (a : Nat) : Nat :=
  let a2 := gfMul a a
  let a4 := gfMul a2 a2
  let a8 := gfMul a4 a4
  gfMul a8 (gfMul a4 a2)

/-- q(x1, x2) of R181; α³ is 8. -/
def gfQ (x1 x2 : Nat) : Nat := gfMul x1 x1 ^^^ gfMul x1 x2 ^^^ gfMul 8 (gfMul x2 x2)

/-- The point (x1, x2) of symbol `i` (R180, R181); symbol 32 is handled apart. -/
def symbolPoint (i : Nat) : Nat × Nat :=
  if i < 32 then (i % 16, i / 16 + 2) else if i = 34 then (1, 0) else if i = 35 then (0, 1) else (0, 0)

/-- Column h_i of the check matrix (R180). -/
def column (i : Nat) : Nat × Nat × Nat × Nat :=
  if i = 32 then (0, 0, 0, 1)
  else (1, (symbolPoint i).1, (symbolPoint i).2, gfQ (symbolPoint i).1 (symbolPoint i).2)

/-- Syndrome of a difference pattern: the sum of s_i × h_i over the 36 symbols (R180). -/
def syndrome (d : BitVec 144) : Nat × Nat × Nat × Nat :=
  (List.range 36).foldl (fun acc i =>
    let v := bits d.toNat (4 * i) 4
    let h := column i
    (acc.1 ^^^ gfMul v h.1, acc.2.1 ^^^ gfMul v h.2.1, acc.2.2.1 ^^^ gfMul v h.2.2.1,
      acc.2.2.2 ^^^ gfMul v h.2.2.2)) (0, 0, 0, 0)

/-- The check bits of 16 data bytes (R180): granule bits 143 to 128. -/
def checkBits (data : BitVec 128) : Nat :=
  let t := syndrome (data.zeroExtend 144)
  let s34 := t.2.1
  let s35 := t.2.2.1
  let s33 := t.1 ^^^ t.2.1 ^^^ t.2.2.1
  let s32 := t.2.2.2 ^^^ t.2.1 ^^^ gfMul 8 t.2.2.1
  s32 + 16 * s33 + 256 * s34 + 4096 * s35

/-- What the decoder finds (R181). -/
inductive Decoded where
  | clean
  | poisoned
  /-- One symbol corrected: its number and what is added to it. -/
  | corrected (symbol value : Nat)
  | uncorrectable
deriving DecidableEq, Repr

/-- The decoder (R181), on the difference from a codeword. -/
def decodeSyndrome (sy : Nat × Nat × Nat × Nat) : Decoded :=
  let (s0, s1, s2, s3) := sy
  if s0 = 0 ∧ s1 = 0 ∧ s2 = 0 ∧ s3 = 0 then .clean
  else if s0 = 0 ∧ s1 = 1 ∧ s2 = 0 ∧ s3 = 0 then .poisoned
  else if s0 = 0 ∧ s1 = 0 ∧ s2 = 0 then .corrected 32 s3
  else if s0 = 0 then .uncorrectable
  else
    let v := gfInv s0
    let x1 := gfMul s1 v
    let x2 := gfMul s2 v
    if gfMul s3 v = gfQ x1 x2 then
      match firstBelow 36 (fun i => i ≠ 32 && symbolPoint i == (x1, x2)) with
      | some i => .corrected i s0
      | none => .uncorrectable
    else .uncorrectable

/-- The difference pattern of a poisoned granule: bits 128, 132 and 136 (R184). -/
def poisonPattern : BitVec 144 := (0x111 : BitVec 144) <<< 128

/-! ### Granules -/

/-- The granule that holds a byte. -/
def granule (a : Nat) : Nat := a / 16 * 16

/-- The granules that `n` bytes from `a` touch, in rising order. -/
def granulesOf (a n : Nat) : List Nat :=
  if n = 0 then [] else upFrom (a / 16) ((a + n - 1) / 16 - a / 16 + 1) |>.map (· * 16)

/-- A byte of memory. -/
def State.byte (s : State) (a : Nat) : Byte := tabGet 0 s.mem.bytes a

/-- `n` bytes of memory from `a`, as stored. -/
def State.bytesAt (s : State) (a n : Nat) : List Byte := (List.range n).map fun i => s.byte (a + i)

/-- Write one byte of memory. -/
def Memory.setByte (m : Memory) (a : Nat) (b : Byte) : Memory := { m with bytes := tabSet 0 m.bytes a b }

/-- Write bytes of memory from `a` up. -/
def Memory.setBytes : Memory → Nat → List Byte → Memory
  | m, _, [] => m
  | m, a, b :: r => (m.setByte a b).setBytes (a + 1) r

/-- Difference pattern of a granule. -/
def Memory.diff (m : Memory) (g : Nat) : BitVec 144 := tabGet 0 m.errors g

/-- Set the difference pattern of a granule. -/
def Memory.setDiff (m : Memory) (g : Nat) (d : BitVec 144) : Memory := { m with errors := tabSet 0 m.errors g d }

/-- The granule is poisoned, in its store or as it reached the command under way. -/
def Memory.isPoisoned (m : Memory) (g : Nat) : Bool :=
  decodeSyndrome (syndrome (m.diff g)) == .poisoned || m.delivered.contains g

/-- Make the granule poisoned, keeping its data (R184). -/
def Memory.poison (m : Memory) (g : Nat) : Memory := m.setDiff g poisonPattern

/-- Flip the data bits of a granule that a pattern names. -/
def Memory.flip (m : Memory) (g : Nat) (d : BitVec 144) : Memory :=
  m.setBytes g ((List.range 16).map fun i => tabGet 0 m.bytes (g + i) ^^^ BitVec.ofNat 8 (bits d.toNat (8 * i) 8))

/-- Bit errors of a command: those of stored granules are added to their difference patterns, the others wait for the read that
meets them. -/
def Memory.hit (m : Memory) : BitErrors → Memory
  | [] => m
  | (.store, a, e) :: r => (m.setDiff (granule a) (m.diff (granule a) ^^^ e)).hit r
  | (.transit, a, e) :: r => { m with inflight := m.inflight ++ [(HitPlace.transit, granule a, e)] }.hit r
  | h :: r => { m with inflight := m.inflight ++ [h] }.hit r

/-- `s` with memory, and what reporting on it changes, taken from `t`; everything else is `s`'s. -/
def State.withMem (s t : State) : State := { s.withComms t with mem := t.mem, regs := t.regs }

/-- Fresh bit errors of a command's operand reach the store. -/
def State.hit (s : State) (errs : BitErrors) : State := { s with mem := s.mem.hit errs }

/-- The command under way has ended: what it met in transit is over. -/
def State.unhit (s : State) : State := { s with mem := { s.mem with inflight := [], delivered := [] } }

/-! ### The Drawer cache and the counters -/

/-- Site of a compute die (R8, R16). -/
def siteOf (die : Nat) : Nat := if die < 12 then die else die + 1

/-- Router stops that a transfer leaves on a mesh link: along the row, then along the column (R18). -/
def meshPath (src dst : Nat) : List Nat :=
  let r := src / 5; let c := src % 5; let dr := dst / 5; let dc := dst % 5
  let row := if c ≤ dc then upFrom c (dc - c) else (upFrom (dc + 1) (c - dc)).reverse
  let col := if r ≤ dr then upFrom r (dr - r) else (upFrom (dr + 1) (r - dr)).reverse
  (row.map fun x => r * 5 + x) ++ (col.map fun y => y * 5 + dc)

/-- What crosses the mesh, by the rows of R17. -/
inductive Traffic where
  /-- A memory request or response. -/
  | memory (address : Nat)
  /-- A cell of a stream. -/
  | stream (id : Nat)
  /-- Control, time and verdict traffic. -/
  | control
  /-- Management traffic and register access. -/
  | management
deriving DecidableEq, Repr

/-- The plane that the source router stop selects (R17). -/
def Traffic.plane : Traffic → Nat
  | .memory a => bits a 8 2
  | .stream id => id % 4
  | .control => 0
  | .management => 1

/-- Count `n` bytes that cross the mesh on a plane (R17, R521). -/
def State.countMesh (s : State) (src dst plane n : Nat) : State :=
  (meshPath src dst).foldl (fun t st => t.count (916 + 4 * st + plane) n) s

/-- Who moves data. -/
inductive Requester where
  /-- A core's copy port, engines or row unit. -/
  | core (c : Nat)
  /-- The Bench: memory commands. -/
  | bench
  /-- A memory engine, digest engine, port or controller of the Carcass. -/
  | carcass
  /-- A collective engine, by edge (R20, R270), for a stream. -/
  | stream (edge id : Nat)
deriving DecidableEq, Repr

/-- Site that a requester's data goes to or comes from. -/
def Requester.site : Requester → Nat
  | .core c => siteOf (c / 16)
  | .bench => 12
  | .carcass => Config.memoryEngineSite % 25
  | .stream e _ => Config.edgeSite e % 25

/-- The traffic that a requester's access to an address is (R17). -/
def Requester.traffic (r : Requester) (a : Nat) : Traffic := match r with | .stream _ id => .stream id | _ => .memory a

/-- Cache ways of a Drawer slice (R173, R196): 24 less long-haul pairs and reassembly ways. -/
def State.cacheWays (s : State) : Nat :=
  let lh := ((List.range 6).filter fun i => s.rbit .memDrwCarve i).length
  24 - 2 * lh - s.rf .memDrwCarve 8 3

/-- Look a 256-byte line up in its Drawer set: whether it hit, whether a dirty line was evicted, and the
set after the access, most recently used first (R172). -/
def drawerAccess (ways : Nat) (set : DrawerSet) (line : Nat) (write : Bool) : Bool × Bool × DrawerSet :=
  match set.lines.find? (·.1 == line) with
  | some (_, d) => (true, false, ⟨(line, d || write) :: set.lines.filter (·.1 ≠ line)⟩)
  | none =>
    let full := set.lines.take ways
    let kept := full.take (ways - 1)
    let evictDirty := (full.drop (ways - 1)).any (·.2)
    (false, evictDirty, ⟨(line, write) :: kept⟩)

/-- Account for an access to one LPDDR6 line: the Drawer set, hit counters and device traffic (R172, R521). -/
def State.touchLine (s : State) (m l n : Nat) (write whole : Bool) : State :=
  let key := m * 8192 + drawerSet l
  let res := drawerAccess s.cacheWays (tabGet ⟨[]⟩ s.mem.drawers key) (l / 256) write
  let hit := res.1
  let evict := res.2.1
  let set := res.2.2
  let s := { s with mem := { s.mem with drawers := tabSet ⟨[]⟩ s.mem.drawers key set } }
  let s := if hit then (s.count (1016 + 3 * m) 1).count (1017 + 3 * m) n else s.count (1018 + 3 * m) n
  let s := if evict then s.count (1089 + 2 * m) 256 else s
  if !hit && !(write && whole) then s.count (1088 + 2 * m) 256 else s

/-- Count a transfer of `n` bytes of one granule-aligned piece at `a` (R521). -/
def State.countMove (s : State) (r : Requester) (a n : Nat) (write : Bool) : State :=
  let plane := (r.traffic a).plane
  let far (home : Nat) (t : State) : State :=
    if write then t.countMesh r.site home plane n else t.countMesh home r.site plane n
  let dove (die : Nat) (toCarcass : Bool) (t : State) : State :=
    t.count (820 + 4 * die + (if toCarcass then 0 else 1)) n
  let own (t : State) : State := match r with | .core c => dove (c / 16) write t | _ => t
  match regionOf a with
  | .tray =>
    let c := trayCore a
    let s := s.count (4 + 2 * c + (if write then 1 else 0)) n
    if r = .core c then s else own (far (siteOf (c / 16)) (dove (c / 16) (!write) s))
  | .inlay =>
    let d := inlayDie a
    let s := s.count (772 + 2 * d + (if write then 1 else 0)) n
    match r with
    | .core c => if c / 16 = d then s else own (far (siteOf d) (dove d (!write) s))
    | _ => far (siteOf d) (dove d (!write) s)
  | .lpddr6 =>
    let res := lpddr6Map s.mem.homeGib a
    let m := res.1
    match r with
    | .core c =>
      if c / 16 = m then s.count (820 + 4 * m + (if write then 2 else 3)) n
      else own (far (siteOf m) s)
    | _ => far (siteOf m) s
  | _ => s

/-- Account for an access of `n` bytes at `a`: counters by granule, Drawer lines by line. -/
def State.account (s : State) (r : Requester) (a n : Nat) (write : Bool) : State :=
  let s := (granulesOf a n).foldl (fun t g =>
    t.countMove r g (min (a + n) (g + 16) - max a g) write) s
  if regionOf a = .lpddr6 ∧ 0 < n then
    (upFrom (a / 256) ((a + n - 1) / 256 - a / 256 + 1)).foldl (fun t k =>
      let res := lpddr6Map t.mem.homeGib (k * 256)
      let m := res.1
      let l := res.2
      let lo := max a (k * 256)
      let hi := min (a + n) (k * 256 + 256)
      t.touchLine m l (hi - lo) write (decide (hi - lo = 256))) s
  else s

/-- Granules of a list of device addresses, rising. -/
def granuleSet (as : List Nat) : List Nat :=
  (as.foldl (fun (t : List (Nat × Bool)) a => tabPut t (granule a) true) []).map (·.1)

/-- Account for an op that moves these bytes: counters by granule, Drawer requests by 256-byte line, so that a line written whole
is no partial write (R158, R172, R521). -/
def State.accountBytes (s : State) (r : Requester) (as : List Nat) (write : Bool) : State :=
  let gs := (granuleSet as).map fun g => (g, ((List.range 16).filter fun i => as.contains (g + i)).length)
  let s := gs.foldl (fun t g => t.countMove r g.1 g.2 write) s
  let ls := (gs.filter fun g => regionOf g.1 == .lpddr6).foldl
    (fun (t : List (Nat × Nat)) g => tabPut t (g.1 / 256) ((tabFind t (g.1 / 256)).getD 0 + g.2)) []
  ls.foldl (fun t l =>
    let at_ := lpddr6Map t.mem.homeGib (l.1 * 256)
    t.touchLine at_.1 at_.2 l.2 write (decide (l.2 = 256))) s

/-! ### Reading through the code -/

/-- Medium codes of R197. -/
def State.mediumOf (s : State) (a : Nat) : Nat :=
  match regionOf a with
  | .tray => 0
  | .inlay => 1
  | _ =>
    let res := lpddr6Map s.mem.homeGib a
    let m := res.1
    let l := res.2
    if ((tabGet (⟨[]⟩ : DrawerSet) s.mem.drawers (m * 8192 + drawerSet l)).lines.any (·.1 == l / 256)) then 2 else 3

/-- More than 16 fresh uncorrectable granules of one channel within a second are reported (R189). -/
def State.channelFreshAt (s : State) (key : Nat) (u : FaultUnit) : State :=
  let recent := (s.now :: tabGet [] s.mem.channelFresh key).filter (fun t => s.now < t + ticksS 1)
  let s := { s with mem := { s.mem with channelFresh := tabSet [] s.mem.channelFresh key recent } }
  if 16 < recent.length then s.fault 0x000A u .poison recent.length 0 else s

/-- A granule is found uncorrectable: count, capture, report (R184, R197, R198). `medium` is that of R197. -/
def State.noteUncorrectable (s : State) (g medium : Nat) : State :=
  let s := { s with mem := { s.mem with uncorrectable := satAdd s.mem.uncorrectable 1 } }
  let s := if s.rbit .memPoisonLog 63 then s
    else { s.setBits .memPoisonLog (word (2 ^ 63)) with
             mem := { s.mem with poisonMedium := medium, poisonAddr := bits g 4 44 } }
  s.fault 0x0009 .module .poison g medium

/-- A granule is corrected (R198). -/
def State.noteCorrected (s : State) : State := { s with mem := { s.mem with corrected := satAdd s.mem.corrected 1 } }

/-- A reader finds a granule of a store uncorrectable (R184): it counts against its Tray bank or its channel too (R189). -/
def State.freshUncorrectable (s : State) (g medium : Nat) : State :=
  let s := s.noteUncorrectable g medium
  match regionOf g with
  | .tray =>
    let key := trayCore g * 64 + trayBank g
    { s with mem := { s.mem with bankFresh := tabMod 0 s.mem.bankFresh key (· + 1) } }
  | .inlay => s.channelFreshAt (1000 + inlayDie g * 32 + inlayChannel g)
      (.inlayChannel (inlayDie g * 32 + inlayChannel g))
  | .lpddr6 =>
    let res := lpddr6Map s.mem.homeGib g
    let m := res.1
    let l := res.2
    s.channelFreshAt (m * 8 + lpddr6SubChannel l) (.lpChannel (m * 8 + lpddr6SubChannel l))
  | _ => s

/-- The receiving router stop checks a granule that crosses a Dovetail or the mesh (R182): it passes it on corrected, or poisoned,
which leaves the store it came from as it is (R184). -/
def State.checkTransit (s : State) (g : Nat) : State :=
  (s.mem.inflight.filter fun h => h.1 == .transit && h.2.1 == g).foldl (fun t h =>
    let t := { t with mem := { t.mem with inflight := t.mem.inflight.erase h } }
    match decodeSyndrome (syndrome h.2.2) with
    | .clean => t
    | .poisoned => { t with mem := { t.mem with delivered := g :: t.mem.delivered } }
    | .corrected _ _ => t.noteCorrected
    | .uncorrectable => { t with mem := { t.mem with delivered := g :: t.mem.delivered } }.noteUncorrectable g 4) s

/-- Check one granule as a reader does (R181, R182, R184): corrections are written back and counted, an
uncorrectable granule becomes poisoned and is reported. Afterwards the granule is clean or poisoned. -/
def State.checkStored (s : State) (g : Nat) : State :=
  let d := s.mem.diff g
  if d = 0 ∨ d = poisonPattern then s
  else
    match decodeSyndrome (syndrome d) with
    | .clean => { s with mem := (s.mem.flip g d).setDiff g 0 }
    | .poisoned => { s with mem := (s.mem.flip g d).poison g }
    | .corrected i v =>
      let d' := d ^^^ BitVec.ofNat 144 (v <<< (4 * i))
      { s with mem := { (s.mem.flip g d').setDiff g 0 with corrected := satAdd s.mem.corrected 1 } }
    | .uncorrectable =>
      let medium := s.mediumOf g
      { s with mem := (s.mem.flip g d).poison g }.freshUncorrectable g medium

/-- Check one granule where it is stored and where it arrives. -/
def State.checkGranule (s : State) (g : Nat) : State := (s.checkStored g).checkTransit g

/-- Check the granules of an access. -/
def State.checkRange (s : State) (a n : Nat) : State := (granulesOf a n).foldl (fun t g => t.checkGranule g) s

/-- First poisoned granule of an access, once checked. -/
def State.firstPoison (s : State) (a n : Nat) : Option Nat := (granulesOf a n).find? fun g => s.mem.isPoisoned g

/-- Prepare a read of `n` bytes: check every granule and account for the traffic. The bytes are then those
of `bytesAt`, and `firstPoison` says whether any granule is poisoned. -/
def State.fetch (s : State) (r : Requester) (a n : Nat) : State :=
  s.withMem ((s.checkRange a n).account r a n false)

/-- Granules of which a write of `n` bytes from `a` covers only a part (R169). -/
def partialGranules (a n : Nat) : List Nat :=
  (granulesOf a n).filter fun g => decide (g < a ∨ a + n < g + 16)

/-- Write bytes from `a` up: whole granules are encoded afresh, which clears poison (R188); a partial
granule is read, merged and stays poisoned if it was (R169). -/
def State.store (s : State) (r : Requester) (a : Nat) (bs : List Byte) : State :=
  s.withMem <|
    let s := (partialGranules a bs.length).foldl (fun t g => t.checkGranule g) s
    let keep := partialGranules a bs.length
    let m := (granulesOf a bs.length).foldl (fun (m : Memory) g => if g ∈ keep then m else m.setDiff g 0) s.mem
    { s with mem := m.setBytes a bs }.account r a bs.length true

/-- Write bytes and leave the named granules poisoned (R185: COPY, GATHER, streams). -/
def State.storePoisoned (s : State) (r : Requester) (a : Nat) (bs : List Byte) (ps : List Nat) : State :=
  s.withMem <|
    let s := s.store r a bs
    { s with mem := ps.foldl (fun (m : Memory) g => m.poison g) s.mem }

/-- Clear a range of memory to zero with valid check bits (R171, R466, R513). -/
def Memory.clear (m : Memory) (lo hi : Nat) : Memory :=
  { m with bytes := m.bytes.filter (fun c => !(decide (lo ≤ c.1) && decide (c.1 < hi))),
           errors := m.errors.filter (fun c => !(decide (lo ≤ c.1) && decide (c.1 < hi))) }

/-! ### Address checks -/

/-- Compute die of a core. -/
def dieOf (core : Nat) : Nat := core / 16
/-- Cluster of a core (R8). -/
def clusterOf (core : Nat) : Nat := core / 4

/-- State of a core. -/
def State.core (s : State) (c : Nat) : CoreState := tabGet coreReset s.cores c
/-- Replace the state of a core. -/
def State.setCore (s : State) (c : Nat) (x : CoreState) : State :=
  { s with cores := tabSet coreReset s.cores c x }
/-- State of a cluster. -/
def State.cluster (s : State) (c : Nat) : ClusterState := tabGet clusterReset s.clusters c
/-- Replace the state of a cluster. -/
def State.setCluster (s : State) (c : Nat) (x : ClusterState) : State :=
  { s with clusters := tabSet clusterReset s.clusters c x }
/-- State of a compute die. -/
def State.die (s : State) (d : Nat) : DieState := tabGet dieReset s.dies d
/-- Replace the state of a compute die. -/
def State.setDie (s : State) (d : Nat) (x : DieState) : State :=
  { s with dies := tabSet dieReset s.dies d x }
/-- State of an engine. -/
def State.engine (s : State) (e : Nat) : EngineState := tabGet engineReset s.engines e

/-- Die clamped (R37). -/
def State.dieClamped (s : State) (d : Nat) : Bool := (s.die d).clampReason ≠ 0
/-- Cluster clamped, itself or with its die (R70). -/
def State.clusterClamped (s : State) (c : Nat) : Bool := (s.cluster c).clampReason ≠ 0 || s.dieClamped (c / 4)
/-- Core clamped, itself or with its cluster or die (R68). -/
def State.coreClamped (s : State) (c : Nat) : Bool := (s.core c).clampReason ≠ 0 || s.clusterClamped (clusterOf c)

/-- An instance, or one that contains it, is fenced or in reset (R465, R467). -/
def State.inReset (s : State) (d : DomainCode) (i : Nat) : Bool :=
  s.resets.any fun r =>
    r.domain == .cold || (match r.phase with | .returning _ => false | _ => true) &&
    match d with
    | .core => (r.domain == .core && r.inst == i) || (r.domain == .cluster && r.inst == clusterOf i) ||
        (r.domain == .die && r.inst == dieOf i)
    | .cluster => (r.domain == .cluster && r.inst == i) || (r.domain == .die && r.inst == i / 4)
    | .die => r.domain == .die && r.inst == i
    | x => r.domain == x

/-- How a memory command that addresses `n` bytes at `a` is refused, by its class of R561: register space,
outside the four regions, across regions or in the reserved area (R15, R177): BAD_PARAM; Tray of a clamped
core or Inlay of a clamped die: CLAMPED (R15, R23); a unit or the Carcass memory fenced or in reset: BUSY
(R466). -/
def State.accessStatus (s : State) (a n : Nat) : Status :=
  match regionSpan a n with
  | .tray =>
    let cs := upFrom (trayCore a) (trayCore (a + n - 1) - trayCore a + 1)
    if cs.any s.coreClamped then .clamped
    else if cs.any (s.inReset .core) then .busy else .ok
  | .inlay =>
    let ds := upFrom (inlayDie a) (inlayDie (a + n - 1) - inlayDie a + 1)
    if ds.any s.dieClamped then .clamped
    else if ds.any (s.inReset .die) then .busy else .ok
  | .lpddr6 =>
    if touchesReserved a n then .badParam else if s.inReset .memory 0 then .busy else .ok
  | _ => .badParam

end Sys2Proof.Machine
end

