-- ==== Sys2Proof/Machine/Rdma.lean ====
section
/-! DEFINITION. Queue pairs of the Ethernet ports as senders: packets, the retention buffer, retransmission and
the error state (R225 to R230). -/

namespace Sys2Proof.Machine

/-- An Ethernet port. -/
def State.eth (s : State) (n : Nat) : EthPort := tabGet ethPortReset s.eths n
/-- Replace an Ethernet port. -/
def State.setEth (s : State) (n : Nat) (p : EthPort) : State := { s with eths := tabSet ethPortReset s.eths n p }
/-- A queue pair of a port. -/
def State.qp (s : State) (n q : Nat) : Option QueuePair := tabFind (s.eth n).qps q
/-- Replace a queue pair that is there. -/
def State.setQp (s : State) (n q : Nat) (x : QueuePair) : State :=
  s.setEth n { s.eth n with qps := tabPut (s.eth n).qps q x }

/-- Payload bytes of a packet. -/
def rdmaSize : Sys2Proof.RdmaKind → Nat
  | .send p => p.length
  | .write _ _ p _ _ => p.length
  | .readResponse p _ => p.length
  | .read _ _ _ | .ack | .nak | .selectiveAck _ | .notReady | .nakError => 0

/-- The extension headers of a packet: RETH, immediate value, AETH, selective bitmap (PRESUMED from RoCEv2,
assumption log 13). -/
def rdmaHeaders : RdmaKind → Nat
  | .send _ => 0
  | .write _ _ _ _ i => 16 + (if i.isSome then 4 else 0)
  | .read _ _ _ => 16
  | .readResponse _ _ => 4
  | .ack => 4
  | .nak => 4
  | .selectiveAck _ => 20
  | .notReady => 4
  | .nakError => 4

/-- Frame bytes from destination address to frame check sequence, with an IEEE 802.1Q tag where there is one (R521; assumption
log 13). -/
def frameBytesOf (remoteIp : List Byte) (tagged : Bool) (k : RdmaKind) : Nat :=
  let v4 := zeroFrom remoteIp 0 10 && uAt remoteIp 10 2 == 0xFFFF
  14 + (if tagged then 4 else 0) + (if v4 then 20 else 40) + 8 + 12 + rdmaHeaders k + roundUp (rdmaSize k) 4 + 4 + 4

/-- Frame bytes of a congestion notification packet, of a flow control frame and of a PTP message over IPv4 (PRESUMED from RoCEv2,
IEEE 802.1Qbb and IEEE 1588, assumption log 13). -/
def notificationBytes (remoteIp : List Byte) : Nat := frameBytesOf remoteIp true (.send (zeros 16))
def pauseBytes : Nat := 64
def ptpBytes (k : PtpKind) : Nat := 14 + 20 + 8 + (match k with | .delayResponse _ => 54 | _ => 44) + 4

/-- A packet keeps the limits of the port: payloads up to the path MTU of 4,096 bytes, frames up to 9,216 (R225). -/
def packetFits (p : RdmaPacket) (remoteIp : List Byte) : Bool :=
  decide (rdmaSize p.kind ≤ 4096) && decide (frameBytesOf remoteIp p.priority.isSome p.kind ≤ 9216)

/-- `s` with the ports, the router and what sending changes taken from `t`. -/
def State.withRouter (s t : State) : State :=
  { s.withComms t with ports := t.ports, fabric := t.fabric, eths := t.eths }

/-- The long-haul buffer is enabled for a port (R173). -/
def State.longHaul (s : State) (n : Nat) : Bool := s.rbit .memDrwCarve n

/-- Bytes held in the retention buffer of a port (R227). -/
def State.retainedBytes (s : State) (n : Nat) : Nat :=
  ((s.eth n).qps.map fun q => ((q.2.retained ++ q.2.responses).map fun p => rdmaSize p.kind).sum).sum

/-- Size of the retention buffer of a port (R227). -/
def State.retentionSize (s : State) (n : Nat) : Nat := if s.longHaul n then 96 * 2 ^ 20 else 4 * 2 ^ 20

/-- The priority of the port's RoCEv2 traffic is paused: PORT_En_RDMA names it, and says that pauses are honoured, now
(R230, R243). -/
def State.ethPaused (s : State) (n : Nat) : Bool :=
  s.rbit (.ethRdma n) 21 && (s.eth n).paused.getLsbD (s.rf (.ethRdma n) 18 3)

/-- A queue pair can take a new packet of `size` bytes (R227, R228, R230). -/
def State.qpReady (s : State) (n q size : Nat) : Bool :=
  match s.qp n q with
  | some x => !x.error && (s.eth n).linkUp && !s.ethPaused n &&
      decide (s.retainedBytes n + size ≤ s.retentionSize n)
  | none => false

/-- Put one packet on an Ethernet link and count it (R521). It leaves with the port's priority; while that is paused it waits
(R230, R243). -/
def State.putRdma (s : State) (n : Nat) (x : QueuePair) (q : Nat) (p : RdmaPacket) : State :=
  let e := s.eth n
  if !e.linkUp then s
  else if s.ethPaused n then s.setEth n { e with held := e.held ++ [(q, p)] }
  else
    let p := { p with priority := some (s.rf (.ethRdma n) 18 3) }
    (s.send (.rdma n p)).count (1184 + 3 * n) (frameBytesOf x.remoteIp true p.kind)

/-- Packets that waited for a paused priority leave once it is not paused (R230). -/
def State.flushHeld (s : State) (n : Nat) : State :=
  if s.ethPaused n then s
  else
    let ps := (s.eth n).held
    if ps.isEmpty then s
    else ps.foldl (fun t p => match t.qp n p.1 with
      | some x => t.putRdma n x p.1 p.2
      | none => t) (s.setEth n { s.eth n with held := [] })

/-- A packet of a queue pair, by its number here: the UDP source port is the low 16 bits of that number ORed with 0xC000 (R226),
and every packet is marked ECN-capable (R230). -/
def QueuePair.packet (x : QueuePair) (q : Nat) (psn : BitVec 24) (k : RdmaKind) : RdmaPacket :=
  { qpn := x.remoteQpn, psn := psn, kind := k, sourcePort := (q % 2 ^ 16) ||| 0xC000, priority := none, dscp := x.dscp,
    ecnCapable := true, checksOk := true, congestion := false }

/-- Send a new packet on a queue pair: numbered, and kept until it is acknowledged (R227). -/
def State.rdmaSend (s : State) (n q : Nat) (k : RdmaKind) : State :=
  s.withRouter <|
  match s.qp n q with
  | some x =>
    let p := x.packet q x.sendPsn k
    let x' := { x with sendPsn := x.sendPsn + 1, retained := x.retained ++ [p],
                       progressAt := if x.retained.isEmpty then s.now else x.progressAt }
    (s.setQp n q x').putRdma n x q p
  | none => s

/-- Resend packets of a queue pair, tracing it (R228, R526). -/
def State.rdmaResend (s : State) (n q : Nat) (ps : List RdmaPacket) : State :=
  s.withRouter <|
  match s.qp n q, ps with
  | some x, p :: _ =>
    (ps.foldl (fun t r => t.putRdma n x q r) s).trace (1936 + n) 0x0023 ps.length p.psn.toNat
  | _, _ => s

/-! ### Answers to READs -/

/-- Send a packet that is not retained: an acknowledgement (R227). -/
def State.rdmaAnswer (s : State) (n : Nat) (x : QueuePair) (q : Nat) (psn : BitVec 24) (k : RdmaKind) : State :=
  s.putRdma n x q (x.packet q psn k)

/-- Bytes of the next packet of a read response: at most the path MTU (R225). -/
def partOf (length : Nat) : Nat := min 4096 length

/-- Packets of a read response (R225). -/
def partCount (length : Nat) : Nat := max 1 ((length + 4095) / 4096)

/-- Answer the oldest READ of a queue pair with its next packet, where the retention buffer takes it (R227). Its granules are checked
first, and a poisoned one ends the READ with POISON (R183, R231). None: nothing can be sent now. -/
def State.answerRead (s : State) (n q : Nat) : Option State :=
  match s.qp n q with
  | none => none
  | some x =>
    match x.reads with
    | [] => none
    | (psn, a, len) :: rest =>
      let k := partOf len
      if !s.qpReady n q k then none
      else
        let t := s.fetch .carcass a k
        if (t.firstPoison a k).isSome then
          some ((t.setQp n q { x with reads := rest, completions := (psn, .poison) :: x.completions }).rdmaAnswer n x q psn .nakError)
        else
          let p := x.packet q psn (.readResponse (t.bytesAt a k) (decide (len ≤ 4096)))
          let x := { x with
            reads := if len ≤ 4096 then rest else (psn + 1, a + 4096, len - 4096) :: rest, responses := x.responses ++ [p] }
          some ((t.setQp n q x).putRdma n x q p)

/-- Answer READs as far as may be; the count bounds the recursion. -/
def State.answerReads (s : State) (n q : Nat) : Nat → State
  | 0 => s
  | k + 1 => match s.answerRead n q with | some t => t.answerReads n q k | none => s

/-- Every queue pair of a port goes on with its READs. -/
def State.pumpReads (s : State) (n : Nat) : State :=
  (s.eth n).qps.foldl (fun t q => if q.2.reads.isEmpty then t else t.answerReads n q.1 1048576) s

/-! ### The error state -/

/-- Outstanding operations of a queue pair end with TIMEOUT (R228, R435, R471). -/
def QueuePair.drop (x : QueuePair) : QueuePair :=
  { x with retained := [], responses := [], reads := [],
           completions := x.retained.reverse.map (fun p => (p.psn, Status.timeout)) ++ x.completions }

/-- What is recorded of a queue pair that is destroyed: each operation that is still outstanding ends with TIMEOUT (R435, R471). -/
def QueuePair.endedAs (x : QueuePair) (q : Nat) : List (Nat × BitVec 24 × Status) := x.drop.completions.map fun e => (q, e)

/-- An Ethernet port once its router's reset asserts: its queue pairs are destroyed (R471). -/
def EthPort.afterReset (p : EthPort) : EthPort :=
  { ethPortReset with ended := (p.qps.flatMap fun e => e.2.endedAs e.1) ++ p.ended }

/-- A queue pair enters the error state (R228). -/
def State.qpError (s : State) (n q : Nat) : State :=
  match s.qp n q with
  | some x => s.setQp n q { x.drop with error := true }
  | none => s

end Sys2Proof.Machine
end

