-- ==== Sys2Proof/Machine/Router.lean ====
section
/-! DEFINITION. Cells (R271 to R276), routes (R282 to R290), egress queues, credits and throttling (R277 to R281,
R292), and bridges as outputs of the router (R315). -/

namespace Sys2Proof.Machine

/-! ### Cells -/

/-- A cell with its header fields (R272). -/
structure Cell where
  dest : Nat
  ptag : Nat
  vc : Nat
  stream : Nat
  typ : Nat
  dateline : Bool
  detour : Bool
  hops : Nat
  payload : List Byte
  /-- Payload granules that are poisoned. -/
  poison : List Nat
  tail : Nat
deriving DecidableEq, Repr

/-- Header word without its CRC. -/
def Cell.header (c : Cell) : Nat :=
  place c.hops 0 4 + placeB c.detour 4 + placeB c.dateline 5 + place c.typ 6 4 + place c.stream 10 14 +
    place c.vc 24 3 + place c.ptag 27 12 + place c.dest 39 17

/-- The CRC-8 of a header (56 bits) and a tail (R273). -/
def cellCrc (header tail : Nat) : Nat := crcBits 8 0x07 72 ((header % 2 ^ 56) <<< 16 + tail % 65536) 0xFF

/-- A value of `n` bytes, most significant first. -/
def be (n v : Nat) : List Byte := (le n v).reverse

/-- A payload granule as it travels (R275). -/
def granuleBytes (data : List Byte) (poisoned : Bool) : List Byte :=
  exactly 16 data ++ le 2 (checkBits (BitVec.ofNat 128 (unle (exactly 16 data))) ^^^ (if poisoned then 0x111 else 0))

/-- The 64 bytes of a cell (R271). -/
def Cell.bytes (c : Cell) : List Byte :=
  be 8 (c.header + (cellCrc c.header c.tail) <<< 56) ++
    ([0, 1, 2].flatMap fun g => granuleBytes (slice c.payload (16 * g) 16) (c.poison.contains g)) ++ be 2 c.tail

/-- Header word of 64 cell bytes. -/
def cellHeader (bs : List Byte) : Nat := unle (slice bs 0 8).reverse
/-- Tail of 64 cell bytes. -/
def cellTail (bs : List Byte) : Nat := unle (slice bs 62 2).reverse
/-- The CRC of 64 cell bytes is valid (R273). -/
def cellCrcOk (bs : List Byte) : Bool := bits (cellHeader bs) 56 8 == cellCrc (cellHeader bs) (cellTail bs)

/-- A payload granule as the receiving port checks it (R181, R182, R184): its data, whether it is poisoned, and
whether it was found uncorrectable or was corrected just now. -/
def checkArrived (g : List Byte) : List Byte × Bool × Bool × Bool :=
  let w := BitVec.ofNat 144 (unle (exactly 18 g))
  match decodeSyndrome (syndrome w) with
  | .clean => (exactly 16 g, false, false, false)
  | .poisoned => (exactly 16 g, true, false, false)
  | .corrected i v => (le 16 ((w ^^^ BitVec.ofNat 144 (v <<< (4 * i))).toNat % 2 ^ 128), false, false, true)
  | .uncorrectable => (exactly 16 g, true, true, false)

/-- Read a cell; its payload granules have been checked. -/
def parseCell (bs : List Byte) : Cell :=
  let h := cellHeader bs
  let gs := [0, 1, 2].map fun g => checkArrived (slice bs (8 + 18 * g) 18)
  { dest := bits h 39 17, ptag := bits h 27 12, vc := bits h 24 3, stream := bits h 10 14, typ := bits h 6 4,
    dateline := bits h 5 1 == 1, detour := bits h 4 1 == 1, hops := bits h 0 4,
    payload := gs.flatMap (·.1), poison := [0, 1, 2].filter fun g => (nth ([], false, false, false) gs g).2.1,
    tail := cellTail bs }

/-- What the receiving port finds of the payload granules (R182): corrected ones, and those found uncorrectable just now. -/
def arrivedGranules (bs : List Byte) : List Nat × List Nat :=
  let gs := [0, 1, 2].map fun g => checkArrived (slice bs (8 + 18 * g) 18)
  let at_ (g : Nat) := nth ([], false, false, false) gs g
  ([0, 1, 2].filter fun g => (at_ g).2.2.2, [0, 1, 2].filter fun g => (at_ g).2.2.1)

/-- Channel of 64 cell bytes. -/
def cellVc (bs : List Byte) : Nat := bits (cellHeader bs) 24 3

/-! ### Coordinates (R282, R283, R294, R296) -/

/-- Chip ID of this module. -/
def State.chip (s : State) : Nat := s.rf .netChip 0 17
/-- Ring length of an axis. -/
def State.ringLen (s : State) (a : Nat) : Nat := s.rf .netGeometry (8 * a) 8 + 1
/-- Width of a coordinate field. -/
def State.axisBits (s : State) (a : Nat) : Nat := s.rf .netGeometry (32 + 4 * a) 4
/-- First bit of a coordinate field. -/
def State.axisShift (s : State) (a : Nat) : Nat := ((List.range a).map s.axisBits).sum
/-- A coordinate of a chip. -/
def State.coord (s : State) (chip a : Nat) : Nat := bits chip (s.axisShift a) (s.axisBits a)
/-- The partition line of an axis. -/
def State.axis (s : State) (a : Nat) : Axis := nth ⟨0, 1, false⟩ s.fabric.partition.axes a
/-- Partition-relative position of a chip on an axis. -/
def State.position (s : State) (chip a : Nat) : Nat :=
  (s.coord chip a + s.ringLen a - (s.axis a).low % s.ringLen a) % s.ringLen a
/-- A chip lies inside the partition line on every axis. -/
def State.inLine (s : State) (chip : Nat) : Bool :=
  (List.range 4).all (fun a => decide (s.position chip a < (s.axis a).length)) && chip >>> s.axisShift 4 == 0
/-- The chip at given positions of the partition. -/
def State.chipAt (s : State) (pos : Nat → Nat) : Nat :=
  ((List.range 4).map fun a => (((s.axis a).low + pos a) % s.ringLen a) <<< s.axisShift a).sum
/-- Members of the partition. -/
def Partition.members (p : Partition) : Nat := p.axes.foldl (fun m x => m * x.length) 1

/-- Direction toward a chip on an axis: 0 plus, 1 minus; none where it is already there (R283). -/
def State.toward (s : State) (dest a : Nat) : Option Nat :=
  let own := s.coord s.chip a
  let d := (s.coord dest a + s.ringLen a - own) % s.ringLen a
  if d = 0 then none
  else if (s.axis a).wrap then some (if d ≤ s.ringLen a - d then 0 else 1)
  else some (if s.position s.chip a < s.position dest a then 0 else 1)

/-- The end of an open line: its outward ports carry only link-local cells (R296). -/
def State.edge (s : State) (d : Nat) : Bool :=
  let a := s.axis (d / 2)
  !a.wrap && (if d % 2 = 0 then s.position s.chip (d / 2) + 1 == a.length else s.position s.chip (d / 2) == 0)

/-- A hop in direction `d` crosses the wrap link (R280). -/
def State.wraps (s : State) (d : Nat) : Bool :=
  (s.axis (d / 2)).wrap &&
    (if d % 2 = 0 then s.coord s.chip (d / 2) + 1 == s.ringLen (d / 2) else s.coord s.chip (d / 2) == 0)

/-! ### Outputs: ports 0 to 15, and 16 + d for the bridge of direction d -/

/-- A tensor port. -/
def State.port (s : State) (n : Nat) : TensorPort := tabGet tensorPortReset s.ports n
/-- Replace a tensor port. -/
def State.setPort (s : State) (n : Nat) (p : TensorPort) : State := { s with ports := tabSet tensorPortReset s.ports n p }

/-- The bridge of a direction is enabled (R315). -/
def State.bridged (s : State) (d : Nat) : Bool := s.rbit (.netBridge d) 0
/-- Ethernet port and queue pair of a bridge. -/
def State.bridgeQp (s : State) (d : Nat) : Nat × Nat := (s.rf (.netBridge d) 1 2, s.rf (.netBridge d) 3 12)

/-- The fabric router is past its ingress close or in reset (R470). -/
def State.routerClosed (s : State) : Bool :=
  s.resets.any fun r => r.domain == .cold || (r.domain == .router && match r.phase with | .fenced _ | .returning _ => false | _ => true)

/-- A tensor port is available (R287). -/
def State.portAvailable (s : State) (n : Nat) : Bool :=
  let p := s.port n
  p.state == .admitted && p.peerValid && field p.peer 36 1 == 1 && p.darkNotice.isNone

/-- An output is available (R287, R296, R315). -/
def State.available (s : State) (o : Nat) : Bool :=
  if o < 16 then !s.edge (o / 2) && !s.bridged (o / 2) && s.portAvailable o
  else
    let d := o - 16
    let res := s.bridgeQp d
    let n := res.1
    let q := res.2
    !s.edge d && s.bridged d && !s.fabric.bridgeDown.contains d &&
      (match s.qp n q with | some x => !x.error | none => false)

/-- The outputs of a direction. -/
def State.outs (s : State) (d : Nat) : List Nat := if s.bridged d then [16 + d] else [2 * d, 2 * d + 1]

/-- The output of a port named in the destination table (R285). -/
def State.outOf (s : State) (n : Nat) : Nat := if s.bridged (n / 2) then 16 + n / 2 else n

/-- A credit for a channel is held (R279); a bridge needs none (R315). -/
def State.hasCredit (s : State) (o vc : Nat) : Bool := decide (16 ≤ o) || decide (0 < nth 0 (s.port o).credits vc)

/-- Cells queued at an output. -/
def State.queued (s : State) (o : Nat) : Nat :=
  if o < 16 then (s.port o).egress.length
  else match s.fabric.bridges.find? (·.1 == o - 16) with | some b => b.2.1.length | none => 0

/-- Fewest cells of a list of outputs. -/
def State.fewest (s : State) : List Nat → Nat
  | [] => 0
  | [o] => s.queued o
  | o :: r => min (s.queued o) (s.fewest r)

/-- Cells that a channel's buffer and queue hold at a port (R277). -/
def bufferCells (vc : Nat) : Nat := if vc ≤ 2 then 64 else if vc = 3 then 16 else 32

/-- The queue of a channel at an output has a place left (R277). -/
def State.hasRoom (s : State) (o vc : Nat) : Bool :=
  let cs := if o < 16 then (s.port o).egress else match s.fabric.bridges.find? (·.1 == o - 16) with | some b => b.2.1 | none => []
  decide ((cs.filter fun c => cellVc c.bytes == vc).length < bufferCells vc)

/-! ### The token bucket of injection (R292), in 4,096ths of a cell -/

/-- Tokens of a port now: rate / 256 of a cell for each cell time, which is 4 / 5 of a tick with four lanes and 16 / 15 with three
(R205), and at most 16 cells. -/
def TensorPort.tokensNow (p : TensorPort) (now : Nat) : Nat :=
  min 65536 (p.tokens + (now - p.tokensAt) * p.rate * (if p.threeLane then 15 else 20))

/-- Bring the bucket up to date, before its rate changes or tokens leave it. -/
def TensorPort.refill (p : TensorPort) (now : Nat) : TensorPort := { p with tokens := p.tokensNow now, tokensAt := now }

/-- A cell that the collective engines inject may go to an output: on VC0 and VC2 the bucket holds a cell. -/
def State.hasToken (s : State) (o vc : Nat) : Bool :=
  decide (16 ≤ o) || (vc != 0 && vc != 2) || decide (4096 ≤ (s.port o).tokensNow s.now)

/-! ### Routes (R283 to R290) -/

/-- What the router does with a cell. -/
inductive Route where
  /-- Leave on an output; DETOUR as it leaves; whether HOPS counts up. -/
  | out (o : Nat) (detour hop : Bool)
  /-- No output can take it now (R290). -/
  | wait
  /-- Discarded and counted as unroutable. -/
  | drop
deriving DecidableEq, Repr

/-- Directions in which a destination still lies, in axis order. -/
def State.productive (s : State) (dest : Nat) : List Nat :=
  (List.range 4).filterMap fun a => (s.toward dest a).map fun dir => 2 * a + dir

/-- Direction of an output. -/
def outDir (o : Nat) : Nat := if o < 16 then o / 2 else o - 16

/-- A cell as it leaves on an output: DETOUR, HOPS, and on escape its channel and DATELINE (R280). -/
def State.leaving (s : State) (c : Cell) (ingress : Option Nat) (o : Nat) (detour hop : Bool) : Cell :=
  let c := { c with detour := detour, hops := if hop then c.hops + 1 else c.hops }
  if c.vc = 4 ∨ c.vc = 5 then
    let d := if o < 16 then o / 2 else o - 16
    let same := match ingress with | some p => p / 4 == d / 2 | none => false
    let dl := (same && c.dateline) || s.wraps d
    { c with dateline := dl, vc := if dl then 5 else 4 }
  else c

/-- Choose among available outputs (R284): those with a credit first, fewest cells, ties by the rotating pointer. `vcOf` is the
channel that the cell leaves on, `ok` whether the output can take it. -/
def State.choose (s : State) (os : List Nat) (vcOf : Nat → Nat) (ok : Nat → Bool) : Option Nat :=
  let os := os.filter ok
  let os := if os.any (fun o => s.hasCredit o (vcOf o)) then os.filter (fun o => s.hasCredit o (vcOf o)) else os
  rotate 24 (s.fabric.pointer % 24) fun o => os.contains o && s.queued o == s.fewest os

/-- One set of candidates: none of them available, or what becomes of a cell that they take. -/
def State.among (s : State) (c : Cell) (ingress : Option Nat) (os : List Nat) (detour hop : Bool) : Option Route :=
  let os := os.filter s.available
  if os.isEmpty then none
  else if hop ∧ s.rf .netRouteCtrl 10 4 < c.hops + 1 then some .drop
  else
    let vcOf (o : Nat) : Nat := (s.leaving c ingress o detour hop).vc
    match s.choose os vcOf (fun o => s.hasRoom o (vcOf o) && (ingress.isSome || s.hasToken o (vcOf o))) with
    | some o => some (.out o detour hop)
    | none => some .wait

/-- One hop off the way (R289): the lowest-numbered axis already settled on which there is a neighbour (assumption log 123), plus
where it can be taken, minus otherwise. -/
def State.sideways (s : State) (dest : Nat) (ok : Nat → Bool) : List Nat :=
  match (List.range 4).find? fun a => (s.toward dest a).isNone && decide (1 < (s.axis a).length) with
  | some a =>
    let plus := (s.outs (2 * a)).filter fun o => ok o && s.available o
    if plus.isEmpty then (s.outs (2 * a + 1)).filter ok else plus
  | none => []

/-- The route of a cell (R284, R285, R289, R290). `escape`: it is on VC4a or VC4b. Cells of the seal logic take computed routes
whatever the destination table says (R348). A cell that came by a detour does not go back (R289). -/
def State.route (s : State) (c : Cell) (ingress : Option Nat) (escape : Bool) : Route :=
  let e := s.reg (.destEntry c.dest)
  let back : Option Nat := if c.detour then ingress.map (· / 2) else none
  let ok (o : Nat) : Bool := back != some (outDir o)
  if field e 48 1 = 1 ∧ c.typ < 3 then
    if field e 36 12 ≠ c.ptag then .drop
    else
      let pick (lo : Nat) := (((List.range 16).filter fun n => field e (lo + n) 1 == 1).map s.outOf).filter ok
      let first := if escape then (s.outs (field e 32 3)).filter ok else pick 0
      match s.among c ingress first false true with
      | some r => r
      | none => if escape then .wait else (s.among c ingress (pick 16) false true).getD .wait
  else if !s.inLine c.dest then .drop
  else
    let ds := s.productive c.dest
    if ds.isEmpty then .drop
    else
      let outs (ds : List Nat) := (ds.flatMap s.outs).filter ok
      match s.among c ingress (outs (if escape then ds.take 1 else ds)) false false with
      | some r => r
      | none =>
        match s.among c ingress (outs ds) true true with
        | some r => r
        | none => (s.among c ingress (s.sideways c.dest ok) true true).getD .wait

/-! ### Throttling (R292) -/

/-- Halve a rate once for each watermark that the queue has risen over. -/
def State.halve (s : State) (rate prev q : Nat) : Nat :=
  (List.range 3).foldl (fun r k =>
    let w := s.rf .netThrottle (8 * k) 8
    if w ≤ q ∧ prev < w then max (r / 2) (s.rf .netThrottle 24 8) else r) rate

/-- Cells of VC0 to VC2 in an egress queue. -/
def TensorPort.load (p : TensorPort) : Nat := (p.egress.filter fun c => decide (cellVc c.bytes ≤ 2)).length

/-- The queue of a port has changed (R292). -/
def State.throttle (s : State) (n : Nat) : State :=
  let p := (s.port n).refill s.now
  let q := p.load
  s.setPort n { p with qPrev := q, rate := if s.rbit .netThrottle 40 then s.halve p.rate p.qPrev q else 256 }

/-! ### Queues -/

/-- Owe a credit to the peer of the port a cell came in on (R279). -/
def State.oweCredit (s : State) (ingress : Option Nat) (vc : Nat) : State :=
  match ingress with
  | some n =>
    if n < 16 ∧ vc < 6 ∧ !s.bridged (n / 2) then
      let p := s.port n
      s.setPort n { p with owed := setNth p.owed vc (nth 0 p.owed vc + 1),
                           owedSince := if p.owed.all (· == 0) then s.now else p.owedSince }
    else s
  | none => s

/-- Where a cell stands in the egress queue of its channel: with the transit or with the injected cells (R281). -/
def QueuedCell.lane (q : QueuedCell) : Nat × Bool := (cellVc q.bytes, q.ingress.isNone)

/-- Where a waiting cell stands: in an ingress buffer of a channel, or on its own where it was injected. -/
def QueuedCell.buffer (q : QueuedCell) : Option (Nat × Nat) := q.ingress.map fun n => (n, q.vc)

/-- Note since when the head of each queue has been its head; `key` names a cell's queue, none for one of its own. -/
def markHeads (now : Nat) (key : QueuedCell → Option (Nat × Nat)) : List (Nat × Nat) → List QueuedCell → List QueuedCell
  | _, [] => []
  | seen, q :: r =>
    match key q with
    | some k =>
      if seen.contains k then q :: markHeads now key seen r
      else { q with headAt := some (q.headAt.getD now) } :: markHeads now key (k :: seen) r
    | none => { q with headAt := some (q.headAt.getD now) } :: markHeads now key seen r

/-- The queue of a cell at a port, as a key. -/
def laneKey (q : QueuedCell) : Option (Nat × Nat) := some (q.lane.1, if q.lane.2 then 1 else 0)

/-- Replace the egress queues of a port. -/
def State.setEgress (s : State) (n : Nat) (l : List QueuedCell) : State :=
  s.setPort n { s.port n with egress := markHeads s.now laneKey [] l }

/-- Replace the packed cells of a bridge; `since` is the tick of the first. -/
def State.setBridge (s : State) (d : Nat) (l : List QueuedCell) (since : Nat) : State :=
  { s with fabric := { s.fabric with bridges := s.fabric.bridges.filter (·.1 ≠ d) ++
      (if l.isEmpty then [] else [(d, markHeads s.now (fun _ => some (0, 0)) [] l, since)]) } }

/-- Replace the cells that wait for an output. -/
def State.setWaiting (s : State) (l : List QueuedCell) : State :=
  { s with fabric := { s.fabric with waiting := markHeads s.now QueuedCell.buffer [] l } }

/-- Remove the first cell that satisfies `p`. -/
def takeFirst (p : QueuedCell → Bool) : List QueuedCell → Option (QueuedCell × List QueuedCell)
  | [] => none
  | c :: r => if p c then some (c, r) else (takeFirst p r).map fun x => (x.1, c :: x.2)

/-- Put the bytes of a cell on the wire of a tensor port (R521). -/
def State.putCell (s : State) (n : Nat) (bs : List Byte) : State :=
  let s := (s.send (.cell n bs)).count (1136 + 3 * n) 64
  s.setPort n { s.port n with sentAt := s.now }

/-- The next cell of a channel: transit and injected cells take turns (R281). -/
def TensorPort.nextOf (p : TensorPort) (vc : Nat) : Option (QueuedCell × List QueuedCell) :=
  let turn := nth false p.turns vc
  (takeFirst (fun q => q.lane == (vc, turn)) p.egress).orElse fun _ => takeFirst (fun q => q.lane == (vc, !turn)) p.egress

/-- Send queued cells of a port while it holds credits: VC3, VC4b, VC4a, then VC0 to VC2 from the rotating
pointer of the port (R281). The count bounds the recursion. -/
def State.drainPort (s : State) (n : Nat) : Nat → State
  | 0 => s
  | k + 1 =>
    let p := s.port n
    let order := [3, 5, 4] ++ ((List.range 3).map fun i => (p.vcPointer + i) % 3)
    match order.findSome? (fun vc => if s.hasCredit n vc then (p.nextOf vc).map fun x => (vc, x) else none) with
    | some (vc, c, rest) =>
      let p := { p with
        credits := setNth p.credits vc (nth 0 p.credits vc - 1), turns := setNth p.turns vc (!c.ingress.isNone),
        vcPointer := if vc ≤ 2 then (vc + 1) % 3 else p.vcPointer }
      (((s.setPort n p).setEgress n rest).putCell n c.bytes).drainPort n k
    | none => s

/-- Let a port send what it may (R213, R287). -/
def State.flushPort (s : State) (n : Nat) : State :=
  if s.portAvailable n then (s.drainPort n (s.port n).egress.length).throttle n else s

/-- The SEND of the cells packed for a bridge (R315): one packet of up to 64, when it is full or 200 ns after its first, once its
queue pair takes it. -/
def State.flushBridge (s : State) (d : Nat) : State :=
  let res := s.bridgeQp d
  let n := res.1
  let q := res.2
  match s.fabric.bridges.find? (·.1 == d) with
  | some (_, cs, since) =>
    let now := cs.take 64
    if (now.length < 64 ∧ s.now < since + 250) ∨ !s.available (16 + d) ∨ !s.qpReady n q (64 * now.length) then s
    else (s.setBridge d (cs.drop 64) s.now).rdmaSend n q (.send (now.flatMap (·.bytes)))
  | none => s

/-- Count a cell discarded at the ingress of a port: which cause of R329, and its trace (R526). -/
def State.discard (s : State) (n cause order : Nat) (bs : List Byte) : State :=
  let p := s.port n
  let p := match cause with
    | 0 => { p with discardFec := satAdd p.discardFec 1 }
    | 1 => { p with discardCrc := satAdd p.discardCrc 1 }
    | 2 => { p with discardPartition := satAdd p.discardPartition 1 }
    | _ => { p with discardUnroutable := satAdd p.discardUnroutable 1 }
  ((s.setPort n p).count (1138 + 3 * n) 1).trace (1920 + n) 0x0022 order (cellHeader bs)

/-- A cell discarded for want of a route (R290), counted at the port it came in on; one of this module's own in a count of the
model. -/
def State.unroutable (s : State) (q : QueuedCell) : State :=
  let s := if q.held then s.oweCredit q.ingress q.vc else s
  match q.ingress with
  | some n => if n < 16 then s.discard n 3 7 q.origin else s
  | none => { s with fabric := { s.fabric with ownUnroutable := s.fabric.ownUnroutable + 1 } }

/-- Queue a cell at an output; its place in an ingress buffer is free. A bridge takes no cell with a poisoned granule: the stream
of this module that it belongs to ends with POISON, another's cell is lost (R183; assumption log 126). -/
def State.enqueue (s : State) (o : Nat) (q : QueuedCell) : State :=
  if 16 ≤ o ∧ !(parseCell q.bytes).poison.isEmpty then
    let s := s.unroutable q
    if q.ingress.isNone then
      { s with fabric := { s.fabric with barred := s.fabric.barred ++ [(parseCell q.bytes).stream] } }
    else s
  else
    let s := if q.held then s.oweCredit q.ingress q.vc else s
    let q := { q with held := false, headAt := none }
    let vc := cellVc q.bytes
    if o < 16 then
      let p := (s.port o).refill s.now
      let s := if q.ingress.isNone ∧ (vc = 0 ∨ vc = 2) then s.setPort o { p with tokens := p.tokens - 4096 } else s
      ((s.setEgress o ((s.port o).egress ++ [q])).throttle o).flushPort o
    else
      let d := o - 16
      let old := match s.fabric.bridges.find? (·.1 == d) with | some b => b.2 | none => ([], s.now)
      (s.setBridge d (old.1 ++ [q]) old.2).flushBridge d

/-- Route a cell once (R284): none while it must wait. -/
def State.launch (s : State) (q : QueuedCell) : Option State :=
  let c := parseCell q.origin
  match s.route c q.ingress (c.vc == 4 || c.vc == 5) with
  | .out o detour hop =>
    let s' := { s with fabric := { s.fabric with pointer := o + 1 } }
    some (s'.enqueue o { q with bytes := (s.leaving c q.ingress o detour hop).bytes })
  | .wait => none
  | .drop => some (s.unroutable q)

/-- Route cells in order; one that must wait holds up those behind it in its buffer. -/
def State.launchAll (s : State) : List QueuedCell → List (Nat × Nat) → State
  | [], _ => s
  | q :: r, blocked =>
    if (match q.buffer with | some k => blocked.contains k | none => false) then
      (s.setWaiting (s.fabric.waiting ++ [q])).launchAll r blocked
    else
      match s.launch q with
      | some s' => s'.launchAll r blocked
      | none => (s.setWaiting (s.fabric.waiting ++ [q])).launchAll r (match q.buffer with | some k => k :: blocked | none => blocked)

/-- The cells that wait try again. -/
def State.retryWaiting (s : State) : State :=
  if s.fabric.waiting.isEmpty then s
  else s.withRouter ((s.setWaiting []).launchAll s.fabric.waiting [])

/-- A cell comes to the router: behind those of its buffer that wait, else it is routed at once. -/
def State.forward (s : State) (c : Cell) (ingress : Option Nat) : State :=
  let q : QueuedCell :=
    { bytes := c.bytes, origin := c.bytes, ingress := ingress, vc := c.vc, held := true, queuedAt := s.now, headAt := none }
  if ingress.isSome ∧ s.fabric.waiting.any (fun w => w.buffer == q.buffer) then s.setWaiting (s.fabric.waiting ++ [q])
  else s.withRouter (s.launchAll [q] [])

/-- Inject a cell of this module's own (R270), unless it is in no partition (R293) or its router is closed. -/
def State.inject (s : State) (c : Cell) : State :=
  if s.fabric.partition.tag = 0 ∨ s.routerClosed then s else s.forward c none

/-- Inject a cell on a given port where that port is available (R308, R309). -/
def State.injectVia (s : State) (via : Option Nat) (c : Cell) : State :=
  match via with
  | some n =>
    if s.available n ∧ s.fabric.partition.tag ≠ 0 ∧ !s.routerClosed then
      s.withRouter (s.enqueue n
        { bytes := c.bytes, origin := c.bytes, ingress := none, vc := c.vc, held := false, queuedAt := s.now, headAt := none })
    else s.inject c
  | none => s.inject c

/-- The cells queued at outputs that are not available return to routing, ahead of those that wait there (R287, R315). -/
def State.reroute (s : State) : State :=
  s.withRouter <|
  let ports := (List.range 16).filter fun n => !s.portAvailable n && !(s.port n).egress.isEmpty
  let bridges := s.fabric.bridges.filter fun b => !s.available (16 + b.1)
  let cells := (ports.flatMap fun n => (s.port n).egress) ++ bridges.flatMap fun b => b.2.1
  if cells.isEmpty then s
  else
    let t := ports.foldl (fun t n => (t.setEgress n []).throttle n) s
    let t := bridges.foldl (fun t b => t.setBridge b.1 [] 0) t
    (t.setWaiting []).launchAll (cells.map (fun q => { q with headAt := none }) ++ s.fabric.waiting) []

/-- A routed cell of this module. -/
def State.cellTo (s : State) (dest typ vc stream tail : Nat) (payload : List Byte) (poison : List Nat) : Cell :=
  { dest := dest, ptag := s.fabric.partition.tag, vc := vc, stream := stream, typ := typ, dateline := false,
    detour := false, hops := 0, payload := padTo 48 payload, poison := poison, tail := tail }

/-- A link-local cell of this module (R276). -/
def State.linkCell (s : State) (n typ vc : Nat) (payload : List Byte) : Cell :=
  { s.cellTo (field (s.port n).peer 0 17) typ vc 0 0 payload [] with ptag := s.fabric.partition.tag }

/-- Every available port may send, after credits or admission have changed, and waiting cells may find an output. -/
def State.flushAll (s : State) : State :=
  let s := (List.range 6).foldl (fun t n => (t.flushHeld n).pumpReads n) s
  let t := (List.range 16).foldl (fun t n => t.flushPort n) s
  s.withRouter ((List.range 8).foldl (fun t d => t.flushBridge d) t.retryWaiting)

end Sys2Proof.Machine
end

