-- ==== Sys2Proof/Machine/Operands.lean ====
section
/-! DEFINITION. Operand forms: element formats (R71 to R74), element addresses in the plain and the
end-grain layout (R73, R97), shared scales (R76 to R79), and exact values. -/

namespace Sys2Proof.Machine

/-! ### Values -/

/-- A decoded value: ±m × 2^e, infinity or NaN. A zero keeps its sign. -/
inductive Val where
  | nan
  | inf (neg : Bool)
  | fin (neg : Bool) (m : Nat) (e : Int)
deriving DecidableEq, Repr

/-- Number of bits of `n`. -/
def bitLen (n : Nat) : Nat := if n = 0 then 0 else Nat.log2 n + 1

/-- `m × 2^e` in units of 2^q, lower bits dropped. -/
def unitsOf (m : Nat) (e q : Int) : Nat := if q ≤ e then m <<< (e - q).toNat else m >>> (q - e).toNat

/-- Exact product (R80: infinity × 0 is NaN). -/
def Val.mul : Val → Val → Val
  | .nan, _ => .nan
  | _, .nan => .nan
  | .inf a, .inf b => .inf (a != b)
  | .inf a, .fin b m _ => if m = 0 then .nan else .inf (a != b)
  | .fin a m _, .inf b => if m = 0 then .nan else .inf (a != b)
  | .fin a m e, .fin b n f => .fin (a != b) (m * n) (e + f)

/-- Exact sum, with the signs of zero of IEEE 754 under round to nearest. -/
def Val.add : Val → Val → Val
  | .nan, _ => .nan
  | _, .nan => .nan
  | .inf a, .inf b => if a = b then .inf a else .nan
  | .inf a, .fin _ _ _ => .inf a
  | .fin _ _ _, .inf b => .inf b
  | .fin a m e, .fin b n f =>
    if m = 0 ∧ n = 0 then .fin (a && b) 0 0
    else if m = 0 then .fin b n f
    else if n = 0 then .fin a m e
    else
      let q := min e f
      let x : Int := (if a then -1 else 1) * (unitsOf m e q : Int) + (if b then -1 else 1) * (unitsOf n f q : Int)
      if x = 0 then .fin false 0 0 else .fin (decide (x < 0)) x.natAbs q

/-- Multiply by 2^k. -/
def Val.scale (v : Val) (k : Int) : Val :=
  match v with
  | .fin s m e => .fin s m (e + k)
  | x => x

/-- NaN. -/
def Val.isNan : Val → Bool
  | .nan => true
  | _ => false

/-- Zero of either sign. -/
def Val.isZero : Val → Bool
  | .fin _ m _ => m == 0
  | _ => false

/-- Finite. -/
def Val.isFin : Val → Bool
  | .fin _ _ _ => true
  | _ => false

/-- The quiet comparison a < b of IEEE 754: false with a NaN. -/
def Val.lt (a b : Val) : Bool :=
  match a, b with
  | .nan, _ => false
  | _, .nan => false
  | .inf s, .inf t => s && !t
  | .inf s, .fin _ _ _ => s
  | .fin _ _ _, .inf t => !t
  | a, b =>
    match b.add (a.mul (.fin true 1 0)) with
    | .fin neg m _ => !neg && m != 0
    | _ => false

/-! ### Element formats (R71, R72, R74) -/

/-- How the all-ones patterns of a format read. -/
inductive FmtKind where
  /-- Every pattern is finite: FP4, FP6. -/
  | finite
  /-- FP8 E4M3: NaN at exponent and fraction all ones, no infinity. -/
  | e4m3
  /-- The IEEE 754 rule. -/
  | ieee
  /-- Two's complement. -/
  | int
deriving DecidableEq, Repr

/-- An element format. -/
structure Fmt where
  width : Nat
  exp : Nat
  frac : Nat
  bias : Nat
  kind : FmtKind
deriving DecidableEq, Repr

/-- Format of a code of R74. -/
def fmtOf : Nat → Option Fmt
  | 0x0 => some ⟨4, 2, 1, 1, .finite⟩
  | 0x1 => some ⟨6, 2, 3, 1, .finite⟩
  | 0x2 => some ⟨6, 3, 2, 3, .finite⟩
  | 0x3 => some ⟨8, 4, 3, 7, .e4m3⟩
  | 0x4 => some ⟨8, 5, 2, 15, .ieee⟩
  | 0x5 => some ⟨16, 8, 7, 127, .ieee⟩
  | 0x6 => some ⟨16, 5, 10, 15, .ieee⟩
  | 0x7 => some ⟨32, 8, 23, 127, .ieee⟩
  | 0x8 => some ⟨4, 0, 0, 0, .int⟩
  | 0x9 => some ⟨8, 0, 0, 0, .int⟩
  | 0xA => some ⟨32, 0, 0, 0, .int⟩
  | _ => none

/-- FP32. -/
def fp32 : Fmt := ⟨32, 8, 23, 127, .ieee⟩

/-- Bits of an element of a format code; reserved codes have none. -/
def fmtBits (code : Nat) : Nat := match fmtOf code with | some f => f.width | none => 0

/-- The code names an integer format. -/
def fmtIsInt (code : Nat) : Bool := code == 0x8 || code == 0x9 || code == 0xA

/-- Decode a stored pattern (R71, R72). -/
def Fmt.decode (f : Fmt) (p : Nat) : Val :=
  match f.kind with
  | .int =>
    let neg := bits p (f.width - 1) 1 = 1
    .fin (decide neg) (if neg then 2 ^ f.width - p % 2 ^ f.width else p % 2 ^ f.width) 0
  | k =>
    let s := bits p (f.exp + f.frac) 1 == 1
    let x := bits p f.frac f.exp
    let m := bits p 0 f.frac
    let top := 2 ^ f.exp - 1
    if k = .ieee ∧ x = top then (if m = 0 then .inf s else .nan)
    else if k = .e4m3 ∧ x = top ∧ m = 2 ^ f.frac - 1 then .nan
    else if x = 0 then .fin s m (1 - (f.bias : Int) - f.frac)
    else .fin s (m + 2 ^ f.frac) ((x : Int) - f.bias - f.frac)

/-- Smallest exponent of a unit in the last place. -/
def Fmt.qmin (f : Fmt) : Int := 1 - (f.bias : Int) - f.frac

/-- Largest finite magnitude as significand and exponent. -/
def Fmt.maxFinite (f : Fmt) : Nat × Int :=
  match f.kind with
  | .e4m3 => (14, 5)
  | .finite => (2 ^ (f.frac + 1) - 1, (2 ^ f.exp - 1 : Int) - f.bias - f.frac)
  | _ => (2 ^ (f.frac + 1) - 1, (2 ^ f.exp - 2 : Int) - f.bias - f.frac)

/-- Canonical NaN (R72). -/
def Fmt.nanPattern (f : Fmt) : Nat :=
  match f.kind with
  | .e4m3 => 0x7F
  | .ieee => (2 ^ f.exp - 1) <<< f.frac ||| 2 ^ (f.frac - 1)
  | _ => 0

/-- Pattern of an infinity. -/
def Fmt.infPattern (f : Fmt) (neg : Bool) : Nat :=
  placeB neg (f.exp + f.frac) + (2 ^ f.exp - 1) <<< f.frac

/-- Pattern of a finite value that the format holds exactly. -/
def Fmt.encode (f : Fmt) (neg : Bool) (m : Nat) (e : Int) : Nat :=
  let s := placeB neg (f.exp + f.frac)
  if m = 0 then s
  else
    let top : Int := e + (bitLen m - 1 : Nat)
    if top < 1 - (f.bias : Int) then s + unitsOf m e f.qmin
    else s + (top + f.bias).toNat <<< f.frac + (unitsOf m e (top - f.frac) - 2 ^ f.frac)

/-- Pattern of the largest finite value of a sign. -/
def Fmt.maxPattern (f : Fmt) (neg : Bool) : Nat := f.encode neg f.maxFinite.1 f.maxFinite.2

/-! ### Elements in memory (R73, R97) -/

/-- `n` bits from bit `pos` of the bytes from `base`, by a byte reader. -/
def readBits (rd : Nat → Byte) (base pos n : Nat) : Nat :=
  bits (unle ((List.range 5).map fun i => rd (base + pos / 8 + i))) (pos % 8) n

/-- Bytes that hold `n` packed elements of `b` bits (R73). -/
def packedBytes (b n : Nat) : Nat := if b = 6 then (n + 3) / 4 * 3 else (n * b + 7) / 8

/-- First byte and bit offset of element (i, j) of a tensor of `b`-bit elements: plain (R73) or end-grain
(R97). -/
def elemAt (endGrain : Bool) (base pitch b i j : Nat) : Nat × Nat :=
  if endGrain then
    let r := i % 32
    let slot := r * 32 + ((j % 32) ^^^ r)
    let start := base + (i / 32 * pitch + j / 32) * 128 * b
    (start + slot * b / 8, slot * b % 8)
  else (base + i * pitch + j * b / 8, j * b % 8)

/-- Bytes that an element at a bit offset touches. -/
def elemBytes (at_ : Nat × Nat) (b : Nat) : List Nat :=
  (List.range ((at_.2 + b + 7) / 8)).map (at_.1 + ·)

/-- Bytes spanned by a tensor of `r` × `c` elements from its base. -/
def extentOf (endGrain : Bool) (pitch b r c : Nat) : Nat :=
  if r = 0 ∨ c = 0 then 0
  else if endGrain then ((r - 1) / 32 * pitch + (c - 1) / 32 + 1) * 128 * b
  else (r - 1) * pitch + packedBytes b c

/-- Element (i, j) as stored. -/
def readElem (rd : Nat → Byte) (endGrain : Bool) (base pitch b i j : Nat) : Nat :=
  let p := elemAt endGrain base pitch b i j
  readBits rd p.1 p.2 b

/-! ### Shared scales (R76 to R78) -/

/-- Block size of a scale spec; 0 for none, and for the reserved code 7. -/
def scaleBlock (spec : Nat) : Nat :=
  let k := spec % 8
  if k = 0 ∨ k = 7 then 0 else 2 ^ (k + 2)

/-- Address of the scale byte of element (i, j) of a tensor: `alongCols` when the block axis is the column
index; `oi`, `oj` are the global indexes of element (0, 0), whose block the array's address names (R78, R143). -/
def scaleAddr (base pitch blk : Nat) (alongCols : Bool) (oi oj i j : Nat) : Nat :=
  if alongCols then base + i * pitch + ((oj + j) / blk - oj / blk)
  else base + ((oi + i) / blk - oi / blk) * pitch + j

/-- Apply an E8M0 scale byte (R76, R79). -/
def Val.scaled (v : Val) (e : Nat) : Val := if e = 0xFF then .nan else v.scale ((e : Int) - 127)

end Sys2Proof.Machine
end

