-- ==== Sys2Proof/Machine/Flags.lean ====
section
/-! DEFINITION. Rounding, output conversion and the numeric flags they set (R60, R82, R84, R86 to R90,
R93). -/

namespace Sys2Proof.Machine

/-! ### Flags: bits of CORE_NUM_FLAGS (R93) -/

/-- ACC_OVERFLOW. -/
def fAccOverflow : BitVec 6 := 1
/-- NAN_OUT. -/
def fNanOut : BitVec 6 := 2
/-- OUT_SATURATED. -/
def fOutSaturated : BitVec 6 := 4
/-- INT_SATURATED. -/
def fIntSaturated : BitVec 6 := 8
/-- FLUSHED. -/
def fFlushed : BitVec 6 := 16
/-- STOCHASTIC. -/
def fStochastic : BitVec 6 := 32

/-! ### Rounding -/

/-- Rounding modes of an output (R86): nearest even, or stochastic with the generator's output (R89). -/
inductive Rounding where
  | even
  | stochastic (r : BitVec 32)
deriving DecidableEq, Repr

/-- `m / 2^sh`, rounded. -/
def roundShift (md : Rounding) (m sh : Nat) : Nat :=
  let q := m >>> sh
  let rem := m % 2 ^ sh
  if rem = 0 then q
  else
    match md with
    | .even => if 2 * rem > 2 ^ sh ∨ (2 * rem = 2 ^ sh ∧ q % 2 = 1) then q + 1 else q
    | .stochastic r => if rem * 65536 / 2 ^ sh + bits r.toNat 16 16 ≥ 65536 then q + 1 else q

/-- Round m × 2^e to `p` significant bits with units not below 2^qmin; the exponent range is unbounded
above. -/
def roundSig (md : Rounding) (p : Nat) (qmin : Int) (m : Nat) (e : Int) : Nat × Int :=
  let q := max (e + bitLen m - p) qmin
  if q ≤ e then (m, e) else (roundShift md m (q - e).toNat, q)

/-- Exponent of the leading bit of m × 2^e. -/
def topExp (m : Nat) (e : Int) : Int := e + bitLen m - 1

/-- Round to binary32 by round to nearest even of IEEE 754, subnormals kept (R60, R84): pattern and
whether a finite value overflowed. -/
def roundIeee (v : Val) : BitVec 32 × Bool :=
  match v with
  | .nan => (0x7FC00000, false)
  | .inf s => (BitVec.ofNat 32 (fp32.infPattern s), false)
  | .fin s m e =>
    let (m', e') := roundSig .even 24 (-149) m e
    if m' ≠ 0 ∧ 128 ≤ topExp m' e' then (BitVec.ofNat 32 (fp32.infPattern s), true)
    else (BitVec.ofNat 32 (fp32.encode s m' e'), false)

/-- Round as the fast accumulator does (R82): 24 significant bits of unbounded range, then results below
2^−126 become zero: pattern, overflow, flush. -/
def roundFast (v : Val) : BitVec 32 × Bool × Bool :=
  match v with
  | .nan => (0x7FC00000, false, false)
  | .inf s => (BitVec.ofNat 32 (fp32.infPattern s), false, false)
  | .fin s m e =>
    if m = 0 then (BitVec.ofNat 32 (fp32.encode s 0 0), false, false)
    else
      let (m', e') := roundSig .even 24 (e + bitLen m - 24) m e
      if 128 ≤ topExp m' e' then (BitVec.ofNat 32 (fp32.infPattern s), true, false)
      else if topExp m' e' < -126 then (BitVec.ofNat 32 (fp32.encode s 0 0), false, true)
      else (BitVec.ofNat 32 (fp32.encode s m' e'), false, false)

/-- The value of an FP32 pattern. -/
def val32 (p : BitVec 32) : Val := fp32.decode p.toNat

/-! ### The stochastic generator (R90) -/

/-- r of R90. -/
def generator (step : BitVec 48) (tile : BitVec 32) (row col : Nat) : BitVec 32 :=
  let c : Word := 0x7C4FD2B3A86519E5
  let z : Word := (BitVec.ofNat 64 row <<< 24) ^^^ BitVec.ofNat 64 col ^^^ (step.zeroExtend 64 * 0xE3A15C279B6D4F81)
  let z := (z ^^^ (z >>> 31)) * c
  let z := z ^^^ (tile.zeroExtend 64 * 0xA5F13C8B2E6D9047)
  let z := (z ^^^ (z >>> 29)) * c
  let z := z ^^^ (z >>> 32)
  z.truncate 32

/-! ### Output conversion (R86, R148) -/

/-- What a value beyond the largest finite becomes (R86). `ieeeField` is the overflow field; elements of a
scaled block always saturate. -/
def overflowTo (f : Fmt) (code : Nat) (neg ieeeField scaled : Bool) : Nat × BitVec 6 :=
  if !scaled && decide (5 ≤ code) then (f.infPattern neg, 0)
  else if scaled || !ieeeField || f.kind == .finite then (f.maxPattern neg, fOutSaturated)
  else if f.kind = .ieee then (f.infPattern neg, 0)
  else (f.nanPattern, fNanOut)

/-- Convert a value to a format (R86, R89): pattern and flags. The overflow test follows the rounding
(assumption log 6). -/
def convert (code : Nat) (md : Rounding) (ieeeField scaled : Bool) (v : Val) : Nat × BitVec 6 :=
  match fmtOf code with
  | none => (0, 0)
  | some f =>
    match f.kind, v with
    | .int, .nan => (0, fNanOut)
    | .int, .inf s => (if s then 2 ^ (f.width - 1) else 2 ^ (f.width - 1) - 1, fOutSaturated)
    | .int, .fin s m e =>
      let n := if 0 ≤ e then m <<< e.toNat else roundShift .even m (-e).toNat
      if s then
        if 2 ^ (f.width - 1) < n then (2 ^ (f.width - 1), fOutSaturated) else ((2 ^ f.width - n) % 2 ^ f.width, 0)
      else if 2 ^ (f.width - 1) ≤ n then (2 ^ (f.width - 1) - 1, fOutSaturated) else (n, 0)
    | _, .nan => (f.nanPattern, fNanOut)
    | _, .inf s => overflowTo f code s ieeeField scaled
    | _, .fin s m e =>
      if m = 0 then (f.encode s 0 0, 0)
      else
        let (m', e') := roundSig md (f.frac + 1) f.qmin m e
        let mx := f.maxFinite
        let q := min e' mx.2
        if unitsOf mx.1 mx.2 q < unitsOf m' e' q then overflowTo f code s ieeeField scaled
        else (f.encode s m' e', 0)

/-- emax of R87. -/
def emaxOf : Nat → Int
  | 0 => 2 | 1 => 2 | 2 => 4 | 3 => 8 | 4 => 15 | _ => 0

/-- Largest magnitude of a list of finite values, as significand and exponent. -/
def amax : List Val → Nat × Int
  | [] => (0, 0)
  | .fin _ m e :: r =>
    let b := amax r
    if m = 0 then b
    else if b.1 = 0 then (m, e)
    else
      let q := min e b.2
      if unitsOf b.1 b.2 q < unitsOf m e q then (m, e) else b
  | _ :: r => amax r

/-- Form one scaled block (R87): the scale byte, the element patterns, and flags. `md` gives each element
its rounding. -/
def scaleBlockOut (code : Nat) (vs : List (Val × Rounding)) : Byte × List Nat × BitVec 6 :=
  if vs.any (fun v => !v.1.isFin) then (0xFF, vs.map fun _ => 0, fNanOut)
  else
    let (m, e) := amax (vs.map (·.1))
    if m = 0 then (0, vs.map fun _ => 0, 0)
    else
      let x := max (-127) (min 127 (topExp m e - emaxOf code))
      let es := vs.map fun v => convert code v.2 false true (v.1.scale (-x))
      (BitVec.ofInt 8 (x + 127), es.map (·.1), es.foldl (fun a b => a ||| b.2) 0)

end Sys2Proof.Machine
end

