-- ==== Sys2Proof/Machine/Engines.lean ====
section
/-! DEFINITION. Tiles: the descriptor (R143 to R146), accumulation in fast, strict and integer form
(R46 to R48, R80 to R85), and output (R86 to R91, R104). -/

namespace Sys2Proof.Machine

/-! ### Tile descriptors -/

/-- A tile descriptor (R143). -/
structure Desc where
  raw : List Byte
  kind : Nat
  fa : Nat
  fb : Nat
  fo : Nat
  rounding : Nat
  overflow : Bool
  la : Bool
  lb : Bool
  lo : Bool
  sa : Nat
  sb : Nat
  so : Nat
  init : Nat
  last : Bool
  quiet : Bool
  q : Nat
  c : Nat
  m : Nat
  n : Nat
  k : Nat
  tile : BitVec 32
  mask : BitVec 32
  a : Nat
  b : Nat
  o : Nat
  i : Nat
  pa : Nat
  pb : Nat
  po : Nat
  pi : Nat
  asc : Nat
  bsc : Nat
  osc : Nat
  pas : Nat
  pbs : Nat
  pos : Nat
  om : Nat
  on : Nat
  ok : Nat
  extent : Nat
deriving DecidableEq, Repr

/-- Read a descriptor of 128 bytes (R143). -/
def parseDesc (r : List Byte) : Desc :=
  { raw := r, kind := uAt r 0 1, fa := bits (uAt r 1 1) 0 4, fb := bits (uAt r 1 1) 4 4,
    fo := bits (uAt r 2 1) 0 4, rounding := bits (uAt r 2 1) 4 2, overflow := bits (uAt r 2 1) 6 1 == 1,
    la := bits (uAt r 3 1) 0 1 == 1, lb := bits (uAt r 3 1) 1 1 == 1, lo := bits (uAt r 3 1) 2 1 == 1,
    sa := bits (uAt r 4 2) 0 4, sb := bits (uAt r 4 2) 4 4, so := bits (uAt r 4 2) 8 4,
    init := bits (uAt r 6 1) 0 2, last := bits (uAt r 6 1) 2 1 == 1, quiet := bits (uAt r 6 1) 3 1 == 1,
    q := bits (uAt r 7 1) 0 2, c := uAt r 8 1, m := uAt r 0xA 2, n := uAt r 0xC 2, k := uAt r 0xE 2,
    tile := BitVec.ofNat 32 (uAt r 0x10 4), mask := BitVec.ofNat 32 (uAt r 0x14 4),
    a := uAt r 0x18 8, b := uAt r 0x20 8, o := uAt r 0x28 8, i := uAt r 0x30 8,
    pa := uAt r 0x38 4, pb := uAt r 0x3C 4, po := uAt r 0x40 4, pi := uAt r 0x44 4,
    asc := uAt r 0x48 8, bsc := uAt r 0x50 8, osc := uAt r 0x58 8,
    pas := uAt r 0x60 4, pbs := uAt r 0x64 4, pos := uAt r 0x68 4,
    om := uAt r 0x6C 4, on := uAt r 0x70 4, ok := uAt r 0x74 4, extent := uAt r 0x78 4 }

/-- Streamed rows of a descriptor (R94, R144). -/
def Desc.rows (d : Desc) : Nat := if d.kind = 2 then d.k else d.m
/-- Contraction length (R94, R96). -/
def Desc.depth (d : Desc) : Nat := if d.kind = 0 then d.k else if d.kind = 1 then d.n else d.m
/-- Output width (R96). -/
def Desc.width (d : Desc) : Nat := if d.kind = 1 then d.k else d.n
/-- First output row in the output tensor. -/
def Desc.outRow (d : Desc) : Nat := if d.kind = 2 then d.ok else d.om
/-- First output column in the output tensor. -/
def Desc.outCol (d : Desc) : Nat := if d.kind = 1 then d.ok else d.on
/-- Stored dimensions of operand A. -/
def Desc.aDims (d : Desc) : Nat × Nat := if d.kind = 1 then (d.m, d.n) else (d.m, d.k)
/-- Stored dimensions of operand B. -/
def Desc.bDims (d : Desc) : Nat × Nat := if d.kind = 2 then (d.m, d.n) else (d.k, d.n)
/-- The tile writes stochastically rounded output (R90): its rounding field says so, its output is rounded at all (INT32 is not),
and it writes (M = 0 writes nothing). DEDUCED, assumption log 113. -/
def Desc.stochastic (d : Desc) : Bool := d.rounding == 1 && d.fo != 0xA && d.m != 0
/-- Integer tile (R44). -/
def Desc.isInt (d : Desc) : Bool := fmtIsInt d.fa
/-- Stored index of operand A at a streamed row and a contraction index (R94). -/
def Desc.aIndex (d : Desc) (r kk : Nat) : Nat × Nat := if d.kind = 2 then (kk, r) else (r, kk)
/-- Stored index of operand B at a contraction index and an output column (R94). -/
def Desc.bIndex (d : Desc) (kk j : Nat) : Nat × Nat := if d.kind = 1 then (j, kk) else (kk, j)

/-! ### Checks (R146) -/

/-- Reserved fields and codes, the first check of R146. -/
def Desc.reservedBad (d : Desc) : Bool :=
  decide (2 < d.kind) || (fmtOf d.fa).isNone || (fmtOf d.fb).isNone || (fmtOf d.fo).isNone ||
    decide (1 < d.rounding) || bits (uAt d.raw 2 1) 7 1 == 1 || bits (uAt d.raw 3 1) 3 5 != 0 ||
    d.sa % 8 == 7 || d.sb % 8 == 7 || d.so % 8 == 7 || bits (uAt d.raw 4 2) 12 4 != 0 ||
    d.init == 3 || bits (uAt d.raw 6 1) 4 4 != 0 || bits (uAt d.raw 7 1) 2 6 != 0 ||
    uAt d.raw 9 1 != 0 || uAt d.raw 0x7C 4 != 0

/-- Bytes of an operand's scale array (R78): none without a scale. -/
def scaleExtent (spec pitch : Nat) (alongCols : Bool) (oi oj r c : Nat) : Nat :=
  let b := scaleBlock spec
  if b = 0 ∨ r = 0 ∨ c = 0 then 0
  else if alongCols then (r - 1) * pitch + ((oj + c - 1) / b - oj / b + 1)
  else ((oi + r - 1) / b - oi / b) * pitch + c

/-- Block axis of operand A runs along the stored columns: X scaled along K (R77, R78). -/
def Desc.aAlongCols (d : Desc) : Bool := decide (d.sa < 8)
/-- Block axis of operand B runs along the stored columns: W scaled along N (R77, R78). -/
def Desc.bAlongCols (d : Desc) : Bool := decide (8 ≤ d.sb)
/-- Global indexes of element (0, 0) of operand A. -/
def Desc.aOrigin (d : Desc) : Nat × Nat := if d.kind = 1 then (d.om, d.on) else (d.om, d.ok)
/-- Global indexes of element (0, 0) of operand B. -/
def Desc.bOrigin (d : Desc) : Nat × Nat := if d.kind = 2 then (d.om, d.on) else (d.ok, d.on)

/-- The regions and scale arrays a descriptor uses: address and length (R146). -/
def Desc.regions (d : Desc) : List (Nat × Nat) :=
  let ad := d.aDims
  let bd := d.bDims
  [(d.a, extentOf d.la d.pa (fmtBits d.fa) ad.1 ad.2), (d.b, extentOf d.lb d.pb (fmtBits d.fb) bd.1 bd.2),
   (d.o, extentOf d.lo d.po (fmtBits d.fo) d.rows d.width),
   (d.i, if d.init = 2 then extentOf false d.pi 32 d.rows d.width else 0),
   (d.asc, scaleExtent d.sa d.pas d.aAlongCols d.aOrigin.1 d.aOrigin.2 ad.1 ad.2),
   (d.bsc, scaleExtent d.sb d.pbs d.bAlongCols d.bOrigin.1 d.bOrigin.2 bd.1 bd.2),
   (d.osc, scaleExtent d.so d.pos true d.outRow d.outCol d.rows d.width)].filter (fun x => decide (0 < x.2))

/-- A code with an element narrower than 16 bits, which alone takes a shared scale (R77). -/
def narrow (code : Nat) : Bool := decide (code ≤ 4) || code == 8 || code == 9

/-- The format, scale and width rules of R146's third check: R44, R54, R75, R77, R86, R88, R90, R92, R97,
R99, R144. -/
def Desc.rulesBad (d : Desc) (tileWidth : Nat) : Bool :=
  let intTile := d.isInt
  let blk := scaleBlock d.so
  let endGrainBad (on_ : Bool) (base pitch cols : Nat) : Bool :=
    on_ && (base % 256 != 0 || decide (pitch < (cols + 31) / 32))
  -- R44, R75
  fmtIsInt d.fa != fmtIsInt d.fb || decide (9 < d.fa) || decide (9 < d.fb) ||
  (if intTile then d.fo != 5 && d.fo != 7 && d.fo != 0xA else decide (7 < d.fo)) ||
  (!intTile && decide (d.fo ≤ 2) && blk == 0) ||
  -- R77
  (d.sa % 8 != 0 && !narrow d.fa) || (d.sb % 8 != 0 && !narrow d.fb) || (blk != 0 && !narrow d.fo) ||
  (intTile && d.sa % 8 != 0 && d.aAlongCols) || (intTile && d.sb % 8 != 0 && !d.bAlongCols) ||
  (intTile && d.fo == 0xA && (d.sa % 8 != 0 || d.sb % 8 != 0 || blk != 0)) ||
  -- R88
  (blk != 0 && (decide (8 ≤ d.so) || decide (32 < blk) || d.outCol % blk != 0 ||
    (d.width % blk != 0 && (d.extent == 0 || d.extent != d.outCol + d.width)))) ||
  (d.extent != 0 && decide (d.extent < d.outCol + d.width)) ||
  -- R90
  (d.stochastic && (decide (2 ^ 24 < d.outRow + d.rows) || decide (2 ^ 24 < d.outCol + d.width))) ||
  -- R92
  (d.kind == 1 && d.fa != 5) || (d.kind == 2 && d.fb != 5) || (d.kind != 0 && d.fo != 5) ||
  -- R97
  endGrainBad d.la d.a d.pa d.aDims.2 || endGrainBad d.lb d.b d.pb d.bDims.2 ||
  endGrainBad d.lo d.o d.po d.width ||
  -- R99: the staged region of a plain transposed streamed operand
  (d.kind == 2 && !d.la && decide (0x40000 < (d.m * d.k * fmtBits d.fa + 7) / 8)) ||
  -- R144, R54; M = 0 only with initial value 0 and LAST, the other dimensions at least 1
  (d.m == 0 && (d.init != 0 || !d.last)) || d.n == 0 || d.k == 0 ||
  decide (1024 < d.rows) || decide (256 < d.depth) || decide (tileWidth < d.width) ||
  decide (tileWidth ≤ d.c)

/-- A continuing tile agrees with the tile that opened the accumulation (R145). -/
def Desc.continues (d o : Desc) : Bool :=
  d.kind == o.kind && d.fa == o.fa && d.fb == o.fb && uAt d.raw 2 1 == uAt o.raw 2 1 && d.lo == o.lo &&
    d.sa == o.sa && d.sb == o.sb && d.so == o.so && d.q == o.q && d.c == o.c && d.tile == o.tile &&
    d.mask == o.mask && d.o == o.o && d.po == o.po && d.osc == o.osc && d.pos == o.pos &&
    d.extent == o.extent && d.rows == o.rows && d.width == o.width && d.outRow == o.outRow && d.outCol == o.outCol

/-- First address past the usable part of a logical core's Tray window: the staging area is its top
256 KiB (R99). -/
def windowEnd (logical : Nat) (staging : Bool) : Nat := trayOf (logical + 1) - (if staging then 0x40000 else 0)

/-- The regions lie in the Tray window of the logical core and clear of the staging area (R146). -/
def Desc.regionsBad (d : Desc) (logical : Nat) (staging : Bool) : Bool :=
  d.regions.any fun r => decide (r.1 < trayOf logical) || decide (windowEnd logical staging < r.1 + r.2)

/-- Some region lies in the Inlay of a clamped die (R146, R23). -/
def Desc.clampedRegion (d : Desc) (clamped : Nat → Bool) : Bool :=
  d.regions.any fun r => (List.range 24).any fun die => clamped die && overlaps r.1 r.2 (die * 2 ^ 32) (2 ^ 32)

/-- The status a descriptor's checks give, in the order of R146; OK where it may run. -/
def Desc.check (d : Desc) (tileWidth logical : Nat) (staging : Bool) (clamped : Nat → Bool)
    (opened : Option Desc) : Status :=
  if d.reservedBad then .badParam
  else if d.clampedRegion clamped then .clamped
  else if d.rulesBad tileWidth || d.regionsBad logical staging ||
      (match opened with
       | none => d.init == 1
       | some o => d.init != 1 || !d.continues o) then .badParam
  else .ok

/-! ### What a tile reads -/

/-- Element (r, kk) of operand A, scaled (R79). -/
def Desc.aVal (d : Desc) (rd : Nat → Byte) (r kk : Nat) : Val :=
  let x := d.aIndex r kk
  let v := ((fmtOf d.fa).getD fp32).decode (readElem rd d.la d.a d.pa (fmtBits d.fa) x.1 x.2)
  if d.sa % 8 = 0 ∨ d.isInt then v
  else v.scaled (rd (scaleAddr d.asc d.pas (scaleBlock d.sa) d.aAlongCols d.aOrigin.1 d.aOrigin.2 x.1 x.2)).toNat

/-- Element (kk, j) of operand B, scaled (R79). -/
def Desc.bVal (d : Desc) (rd : Nat → Byte) (kk j : Nat) : Val :=
  let x := d.bIndex kk j
  let v := ((fmtOf d.fb).getD fp32).decode (readElem rd d.lb d.b d.pb (fmtBits d.fb) x.1 x.2)
  if d.sb % 8 = 0 ∨ d.isInt then v
  else v.scaled (rd (scaleAddr d.bsc d.pbs (scaleBlock d.sb) d.bAlongCols d.bOrigin.1 d.bOrigin.2 x.1 x.2)).toNat

/-- Pairs below `r` and `c`. -/
def pairs (r c : Nat) : List (Nat × Nat) := (List.range r).flatMap fun i => (List.range c).map fun j => (i, j)

/-- Addresses of the integer scales of an accumulation: the first contraction index of its opener (R79). -/
def Desc.intScaleA (o : Desc) (r : Nat) : Option Nat :=
  if o.isInt ∧ o.sa % 8 ≠ 0 then
    some (scaleAddr o.asc o.pas (scaleBlock o.sa) false o.om o.ok r 0) else none
/-- As `intScaleA`, for operand B. -/
def Desc.intScaleB (o : Desc) (j : Nat) : Option Nat :=
  if o.isInt ∧ o.sb % 8 ≠ 0 then
    some (scaleAddr o.bsc o.pbs (scaleBlock o.sb) true o.ok o.on 0 j) else none

/-- The bytes a tile reads, region by region, as logical addresses: A, B, initial values, the scales of A and of B, and at the
last tile the integer scales of the accumulation. A tile with M = 0 reads nothing (R144). -/
def Desc.readRegions (d o : Desc) : List (List Nat) :=
  let el (eg : Bool) (base pitch b : Nat) (x : Nat × Nat) := elemBytes (elemAt eg base pitch b x.1 x.2) b
  if d.m = 0 then []
  else
    [(pairs d.aDims.1 d.aDims.2).flatMap (el d.la d.a d.pa (fmtBits d.fa)),
     (pairs d.bDims.1 d.bDims.2).flatMap (el d.lb d.b d.pb (fmtBits d.fb)),
     if d.init = 2 then (pairs d.rows d.width).flatMap (el false d.i d.pi 32) else [],
     if d.sa % 8 = 0 ∨ d.isInt then [] else (pairs d.aDims.1 d.aDims.2).map fun x =>
       scaleAddr d.asc d.pas (scaleBlock d.sa) d.aAlongCols d.aOrigin.1 d.aOrigin.2 x.1 x.2,
     if d.sb % 8 = 0 ∨ d.isInt then [] else (pairs d.bDims.1 d.bDims.2).map fun x =>
       scaleAddr d.bsc d.pbs (scaleBlock d.sb) d.bAlongCols d.bOrigin.1 d.bOrigin.2 x.1 x.2,
     if d.last then (List.range d.rows).filterMap o.intScaleA else [],
     if d.last then (List.range d.width).filterMap o.intScaleB else []]

/-- Every byte a tile reads. -/
def Desc.reads (d o : Desc) : List Nat := (d.readRegions o).flatten

/-- Numbers in rising order, each once. -/
def rising (l : List Nat) : List Nat := (l.foldl (fun t x => tabSet false t x true) []).map (·.1)

/-- The bytes of a tile in capture order: the regions one after another, each as it is stored, each byte once (R332, R343). -/
def Desc.operands (d o : Desc) : List Nat := (d.readRegions o).flatMap rising

/-! ### Accumulation -/

/-- The finite, non-zero products of a list. -/
def nonZero (ps : List Val) : List (Bool × Nat × Int) :=
  ps.filterMap fun | .fin s m e => if m = 0 then none else some (s, m, e) | _ => none

/-- Largest exponent of a list of products (R81): the lowest bit's exponent stands for E − f. -/
def maxExp : List (Bool × Nat × Int) → Int
  | [] => 0
  | [p] => p.2.2
  | p :: r => max p.2.2 (maxExp r)

/-- Fast group sum (R81): products truncated toward zero on the grid 2^(E_g − f − 3), summed exactly, then
rounded (R82): pattern, overflow, flush. -/
def groupSum (ps : List Val) : BitVec 32 × Bool × Bool :=
  let nz := nonZero ps
  let u := maxExp nz - 3
  let x : Int := nz.foldl (fun a p => a + (if p.1 then -1 else 1) * (unitsOf p.2.1 p.2.2 u : Int)) 0
  if x = 0 then (0, false, false) else roundFast (.fin (decide (x < 0)) x.natAbs u)

/-- Add the eight group sums in order (R46), rounding each addition (R82); flags: overflow, flush. A group of zero products is
added as +0 and rounded like any other, so a subnormal initial value is flushed and reported even where all products are zero
(DESIGN CHOICE between R82's every addition and R83's "no error", assumption log 115). -/
def fastChain (acc : BitVec 32) : List (List Val) → BitVec 32 × Bool × Bool
  | [] => (acc, false, false)
  | g :: r =>
    let (gs, o1, f1) := groupSum g
    let (a, o2, f2) := roundFast ((val32 acc).add (val32 gs))
    let (x, o3, f3) := fastChain a r
    let finBoth := (val32 acc).isFin && (val32 gs).isFin
    (x, o1 || (o2 && finBoth) || o3, f1 || f2 || f3)

/-- Strict accumulation (R84): one rounding per product in ascending order; flag: overflow. -/
def strictChain (acc : BitVec 32) : List Val → BitVec 32 × Bool
  | [] => (acc, false)
  | p :: r =>
    let (a, o) := roundIeee ((val32 acc).add p)
    let (x, o') := strictChain a r
    (x, o || o')

/-- INT32 value of a pattern. -/
def int32 (p : BitVec 32) : Int := p.toInt

/-- Saturating INT32 addition (R48): result and whether it saturated. -/
def satInt32 (a b : Int) : BitVec 32 × Bool :=
  let x := a + b
  if 2 ^ 31 - 1 < x then (0x7FFFFFFF, true)
  else if x < -(2 ^ 31) then (0x80000000, true)
  else (BitVec.ofInt 32 x, false)

/-- The integer of a decoded element. -/
def Val.toInt : Val → Int
  | .fin s m e => (if s then -1 else 1) * (unitsOf m e 0 : Int)
  | _ => 0

/-- Integer accumulation (R48): eight exact group sums added in order, each addition saturating. -/
def intChain (acc : BitVec 32) : List (List Val) → BitVec 32 × Bool
  | [] => (acc, false)
  | g :: r =>
    let (a, o) := satInt32 (int32 acc) (g.foldl (fun x p => x + p.toInt) 0)
    let (x, o') := intChain a r
    (x, o || o')

/-- Products of output element (r, j) in ascending contraction order. -/
def Desc.products (d : Desc) (rd : Nat → Byte) (r j : Nat) : List Val :=
  (List.range d.depth).map fun kk => (d.aVal rd r kk).mul (d.bVal rd kk j)

/-- The eight K-groups of a tile (R81): rows beyond the contraction hold zeros. -/
def groups8 (ps : List Val) : List (List Val) := (List.range 8).map fun g => (ps.drop (32 * g)).take 32

/-- Take in the special values of R80. -/
def AccElem.mark (x : AccElem) (ps : List Val) : AccElem :=
  let n := x.nan || ps.any Val.isNan
  let p := x.pinf || ps.any (· == .inf false)
  let m := x.ninf || ps.any (· == .inf true)
  { x with nan := n || (p && m), pinf := p, ninf := m }

/-- The element has met a special value (R80). -/
def AccElem.special (x : AccElem) : Bool := x.nan || x.pinf || x.ninf

/-- An element at the start of a tile: from zero, from the store, or from the Tray (R47). -/
def Desc.start (d : Desc) (rd : Nat → Byte) (store : List AccElem) (r j : Nat) : AccElem :=
  let zero : AccElem := ⟨0, false, false, false⟩
  if d.init = 1 then store.getD (r * d.width + j) zero
  else if d.init = 2 then
    let p := BitVec.ofNat 32 (readElem rd false d.i d.pi 32 r j)
    if d.isInt then ⟨p, false, false, false⟩ else AccElem.mark ⟨p, false, false, false⟩ [val32 p]
  else zero

/-- Element (r, j) after a tile, with the flags it sets (R93). An element that meets a special value takes it by the flags of R80,
outside the significand path; whether its finite terms also report an overflow or a flush, no rule says: this model reports
neither (DESIGN CHOICE, assumption log 114). -/
def Desc.element (d : Desc) (rd : Nat → Byte) (strict : Bool) (store : List AccElem) (r j : Nat) :
    AccElem × BitVec 6 :=
  let x := d.start rd store r j
  let ps := d.products rd r j
  if d.isInt then
    let (v, o) := intChain x.value (groups8 ps)
    (⟨v, false, false, false⟩, if o then fIntSaturated else 0)
  else
    let y := x.mark ps
    if strict then
      let (v, o) := strictChain x.value (ps.map fun p => if p.isFin then p else .fin false 0 0)
      ({ y with value := v }, if o && !y.special then fAccOverflow else 0)
    else
      let (v, o, f) := fastChain x.value (groups8 ps)
      ({ y with value := v },
        if y.special then 0 else (if o then fAccOverflow else 0) ||| (if f then fFlushed else 0))

/-- The accumulator store after a tile, row by row, with the flags set. -/
def Desc.accumulate (d : Desc) (rd : Nat → Byte) (strict : Bool) (store : List AccElem) :
    List AccElem × BitVec 6 :=
  let es := (pairs d.rows d.width).map fun x => d.element rd strict store x.1 x.2
  (es.map (·.1), es.foldl (fun a e => a ||| e.2) 0)

/-! ### Output -/

/-- The value of a float element at the end of its accumulation (R80). -/
def AccElem.final (x : AccElem) : Val :=
  if x.nan then .nan else if x.pinf then .inf false else if x.ninf then .inf true else val32 x.value

/-- The value the output stage converts: for an integer tile the sum times the scales of the opener's first
contraction index (R79). -/
def Desc.outValue (d o : Desc) (rd : Nat → Byte) (x : AccElem) (r j : Nat) : Val :=
  if d.isInt then
    let i := int32 x.value
    let v := Val.fin (decide (i < 0)) i.natAbs 0
    let v := match o.intScaleA r with | some a => v.scaled (rd a).toNat | none => v
    match o.intScaleB j with | some a => v.scaled (rd a).toNat | none => v
  else x.final

/-- Rounding of output element (r, j) (R86, R90, R91). -/
def Desc.roundingAt (d : Desc) (step : BitVec 48) (r j : Nat) : Rounding :=
  if d.rounding = 1 then .stochastic (generator step d.tile (d.outRow + r) (d.outCol + j)) else .even

/-- A value about to be written to an element: logical byte addresses with the bits of each that it sets. -/
abbrev BitWrite := Nat × Byte × Byte

/-- The bits that writing pattern `p` to an element of `b` bits sets: address, mask, value. -/
def elemWrite (eg : Bool) (base pitch b i j p : Nat) : List BitWrite :=
  let at_ := elemAt eg base pitch b i j
  (List.range ((at_.2 + b + 7) / 8)).map fun k =>
    (at_.1 + k, BitVec.ofNat 8 (bits (maskAt at_.2 b) (8 * k) 8), BitVec.ofNat 8 (bits (p <<< at_.2) (8 * k) 8))

/-- Pattern and flags of an unscaled output element (R86). -/
def Desc.outPattern (d : Desc) (md : Rounding) (v : Val) (x : AccElem) : Nat × BitVec 6 :=
  if d.fo = 0xA then (x.value.toNat, 0) else convert d.fo md d.overflow false v

/-- One row as the last tile converts it: element patterns, scale bytes, flags (R86 to R88). `wrong` is what a
defective part of the core adds to a pattern, by element; a sound core adds nothing. Flags cover every column
(R563). -/
def Desc.rowOut (d o : Desc) (rd : Nat → Byte) (step : BitVec 48) (store : List AccElem) (wrong : Nat → Nat)
    (r : Nat) : List Nat × List Byte × BitVec 6 :=
  let el (j : Nat) : AccElem := store.getD (r * d.width + j) ⟨0, false, false, false⟩
  let blk := scaleBlock d.so
  let (ps, scs, f) : List Nat × List Byte × BitVec 6 :=
    if blk = 0 then
      let xs := (List.range d.width).map fun j => d.outPattern (d.roundingAt step r j) (d.outValue o rd (el j) r j) (el j)
      (xs.map (·.1), [], xs.foldl (fun a x => a ||| x.2) 0)
    else
      (List.range ((d.width + blk - 1) / blk)).foldl (fun acc b =>
        let (sc, ps, f) := scaleBlockOut d.fo ((upFrom (b * blk) (min blk (d.width - b * blk))).map fun j =>
          (d.outValue o rd (el j) r j, d.roundingAt step r j))
        (acc.1 ++ ps, acc.2.1 ++ [sc], acc.2.2 ||| f)) ([], [], 0)
  ((ps.zipIdx).map (fun x => x.1 ^^^ wrong (r * d.width + x.2)), scs, f)

/-- All rows of an output. -/
def Desc.rowsOut (d o : Desc) (rd : Nat → Byte) (step : BitVec 48) (store : List AccElem) (wrong : Nat → Nat) :
    List (List Nat × List Byte × BitVec 6) :=
  (List.range d.rows).map fun r => d.rowOut o rd step store wrong r

/-- The bits the output writes: unmasked columns, and the scale of each block with an unmasked column (R104). -/
def Desc.outWrites (d : Desc) (rows : List (List Nat × List Byte × BitVec 6)) : List BitWrite :=
  let blk := scaleBlock d.so
  rows.zipIdx.flatMap fun x =>
    let r := x.2
    (x.1.1.zipIdx.flatMap fun p =>
      if d.mask.getLsbD p.2 then elemWrite d.lo d.o d.po (fmtBits d.fo) r p.2 p.1 else []) ++
    (x.1.2.1.zipIdx.flatMap fun c =>
      if (upFrom (c.2 * blk) blk).any (fun j => decide (j < d.width) && d.mask.getLsbD j) then
        [(scaleAddr d.osc d.pos blk true d.outRow d.outCol r (c.2 * blk), (0xFF : Byte), c.1)] else [])

/-- Flags of an output (R93): STOCHASTIC only where some row was written with stochastic rounding. -/
def Desc.outFlags (d : Desc) (rows : List (List Nat × List Byte × BitVec 6)) : BitVec 6 :=
  rows.foldl (fun a x => a ||| x.2.2) (if d.stochastic && !rows.isEmpty then fStochastic else 0)

/-- `n` patterns of `b` bits in plain packing (R73). -/
def packRow (b : Nat) (ps : List Nat) : List Byte :=
  le (packedBytes b ps.length) (ps.zipIdx.foldl (fun a p => a + (p.1 % 2 ^ b) <<< (p.2 * b)) 0)

/-- A row padded to whole 64-bit words and read as little-endian words (R338). -/
def rowWords (bs : List Byte) : List Word :=
  (List.range ((bs.length + 7) / 8)).map fun i => word (uAt bs (8 * i) 8)

/-- The words a tile's fingerprint hashes (R338). -/
def Desc.words (d : Desc) (rows : List (List Nat × List Byte × BitVec 6)) : List Word :=
  (rows.flatMap fun x => rowWords (packRow (fmtBits d.fo) x.1)) ++ (rows.flatMap fun x => rowWords x.2.1) ++
    [word (place d.rows 0 16 + place d.width 16 16 + place d.fo 32 4)]

/-- Merge bit writes into bytes: later writes to a byte start from the earlier ones. -/
def mergeWrites (rd : Nat → Byte) : List BitWrite → List (Nat × Byte) → List (Nat × Byte)
  | [], acc => acc
  | (a, m, v) :: r, acc =>
    let old := match acc.find? (·.1 == a) with | some x => x.2 | none => rd a
    mergeWrites rd r ((a, (old &&& ~~~m) ||| (v &&& m)) :: acc.filter (·.1 ≠ a))

end Sys2Proof.Machine
end

