-- ==== Sys2Proof/Machine/Transcend.lean ====
section
/-! DEFINITION. Transcendental functions of the row unit and of the fused row path (R60, R62): a free result, held to
the rule's bound of 2 units in the last place. The true value is compared through a dyadic approximation whose own error is far
below the bound (assumption log 112). -/

namespace Sys2Proof.Machine

/-! ### Dyadic approximations, in units of 2^-256 -/

/-- Σ y^k / k! for k from `k0` on, `n` more terms, `t` being the current term. -/
def expTerms (y : Nat) : (n k0 t : Nat) → Nat
  | 0, _, t => t
  | n + 1, k0, t => t + expTerms y n (k0 + 1) (t * y / 2 ^ 256 / (k0 + 1))

/-- `n` squarings. -/
def squarings : (n v : Nat) → Nat
  | 0, v => v
  | n + 1, v => squarings n (v * v / 2 ^ 256)

/-- e^(x / 2^256) for x / 2^256 below 256: Taylor on x / 2^10, then ten squarings. -/
def expUnits (x : Nat) : Nat := squarings 10 (expTerms (x / 2 ^ 10) 48 0 (2 ^ 256))

/-- Σ t^(2i+1) / (2i+1), the series of artanh: `p` is the current power, `n` the terms left. -/
def artanhTerms (t2 : Nat) : (n k p : Nat) → Nat
  | 0, _, _ => 0
  | n + 1, k, p => p / (2 * k + 1) + artanhTerms t2 n (k + 1) (p * t2 / 2 ^ 256)

/-- artanh of a number below 1/2. -/
def artanhUnits (t : Nat) : Nat := artanhTerms (t * t / 2 ^ 256) 90 0 t

/-- Integer square root, bit by bit from bit `n`. -/
def rootFrom (x : Nat) : (n r : Nat) → Nat
  | 0, r => r
  | n + 1, r => rootFrom x n (if (r + 2 ^ n) * (r + 2 ^ n) ≤ x then r + 2 ^ n else r)

/-- ln of m × 2^e, signed, in units of 2^-256. -/
def lnUnits (m : Nat) (e : Int) : Int :=
  let k := topExp m e
  let f := unitsOf m (e - k) (-256)
  (artanhUnits ((f - 2 ^ 256) * 2 ^ 256 / (f + 2 ^ 256)) * 2 : Nat) + k * (2 * artanhUnits (2 ^ 256 / 3) : Nat)

/-- The value of a transcendental function (R148) at a finite operand that is no special case of `transcendSpecial`. -/
def transcendTrue (fn : Nat) (neg : Bool) (m : Nat) (e : Int) : Val :=
  let big := decide (7 ≤ topExp m e)
  let x := unitsOf m e (-256)
  match fn with
  | 0x10 =>
    if big then .fin false 1 (if neg then -256 else 256)
    else if neg then .fin false (2 ^ 512 / expUnits x) (-256) else .fin false (expUnits x) (-256)
  | 0x11 => let y := lnUnits m e; .fin (decide (y < 0)) y.natAbs (-256)
  | 0x12 => .fin neg (2 ^ 256 / m) (-256 - e)
  | 0x13 =>
    let odd := e % 2 = 1
    .fin false (rootFrom (2 ^ 512 / (if odd then 2 * m else m)) 257 0) (-256 - (if odd then e - 1 else e) / 2)
  | _ =>
    if big then .fin neg (2 ^ 256 - 1) (-256)
    else let y := expUnits (2 * x); .fin neg ((y - 2 ^ 256) * 2 ^ 256 / (y + 2 ^ 256)) (-256)

/-! ### Results -/

/-- One unit in the last place of FP32 at a value, as an exponent. -/
def ulpExp (m : Nat) (e : Int) : Int := max (topExp m e) (-126) - 23

/-- The value an FP32 result stands for in the bound: infinity as 2^128. -/
def resultValue : Val → Option (Bool × Nat × Int)
  | .fin s m e => some (s, m, e)
  | .inf s => some (s, 1, 128)
  | .nan => none

/-- A result is within 2 units in the last place of a value (R60). -/
def withinTwo (v : Val) (r : BitVec 32) : Bool :=
  match v, resultValue (val32 r) with
  | .fin s m e, some (s', m', e') =>
    let q := min (min e e') (ulpExp m e)
    let signed (b : Bool) (x : Nat) : Int := if b then -(x : Int) else x
    decide ((signed s (unitsOf m e q) - signed s' (unitsOf m' e' q)).natAbs ≤ unitsOf 2 (ulpExp m e) q)
  | _, _ => false

/-- A free result where the bound allows it, else the nearest FP32 value. -/
def bounded (v : Val) (pick : BitVec 32) : BitVec 32 := if withinTwo v pick then pick else (roundIeee v).1

/-- Results at the operands where the function has no error to bound: a limit or an exact value (DEDUCED, assumption log 112).
None where the value is bounded by R60 or where the spec states no result. -/
def transcendSpecial (fn : Nat) (v : Val) : Option Val :=
  match fn, v with
  | 0x10, .inf s => some (if s then .fin false 0 0 else .inf false)
  | 0x10, .fin _ 0 _ => some (.fin false 1 0)
  | 0x11, .inf false => some (.inf false)
  | 0x11, .fin false m e => if unitsOf m e (-149) = 2 ^ 149 then some (.fin false 0 0) else none
  | 0x12, .inf s => some (.fin s 0 0)
  | 0x12, .fin s 0 _ => some (.inf s)
  | 0x13, .inf false => some (.fin false 0 0)
  | 0x13, .fin s 0 _ => some (.inf s)
  | 0x14, .inf s => some (.fin s 1 0)
  | 0x14, .fin s 0 _ => some (.fin s 0 0)
  | _, _ => none

/-- The operand is one for which R60's bound means something: a finite value inside the function's domain. -/
def inDomain (fn : Nat) (neg : Bool) (m : Nat) : Bool := m != 0 && (!neg || (fn != 0x11 && fn != 0x13))

/-- A transcendental function: its limits and exact values, a result within 2 units in the last place elsewhere, and a free result
where the spec states none (NaN operands; LOG and RSQRT of negative values; LOG of zero). -/
def transcendBits (fn : Nat) (pick a : BitVec 32) : BitVec 32 :=
  match transcendSpecial fn (val32 a) with
  | some v => (roundIeee v).1
  | none =>
    match val32 a with
    | .fin s m e => if inDomain fn s m then bounded (transcendTrue fn s m e) pick else pick
    | _ => pick

end Sys2Proof.Machine
end

