-- ==== Sys2Proof/Machine/RowUnit.lean ====
section
/-! DEFINITION. Row-unit operations (R60, R61, R147, R148), the fused row path (R62) and the byte moves of
COPY (R100, R149). -/

namespace Sys2Proof.Machine

/-! ### Operation blocks (R147) -/

/-- An operation block. -/
structure OpBlock where
  raw : List Byte
  fn : Nat
  fs : Nat
  fd : Nat
  flags : Nat
  spec : Nat
  len : Nat
  count : Nat
  tile : BitVec 32
  s0 : Nat
  s1 : Nat
  s2 : Nat
  dst : Nat
  sp : Nat
  dp : Nat
  scalar : BitVec 32
  scp : Nat
deriving DecidableEq, Repr

/-- Read an operation block of 64 bytes. -/
def parseOp (r : List Byte) : OpBlock :=
  { raw := r, fn := uAt r 0 1, fs := bits (uAt r 1 1) 0 4, fd := bits (uAt r 1 1) 4 4, flags := uAt r 2 1,
    spec := uAt r 3 1, len := uAt r 4 4, count := uAt r 8 4, tile := BitVec.ofNat 32 (uAt r 0xC 4),
    s0 := uAt r 0x10 8, s1 := uAt r 0x18 8, s2 := uAt r 0x20 8, dst := uAt r 0x28 8, sp := uAt r 0x30 4,
    dp := uAt r 0x34 4, scalar := BitVec.ofNat 32 (uAt r 0x38 4), scp := uAt r 0x3C 4 }

/-- A flag bit of an operation block. -/
def OpBlock.flag (o : OpBlock) (i : Nat) : Bool := bits o.flags i 1 == 1

/-- Stochastic rounding asked for. -/
def OpBlock.stochastic (o : OpBlock) : Bool := o.flag 4

/-- Sources that a row function reads; none for a code R148 does not list, and for 0x20 to 0x25. -/
def rowSources : Nat → Option Nat
  | 0x01 => some 1 | 0x02 => some 2 | 0x03 => some 2 | 0x04 => some 3 | 0x05 => some 2 | 0x06 => some 2
  | 0x07 => some 2 | 0x08 => some 2 | 0x09 => some 3 | 0x0A => some 1 | 0x0B => some 1 | 0x10 => some 1
  | 0x11 => some 1 | 0x12 => some 1 | 0x13 => some 1 | 0x14 => some 1 | 0x18 => some 1 | 0x19 => some 1
  | 0x1A => some 1 | _ => none

/-- One of the norm and softmax functions 0x20 to 0x25. -/
def isNorm (fn : Nat) : Bool := decide (0x20 ≤ fn ∧ fn ≤ 0x25)

/-- A reduction of one FP32 per row. -/
def isReduction (fn : Nat) : Bool := fn == 0x18 || fn == 0x19 || fn == 0x1A

/-- Elements per row of the destination. -/
def OpBlock.dstLen (o : OpBlock) : Nat := if isReduction o.fn then 1 else o.len

/-- Bytes spanned by rows of `n` elements of a format code. -/
def rowsExtent (code pitch count n : Nat) : Nat := if n = 0 then 0 else (count - 1) * pitch + packedBytes (fmtBits code) n

/-- Bytes of the scale array that SCVT writes (R78, R148). -/
def OpBlock.scaleExtent (o : OpBlock) : Nat :=
  let b := scaleBlock o.spec
  if b = 0 ∨ o.len = 0 then 0
  else if bits o.spec 3 1 = 1 then ((o.count + b - 1) / b - 1) * o.scp + o.len
  else (o.count - 1) * o.scp + (o.len + b - 1) / b

/-- Bytes of kept statistics per row that a norm or softmax function reads on the fused path (R107): one slot of 4 bytes for an
RMS norm; for a layer norm its two slots, SUM then SUMSQ, and for softmax m then s (assumption log 116). -/
def statBytes (fn : Nat) : Nat := if fn ≤ 0x21 then 4 else 8

/-- The ranges a ROW operation names: address and length (R148). -/
def OpBlock.rowRanges (o : OpBlock) : List (Nat × Nat) :=
  let src := rowsExtent o.fs o.sp o.count o.len
  let n := (rowSources o.fn).getD 1
  ([(o.s0, src), (o.dst, rowsExtent o.fd o.dp o.count o.dstLen)] ++ (if 2 ≤ n then [(o.s1, src)] else []) ++
    (if 3 ≤ n then [(o.s2, src)] else []) ++ (if o.fn = 0x0B then [(o.s1, o.scaleExtent)] else []) ++
    (if isNorm o.fn ∧ o.s1 ≠ 0 then [(o.s1, src)] else []) ++
    (if isNorm o.fn ∧ o.s2 ≠ 0 then [(o.s2, if o.flag 3 then o.count * statBytes o.fn else src)] else [])).filter
    (fun x => decide (0 < x.2))

/-- The checks of a ROW operation (R60, R91, R147, R148); `logical` is the issuing logical core. SCVT without a block size, or to
an integer format, for which R87 gives no emax, is refused (DESIGN CHOICE, assumption log 117). -/
def OpBlock.rowBad (o : OpBlock) (logical : Nat) : Bool :=
  ((rowSources o.fn).isNone && !isNorm o.fn) || decide (o.count = 0) || decide (65536 < o.count) ||
  (o.fs != 5 && o.fs != 7) ||
  (if o.fn = 0x0A then decide (o.fd < 3) || decide (9 < o.fd)
   else if o.fn = 0x0B then decide (4 < o.fd) || scaleBlock o.spec == 0
   else o.fd != 5 && o.fd != 7) ||
  bits o.flags 0 3 != 0 || bits o.flags 5 3 != 0 || (o.flag 3 && !isNorm o.fn) || bits o.spec 4 4 != 0 ||
  (o.fn != 0x0B && (o.spec != 0 || o.scp != 0)) || (!o.stochastic && o.tile != 0) ||
  (match rowSources o.fn with
   | some n => (decide (n < 2) && o.fn != 0x0B && o.s1 != 0) || (decide (n < 3) && o.s2 != 0) ||
       (o.fn != 0x05 && o.scalar != 0)
   | none => false) ||
  (o.stochastic && decide (2 ^ 24 ≤ o.len)) ||
  o.rowRanges.any (fun r => decide (r.1 < trayOf logical) || decide (trayOf (logical + 1) < r.1 + r.2))

/-! ### Element functions (R148) -/

/-- FP32 pattern of element j of a row at `base`, from FP32 or BF16. -/
def loadRow (rd : Nat → Byte) (code base j : Nat) : BitVec 32 :=
  if code = 5 then BitVec.ofNat 32 (readElem rd false base 0 16 0 j <<< 16)
  else BitVec.ofNat 32 (readElem rd false base 0 32 0 j)

/-- Round an arithmetic result of the row unit: a finite result of finite operands that becomes infinite sets
ACC_OVERFLOW (R93, R563). -/
def rowRound (v : Val) : BitVec 32 × BitVec 6 :=
  let (p, o) := roundIeee v
  (p, if o then fAccOverflow else 0)

/-- Maximum or minimum of IEEE 754-2019: NaN propagates, −0 is below +0. -/
def fmax (hi : Bool) (a b : BitVec 32) : BitVec 32 :=
  let x := val32 a
  let y := val32 b
  if x.isNan || y.isNan then 0x7FC00000
  else if x.lt y then (if hi then b else a)
  else if y.lt x then (if hi then a else b)
  else if a.getLsbD 31 == hi then b else a

/-- A transcendental function (R60), overflow when finite operands give an infinity that is no pole of the function. -/
def transcend (fn : Nat) (a : BitVec 32) : BitVec 32 × BitVec 6 :=
  let r := transcendBits fn (Config.rowTranscendental fn a) a
  let x := val32 a
  let infinite := match val32 r with | .inf _ => true | _ => false
  let pole := x.isZero && (fn == 0x11 || fn == 0x12 || fn == 0x13)
  (r, if infinite && x.isFin && !pole then fAccOverflow else 0)

/-- One element of an elementwise function (R148). -/
def rowElem (fn : Nat) (scalar s0 s1 s2 : BitVec 32) : BitVec 32 × BitVec 6 :=
  match fn with
  | 0x02 => rowRound ((val32 s0).add (val32 s1))
  | 0x03 => rowRound ((val32 s0).mul (val32 s1))
  | 0x04 => rowRound (((val32 s0).mul (val32 s1)).add (val32 s2))
  | 0x05 => rowRound (((val32 scalar).mul (val32 s0)).add (val32 s1))
  | 0x06 => (fmax true s0 s1, 0)
  | 0x07 => (fmax false s0 s1, 0)
  | 0x08 => (if (val32 s0).lt (val32 s1) then 0x3F800000 else 0, 0)
  | 0x09 => (if (val32 s2).isZero then s1 else s0, 0)
  | 0x10 => transcend 0x10 s0
  | 0x11 => transcend 0x11 s0
  | 0x12 => transcend 0x12 s0
  | 0x13 => transcend 0x13 s0
  | 0x14 => transcend 0x14 s0
  | _ => (s0, 0)

/-! ### Reductions (R61) -/

/-- Combine two partial results of a reduction. -/
def combine (max : Bool) (a b : BitVec 32 × BitVec 6) : BitVec 32 × BitVec 6 :=
  if max then (fmax true a.1 b.1, a.2 ||| b.2)
  else
    let (p, f) := rowRound ((val32 a.1).add (val32 b.1))
    (p, a.2 ||| b.2 ||| f)

/-- One level of the tree: neighbours pair up, a value without a partner passes up unchanged. -/
def treeLevel (max : Bool) : List (BitVec 32 × BitVec 6) → List (BitVec 32 × BitVec 6)
  | a :: b :: r => combine max a b :: treeLevel max r
  | l => l

/-- `n` levels. -/
def treeLevels (max : Bool) : Nat → List (BitVec 32 × BitVec 6) → List (BitVec 32 × BitVec 6)
  | 0, l => l
  | n + 1, l => treeLevels max n (treeLevel max l)

/-- A chunk of at most 1,024 elements: ten levels. -/
def reduceChunk (max : Bool) (l : List (BitVec 32 × BitVec 6)) : Option (BitVec 32 × BitVec 6) :=
  (treeLevels max 10 l).head?

/-- A row: the first chunk as it is, later chunks combined in order. The count bounds the recursion. -/
def reduceRow (max : Bool) : Nat → Option (BitVec 32 × BitVec 6) → List (BitVec 32 × BitVec 6) →
    Option (BitVec 32 × BitVec 6)
  | 0, acc, _ => acc
  | n + 1, acc, l =>
    match reduceChunk max (l.take 1024) with
    | none => acc
    | some c => reduceRow max n (some (match acc with | none => c | some a => combine max a c)) (l.drop 1024)

/-- RSUM, RMAX and RSUMSQ of a row (R148). -/
def reduce (fn : Nat) (row : List (BitVec 32)) : BitVec 32 × BitVec 6 :=
  let xs := row.map fun p => if fn = 0x1A then rowRound ((val32 p).mul (val32 p)) else (p, 0)
  (reduceRow (fn == 0x19) (row.length / 1024 + 1) none xs).getD (Config.emptyReduction fn, 0)

/-! ### Whole operations -/

/-- The bytes a ROW operation reads, source by source. -/
def OpBlock.rowRegions (o : OpBlock) : List (List Nat) :=
  let n := packedBytes (fmtBits o.fs) o.len
  let rows (base : Nat) := (List.range o.count).flatMap fun i => upFrom (base + i * o.sp) n
  let k := (rowSources o.fn).getD 1
  [rows o.s0, if 2 ≤ k ∨ (isNorm o.fn ∧ o.s1 ≠ 0) then rows o.s1 else [], if 3 ≤ k then rows o.s2 else [],
   if isNorm o.fn ∧ o.s2 ≠ 0 then (if o.flag 3 then upFrom o.s2 (o.count * statBytes o.fn) else rows o.s2) else []]

/-- Every byte a ROW operation reads. -/
def OpBlock.rowReads (o : OpBlock) : List Nat := o.rowRegions.flatten

/-- The bytes of a ROW operation in capture order (R332, R343). -/
def OpBlock.operands (o : OpBlock) : List Nat := o.rowRegions.flatMap rising

/-- FP32 result of element j of row i, before the store's conversion, with its flags. -/
def OpBlock.value (o : OpBlock) (rd : Nat → Byte) (i j : Nat) : BitVec 32 × BitVec 6 :=
  let at_ (base : Nat) := loadRow rd o.fs (base + i * o.sp) j
  if isReduction o.fn then reduce o.fn ((List.range o.len).map fun k => loadRow rd o.fs (o.s0 + i * o.sp) k)
  else rowElem o.fn o.scalar (at_ o.s0) (at_ o.s1) (at_ o.s2)

/-- Rounding of element j of row i (R91): conversions to integers round to nearest even (R148). -/
def OpBlock.roundingAt (o : OpBlock) (step : BitVec 48) (i j : Nat) : Rounding :=
  if o.stochastic && !fmtIsInt o.fd then .stochastic (generator step o.tile i j) else .even

/-- One block of SCVT: its elements by row and column, and the address of its scale byte (R78, R148). -/
def OpBlock.blocks (o : OpBlock) : List (List (Nat × Nat) × Nat) :=
  let b := scaleBlock o.spec
  if bits o.spec 3 1 = 1 then
    (List.range ((o.count + b - 1) / b)).flatMap fun k => (List.range o.len).map fun j =>
      ((upFrom (k * b) (min b (o.count - k * b))).map (fun i => (i, j)), o.s1 + k * o.scp + j)
  else
    (List.range o.count).flatMap fun i => (List.range ((o.len + b - 1) / b)).map fun k =>
      ((upFrom (k * b) (min b (o.len - k * b))).map (fun j => (i, j)), o.s1 + i * o.scp + k)

/-- SCVT: element patterns, scale bytes by address, flags (R87, R148). -/
def OpBlock.scaled (o : OpBlock) (rd : Nat → Byte) (step : BitVec 48) :
    List ((Nat × Nat) × Nat) × List (Nat × Byte) × BitVec 6 :=
  o.blocks.foldl (fun acc blk =>
    let (sc, ps, f) := scaleBlockOut o.fd (blk.1.map fun x =>
      (val32 (loadRow rd o.fs (o.s0 + x.1 * o.sp) x.2), o.roundingAt step x.1 x.2))
    (acc.1 ++ blk.1.zip ps, acc.2.1 ++ [(blk.2, sc)], acc.2.2 ||| f)) ([], [], 0)

/-- Rows of FP32 patterns at a source of a norm function; none where the block names no source. -/
def OpBlock.normRows (o : OpBlock) (rd : Nat → Byte) (base : Nat) : List (List (BitVec 32)) :=
  if base = 0 then [] else (List.range o.count).map fun i => (List.range o.len).map fun j => loadRow rd o.fs (base + i * o.sp) j

/-- The kept statistics of each row (R107). -/
def OpBlock.normStats (o : OpBlock) (rd : Nat → Byte) : List (List (BitVec 32)) :=
  if o.s2 = 0 then [] else (List.range o.count).map fun i => (List.range (statBytes o.fn / 4)).map fun k =>
    BitVec.ofNat 32 (readElem rd false (o.s2 + i * statBytes o.fn) 0 32 0 k)

/-- A norm or softmax function (R106): free FP32 values of the operands, converted as every store is. -/
def OpBlock.norm (o : OpBlock) (rd : Nat → Byte) (step : BitVec 48) : List ((Nat × Nat) × Nat) × BitVec 6 :=
  let n0 := o.normRows rd o.s0
  let n1 := o.normRows rd o.s1
  let n2 := if o.flag 3 then o.normStats rd else o.normRows rd o.s2
  let es := (pairs o.count o.len).map fun x =>
    (x, convert o.fd (o.roundingAt step x.1 x.2) false false (val32 (Config.rowNorm o.fn (o.flag 3) o.scalar n0 n1 n2 x.1 x.2)))
  (es.map fun x => (x.1, x.2.1), es.foldl (fun a x => a ||| x.2.2)
    (if Config.rowNormOverflow o.fn (o.flag 3) o.scalar n0 n1 n2 then fAccOverflow else 0))

/-- What a ROW operation gives: destination patterns by row and column, scale bytes by address, flags (R148,
R563). -/
def OpBlock.rowElems (o : OpBlock) (rd : Nat → Byte) (step : BitVec 48) :
    List ((Nat × Nat) × Nat) × List (Nat × Byte) × BitVec 6 :=
  let st : BitVec 6 := if o.stochastic && !fmtIsInt o.fd && decide (0 < o.dstLen) then fStochastic else 0
  if isNorm o.fn then
    let (es, f) := o.norm rd step
    (es, [], f ||| st)
  else if o.fn = 0x0B then
    let (es, scs, f) := o.scaled rd step
    (es, scs, f ||| st)
  else
    (pairs o.count o.dstLen).foldl (fun acc x =>
      let (p, f) := o.value rd x.1 x.2
      let (c, g) := convert o.fd (o.roundingAt step x.1 x.2) false false (val32 p)
      (acc.1 ++ [(x, c)], acc.2.1, acc.2.2 ||| f ||| g)) ([], [], st)

/-- The patterns as a possibly defective row unit writes them: `wrong` is added by element. -/
def OpBlock.spoil (o : OpBlock) (wrong : Nat → Nat) (es : List ((Nat × Nat) × Nat)) : List ((Nat × Nat) × Nat) :=
  es.map fun x => (x.1, x.2 ^^^ wrong (x.1.1 * o.dstLen + x.1.2))

/-- The bits a ROW operation writes. -/
def OpBlock.rowWrites (o : OpBlock) (es : List ((Nat × Nat) × Nat)) (scs : List (Nat × Byte)) : List BitWrite :=
  es.flatMap (fun x => elemWrite false (o.dst + x.1.1 * o.dp) 0 (fmtBits o.fd) 0 x.1.2 x.2) ++
    scs.map fun c => (c.1, (0xFF : Byte), c.2)

/-- Pattern of element (i, j). -/
def patternAt (es : List ((Nat × Nat) × Nat)) (i j : Nat) : Nat :=
  match es.find? (fun x => x.1.1 == i && x.1.2 == j) with | some x => x.2 | none => 0

/-- Scale bytes in one line of the array that SCVT writes (R78). -/
def OpBlock.scaleLine (o : OpBlock) : Nat :=
  let b := scaleBlock o.spec
  if bits o.spec 3 1 = 1 then o.len else if b = 0 then 0 else (o.len + b - 1) / b

/-- A list in pieces of `k`; the count bounds the recursion. -/
def chunksOf (k : Nat) : Nat → List Byte → List (List Byte)
  | 0, _ => []
  | n + 1, l => if l.isEmpty then [] else l.take k :: chunksOf k n (l.drop k)

/-- The words a ROW operation's fingerprint hashes (R338): the destination rows, the scale bytes SCVT writes, row by row, each
padded to whole words, and the row count with the function code. -/
def OpBlock.words (o : OpBlock) (es : List ((Nat × Nat) × Nat)) (scs : List (Nat × Byte)) : List Word :=
  ((List.range o.count).flatMap fun i =>
    rowWords (packRow (fmtBits o.fd) ((List.range o.dstLen).map fun j => patternAt es i j))) ++
    (chunksOf (o.scaleLine) scs.length (scs.map (·.2))).flatMap rowWords ++ [word (place o.count 0 32 + place o.fn 32 8)]

/-! ### The fused row path (R62) -/

/-- The exponential of the fused path: NaN, 0 and +∞ as IEEE 754 gives them (R62), else within R60's bound. -/
def expFused (a : BitVec 32) : BitVec 32 :=
  if (val32 a).isNan then 0x7FC00000 else transcendBits 0x10 (Config.fusedExp a) a

/-- exp(a − b), 0 where both are −∞. -/
def expDiff (a b : BitVec 32) : BitVec 32 :=
  if val32 a = .inf true ∧ val32 b = .inf true then 0
  else expFused (rowRound ((val32 a).add ((val32 b).mul (.fin true 1 0)))).1

/-- Merge the chunk of one output row into a slot's state for that row. Each square, each difference and each operation of the
merge is rounded to FP32 on its own, and an overflow in them sets no numeric flag: R93 names the accumulation of tiles and the row
unit, not this path (DESIGN CHOICE, assumption log 26). -/
def fusedMerge (fn : Nat) (st : BitVec 32 × BitVec 32) (xs : List (BitVec 32)) : BitVec 32 × BitVec 32 :=
  let add (a b : BitVec 32) := (rowRound ((val32 a).add (val32 b))).1
  let mul (a b : BitVec 32) := (rowRound ((val32 a).mul (val32 b))).1
  match xs with
  | [] => st
  | _ =>
    if fn = 2 then
      let mc := (reduce 0x19 xs).1
      let sc := (reduce 0x18 (xs.map fun x => expDiff x mc)).1
      let mn := fmax true st.1 mc
      (mn, add (mul st.2 (expDiff st.1 mn)) (mul sc (expDiff mc mn)))
    else (add st.1 (reduce (if fn = 1 then 0x1A else 0x18) xs).1, 0)

/-- The state of a row no value has reached: 0, or (−∞, 0). -/
def fusedInit (fn : Nat) : BitVec 32 × BitVec 32 := if fn = 2 then (0xFF800000, 0) else (0, 0)

/-- The state of a slot for one output row: the chunks of the row, those of a lower core first, and of one core in the order
its tiles were issued (R62, R63). "Core" is the logical core (DEDUCED from R3, assumption log 108). -/
def FusedSlot.rowStat (x : FusedSlot) (row : Nat) : BitVec 32 × BitVec 32 :=
  (rising x.owners).foldl (fun st l =>
    (x.chunks.filter fun c => c.logical == l && c.row == row).foldl (fun m c => fusedMerge x.function m c.values) st)
    (fusedInit x.function)

/-- The state of all rows of a slot. -/
def FusedSlot.stats (x : FusedSlot) : List (BitVec 32 × BitVec 32) := (List.range x.rows).map x.rowStat

/-- The statistics a closing slot writes (R107): 4 bytes per row, 8 for SOFTMAX_STATS, m then s. -/
def fusedBytes (fn : Nat) (stats : List (BitVec 32 × BitVec 32)) : List Byte :=
  stats.flatMap fun s => if fn = 2 then le 4 s.1.toNat ++ le 4 s.2.toNat else le 4 s.1.toNat

/-! ### COPY (R100, R147, R149) -/

/-- The layout changes: some layout or transpose flag is set. -/
def OpBlock.layoutChange (o : OpBlock) : Bool := bits o.flags 0 3 != 0

/-- Elements per row of a layout-changing COPY. -/
def OpBlock.copyCols (o : OpBlock) : Nat := if fmtBits o.fs = 0 then 0 else o.len * 8 / fmtBits o.fs

/-- Source and destination of a COPY: address and bytes spanned. -/
def OpBlock.copyRanges (o : OpBlock) : (Nat × Nat) × (Nat × Nat) :=
  if o.layoutChange then
    let b := fmtBits o.fs
    let c := o.copyCols
    let (dr, dc) := if o.flag 2 then (c, o.count) else (o.count, c)
    ((o.s0, extentOf (o.flag 0) o.sp b o.count c), (o.dst, extentOf (o.flag 1) o.dp b dr dc))
  else
    let n (p : Nat) := if o.len = 0 then 0 else (o.count - 1) * p + o.len
    ((o.s0, n o.sp), (o.dst, n o.dp))

/-- Reserved fields and layouts of a COPY (R97, R100, R147): plain to end-grain, end-grain to plain, or plain
to plain transposed. -/
def OpBlock.copyFieldsBad (o : OpBlock) : Bool :=
  o.fn != 0 || bits o.flags 3 5 != 0 || o.spec != 0 || o.tile != 0 || o.scalar != 0 || o.scp != 0 ||
  o.s1 != 0 || o.s2 != 0 || decide (o.count = 0) || decide (65536 < o.count) ||
  (if o.layoutChange then
    o.fs != o.fd || (fmtOf o.fs).isNone || (o.flag 0 && o.flag 1) || (o.flag 2 && (o.flag 0 || o.flag 1)) ||
    packedBytes (fmtBits o.fs) o.copyCols != o.len ||
    (o.flag 0 && (o.s0 % 256 != 0 || decide (o.sp < (o.copyCols + 31) / 32))) ||
    (o.flag 1 && (o.dst % 256 != 0 || decide (o.dp < (o.copyCols + 31) / 32)))
   else o.fs != 0 || o.fd != 0)

/-- What a COPY writes: destination bytes with the source byte each comes from. A byte of packed elements
can come from two. -/
def OpBlock.copyMoves (o : OpBlock) : List (Nat × Nat) :=
  if o.layoutChange then
    let b := fmtBits o.fs
    (pairs o.count o.copyCols).flatMap fun x =>
      let s := elemAt (o.flag 0) o.s0 o.sp b x.1 x.2
      let d := if o.flag 2 then elemAt false o.dst o.dp b x.2 x.1 else elemAt (o.flag 1) o.dst o.dp b x.1 x.2
      (elemBytes d b).flatMap fun t => (elemBytes s b).map fun u => (t, u)
  else (pairs o.count o.len).map fun x => (o.dst + x.1 * o.dp + x.2, o.s0 + x.1 * o.sp + x.2)

/-- The bits a COPY writes. -/
def OpBlock.copyWrites (o : OpBlock) (rd : Nat → Byte) : List BitWrite :=
  if o.layoutChange then
    let b := fmtBits o.fs
    (pairs o.count o.copyCols).flatMap fun x =>
      let p := readElem rd (o.flag 0) o.s0 o.sp b x.1 x.2
      if o.flag 2 then elemWrite false o.dst o.dp b x.2 x.1 p else elemWrite (o.flag 1) o.dst o.dp b x.1 x.2 p
  else (pairs o.count o.len).map fun x => (o.dst + x.1 * o.dp + x.2, 0xFF, rd (o.s0 + x.1 * o.sp + x.2))

end Sys2Proof.Machine
end

