-- ==== Sys2Proof/Machine/Commands.lean ====
section
/-! DEFINITION. How a journaled command runs and ends: execution order (R423), the deadline (R421), the
conditions that turn every command away (R441, R485, R486), replies, long operations and their closing events
(R422), and the layout checks of R428 for every opcode. -/

namespace Sys2Proof.Machine

/-! ### Opcodes (R429 to R443) -/

/-- Defined opcodes. -/
def opcodes : List Nat :=
  [0x0001, 0x0002, 0x0003, 0x0004, 0x0005, 0x0006, 0x0007, 0x0100, 0x0101, 0x0102, 0x0200, 0x0201, 0x0202,
   0x0300, 0x0301, 0x0302, 0x0303, 0x0304, 0x0400, 0x0401, 0x0402, 0x0403, 0x0404, 0x0500, 0x0501, 0x0502,
   0x0503, 0x0504, 0x0505, 0x0506, 0x0507, 0x0600, 0x0601, 0x0602, 0x0603, 0x0604, 0x0605, 0x0700, 0x0701,
   0x0702, 0x0703, 0x0704, 0x0705, 0x0706, 0x0800, 0x0801, 0x0802, 0x0900, 0x0901, 0x0902, 0x0903, 0x0904,
   0x0A00, 0x0A01, 0x0B00, 0x0B01, 0x0B02, 0x0B03, 0x0B04, 0x0F00, 0x0F01, 0x0F02, 0x0F03]

/-- Opcodes marked M: only the owner issues them (R425). -/
def mutating : List Nat :=
  [0x0006, 0x0201, 0x0202, 0x0301, 0x0302, 0x0303, 0x0400, 0x0402, 0x0403, 0x0404, 0x0500, 0x0501, 0x0502,
   0x0503, 0x0505, 0x0506, 0x0600, 0x0601, 0x0604, 0x0605, 0x0700, 0x0701, 0x0702, 0x0703, 0x0704, 0x0705,
   0x0706, 0x0802, 0x0900, 0x0902, 0x0A01, 0x0B00, 0x0B01, 0x0B02, 0x0B03, 0x0F00, 0x0F01, 0x0F03]

/-- Opcodes marked L: they always run long (R422). -/
def longOpcodes : List Nat :=
  [0x0302, 0x0303, 0x0304, 0x0500, 0x0605, 0x0700, 0x0701, 0x0703, 0x0705, 0x0706, 0x0802, 0x0B00, 0x0B03]

/-- An opcode with its parameters runs long by itself: marked L, or a STEP_CONTROL of action 1 or 3 (R422,
R439). -/
def runsLong (opcode : Nat) (params : List Byte) : Bool :=
  longOpcodes.contains opcode || (opcode == 0x0506 && (uAt params 0 1 == 1 || uAt params 0 1 == 3))

/-! ### Layout checks (R428) -/

/-- The listed fields take `n` bytes, and what follows is zero. -/
def fieldsTake (p : List Byte) (n : Nat) : Bool := decide (n ≤ p.length) && zeroFrom p n p.length

/-- A value of a range. -/
def within (v lo hi : Nat) : Bool := decide (lo ≤ v ∧ v ≤ hi)

/-- Parameters laid out as the opcode tables ask (R428): lengths, reserved bytes and bits, item counts, ranges
and codes that need nothing but the packet. Lengths that the table only bounds above may be 0 (DEDUCED, assumption log 138). -/
def layoutOk (opcode : Nat) (p : List Byte) : Bool :=
  match opcode with
  | 0x0001 => fieldsTake p 0x648 && zeroFrom p 2 8
  | 0x0002 => fieldsTake p 0x148D
  | 0x0004 => fieldsTake p 8
  | 0x0005 => fieldsTake p 1 && within (uAt p 0 1) 0 1
  | 0x0101 => fieldsTake p 8 && within (uAt p 4 4) 1 65536
  | 0x0102 => fieldsTake p 32
  | 0x0200 => within (uAt p 0 4) 1 4096 && zeroFrom p 4 8 && p.length == 8 + 8 * uAt p 0 4
  | 0x0201 => within (uAt p 0 4) 1 4095 && zeroFrom p 4 8 && p.length == 8 + 16 * uAt p 0 4
  | 0x0202 => within (uAt p 0 4) 1 2730 && zeroFrom p 4 8 && p.length == 8 + 24 * uAt p 0 4
  | 0x0300 => fieldsTake p 12 && within (uAt p 8 4) 1 65536
  | 0x0301 => within (uAt p 8 4) 1 65520 && zeroFrom p 12 16 && fieldsTake p (16 + uAt p 8 4)
  | 0x0302 => fieldsTake p 32 && uAt p 0 8 % 16 == 0 && uAt p 8 8 % 16 == 0 && decide (uAt p 8 8 ≤ 2 ^ 40)
  | 0x0303 => fieldsTake p 24 && decide (uAt p 16 8 ≤ 2 ^ 40)
  | 0x0304 => fieldsTake p 16 && decide (uAt p 8 8 ≤ 2 ^ 40)
  | 0x0400 => fieldsTake p 48
  | 0x0402 => fieldsTake p 56 && within (uAt p 0 1) 0 5 && within (uAt p 1 1) 0 1 && zeroFrom p 2 4 &&
      zeroFrom p 0x21 0x28
  | 0x0403 => fieldsTake p 8 && within (uAt p 0 1) 0 5 && zeroFrom p 1 4
  | 0x0404 => within (uAt p 4 4) 1 8191 && p.length == 8 + 8 * uAt p 4 4
  | 0x0500 => fieldsTake p 9 && within (uAt p 8 1) 0 15
  | 0x0501 => fieldsTake p 1 && within (uAt p 0 1) 0 15
  | 0x0502 => within (uAt p 2 2) 1 2047 && zeroFrom p 4 8 && p.length == 8 + 32 * uAt p 2 2
  | 0x0503 => fieldsTake p 4
  | 0x0504 => fieldsTake p 4 && within (uAt p 2 2) 1 2048
  | 0x0505 => fieldsTake p 256
  | 0x0506 => fieldsTake p 24 && within (uAt p 0 1) 0 3 && within (uAt p 1 1) 0 1 && zeroFrom p 3 4
  | 0x0600 => fieldsTake p 4 && within (uAt p 0 1) 0 2 && zeroFrom p 1 2
  | 0x0601 => fieldsTake p 4 && within (uAt p 0 1) 0 2 && zeroFrom p 1 2
  | 0x0603 => fieldsTake p 12 && zeroFrom p 2 4 && within (uAt p 8 4) 1 65536
  | 0x0604 => fieldsTake p 3 && within (uAt p 2 1) 0 1
  | 0x0605 => fieldsTake p 4
  | 0x0700 => fieldsTake p 0x14 && within (uAt p 0x11 1) 1 32 && uAt p 0x12 2 % 4 == 0
  | 0x0701 => fieldsTake p 0x14 && within (uAt p 0x11 1) 1 32 && uAt p 0x12 2 % 4 == 0
  | 0x0703 => fieldsTake p 9 && within (uAt p 8 1) 0 1
  | 0x0704 => fieldsTake p 8
  | 0x0705 => fieldsTake p 8
  | 0x0706 => fieldsTake p 0x15
  | 0x0801 => fieldsTake p 13 && within (uAt p 8 4) 64 65512 && within (uAt p 12 1) 0 1
  | 0x0900 => fieldsTake p 4
  | 0x0901 => fieldsTake p 12 && within (uAt p 8 4) 1 8192
  | 0x0902 => fieldsTake p 5 && within (uAt p 4 1) 0 3
  | 0x0903 => fieldsTake p 12 && within (uAt p 8 4) 1 4096
  | 0x0A01 => fieldsTake p 5 && within (uAt p 4 1) 0 24
  | 0x0B00 => fieldsTake p 4 && zeroFrom p 1 2
  | 0x0B01 => fieldsTake p 4 && uAt p 0 4 == 0xC01D
  | 0x0B02 => within (uAt p 8 4) 1 65520 && zeroFrom p 1 4 && zeroFrom p 12 16 && fieldsTake p (16 + uAt p 8 4)
  | 0x0B03 => fieldsTake p 1
  | 0x0F00 => fieldsTake p 72 && zeroFrom p 4 8
  | 0x0F01 => fieldsTake p 4
  | 0x0F03 => fieldsTake p 1
  | _ => fieldsTake p 0

/-! ### Results -/

/-- How a command that has been tried goes on. -/
inductive Verdict where
  /-- It completes: status and reply data. -/
  | reply (status : Status) (data : List Byte)
  /-- It completes with a reply although its opcode runs long: a Bench reset (R444). -/
  | direct (status : Status) (data : List Byte)
  /-- It has started as a long operation. -/
  | start (op : LongOp)
  /-- It waits for a snapshot (R523). -/
  | wait
deriving DecidableEq, Repr

/-- What running a command gives: the verdict, the state with its effect, and what follows its reply. -/
structure Result where
  verdict : Verdict
  state : State
  post : State → State

/-- Refuse with a status and no effect. -/
def refuse (s : State) (st : Status) : Result := ⟨.reply st [], s, id⟩
/-- Refuse with reply data that the opcode table names for the status. -/
def refuseWith (s : State) (st : Status) (data : List Byte) : Result := ⟨.reply st data, s, id⟩
/-- Complete with OK. -/
def done (s : State) (data : List Byte) : Result := ⟨.reply .ok data, s, id⟩
/-- Complete with OK; `post` follows the reply. -/
def doneThen (s : State) (data : List Byte) (post : State → State) : Result := ⟨.reply .ok data, s, post⟩
/-- Start a long operation. -/
def began (s : State) (op : LongOp) : Result := ⟨.start op, s, id⟩

/-! ### Ending a command -/

/-- Command sequence (R417). -/
def OpenCmd.seqWord (c : OpenCmd) : Word := word (c.epoch <<< 48 + c.number)

/-- The reply to a command. -/
def OpenCmd.replyOf (c : OpenCmd) (st : Status) (data : List Byte) : Reply :=
  { session := c.session, duplicate := false, pending := false, opcode := c.opcode, seq := c.seqWord, status := st,
    jseq := c.jseq, acceptFt := c.acceptFt, data := data }

/-- Complete a command with a reply: outcome record, reply unless OK goes unwanted (R417), duplicates that wait
(R426). -/
def State.finish (s : State) (c : OpenCmd) (st : Status) (data : List Byte) : State :=
  let s := s.withComms (s.outcome c st false)
  let s := if c.ackWanted || st ≠ .ok then s.reply c.port (c.replyOf st data) else s
  s.withComms <| c.duplicates.foldl (fun t d =>
    t.reply d.2 { c.replyOf st [] with duplicate := true, session := d.1 }) s

/-- Reply ACCEPTED (R422); PENDING marks a command held for its not-before FT (R418). -/
def State.acceptReply (s : State) (c : OpenCmd) (pending : Bool) : State :=
  s.reply c.port { c.replyOf .accepted [] with pending := pending }

/-- The open command of a journal sequence. -/
def State.openCmd (s : State) (jseq : Nat) : Option OpenCmd := s.cmds.opened.find? (·.jseq == jseq)

/-- Change the phase of an open command. -/
def State.setPhase (s : State) (jseq : Nat) (ph : CmdPhase) : State :=
  { s with cmds := { s.cmds with opened := s.cmds.opened.map fun c => if c.jseq = jseq then { c with phase := ph } else c } }

/-- The event that closes a command (R422, R445). -/
def OpenCmd.closing (c : OpenCmd) (code : Nat) (cls : EventClass) (st : Status) (body : List Byte) : Event :=
  { code := code, cls := cls, status := st, body := body, related := c.seqWord, concerns := c.jseq,
    toSession := some c.session }

/-- Close a command with an event of its own; the long operation is over. -/
def State.closeWith (s : State) (jseq code : Nat) (cls : EventClass) (st : Status) (body : List Byte) : State :=
  let s := { s with longOps := tabDel s.longOps jseq }
  match s.openCmd jseq with
  | some c => s.emit (c.closing code cls st body)
  | none => s

/-- Body of COMMAND_DONE (R446). -/
def doneBody (opcode : Nat) (data : List Byte) : List Byte := le 2 opcode ++ zeros 6 ++ data

/-- Close a command with COMMAND_DONE (R422). -/
def State.closeCmd (s : State) (jseq : Nat) (st : Status) (data : List Byte) : State :=
  s.closeWith jseq 0x0001 .command st (doneBody (match s.openCmd jseq with | some c => c.opcode | none => 0) data)

/-! ### Running a command -/

/-- A step is open: a phase from LOAD to the end of UPDATE. The rules call a step in CHECK open in some places (R138, R259) and
not in others (R10, R262): this model takes it as unsealed and no longer open (DESIGN CHOICE, assumption log 119). -/
def State.stepOpen (s : State) : Bool := s.steps.opened.any fun r => within r.phase 1 5

/-- A step is open or unsealed. -/
def State.stepUnsealed (s : State) : Bool := !s.steps.opened.isEmpty || !s.steps.replays.isEmpty

/-- Blocks gated by R485: MEM_ to CKPT_. -/
def gatedBlock (a : Nat) : Bool := within a (blockBase 0x0B) (blockBase 0x16 - 1)

/-- Addresses that a register write names, in list order (R431). -/
def writeAddresses (opcode : Nat) (p : List Byte) : List Nat :=
  let stride := if opcode = 0x0202 then 24 else 16
  (List.range (uAt p 0 4)).map fun i => uAt p (8 + stride * i) 8

/-- Boot has ended its gating: training-ready, or the LPDDR6 failure of R486 (DEDUCED, assumption log 8). -/
def State.bootGateOpen (s : State) : Bool := s.boot.trainingReady || s.boot.stopStatus == .clamped

/-- BUSY between command-ready and training-ready (R485), on a module whose boot has stopped (R486), and while a
RESTORE runs (R441). -/
def State.gated (s : State) (opcode : Nat) (p : List Byte) : Bool :=
  let g := opcode / 256
  (s.boot.stopped && !([0, 1, 8, 0xB, 0xF].contains g || opcode == 0x0200)) ||
  (!s.bootGateOpen && ([3, 5, 6, 7, 9].contains g ||
    ((opcode == 0x0201 || opcode == 0x0202) && (writeAddresses opcode p).any gatedBlock))) ||
  (s.ckpt.restore.isSome && mutating.contains opcode && !([0, 8, 0xB, 0xF].contains g))

/-- A half-open session takes nothing but SESSION_CONFIRM, and only a half-open one takes it (R505). -/
def State.halfOpenBad (s : State) (session opcode : Nat) : Bool :=
  match s.session session with
  | some x => x.confirmed == (opcode == 0x0002)
  | none => false

/-- Order 12 of R420 as far as it is common to all opcodes. -/
def State.commonRefusal (s : State) (session opcode : Nat) (p : List Byte) : Option Status :=
  if s.halfOpenBad session opcode then some .badParam
  else if s.gated opcode p then some .busy
  else if !layoutOk opcode p then some .badParam
  else none

/-- Deadline in µs as taken (R421). -/
def deadlineOf (us : Nat) : Nat := if us = 0 then 2000 else clampTo 200 10000000 us

/-- A command that is not long has come to the head of the execution order too late (R421). -/
def State.tooLate (s : State) (c : OpenCmd) : Bool :=
  !c.long && decide (c.arrivedAt + ticksUs c.deadlineUs < s.now)

/-- The command at the head of the execution order: the oldest that waits, once no SNAPSHOT_READ waits (R423). -/
def State.front (s : State) : Option OpenCmd :=
  if s.obs.waitingReads.isEmpty then s.cmds.opened.find? (·.phase == .waiting) else none

/-- End a command that has been tried, or let it run on. `held` marks one that was held for its not-before FT
and has been answered ACCEPTED already (R253). -/
def State.conclude (c : OpenCmd) (held : Bool) (r : Result) : State :=
  match r.verdict with
  | .start op =>
    let s := { r.state with longOps := tabPut r.state.longOps c.jseq op }.setPhase c.jseq .running
    r.post (if held then s else s.acceptReply c false)
  | .wait =>
    let s := { r.state.setPhase c.jseq .running with
                 obs := { r.state.obs with waitingReads := r.state.obs.waitingReads ++ [c.jseq] } }
    r.post (if c.long && !held then s.acceptReply c false else s)
  | .direct st data => r.post (if held then r.state.closeCmd c.jseq st data else r.state.finish c st data)
  | .reply st data =>
    if held then r.post (r.state.closeCmd c.jseq st data)
    else if c.long ∧ st = .ok then
      let s := { r.state with longOps := tabPut r.state.longOps c.jseq (.done st data) }.setPhase c.jseq .running
      r.post (s.acceptReply c false)
    else r.post (r.state.finish c st data)

/-- Try a command: common refusals of R420 order 12 first, then its opcode's own meaning. -/
def State.attempt (s : State) (c : OpenCmd) (f : OpenCmd → State → Result) : Result :=
  match s.commonRefusal c.session c.opcode c.params with
  | some st =>
    refuseWith s st (if st = .busy ∧ (c.opcode = 0x0201 ∨ c.opcode = 0x0202) then
      (match (writeAddresses c.opcode c.params).findIdx? gatedBlock with | some i => le 4 i | none => []) else [])
  | none => f c s

/-- Execute the front command if it has this opcode and `p` accepts it, with its trace (R526): DEADLINE if it comes too late (R421);
nothing while its outcome record finds no room in the journal (R449, R451). -/
def State.runFront (s : State) (opcode : Nat) (p : OpenCmd → Bool) (f : OpenCmd → State → Result) : State :=
  match s.front with
  | none => s
  | some c =>
    if c.opcode ≠ opcode ∨ !p c ∨ !s.benchUp ∨ !s.boot.commandReady then s
    else if !s.journal.fits 0 then { s with journal := { s.journal with ringFull := true } }
    else if s.tooLate c then s.finish c .deadline []
    else State.conclude c false ((s.trace benchRing 0x0030 opcode c.jseq).attempt c f)

/-- Execute the front command if it has this opcode. -/
def State.run (s : State) (opcode : Nat) (f : OpenCmd → State → Result) : State := s.runFront opcode (fun _ => true) f

end Sys2Proof.Machine
end

