-- ==== Sys2Proof/Machine/Scribe.lean ====
section
/-! DEFINITION. The Scribe: records as bytes (R448), the duplicate search (R426), compaction (R450, R452), and
the journal commands 0x0800 to 0x0802 (R442, R455, R456). -/

namespace Sys2Proof.Machine

/-! ### Records as bytes -/

/-- Code of a record kind (R448). -/
def JKind.code : JKind → Nat
  | .command => 0 | .outcome => 1 | .event => 2 | .pad => 3

/-- Flags of a record (R448). -/
def JRec.flags (r : JRec) : Nat :=
  placeB r.truncated 0 + placeB r.long 1 + placeB r.notBeforeFlag 2 + placeB r.portB 3 + placeB r.closedAtRecovery 4

/-- The bytes of a record (R448): header, parameters, CRC, padding to 64 bytes. -/
def recordBytes (r : JRec) : List Byte :=
  let b := le 8 r.seq ++ le 8 r.ft.toNat ++ le 4 r.session ++ le 2 r.opcode ++ le 1 r.kind.code ++ le 1 r.flags ++
    le 8 r.cmdSeq.toNat ++ le 2 r.status.toNat ++ le 2 r.params.length ++ le 4 r.total ++ le 8 r.concerns ++
    le 8 r.notBeforeFt.toNat ++ le 2 r.principal ++ zeros 6 ++ r.params
  let b := b ++ le 4 (crc32c b)
  padTo (roundUp b.length 64) b

/-- The bytes of an outcome entry (R452). -/
def outcomeEntryBytes (e : OutcomeEntry) : List Byte :=
  le 8 e.seq ++ le 8 e.cmdSeq.toNat ++ le 2 e.opcode ++ le 2 e.status.toNat ++ le 2 e.principal ++ le 2 e.flags.toNat

/-- The 16 principal entries (R452). -/
def principalBytes (ps : List PrincipalSeq) : List Byte :=
  padTo 256 ((ps.take 16).flatMap fun p => le 2 p.index ++ le 2 p.epoch ++ zeros 4 ++ le 8 p.highest)

/-- The active snapshot slot (R452). -/
def Journal.active (j : Journal) : JSnapshot := if j.activeB then j.slotB else j.slotA

/-- Records other than pads. -/
def Journal.records (j : Journal) : List JRec := j.ring.filter (·.kind ≠ .pad)

/-- Oldest sequence still in the ring; the next one to be written where the ring holds none. -/
def Journal.oldest (j : Journal) : Nat := match j.records with | r :: _ => r.seq | [] => j.nextSeq

/-! ### Summary (R455) -/

/-- An open command entry of JOURNAL_SUMMARY (R455). -/
def openEntry (c : OpenCmd) : List Byte :=
  le 8 c.jseq ++ le 8 c.seqWord.toNat ++ le 8 c.acceptFt.toNat ++ le 4 c.session ++ le 2 c.opcode ++ le 2 c.principal ++
    le 8 (c.notBefore.getD 0).toNat

/-- The reply data of JOURNAL_SUMMARY as the journal stands (R455). -/
def State.summaryData (s : State) : List Byte :=
  let j := s.journal
  le 8 j.lastAccepted ++ le 8 j.lastCompleted ++ le 8 j.oldest ++ le 8 j.active.generation ++ le 8 j.active.covered ++
    le 4 s.cmds.opened.length ++ le 2 s.cmds.principals.length ++ zeros 2 ++ principalBytes s.cmds.principals ++
    s.cmds.opened.flatMap openEntry

/-- JOURNAL_SUMMARY. -/
def doJournalSummary (c : OpenCmd) (s : State) : Result := done s c.summary

/-! ### Reading (R456) -/

/-- The first of the items that fit in `max` bytes. -/
def itemsFit : Nat → List (Nat × List Byte) → List (Nat × List Byte)
  | _, [] => []
  | max, (k, b) :: r => if b.length ≤ max then (k, b) :: itemsFit (max - b.length) r else []

/-- Insert by journal sequence. -/
def insertEntry (e : OutcomeEntry) : List OutcomeEntry → List OutcomeEntry
  | [] => [e]
  | x :: r => if e.seq ≤ x.seq then e :: x :: r else x :: insertEntry e r

/-- Reply data of JOURNAL_READ (R456). An empty reply names the sequence asked for (DESIGN CHOICE, assumption
log 9). -/
def journalReadData (first max : Nat) (items : List (Nat × List Byte)) : List Byte :=
  let fit := itemsFit max items
  let bytes := fit.flatMap (·.2)
  let start := match items with | (k, _) :: _ => k | [] => first
  let next := match fit.getLast? with | some (k, _) => k + 1 | none => start
  le 8 start ++ le 8 next ++ le 4 bytes.length ++ le 4 (if first < start then 1 else 0) ++ bytes

/-- JOURNAL_READ (R456). -/
def doJournalRead (c : OpenCmd) (s : State) : Result :=
  let first := uAt c.params 0 8
  let max := uAt c.params 8 4
  if uAt c.params 12 1 = 0 then
    done s (journalReadData first max
      ((s.journal.records.filter (fun r => decide (first ≤ r.seq))).map fun r => (r.seq, recordBytes r)))
  else
    let es := s.journal.active.outcomes.foldl (fun l e => insertEntry e l) []
    done s (journalReadData first max
      ((es.filter (fun e => decide (first ≤ e.seq))).map fun e => (e.seq, outcomeEntryBytes e)))

/-! ### Compaction (R450, R452) -/

/-- JOURNAL_COMPACT: start a compaction, or wait for the switch of the one that runs. -/
def doJournalCompact (c : OpenCmd) (s : State) : Result :=
  let k := match s.journal.compacting with
    | some (n, cs) => (n, cs ++ [c.jseq])
    | none => (s.journal.nextSeq - 1, [c.jseq])
  began { s with journal := { s.journal with compacting := some k } } .compact

/-- The outcome entry of an outcome record (R452). -/
def entryOf (r : JRec) : OutcomeEntry :=
  { seq := r.concerns, cmdSeq := r.cmdSeq, opcode := r.opcode, status := r.status, principal := r.principal,
    flags := BitVec.ofNat 16 r.flags }

/-- The snapshot that a compaction covering `n` writes (R452). -/
def State.snapshotOf (s : State) (n : Nat) : JSnapshot :=
  let j := s.journal
  let before := j.records.filter (fun r => decide (r.seq ≤ n))
  let ended := (before.filter (·.kind == .outcome)).map entryOf
  let all := j.active.outcomes ++ ended
  let cmds := j.active.openRecs ++ before.filter (·.kind == .command)
  { valid := true, generation := j.active.generation + 1, covered := n,
    ringOffset := (match j.ring.find? (fun r => decide (n < r.seq)) with | some r => r.offset | none => j.writePos),
    principals := s.cmds.principals,
    openRecs := cmds.filter (fun r => !(ended.any fun e => e.seq == r.seq)),
    outcomes := all.drop (all.length - 65536) }

/-- Switch to the snapshot that covers `n` and free the ring space before the first record after it (R452). -/
def State.switchSnapshot (s : State) (n : Nat) : State :=
  let j := s.journal
  let sn := s.snapshotOf n
  { s with journal := { j with slotA := if j.activeB then sn else j.slotA, slotB := if j.activeB then j.slotB else sn,
                               activeB := !j.activeB, ring := j.ring.filter (fun r => decide (n < r.seq)),
                               compacting := none, ringFull := false } }

/-- Journal the notices that went out while the Bench was fenced or in reset, as far as the ring has room (R479). -/
def State.journalNotices (s : State) : State :=
  s.notices.unjournaled.foldl (fun t e =>
    if t.journal.fits (min 4096 e.body.length) then t.journalWrite (eventRec e)
    else { t with notices := { t.notices with unjournaled := t.notices.unjournaled ++ [e] } })
    { s with notices := { s.notices with unjournaled := [] } }

/-- The end of a compaction: the switch, the commands that asked for it, the events that waited (R451, R452). -/
def State.compactionEnd (s : State) : State :=
  match s.journal.compacting with
  | none => s
  | some (n, cs) => (cs.foldl (fun t k => t.closeCmd k .ok []) (s.switchSnapshot n)).journalNotices.emitWaiting

/-! ### The duplicate search (R426) -/

/-- What the ring, the open set or the snapshot holds of a sequence. -/
inductive Earlier where
  | openCommand (c : OpenCmd)
  | completed (jseq : Nat) (status : BitVec 16) (acceptFt : Word)
deriving DecidableEq, Repr

/-- The journal entry of (p, e, n), the latest where there are several. -/
def State.earlier (s : State) (principal epoch number : Nat) : Option Earlier :=
  match s.cmds.opened.find? (fun c => c.principal == principal && c.epoch == epoch && c.number == number) with
  | some c => some (.openCommand c)
  | none =>
    let w := word (epoch <<< 48 + number)
    let j := s.journal
    let is (r : JRec) : Bool := r.principal == principal && r.cmdSeq == w
    match (j.records.filter fun r => r.kind == .outcome && is r).getLast? with
    | some o =>
      let ft := match (j.active.openRecs ++ j.records).find? (fun r => r.kind == .command && r.seq == o.concerns) with
        | some r => r.ft
        | none => Config.snapshotAcceptFt o.concerns
      some (.completed o.concerns o.status ft)
    | none =>
      match (j.active.outcomes.filter fun e => e.principal == principal && e.cmdSeq == w).getLast? with
      | some e => some (.completed e.seq e.status (Config.snapshotAcceptFt e.seq))
      | none => none

/-! ### Recovery at boot (R453) -/

/-- A command that recovery leaves open after a Bench reset: a long operation of groups 0x03xx or 0x07xx, or a
command held for its not-before FT. -/
def survivesBench (c : OpenCmd) : Bool :=
  (c.phase == .running && (c.opcode / 256 == 3 || c.opcode / 256 == 7)) ||
    (match c.phase with | .held _ => true | _ => false)

/-- Close the open commands of a boot (R453): all of them, or after a Bench reset those that do not survive it.
Held commands are kept to be settled under R255. -/
def State.recoverJournal (s : State) (benchOnly : Bool) : State :=
  let gone := s.cmds.opened.filter fun c => !(benchOnly && survivesBench c)
  let s := gone.foldl (fun t c => t.outcome c .deadline true) s
  { s with
      longOps := s.longOps.filter fun e => !(gone.any fun c => c.jseq == e.1)
      cmds := { s.cmds with opened := s.cmds.opened.map fun c =>
        match c.phase with | .held _ => { c with phase := .held true } | _ => c }
      boot := { s.boot with closedAtRecovery := gone.length, journalEmpty := !(s.journal.slotA.valid || s.journal.slotB.valid) } }

/-- Settle the commands that a Bench reset left pending (R255): once the counter is LOCKED again, those whose FT has
passed close with DEADLINE and the others stay pending; `all` closes every one. -/
def State.settleHeld (s : State) (all : Bool) : State :=
  s.cmds.opened.foldl (fun t c =>
    match c.phase with
    | .held true =>
      if all || decide ((c.notBefore.getD 0).toNat ≤ s.ft.toNat) then t.closeCmd c.jseq .deadline []
      else t.setPhase c.jseq (.held false)
    | _ => t) s

/-! ### Rows -/

/-- JOURNAL_SUMMARY. -/
def execJournalSummary (s : State) : Host.Outcome State Fault Refusal := .next (s.run 0x0800 doJournalSummary)
/-- JOURNAL_READ. -/
def execJournalRead (s : State) : Host.Outcome State Fault Refusal := .next (s.run 0x0801 doJournalRead)
/-- JOURNAL_COMPACT. -/
def execJournalCompact (s : State) : Host.Outcome State Fault Refusal := .next (s.run 0x0802 doJournalCompact)
/-- JOURNAL_COMPACTION_END. -/
def execJournalCompactionEnd (s : State) : Host.Outcome State Fault Refusal := .next s.compactionEnd

end Sys2Proof.Machine
end

