-- ==== Sys2Proof/Machine/Sessions.lean ====
section
/-! DEFINITION. Sessions and ownership: the handshake (R503 to R505), limits (R424), the owner (R425, R506), and
the link commands of group 0x00xx (R429). -/

namespace Sys2Proof.Machine

/-- The SESSION event (R446): 0 opened, 1 closed, 2 became owner, 3 ceased to be owner. -/
def sessionEvent (id change : Nat) : Event := event 0x0012 .command .ok (le 4 id ++ le 1 change)

/-- Close a session (R424): ownership ends with it (R425). A half-open session never opened and has no event; an
owner's close is reported as the close alone (DEDUCED, assumption log 10). -/
def State.closeSession (s : State) (id : Nat) : State :=
  match s.session id with
  | none => s
  | some x =>
    let t := { s with cmds := { s.cmds with sessions := s.cmds.sessions.filter (·.id ≠ id),
                                            owner := if s.cmds.owner = some id then none else s.cmds.owner } }
    if x.confirmed then t.emit (sessionEvent id 1) else t

/-- Close every session that `p` names, oldest first. -/
def State.closeSessions (s : State) (p : Session → Bool) : State :=
  (s.cmds.sessions.filter p).foldl (fun t x => t.closeSession x.id) s

/-- Sessions that have reached 2^40 tagged packets in a direction close (R505). -/
def State.closeWorn (s : State) : State :=
  s.closeSessions fun x => decide (2 ^ 40 ≤ x.tagged) || decide (2 ^ 40 ≤ x.heard)

/-- An authentication failure (R512, R518). -/
def State.authFail (s : State) : State :=
  { s with cmds := { s.cmds with
      authFailures := s.now :: s.cmds.authFailures.filter (fun t => decide (s.now < t + ticksS 1)),
      authTotal := satAdd s.cmds.authTotal 1 } }

/-- Authentication failures within the last second (R518). -/
def State.recentFailures (s : State) : Nat :=
  (s.cmds.authFailures.filter (fun t => decide (s.now < t + ticksS 1))).length

/-- The entry of a principal (chapter 14). -/
def State.principal (s : State) (index : Nat) : Option PrincipalEntry :=
  s.security.config.principals.find? (fun e => e.index.toNat == index)

/-! ### The NOR (R497) -/

/-- First address and size of a NOR region; the reserved range is no region. -/
def norRegion (r : Nat) : Nat × Nat :=
  nth (0, 0) [(0x0000000, 0x200000), (0x0200000, 0x200000), (0x0400000, 0x1000000), (0x1400000, 0x1000000),
    (0x2400000, 0x400000), (0x2800000, 0x400000), (0x2C00000, 0x100000), (0x2D00000, 0x100000)] r

/-- `n` bytes of the NOR from `a`; a byte never written reads 0 (DESIGN CHOICE, assumption log 4). -/
def State.norBytes (s : State) (a n : Nat) : List Byte := (upFrom a n).map fun i => tabGet 0 s.security.nor i

/-! ### The device keys (R494, R495) -/

/-- The Grain helper data in region 7. -/
def State.helperData (s : State) : List Byte := s.norBytes (norRegion 7).1 (norRegion 7).2

/-- A key derived from the Grain seed: KMAC256(G, label, 256, "ZW24 GRAIN") (R494). -/
def State.grainKey (s : State) (label : String) : List Byte :=
  exactly 32 (Config.kmac256 (Config.grainSeed s.helperData) (ascii label) (ascii "ZW24 GRAIN"))

/-- The 1,952-byte device public key. -/
def State.deviceKey (s : State) : List Byte := exactly 1952 (Config.dsaPublicKey (s.grainKey "DEVICE-SIGN"))

/-- A 3,309-byte signature of the device. -/
def State.deviceSign (s : State) (msg context : List Byte) : List Byte :=
  exactly 3309 (Config.dsaSign (s.grainKey "DEVICE-SIGN") msg context)

/-- SHAKE256 of the device public key (R495). -/
def State.keyDigest (s : State) : List Byte := exactly 32 (Config.shake256 s.deviceKey 32)

/-! ### The handshake -/

/-- The transcript T (R503). -/
def transcript (message1 : List Byte) (id : Nat) (nonce cipher : List Byte) : List Byte :=
  exactly 64 (Config.shake256 message1 64) ++ le 4 id ++ nonce ++ cipher

/-- Handshake message 2 (R503). -/
def State.message2 (s : State) (nonce cipher t : List Byte) : List Byte :=
  padTo 0x1330 (nonce ++ cipher ++ s.deviceSign (ascii "ZW24 KNABER M" ++ t) (ascii "KNABER-M"))

/-- The check of handshake message 3: the key hashes to the principal's entry, and the signature is valid (R503, R505). -/
def State.messageFacts (s : State) (x : Session) (p : List Byte) : Bool × Bool :=
  let key := slice p 0 1952
  ((match s.principal x.principal with
    | some e => exactly 32 (Config.shake256 key 32) == e.keyHash
    | none => false),
   Config.dsaVerify key (ascii "ZW24 KNABER C" ++ x.transcript) (ascii "KNABER-C") (slice p 0x7A0 3309))

/-- The key that JOB_KEY_INSTALL wraps, and whether it passes its tag (R507). -/
def unwrapKey (x : Session) (p : List Byte) : Bool × List Byte :=
  let wrap := exactly 32 (Config.kmac256 x.keyCm (ascii "JOB-KEY-WRAP") (ascii "KNABER"))
  let key := exactly 32 (Config.gcmDecrypt wrap (slice p 8 12) (slice p 0 4) (slice p 20 32))
  (slice p 52 16 == exactly 16 (Config.gcmTag wrap (slice p 8 12) (slice p 0 4) key), key)

/-- What the security block finds in the parameters of a packet of a session (R505, R507). -/
def State.factsOf (s : State) (x : Option Session) (opcode : Nat) (p : List Byte) : PacketFacts :=
  match x with
  | some x =>
    let m := if opcode = 0x0002 then s.messageFacts x p else (false, false)
    let k := if opcode = 0x0F00 then unwrapKey x p else (false, [])
    ⟨m.1, m.2, k.1, k.2⟩
  | none => ⟨false, false, false, []⟩

/-- SESSION_INIT (R424, R496, R503, R505). -/
def doSessionInit (c : OpenCmd) (s : State) : Result :=
  if (s.principal (uAt c.params 0 2)).isNone then refuse s .badParam
  else if s.security.noIdentity then refuse s .alarm
  else if 4 ≤ (s.cmds.sessions.filter (·.port == c.port)).length then refuse s .noResource
  else
    let id := s.cmds.lastSession + 1
    let ek := slice c.params 0x28 1568
    let nonce := exactly 32 (Config.moduleNonce id)
    let cipher := exactly 1568 (Config.kemCiphertext id ek)
    let t := transcript (slice c.params 0 0x648) id nonce cipher
    let k := exactly 64 (Config.shake256 (Config.kemSecret id ek ++ t) 64)
    let x : Session :=
      { id := id, port := c.port, principal := uAt c.params 0 2, confirmed := false, openedFt := s.ft,
        initAt := s.now, lastAt := s.now, keyCm := k.take 32, keyMc := k.drop 32, transcript := t,
        tagged := 0, heard := 0 }
    done { s with cmds := { s.cmds with sessions := s.cmds.sessions ++ [x], lastSession := id } }
      (le 4 id ++ zeros 4 ++ s.message2 nonce cipher t)

/-- SESSION_CONFIRM (R505): the packet tag has been checked on arrival. -/
def doSessionConfirm (c : OpenCmd) (s : State) : Result :=
  match s.session c.session with
  | none => refuse s .badTag
  | some x =>
    if c.facts.keyOk && c.facts.sigOk then
      ⟨.reply .ok [], s.setSession { x with confirmed := true, openedFt := s.ft },
        fun t => (t.emit (sessionEvent x.id 0)).releaseHeld⟩
    else ⟨.reply .badTag [], s.authFail, fun t => t.closeSession x.id⟩

/-- SESSION_CLOSE (R424): the session closes after the reply. -/
def doSessionClose (c : OpenCmd) (s : State) : Result := doneThen s [] fun t => t.closeSession c.session

/-- With its session key gone, a command that waits with a wrapped key can no longer unwrap it (R507, R510; DEDUCED, assumption
log 139). -/
def State.forgetWrapped (s : State) : State :=
  { s with cmds := { s.cmds with opened := s.cmds.opened.map fun c =>
      { c with facts := { c.facts with unwrapOk := false, key := [] } } } }

/-! ### Ping, ownership, list -/

/-- PING (R429). -/
def doPing (c : OpenCmd) (s : State) : Result := done s (slice c.params 0 8 ++ le 8 s.ft.toNat)

/-- OWNER_CLAIM (R425, R506). -/
def doOwnerClaim (c : OpenCmd) (s : State) : Result :=
  match s.session c.session, s.principal c.principal with
  | some _, some e =>
    let prev := s.ownerSession
    let grant := match prev with
      | none => true
      | some o => o.id == c.session || (uAt c.params 0 1 == 1 && o.principal == c.principal)
    if e.ownerAllowed && grant then
      let s' := { s with cmds := { s.cmds with owner := some c.session } }
      doneThen s' (le 4 (match prev with | some o => o.id | none => 0)) fun t =>
        match prev with
        | some o => if o.id = c.session then t else (t.emit (sessionEvent o.id 3)).emit (sessionEvent c.session 2)
        | none => t.emit (sessionEvent c.session 2)
    else refuse s .notOwner
  | _, _ => refuse s .notOwner

/-- OWNER_RELEASE (R425). -/
def doOwnerRelease (c : OpenCmd) (s : State) : Result :=
  if s.cmds.owner = some c.session then
    doneThen { s with cmds := { s.cmds with owner := none } } [] fun t => t.emit (sessionEvent c.session 3)
  else done s []

/-- SESSION_LIST (R429). -/
def doSessionList (_ : OpenCmd) (s : State) : Result :=
  done s (le 4 s.openSessions.length ++ s.openSessions.flatMap fun x =>
    le 4 x.id ++ le 1 x.port ++ le 1 (if s.cmds.owner = some x.id then 1 else 0) ++ le 2 x.principal ++ le 8 x.openedFt.toNat)

/-! ### Rows -/

/-- SESSION_INIT. -/
def execSessionInit (s : State) : Host.Outcome State Fault Refusal := .next (s.run 0x0001 doSessionInit)
/-- SESSION_CONFIRM. -/
def execSessionConfirm (s : State) : Host.Outcome State Fault Refusal := .next (s.run 0x0002 doSessionConfirm)
/-- SESSION_CLOSE. -/
def execSessionClose (s : State) : Host.Outcome State Fault Refusal := .next (s.run 0x0003 doSessionClose)
/-- PING. -/
def execPing (s : State) : Host.Outcome State Fault Refusal := .next (s.run 0x0004 doPing)
/-- OWNER_CLAIM. -/
def execOwnerClaim (s : State) : Host.Outcome State Fault Refusal := .next (s.run 0x0005 doOwnerClaim)
/-- OWNER_RELEASE. -/
def execOwnerRelease (s : State) : Host.Outcome State Fault Refusal := .next (s.run 0x0006 doOwnerRelease)
/-- SESSION_LIST. -/
def execSessionList (s : State) : Host.Outcome State Fault Refusal := .next (s.run 0x0007 doSessionList)

/-- SESSION_HALF_OPEN_EXPIRY: 1 s without confirmation (R505). -/
def execSessionHalfOpenExpiry (id : Nat) (s : State) : Host.Outcome State Fault Refusal :=
  .next (match s.session id with
    | some x => if !x.confirmed ∧ x.initAt + ticksS 1 ≤ s.now then s.closeSession id else s
    | none => s)

/-- SESSION_IDLE_EXPIRY: no valid packet for CMD_CTRL.IDLE_S seconds (R424). -/
def execSessionIdleExpiry (id : Nat) (s : State) : Host.Outcome State Fault Refusal :=
  .next (match s.session id with
    | some x => if x.lastAt + ticksS (s.rf .cmdCtrl 0 16) ≤ s.now then s.closeSession id else s
    | none => s)

end Sys2Proof.Machine
end

