-- ==== Sys2Proof/Machine/Speas.lean ====
section
/-! DEFINITION. The Speas link: frames (R233), go-back-N (R234), wavelengths (R232, R235), packet assembly (R416)
and the arrival checks that end in a journaled command (R417, R420, R422, R426). -/

namespace Sys2Proof.Machine

/-! ### Arrival of a packet (R420) -/

/-- A command packet (R417). -/
structure Packet where
  version : Nat
  flags : Nat
  opcode : Nat
  epoch : Nat
  number : Nat
  session : Nat
  deadline : Nat
  notBefore : Word
  params : List Byte
deriving DecidableEq, Repr

/-- Read a packet whose length is the one its fields declare. -/
def parsePacket (b : List Byte) : Packet :=
  { version := uAt b 2 1, flags := uAt b 3 1, opcode := uAt b 4 2, epoch := uAt b 14 2, number := uAt b 8 6,
    session := uAt b 16 4, deadline := uAt b 20 4, notBefore := word (uAt b 24 8),
    params := slice b 32 (8 * uAt b 6 2) }

/-- The packet's total length is the one its fields declare (R416, R417). -/
def lengthOk (b : List Byte) : Bool := decide (64 ≤ b.length) && b.length == 64 + 8 * uAt b 6 2

/-- Count a discarded packet (R416, R458). -/
def State.malformed (s : State) : State :=
  { s with cmds := { s.cmds with malformed := satAdd s.cmds.malformed 1 } }

/-- Refuse a packet on arrival: not journaled, journal sequence 0 (R418, R420). -/
def State.turnAway (s : State) (port : Nat) (k : Packet) (st : Status) : State :=
  s.reply port { session := k.session, duplicate := false, pending := false, opcode := k.opcode,
                 seq := word (k.epoch <<< 48 + k.number), status := st, jseq := 0, acceptFt := s.ft, data := [] }

/-- Epoch and highest number of a principal (R426). -/
def State.seqOf (s : State) (principal : Nat) : Nat × Nat :=
  match s.cmds.principals.find? (·.index == principal) with
  | some p => (p.epoch, p.highest)
  | none => (0, 0)

/-- Record epoch and highest number of a principal of the table. -/
def State.setSeq (s : State) (principal e h : Nat) : State :=
  if (s.principal principal).isNone then s
  else if s.cmds.principals.any (·.index == principal) then
    { s with cmds := { s.cmds with principals := s.cmds.principals.map fun p =>
        if p.index = principal then { p with epoch := e, highest := h } else p } }
  else { s with cmds := { s.cmds with principals := s.cmds.principals ++ [⟨principal, e, h⟩] } }

/-- Send a duplicate reply, or note that it is due when the original completes (R426). -/
def State.duplicate (s : State) (port : Nat) (k : Packet) : Earlier → State
  | .openCommand c =>
    if c.long || c.notBefore.isSome then
      s.reply port { c.replyOf .accepted [] with duplicate := true, session := k.session }
    else
      { s with cmds := { s.cmds with opened := s.cmds.opened.map fun x =>
          if x.jseq = c.jseq then { x with duplicates := x.duplicates ++ [(k.session, port)] } else x } }
  | .completed jseq st ft =>
    s.reply port { session := k.session, duplicate := true, pending := false, opcode := k.opcode,
                   seq := word (k.epoch <<< 48 + k.number), status := Status.ofCode st.toNat, jseq := jseq,
                   acceptFt := ft, data := [] }

/-- The sequence check of R426: none when the packet is settled by it, else the state that accepts it. -/
def State.sequence (s : State) (port principal : Nat) (k : Packet) : State × Bool :=
  let res := s.seqOf principal
  let e := res.1
  let h := res.2
  let idem := bits k.flags 2 1 == 1
  if k.epoch < e then (s.turnAway port k .staleSeq, false)
  else if e < k.epoch then (s.setSeq principal k.epoch k.number, true)
  else
    match s.earlier principal k.epoch k.number with
    | some r =>
      if idem then (s.setSeq principal e (max h k.number), true) else (s.duplicate port k r, false)
    | none =>
      if h < k.number + 1024 then (s.setSeq principal e (max h k.number), true)
      else if idem then (s, true)
      else (s.turnAway port k .staleSeq, false)

/-- Order 9: the limits of R254 and 1,024 open commands. -/
def State.openLimit (s : State) (k : Packet) : Option Status :=
  let held := (s.cmds.opened.filter fun c => match c.phase with | .held _ => true | _ => false).length
  if bits k.flags 1 1 = 1 ∧ s.ft.toNat + ticksS 60 < k.notBefore.toNat then some .badParam
  else if bits k.flags 1 1 = 1 ∧ 256 ≤ held then some .noResource
  else if 1024 ≤ s.cmds.opened.length then some .noResource
  else none

/-- The record of a command (R448, kind 0). -/
def commandRec (c : OpenCmd) : JRec :=
  { seq := 0, ft := 0, session := c.session, opcode := c.opcode, kind := .command,
    truncated := decide (4096 < c.params.length), long := c.long, notBeforeFlag := c.notBefore.isSome,
    portB := c.port == 1, closedAtRecovery := false, cmdSeq := c.seqWord,
    status := if c.long || c.notBefore.isSome then 0x0001 else 0xFFFF, total := c.params.length, concerns := 0,
    notBeforeFt := c.notBefore.getD 0, principal := c.principal, params := c.params.take 4096, offset := 0 }

/-- Two commands that are journaled at the same tick from different ports have tied: the port of the second wins
the next tie (R423; assumption log 11). -/
def State.noteTie (s : State) (port : Nat) : State :=
  match (s.journal.records.filter (·.kind == .command)).getLast? with
  | some r => if r.ft = s.ft ∧ r.portB ≠ (port == 1) then { s with cmds := { s.cmds with tieNext := port == 1 } } else s
  | none => s

/-- Orders 10 to 12: journal the command (R449, R451). A command held for its not-before FT is checked as far as
its layout goes and answered ACCEPTED with PENDING (R253, R418); any other waits for its turn (R423). -/
def State.journalCommand (s : State) (port principal : Nat) (k : Packet) (facts : PacketFacts) : State :=
  if !s.journal.fits (min 4096 k.params.length) then
    { s with journal := { s.journal with ringFull := true } }.turnAway port k .busy
  else
    let nb := if bits k.flags 1 1 = 1 then some k.notBefore else none
    let c : OpenCmd :=
      { jseq := s.journal.nextSeq, opcode := k.opcode, session := k.session, port := port, principal := principal,
        epoch := k.epoch, number := k.number, ackWanted := bits k.flags 0 1 == 1, notBefore := nb,
        idempotent := bits k.flags 2 1 == 1, long := bits k.flags 3 1 == 1 || runsLong k.opcode k.params,
        deadlineUs := deadlineOf k.deadline, arrivedAt := s.now, acceptFt := s.ft, params := k.params, facts := facts,
        phase := if nb.isSome then .held false else .waiting, duplicates := [],
        summary := if k.opcode = 0x0800 then s.summaryData else [] }
    let s := (s.noteTie port).journalWrite (commandRec c)
    let s := { s with cmds := { s.cmds with opened := s.cmds.opened ++ [c] } }
    if nb.isSome then
      match s.commonRefusal c.session c.opcode c.params with
      | some st => s.finish c st []
      | none => s.acceptReply c true
    else s

/-- Orders 6 to 9 of R420, then the journal. -/
def State.arrivalChecks (s : State) (port principal : Nat) (k : Packet) (facts : PacketFacts) : State :=
  if !opcodes.contains k.opcode then s.turnAway port k .badOpcode
  else if 2 ≤ s.security.level ∧ !([0, 1, 8, 0xF].contains (k.opcode / 256)) then s.turnAway port k .alarm
  else if mutating.contains k.opcode ∧ s.cmds.owner ≠ some k.session then s.turnAway port k .notOwner
  else
    match s.openLimit k with
    | some st => s.turnAway port k st
    | none => s.journalCommand port principal k facts

/-- The tag of a packet is valid: KMAC256 under K_cm of every preceding byte; that of opcode 0x0001 is zero (R420, R504). -/
def tagOk (x : Option Session) (opcode : Nat) (b : List Byte) : Bool :=
  let n := b.length - 32
  if opcode = 0x0001 then zeroFrom b n b.length
  else match x with | some x => b.drop n == knaberTag x.keyCm (b.take n) | none => false

/-- A complete packet (R420). -/
def State.arrive (s : State) (port : Nat) (b : List Byte) : State :=
  let k := parsePacket b
  let x := s.cmds.sessions.find? (fun x => x.id == k.session && x.port == port)
  if uAt b 0 2 ≠ 0x5A77 then s.malformed
  else if x.isNone ∧ ¬(k.session = 0 ∧ k.opcode = 0x0001) then s.malformed
  else if !tagOk x k.opcode b then
    let s := { s with cmds := { s.cmds with badTag := satAdd s.cmds.badTag 1 } }
    let s := s.authFail.turnAway port k .badTag
    match x with
    | some x => if !x.confirmed ∧ k.opcode = 0x0002 then s.closeSession x.id else s
    | none => s
  else
    let s := match x with
      | some x => s.setSession { x with lastAt := s.now, heard := x.heard + 1 }
      | none => s
    if k.version ≠ 1 ∨ bits k.flags 4 4 ≠ 0 then s.turnAway port k .badParam
    else
      let principal := match x with | some x => x.principal | none => uAt k.params 0 2
      let res := s.sequence port principal k
      let s := res.1
      let go := res.2
      if go then s.arrivalChecks port principal k (s.factsOf x k.opcode k.params) else s

/-! ### Frames (R233, R234) -/

/-- A Speas frame that has passed its CRC. -/
structure Frame where
  kind : Nat
  flags : Nat
  seq : BitVec 32
  ack : BitVec 32
  control : Nat
  arg : Nat
  payload : List Byte
deriving DecidableEq, Repr

/-- Read a frame: none when its length or CRC is wrong (R233, R234). -/
def parseFrame (b : List Byte) : Option Frame :=
  let n := uAt b 2 2
  if b.length = 20 + n ∧ n ≤ 4096 ∧ uAt b (16 + n) 4 = crc32c (b.take (16 + n)) then
    some { kind := uAt b 0 1, flags := uAt b 1 1, seq := BitVec.ofNat 32 (uAt b 4 4), ack := BitVec.ofNat 32 (uAt b 8 4),
           control := uAt b 12 1, arg := uAt b 13 1, payload := slice b 16 n }
  else none

/-- Send again every frame of the window (R234), counting and tracing them (R526). -/
def State.resend (s : State) (port : Nat) : State :=
  let w := (s.sp port).txUnacked.take 512
  let s := w.foldl (fun t f => t.putFrame port 0 f.2.1 f.2.2 f.1 0 0) s
  let s := match w with | f :: _ => s.trace (1942 + port) 0x0023 w.length f.1.toNat | [] => s
  s.setSp port { s.sp port with retransmits := satAdd (s.sp port).retransmits w.length }

/-- Take in a cumulative acknowledgement: frames that the window now lets go are sent (R234). -/
def State.takeAck (s : State) (port : Nat) (ack : BitVec 32) : State :=
  let p := s.sp port
  match p.txUnacked with
  | [] => s
  | (first, _, _) :: _ =>
    let n := (ack - first + 1).toNat
    if 0 < n ∧ n ≤ min 512 p.txUnacked.length then
      let s := s.setSp port { p with txUnacked := p.txUnacked.drop n, expiries := 0, progressAt := s.now }
      ((p.txUnacked.drop (max n 512)).take n).foldl (fun t f => t.putFrame port 0 f.2.1 f.2.2 f.1 0 0) s
    else s

/-- A data frame in order: assemble the packet (R416). -/
def State.assemble (s : State) (port : Nat) (f : Frame) : State :=
  let p := s.sp port
  let starts := f.flags % 2 == 1
  let ends := bits f.flags 1 1 == 1
  let s := if starts && p.partialPacket.isSome then s.malformed else s
  match (if starts then some f.payload else p.partialPacket.map (· ++ f.payload)) with
  | none => s
  | some b =>
    if 65600 < b.length then { s.setSp port { p with partialPacket := none } with cmds := s.malformed.cmds }
    else if ends then
      let s := s.setSp port { p with partialPacket := none }
      if lengthOk b then s.arrive port b else s.malformed
    else s.setSp port { p with partialPacket := some b }

/-- The spare wavelength: working and not active. -/
def SpeasPort.spare (p : SpeasPort) : Option Nat :=
  [0, 1, 2].find? (fun w => !p.active.getLsbD w && !p.failed.getLsbD w)

/-- The bit of a wavelength. -/
def waveBit (w : Nat) : BitVec 3 := (1 : BitVec 3) <<< w

/-- Send a control frame (R233), tracing it (R526). -/
def State.control (s : State) (port code arg : Nat) : State :=
  (s.putFrame port 2 0 [] 0 code arg).trace (1942 + port) 0x0021 code arg

/-- An answer of the adapter to a wavelength rotation of this end (R216, R218, R235): it counts where it names the wavelength that
the rotation has asked about. -/
def State.waveAnswer (s : State) (port code arg : Nat) : State :=
  let p := s.sp port
  match p.rotating with
  | none => s
  | some (w, st) =>
    if arg ≠ w then s
    else
      match code, st, p.spare with
      | 0x02, .mirrorSent, some sp =>
        (s.setSp port { p with active := (p.active ||| waveBit sp) &&& ~~~waveBit w, rotating := some (w, .trainSent) }).control
          port 0x04 w
      | 0x03, .mirrorSent, some sp =>
        (s.setSp port { p with rotating := some (sp, .retrain) }).control port 0x04 sp
      | 0x05, .trainSent, _ => s.setSp port { p with rotating := none, rotations := p.rotations + 1 }
      | 0x05, .retrain, _ => s.setSp port { p with rotating := none }
      | 0x06, .trainSent, _ | 0x06, .retrain, _ => s.setSp port { p with rotating := none, failed := p.failed ||| waveBit w }
      | _, _, _ => s

/-- The adapter rotates a wavelength of its own direction (R216, R235). Frames are taken on every working wavelength and ordered
by sequence, so the module steers at once, and what it takes in trains well until it fails in service (DESIGN CHOICE, assumption
log 129). -/
def State.waveRequest (s : State) (port code arg : Nat) : State :=
  let s := s.trace (1942 + port) 0x0021 (0x8000 + code) arg
  let bad := decide (3 ≤ arg) || (s.sp port).failed.getLsbD arg
  match code with
  | 0x01 => s.control port (if bad then 0x03 else 0x02) arg
  | 0x04 => s.control port (if bad then 0x06 else 0x05) arg
  | _ => s.waveAnswer port code arg

/-- The receiver's side of a frame: order by sequence, acknowledge, assemble (R233, R234). An acknowledgement
frame follows each data frame (DESIGN CHOICE, assumption log 12). -/
def State.takeFrame (s : State) (port : Nat) (f : Frame) : State :=
  let s := s.takeAck port f.ack
  let s := if bits f.flags 2 1 = 1 then s.resend port else s
  if f.kind = 2 then s.waveRequest port f.control f.arg
  else if f.kind = 0 then
    let p := s.sp port
    if f.seq = p.rxNext then
      let s := s.setSp port { p with rxNext := p.rxNext + 1 }
      (s.putFrame port 1 0 [] 0 0 0).assemble port f
    else if (f.seq - p.rxNext).toNat < 2 ^ 31 then s.putFrame port 1 4 [] 0 0 0
    else (s.count (1204 + 3 * port) 1).putFrame port 1 0 [] 0 0 0
  else s

/-- Take a Speas link down (R234, R424), tracing it (R526). The state codes of these ports are the bit LINK_UP (DESIGN CHOICE,
assumption log 140). -/
def State.speasDown (s : State) (port : Nat) : State :=
  let s := (s.closeSessions (·.port == port)).trace (1942 + port) 0x0020 0 0
  s.setSp port { s.sp port with linkUp := false, active := 0, rxNext := 0, partialPacket := none, txNext := 0,
                                txUnacked := [], expiries := 0, rotating := none }

/-- Bring a Speas link up: all three wavelengths are tested, λ0 and λ1 active, λ2 the spare (R232, R235). -/
def State.speasUp (s : State) (port : Nat) : State :=
  (s.trace (1942 + port) 0x0020 1 0).setSp port { s.sp port with linkUp := true, active := 3, failed := 0, progressAt := s.now }

/-! ### Rows -/

/-- SPEAS_FRAME. -/
def execSpeasFrame (port wave : Nat) (frame : List Byte) (s : State) : Host.Outcome State Fault Refusal :=
  onUnit port 2 <|
    let p := s.sp port
    if !s.benchUp || !p.linkUp || !(decide (wave < 3) && (p.active.getLsbD wave || p.spare == some wave)) then s
    else
      let s := s.count (1203 + 3 * port) frame.length
      match parseFrame frame with
      | none => s.count (1204 + 3 * port) 1
      | some f => (s.takeFrame port f).closeWorn

/-- SPEAS_RETRANSMIT_TIMEOUT: 50 µs with no progress (R234). -/
def execSpeasRetransmitTimeout (port : Nat) (s : State) : Host.Outcome State Fault Refusal :=
  onUnit port 2 <|
    let p := s.sp port
    if !p.linkUp || p.txUnacked.isEmpty || decide (s.now < p.progressAt + ticksUs 50) then s
    else if 64 ≤ p.expiries + 1 then s.speasDown port
    else (s.setSp port { p with expiries := p.expiries + 1, progressAt := s.now }).resend port

/-- SPEAS_ROTATION: the 250 ms instant of a port (R235); a rotation still unanswered is abandoned (R218). -/
def execSpeasRotation (port : Nat) (s : State) : Host.Outcome State Fault Refusal :=
  onUnit port 2 <|
    let p := s.sp port
    if !p.linkUp || s.ft.toNat % ticksMs 250 ≠ ticksMs 125 * port then s
    else
      match p.rotating, p.spare with
      | none, some sp =>
        let w := (sp + 1) % 3
        if p.active.getLsbD w then
          let t := s.control port 0x01 w
          t.setSp port { t.sp port with rotating := some (w, .mirrorSent) }
        else s
      | some (_, .mirrorSent), _ => s.setSp port { p with rotating := none }
      | _, _ => s

/-- SPEAS_LINK_UP: a link that was down comes up again (R235). -/
def execSpeasLinkUp (port : Nat) (s : State) : Host.Outcome State Fault Refusal :=
  onUnit port 2 (if s.benchUp && s.boot.commandReady && !(s.sp port).linkUp then s.speasUp port else s)

/-- SPEAS_WAVELENGTH_FAIL: the spare replaces a wavelength that fails in service; with no spare the port runs on
the one that is left, and with none the link goes down (R235). -/
def execSpeasWavelengthFail (port wave : Nat) (s : State) : Host.Outcome State Fault Refusal :=
  if port < 2 ∧ wave < 3 then
    let p := s.sp port
    .next (if !p.linkUp || p.failed.getLsbD wave then s
      else if p.active.getLsbD wave then
        let a := p.active &&& ~~~waveBit wave
        let p' := { p with failed := p.failed ||| waveBit wave, rotating := none,
                           active := match p.spare with | some sp => a ||| waveBit sp | none => a }
        if p'.active = 0 then (s.setSp port p').speasDown port else s.setSp port p'
      else s.setSp port { p with failed := p.failed ||| waveBit wave, rotating := none })
  else .fault .noSuchUnit

end Sys2Proof.Machine
end

