-- ==== Sys2Proof/Machine/Units.lean ====
section
/-! DEFINITION. Work rings and completion rings (R135, R152 to R154, R160 to R166), logical cores and their hosts
(R134, R155, R163), the step of an item (R562), and what a clamp or a reset of a unit does to its work (R64 to R66,
R155, R156, R337, R468). -/

namespace Sys2Proof.Machine

/-! ### Veneers (R126, R372) -/

/-- Address and bytes of an own Veneer. -/
def State.ownVeneer (s : State) (v : Nat) : Nat × Nat := (s.rf (.veneerBase v) 12 36 * 4096, s.rf .veneerSize 0 28 * 4096)
/-- Address and bytes of a mirror Veneer. -/
def State.mirrorVeneer (s : State) (v : Nat) : Nat × Nat :=
  (s.rf (.twinMirrorBase v) 12 36 * 4096, s.rf .twinMirrorSize 0 28 * 4096)
/-- The module keeps mirror Veneers: it has a twin, has adopted its shard, or receives (R378, R384). -/
def State.mirrorInUse (s : State) : Bool := s.twin.role != 0
/-- Letters that a depth uses (R372). -/
def depthLetters (depth : Nat) : List Nat := if depth = 2 then [0, 1, 2] else [0, 1]

/-- Address and bytes of the check store (R333). -/
def State.checkStore (s : State) : Nat × Nat := (s.rf .sqStoreBase 12 36 * 4096, s.rf .sqStoreLimit 0 28 * 4096)

/-- Two areas overlap; an area of zero bytes overlaps nothing (R373). -/
def areasMeet (x y : Nat × Nat) : Bool := overlaps x.1 x.2 y.1 y.2

/-- Letters that name a Veneer now: those of the depth, and any that a step, the sealed state or a frozen image holds (R126,
R372, R392). -/
def State.lettersInUse (s : State) : List Nat :=
  [0, 1, 2].filter fun v => (depthLetters s.steps.depth).contains v || s.steps.opened.any (fun r => r.reads == v || r.writes == v) ||
    s.steps.sealedLetter == v || (match s.ckpt.frozen with | some (f, _) => f == v | none => false)

/-- Areas of the Veneers, mirror ones included where the module keeps them. -/
def State.veneerAreas (s : State) : List (Nat × Nat) :=
  s.lettersInUse.flatMap fun v => s.ownVeneer v :: (if s.mirrorInUse then [s.mirrorVeneer v] else [])

/-- A write of `n` bytes at `a` by anything but an op would touch a Veneer during a step (R126). -/
def State.veneerShut (s : State) (a n : Nat) : Bool := !s.steps.opened.isEmpty && s.veneerAreas.any (areasMeet (a, n))

/-! ### Work rings (R135, R160 to R162) -/

/-- Logical core of a work ring. -/
def ringCore (r : Nat) : Nat := r / 128
/-- CORE_WRING_CTRL of a work ring. -/
def wctrl (r : Nat) : Reg := .wringCtrl (r / 128) (r % 128)
/-- CORE_WRING_PTR of a work ring. -/
def wptr (r : Nat) : Reg := .wringPtr (r / 128) (r % 128)
/-- Entries a work ring holds. -/
def State.wringSize (s : State) (r : Nat) : Nat := 2 ^ s.rf (wctrl r) 0 5
/-- HEAD of a work ring. -/
def State.wringHead (s : State) (r : Nat) : BitVec 32 := tabGet 0 s.ringHeads r
/-- TAIL of a work ring. -/
def State.wringTail (s : State) (r : Nat) : BitVec 32 := BitVec.ofNat 32 (s.rf (wptr r) 32 32)
/-- Entries between HEAD and TAIL. -/
def State.wringCount (s : State) (r : Nat) : Nat := (s.wringTail r - s.wringHead r).toNat
/-- Phase that gates a work ring. -/
def State.wringPhase (s : State) (r : Nat) : Nat := s.rf (wctrl r) 24 3
/-- Completion ring of a work ring. -/
def State.wringCring (s : State) (r : Nat) : Nat := s.rf (wctrl r) 8 14
/-- A work ring is enabled and not in error. -/
def State.wringOpen (s : State) (r : Nat) : Bool := s.rbit (wctrl r) 28 && !s.rbit (wctrl r) 29
/-- First address of a work ring. -/
def State.wringBase (s : State) (r : Nat) : Nat := s.rf (.wringBase (r / 128) (r % 128)) 6 42 * 64
/-- Address of the entry at HEAD. -/
def State.wringEntry (s : State) (r : Nat) : Nat := s.wringBase r + (s.wringHead r).toNat % s.wringSize r * 64
/-- Take the entry at HEAD (R137). -/
def State.wringTake (s : State) (r : Nat) : State :=
  { s with ringHeads := tabSet 0 s.ringHeads r (s.wringHead r + 1) }
/-- Set TAIL. -/
def State.setWringTail (s : State) (r : Nat) (t : BitVec 32) : State :=
  s.setReg (wptr r) (word (place t.toNat 32 32))
/-- Set CORE_WRING_CTRL.ERROR (R136). -/
def State.wringError (s : State) (r : Nat) : State := s.setBits (wctrl r) (word (2 ^ 29))

/-! ### Completion rings (R152 to R154, R164 to R166) -/

/-- A completion ring's own state. -/
def State.cring (s : State) (n : Nat) : CompletionRing := tabGet completionRingReset s.crings n
/-- Replace it. -/
def State.setCring (s : State) (n : Nat) (r : CompletionRing) : State :=
  { s with crings := tabSet completionRingReset s.crings n r }
/-- Records a completion ring holds. -/
def State.cringSize (s : State) (n : Nat) : Nat := 2 ^ s.rf (.cringCtrl n) 0 5
/-- HEAD of a completion ring. -/
def State.cringHead (s : State) (n : Nat) : BitVec 32 := BitVec.ofNat 32 (s.rf (.cringPtr n) 32 32)
/-- First address of a completion ring. -/
def State.cringBase (s : State) (n : Nat) : Nat := s.rf (.cringBase n) 5 43 * 32
/-- A record can be written now: enabled, and with space (R154, R165). -/
def State.cringRoom (s : State) (n : Nat) : Bool :=
  s.rbit (.cringCtrl n) 5 && decide ((((s.cring n).tail - s.cringHead n).toNat) < s.cringSize n)

/-- Put a record into its ring with the PHASE bit of this pass (R152). -/
def State.putRecord (s : State) (n : Nat) (holder : Requester) (rec : List Byte) : State :=
  let r := s.cring n
  let size := s.cringSize n
  let phase : Byte := if r.tail.toNat / size % 2 = 0 then 1 else 0
  let bs := setNth rec 3 (nth 0 rec 3 ||| phase)
  (s.store holder (s.cringBase n + r.tail.toNat % size * 32) bs).setCring n { r with tail := r.tail + 1 }

/-- Who writes a record: a core, or for numbers from 384 up a collective engine. -/
def requesterOf (holder : Nat) : Requester := if holder < 384 then .core holder else .carcass

/-- Write a record, or hold it for space; the first record held is reported (R154). -/
def State.record (s : State) (n holder : Nat) (rec : List Byte) : State :=
  let r := s.cring n
  if r.held.isEmpty && s.cringRoom n then s.putRecord n (requesterOf holder) rec
  else
    let s := s.setCring n { r with held := r.held ++ [(rec, holder)], notified := true }
    if r.notified then s else s.fault 0x0010 .module .ok n holder

/-- Write held records while there is room. The count bounds the recursion. -/
def State.drainCring (s : State) (n : Nat) : Nat → State
  | 0 => s
  | k + 1 =>
    match (s.cring n).held with
    | [] => s
    | (rec, h) :: rest =>
      if s.cringRoom n then
        let t := s.putRecord n (requesterOf h) rec
        (t.setCring n { t.cring n with held := rest, notified := false }).drainCring n k
      else if (s.cring n).notified then s
      else (s.setCring n { s.cring n with notified := true }).fault 0x0010 .module .ok n h

/-- Let a ring's held records go (R154, R166). -/
def State.releaseCring (s : State) (n : Nat) : State := s.drainCring n ((s.cring n).held.length + 1)

/-- A core holds a record for space (R154). -/
def State.holdsRecord (s : State) (c : Nat) : Bool := s.crings.any fun r => r.2.held.any fun h => h.2 == c

/-- A completion record (R152) before its PHASE bit. `tile` is bytes 0x10 to 0x13. -/
def State.recordBytes (s : State) (st : Status) (kind flags nf core step logical tile instr desc : Nat)
    (tag : BitVec 32) : List Byte :=
  le 2 st.code ++ le 1 kind ++ le 1 flags ++ le 1 nf ++ le 1 0 ++ le 2 core ++ le 6 step ++ le 2 logical ++ le 4 tile ++
    le 2 instr ++ le 2 desc ++ le 4 tag.toNat ++ le 4 s.ft.toNat

/-! ### Programs and hosts -/

/-- The loaded program of a number. -/
def State.program (s : State) (n : Nat) : Option Program := tabFind s.programs n
/-- The placement entry of a logical core in the training program (R132). -/
def State.placement (s : State) (l : Nat) : Option Placement := (s.program 0).bind fun p => p.placement[l]?
/-- The physical core that hosts a logical core (R155). -/
def State.hostOf (s : State) (l : Nat) : Option Nat := tabFind s.hosts l
/-- Logical cores that a physical core hosts, in rising order. -/
def State.hostedBy (s : State) (c : Nat) : List Nat := (s.hosts.filter (·.2 == c)).map (·.1)

/-- Ones of a 32-bit map. -/
def ones (m : BitVec 32) : Nat := ((List.range 32).filter fun i => m.getLsbD i).length

/-- Effective width of an engine (R53, R67). -/
def EngineState.width (e : EngineState) : Nat := 32 - ones (e.manufacturing ||| e.boot)

/-- Tile width of a core (R54): the smallest of its four engines. -/
def State.tileWidth (s : State) (c : Nat) : Nat :=
  min (min (s.engine (4 * c)).width (s.engine (4 * c + 1)).width)
    (min (s.engine (4 * c + 2)).width (s.engine (4 * c + 3)).width)

/-- A core may host a moved logical core (R155, R468): not clamped, not in reset, wide enough. -/
def State.qualifies (s : State) (minWidth c : Nat) : Bool :=
  !s.coreClamped c && !s.inReset .core c && decide (minWidth ≤ s.tileWidth c)

/-- Translate an address of a Tray window to the Tray of the host (R134); none without a host. Other addresses
stand for themselves. -/
def State.translate (s : State) (a : Nat) : Option Nat :=
  if regionOf a = .tray then (s.hostOf (trayCore a)).map fun h => trayOf h + (a - trayBase) % 2 ^ 22
  else some a

/-- How an op that reaches `n` bytes at a program's address ends (R15, R23, R134, R177, R466): OK where it may go
on. -/
def State.opAccess (s : State) (a n : Nat) : Status :=
  if n = 0 then .ok
  else
    match regionSpan a n with
    | .tray =>
      if (upFrom (trayCore a) (trayCore (a + n - 1) - trayCore a + 1)).all fun l => (s.hostOf l).isSome then .ok
      else .clamped
    | .inlay =>
      if (upFrom (inlayDie a) (inlayDie (a + n - 1) - inlayDie a + 1)).any fun d => s.dieClamped d || s.inReset .die d
      then .clamped else .ok
    | .lpddr6 => if touchesReserved a n then .badParam else if s.inReset .memory 0 then .deadline else .ok
    | _ => .badParam

/-! ### Steps of items (R562) -/

/-- The step record of an ID. -/
def State.step? (s : State) (id : Nat) : Option StepRec := s.steps.opened.find? (·.id == id)

/-- Replace a step record. -/
def State.setStep (s : State) (r : StepRec) : State :=
  { s with steps := { s.steps with opened := s.steps.opened.map fun x => if x.id = r.id then r else x } }

/-- The newest step whose LOAD has opened and that is not sealed. -/
def State.newest (s : State) : Option StepRec := s.steps.opened.getLast?

/-- Phase `p` of some step is in progress (R138). -/
def State.phaseRuns (s : State) (p : Nat) : Bool :=
  if p = 6 then s.steps.evalSlot.isSome
  else if p = 4 then s.steps.opened.any fun r => r.phase == 4 || r.reduce == 1
  else s.steps.opened.any (·.phase == p)

/-- The step that an item of a ring with this phase belongs to, and whether it enters that step's verdict (R562). -/
def State.itemStep (s : State) (phase : Nat) : Option Nat × Bool :=
  if phase = 0 then
    match s.newest with
    | some r => (some r.id, true)
    | none => (if s.steps.sealedSince then some s.steps.sealedStep else none, false)
  else if phase = 6 then (s.steps.evalSlot.map fun e => e.2.2.2.1, false)
  else
    match s.steps.opened.find? (fun r => r.phase == phase || (phase == 4 && r.reduce == 1)) with
    | some r => (some r.id, true)
    | none => (none, false)

/-- Enter a reason of R346 into the verdict of a step. Poison in what a replay reads enters as REPLAY_DATA, which
takes the place of POISON (DEDUCED, assumption log 20). -/
def State.failStep (s : State) (step : Option Nat) (reason : Nat) : State :=
  match step.bind s.step? with
  | some r =>
    if r.reasons.contains reason || (reason == 3 && r.reasons.contains 9) then s
    else s.setStep { r with reasons := r.reasons ++ [reason] }
  | none => s

/-- Reason of R346 for a status that an op or an item ends with. -/
def reasonOf (st : Status) : Nat := if st = .poison then 3 else 4

/-! ### Ending ops and items -/

/-- The program that an item runs under: an evaluation program in its slot, else the training program. -/
def State.itemProgram (s : State) (it : Item) : Option Program :=
  if it.phase = 6 then s.steps.evalSlot.bind fun e => s.program e.2.1 else s.program 0

/-- Flags of an item's records: RESTARTED, SUBSTITUTE (R152, R156). -/
def State.recordFlags (s : State) (it : Item) (c : Nat) : Nat :=
  placeB it.restarted 1 + placeB (match s.placement it.logical with | some p => p.primary != c | none => false) 2

/-- Place of an op in the issue order of its item. -/
def Op.place (op : Op) : Nat := op.instrIndex * 65536 + op.descIndex

/-- Keep the earlier of two failures in issue order (R142). -/
def earlierFailure (f : Option (Nat × Status)) (place : Nat) (st : Status) : Option (Nat × Status) :=
  match f with
  | some (p, s) => if place < p then some (place, st) else some (p, s)
  | none => some (place, st)

/-- Complete an op with a status: its record or the quiet count (R153), retired tiles (R69), sticky flags (R93). -/
def State.closeOp (s : State) (c : Nat) (it : Item) (op : Op) (st : Status) : State × Item :=
  let s := match op.kind with
    | .tile => let x := s.core c; s.setCore c { x with tilesRetired := x.tilesRetired + 1, progressAt := s.now }
    | _ => let x := s.core c; s.setCore c { x with progressAt := s.now }
  let s := if op.flags = 0 then s else s.setBits (.coreNumFlags c) (op.flags.zeroExtend 64)
  let it := { it with failed := if st = .ok then it.failed else earlierFailure it.failed op.place st }
  if op.kind = .tile ∧ op.quiet ∧ op.flags = 0 ∧ st = .ok ∧ !it.reportAll then (s, { it with quiet := it.quiet + 1 })
  else
    let kind := match op.kind with | .tile => 0 | .row => 3 | .transfer => 4
    (s.record (s.wringCring it.ring) c (s.recordBytes st kind (s.recordFlags it c) op.flags.toNat c (it.step.getD 0)
      it.logical (if op.kind = .tile then op.tileId.toNat else 0) op.instrIndex op.descIndex it.tag), it)

/-- The record of an item (R153, kind 1). -/
def State.itemRecord (s : State) (c : Nat) (it : Item) (st : Status) : State :=
  s.record (s.wringCring it.ring) c (s.recordBytes st 1 (s.recordFlags it c) 0 c (it.step.getD 0) it.logical it.quiet 0 0 it.tag)

/-- End an item with a status: record, verdict (R142, R346), and the core is free. -/
def State.endItem (s : State) (c : Nat) (it : Item) (st : Status) : State :=
  let s := (s.itemRecord c it st).trace c 0x0002 st.code it.tag.toNat
  let s := if st ≠ .ok ∧ it.verdict then s.failStep it.step (reasonOf st) else s
  let x := s.core c
  s.setCore c { x with item := none, acc := none, progressAt := s.now }

/-- Every open op of an item completes with a status, each with its own record. -/
def State.closeOps (s : State) (c : Nat) (it : Item) (st : Status) : State × Item :=
  it.ops.foldl (fun a op => a.1.closeOp c { a.2 with ops := a.2.ops.drop 1 } op st) (s, it)

/-- End the item in progress on a core with one status for it and its open ops (recalls, alarms, resets). -/
def State.abortItem (s : State) (c : Nat) (st : Status) : State :=
  match (s.core c).item with
  | none => s
  | some it =>
    let res := s.closeOps c it st
    let t := res.1
    let it' := res.2
    t.endItem c { it' with failed := none } st

/-! ### Items of a logical core without a host (R155) -/

/-- End an entry that waits in a ring: it is taken, and its record says CLAMPED. -/
def State.endWaiting (s : State) (c r : Nat) : State :=
  let res := s.itemStep (s.wringPhase r)
  let step := res.1
  let verdict := res.2
  let tag := BitVec.ofNat 32 (uAt (s.bytesAt (s.wringEntry r + 8) 4) 0 4)
  let s := s.wringTake r
  let s := s.record (s.wringCring r) c (s.recordBytes .clamped 1 0 0 c (step.getD 0) (ringCore r) 0 0 0 tag)
  if verdict then s.failStep step 6 else s

/-- End all entries that wait for a logical core with no host. -/
def State.endHostless (s : State) (c l : Nat) : State :=
  (upFrom (l * 128) 128).foldl (fun t r =>
    if t.wringOpen r then (List.range (t.wringCount r)).foldl (fun u _ => u.endWaiting c r) t else t) s

/-- Move one logical core off a physical core: to the first qualifying substitute, or to no host, which is
reported and fails the step (R155). -/
def State.moveLogical (s : State) (c l : Nat) : State :=
  match s.placement l with
  | none => { s with hosts := tabDel s.hosts l }
  | some p =>
    match p.substitutes.find? (fun k => k != c && s.qualifies p.minWidth k) with
    | some k => { s with hosts := tabPut s.hosts l k }.trace k 0x0005 l c
    | none =>
      let s := { s with hosts := tabDel s.hosts l, noHost := if s.noHost.contains l then s.noHost else s.noHost ++ [l] }
      let step := match s.newest with | some r => some r.id | none => none
      let s := s.fault 0x000F (.core c) .clamped l (step.getD 0)
      (s.failStep step 6).endHostless c l

/-- Move every logical core off a physical core. -/
def State.moveAll (s : State) (c : Nat) : State := (s.hostedBy c).foldl (fun t l => t.moveLogical c l) s

/-! ### Checkers (R334, R337) -/

/-- A core is eligible as a checker or referee (R334); `r` is set for a ROW operation. -/
def State.eligible (s : State) (r : Bool) (width c : Nat) : Bool :=
  !s.coreClamped c && !s.inReset .core c && !(s.core c).watch &&
    (if r then !s.clusterClamped (clusterOf c) && !(s.cluster (clusterOf c)).watch else decide (width ≤ s.tileWidth c))

/-- The walk of R334 from `start`, clear of the clusters in `away`, and in its first pass of their dies; `skip`
cores of the walk have been used (R337). -/
def State.walk (s : State) (r : Bool) (width start : Nat) (away : List Nat) (used : List Nat) : Option Nat :=
  let order := (List.range 384).map fun i => (start + i) % 384
  let ok (k : Nat) : Bool := s.eligible r width k && !(away.any fun p => clusterOf p == clusterOf k) && !(used.contains k)
  match order.find? (fun k => ok k && !(away.any fun p => dieOf p == dieOf k)) with
  | some k => some k
  | none => order.find? ok

/-! ### Losing a core (R65, R155, R156, R468) -/

/-- Put an item in line to run again on the host of its logical core, or end it CLAMPED where there is none
(R156). -/
def State.requeue (s : State) (c : Nat) (it : Item) : State :=
  match s.hostOf it.logical with
  | some h =>
    if s.coreClamped h || s.inReset .core h then
      let s := s.itemRecord c it .clamped
      if it.verdict then s.failStep it.step 4 else s
    else
      let x := s.core h
      s.setCore h { x with restarts := x.restarts ++ [{ it with restarted := true }] }
  | none =>
    let s := s.itemRecord c it .clamped
    if it.verdict then s.failStep it.step 6 else s

/-- An item as its second run starts (R156): from its first instruction; step, tag and quiet count stay. -/
def Item.again (it : Item) : Item :=
  { it with pc := it.entryPc, loops := List.replicate 8 0, instrIndex := 0, wait := .none, run := none, ops := [], failed := none,
            deferred := [], restarted := true }

/-- The work of a core ends as for a clamp: ops CLAMPED, store and Tray lost, logical cores moved, a RESTARTABLE
item in line to run again once (R65, R155, R156, R468). The check runs queued on the core are left for the Bench
(Machine/SquareCheck.lean). -/
def State.loseCore (s : State) (c : Nat) : State :=
  let x := s.core c
  let lost : State × List Item :=
    match x.item with
    | none => (s, [])
    | some it =>
      let res := s.closeOps c it .clamped
      let t := res.1
      let it' := res.2
      if it.restartable && !it.restarted then (t, [it'.again])
      else (t.endItem c it' .clamped, [])
  let s := lost.1
  let again := lost.2
  let y := s.core c
  let s := s.setCore c { y with item := none, acc := none, restarts := [] }
  let s := { s with mem := s.mem.clear (trayOf c) (trayOf (c + 1)) }
  (again ++ x.restarts).foldl (fun t it => t.requeue c it) (s.moveAll c)

/-! ### Clamps (R64 to R66, R68, R70, R482) -/

/-- Reason a core shows when it becomes clamped: its own, else 2 for its cluster, else 1 for its die (R68). -/
def State.coreReason (s : State) (c : Nat) : Nat :=
  if (s.core c).clampReason ≠ 0 then (s.core c).clampReason
  else if (s.cluster (clusterOf c)).clampReason ≠ 0 then 2
  else if s.dieClamped (dieOf c) then 1 else 0

/-- As `coreReason`, for a cluster (R70). -/
def State.clusterReason (s : State) (k : Nat) : Nat :=
  if (s.cluster k).clampReason ≠ 0 then (s.cluster k).clampReason else if s.dieClamped (k / 4) then 1 else 0

/-- Show the first reason of units that have become clamped; `afresh` on an UNCLAMP. -/
def State.showReasons (s : State) (cores clusters : List Nat) (afresh : Bool) : State :=
  let s := cores.foldl (fun t c =>
    let x := t.core c
    if x.shownReason = 0 ∨ afresh then t.setCore c { x with shownReason := t.coreReason c } else t) s
  clusters.foldl (fun t k =>
    let x := t.cluster k
    if x.shownReason = 0 ∨ afresh then t.setCluster k { x with shownReason := t.clusterReason k } else t) s

/-- The UNIT_CLAMPED notice of a clamp after training-ready that no command made (R482). -/
def State.clampNotice (s : State) (u : FaultUnit) (reason : Nat) (byCommand : Bool) : State :=
  if s.boot.trainingReady && !byCommand then s.fault 0x000E u .clamped reason 0 else s

/-- The slots of a cluster lose their state; who had bound them stays known (R65). -/
def State.loseSlots (s : State) (k : Nat) : State :=
  let x := s.cluster k
  s.setCluster k { x with slots := [], lost := x.lost ++ x.slots.flatMap fun e => e.2.owners.map fun l => (l, e.1) }

/-- A tile of a logical core would feed a slot that has lost its state (R65). -/
def State.feedsLost (s : State) (l : Nat) : Bool := s.clusters.any fun k => k.2.lost.any (·.1 == l)

/-- What fits of the slots lost is forgotten: a slot that is bound again, or all of them with another program. -/
def State.forgetLost (s : State) (p : Nat × Nat → Bool) : State :=
  (List.range 96).foldl (fun t k => let x := t.cluster k; t.setCluster k { x with lost := x.lost.filter fun e => !p e }) s

/-- An op whose transfer an Inlay has broken off: it writes nothing and ends CLAMPED (R23, R466). -/
def Op.cut (o : Op) : Op := { o with status := .clamped, writes := [], poisoned := [] }

/-- The ops in flight to the Inlay of a die are broken off (R23, R466). -/
def State.cutOps (s : State) (d : Nat) : State :=
  (List.range 384).foldl (fun t c =>
    match (t.core c).item with
    | some it =>
      if it.ops.any (·.reach.contains d) then
        t.setCore c { t.core c with item := some { it with ops := it.ops.map fun o => if o.reach.contains d then o.cut else o } }
      else t
    | none => t) s

/-- Clamp a core (R64, R65, R68). A fault on a core that a command has clamped makes its clamp stand (R66). -/
def State.clampCore (s : State) (c reason : Nat) (byCommand : Bool) : State :=
  if (s.core c).clampReason ≠ 0 then
    s.setCore c { s.core c with clampByCommand := (s.core c).clampByCommand && byCommand }
  else
    let was := s.coreClamped c
    let x := s.core c
    let s := (s.setCore c { x with clampReason := reason, clampByCommand := byCommand }).showReasons [c] [] false
    let s := s.clampNotice (.core c) reason byCommand
    if was then s else s.loseCore c

/-- Clamp a cluster: its four cores with it, and its slots are lost (R64, R65, R66, R70). -/
def State.clampCluster (s : State) (k reason : Nat) (byCommand : Bool) : State :=
  if (s.cluster k).clampReason ≠ 0 then
    s.setCluster k { s.cluster k with clampByCommand := (s.cluster k).clampByCommand && byCommand }
  else
    let live := (upFrom (4 * k) 4).filter fun c => !s.coreClamped c
    let x := s.cluster k
    let s := ((s.setCluster k { x with clampReason := reason, clampByCommand := byCommand }).showReasons
      (upFrom (4 * k) 4) [k] false).loseSlots k
    live.foldl (fun t c => t.loseCore c) (s.clampNotice (.cluster k) reason byCommand)

/-- Clamp a compute die: its clusters and cores with it, and the transfers in flight to its Inlay (R23, R24, R64, R66). -/
def State.clampDie (s : State) (d reason : Nat) (byCommand : Bool) : State :=
  if (s.die d).clampReason ≠ 0 then
    s.setDie d { s.die d with clampByCommand := (s.die d).clampByCommand && byCommand }
  else
    let live := (upFrom (16 * d) 16).filter fun c => !s.coreClamped c
    let x := s.die d
    let s := (s.setDie d { x with clampReason := reason, clampByCommand := byCommand }).showReasons
      (upFrom (16 * d) 16) (upFrom (4 * d) 4) false
    let s := (upFrom (4 * d) 4).foldl (fun t k => t.loseSlots k) (s.cutOps d)
    live.foldl (fun t c => t.loseCore c) (s.clampNotice (.die d) reason byCommand)

/-- Clamp a unit of a kind. -/
def State.clampUnit (s : State) (k : UnitKind) (u reason : Nat) (byCommand : Bool) : State :=
  match k with
  | .core => s.clampCore u reason byCommand
  | .cluster => s.clampCluster u reason byCommand
  | .die => s.clampDie u reason byCommand

/-- Units of a kind (R8). -/
def UnitKind.count : UnitKind → Nat
  | .core => 384 | .cluster => 96 | .die => 24

/-- A unit's own clamp reason and whether a command made it. -/
def State.ownClamp (s : State) (k : UnitKind) (u : Nat) : Nat × Bool :=
  match k with
  | .core => ((s.core u).clampReason, (s.core u).clampByCommand)
  | .cluster => ((s.cluster u).clampReason, (s.cluster u).clampByCommand)
  | .die => ((s.die u).clampReason, (s.die u).clampByCommand)

/-- A unit that encloses this one is clamped (R66). -/
def State.enclosedClamp (s : State) (k : UnitKind) (u : Nat) : Bool :=
  match k with
  | .core => s.clusterClamped (clusterOf u)
  | .cluster => s.dieClamped (u / 4)
  | .die => false

/-- Lift a clamp by command (R66). -/
def State.unclampUnit (s : State) (k : UnitKind) (u : Nat) : State :=
  match k with
  | .core => (s.setCore u { s.core u with clampReason := 0, clampByCommand := false }).showReasons [u] [] true
  | .cluster =>
    (s.setCluster u { s.cluster u with clampReason := 0, clampByCommand := false }).showReasons (upFrom (4 * u) 4) [u] true
  | .die =>
    (s.setDie u { s.die u with clampReason := 0, clampByCommand := false }).showReasons (upFrom (16 * u) 16)
      (upFrom (4 * u) 4) true

/-- R189: a second fresh uncorrectable granule in one Tray bank within one step window clamps its core with reason
code 0x4. -/
def State.clampBadBanks (s : State) : State :=
  (s.mem.bankFresh.filter fun e => decide (2 ≤ e.2)).foldl (fun t e => t.clampCore (e.1 / 64) 4 false) s

/-! ### Poison that a replay would meet (R186) -/

/-- Address and bytes of an input slot. -/
def State.inputSlot (s : State) (i : Nat) : Nat × Nat := (s.rf (.inputBase i) 12 36 * 4096, s.rf .retainCtrl 2 28 * 4096)

/-- Data that the replay of a step reads (R186): the Veneers it does not write, its input slot, the program image. -/
def State.replayReads (s : State) (r : StepRec) (g : Nat) : Bool :=
  let meets (x : Nat × Nat) : Bool := overlaps g 16 x.1 x.2
  ((depthLetters s.steps.depth).filter (· != r.writes)).any (fun v => meets (s.ownVeneer v) || meets (s.mirrorVeneer v)) ||
    meets (s.inputSlot (r.id % (s.steps.depth + 1))) ||
    (match s.program 0 with | some p => meets (p.base, p.length) | none => false)

/-- A poisoned granule that work of a step has read: where a replay would read it again, in a ring (`ring`) or in the
data of `replayReads`, the region is reported and the verdict says REPLAY_DATA (R186). -/
def State.replayPoison (s : State) (step : Option Nat) (g : Nat) (ring : Bool) : State :=
  match step.bind s.step? with
  | some r => if ring || s.replayReads r g then (s.fault 0x000D .module .poison g r.id).failStep step 9 else s
  | none => s

end Sys2Proof.Machine
end

