-- ==== Sys2Proof/Machine/Streams.lean ====
section
/-! DEFINITION. Tensor streams as operations: transmit and receive halves (R299 to R304) and stream records. -/

namespace Sys2Proof.Machine

/-! ### Contexts and queues -/

/-- A stream context. -/
def State.context (s : State) (n : Nat) : StreamContext := tabGet streamContextReset s.fabric.contexts n
/-- Replace a stream context. -/
def State.setContext (s : State) (n : Nat) (c : StreamContext) : State :=
  { s with fabric := { s.fabric with contexts := tabSet streamContextReset s.fabric.contexts n c } }
/-- Replace a transmit half. -/
def State.setTx (s : State) (n : Nat) (t : Option StreamTx) : State := s.setContext n { s.context n with tx := t }
/-- Replace a receive half. -/
def State.setRx (s : State) (n : Nat) (r : Option StreamRx) : State := s.setContext n { s.context n with rx := r }

/-- Timeout of a stream in ticks (R323). -/
def State.streamTimeout (s : State) : Nat := ticksUs (10 * s.rf .netStreamCtrl 0 14)
/-- Retries of a stream (R323). -/
def State.streamRetries (s : State) : Nat := s.rf .netStreamCtrl 14 4

/-- DATA cells of a stream (R299). -/
def cellCount (length : Nat) : Nat := (length + 47) / 48

/-- A receive half that is RECEIVING (R301). -/
def StreamRx.receiving (r : StreamRx) : Bool := !r.completed

/-- Contexts with either half in use (R323): a COMPLETED receive half is not. -/
def StreamContext.busy (c : StreamContext) : Bool := c.tx.isSome || (match c.rx with | some r => r.receiving | none => false)

/-- Contexts that the digest exchange reserves (R360). -/
def State.digestContext (s : State) (n : Nat) : Bool := decide (16368 ≤ n) && s.rf .sqDigestCtrl 0 16 != 0

/-! ### Records (R304) -/

/-- A stream completion record. -/
def State.streamRecord (s : State) (st : Status) (side attempts stream step bytes peer : Nat) (tag : BitVec 32) :
    List Byte :=
  le 2 st.code ++ le 1 2 ++ le 1 0 ++ le 1 side ++ le 1 attempts ++ le 2 stream ++ le 8 step ++ le 4 bytes ++
    le 4 peer ++ le 4 tag.toNat ++ le 4 s.ft.toNat

/-- The number a collective engine records under for a descriptor (R270, R305): no core. -/
def engineHolder (context : Nat) : Nat := 0x10000 + context
/-- The number it records under for a receive half. -/
def rxHolder (context : Nat) : Nat := 0x20000 + context

/-- The collective engine, by edge, that serves a transmit half: that of its queue (R305), else none that a rule names. -/
def StreamTx.edge (t : StreamTx) : Nat := match t.queue with | some q => q / 4 | none => 4

/-- The engine of the edge on which an ingress port lies (R20, R270). -/
def portEdge (n : Nat) : Nat := n / 4

/-- Bytes that a count of DATA cells delivers. -/
def delivered (count length : Nat) : Nat := min (48 * count) length

/-! ### Transmit half (R299, R300, R302) -/

/-- Virtual channel of a transmit half (R274): ring steps travel on VC2. -/
def StreamTx.channel (t : StreamTx) : Nat := if t.coll.isSome && !t.twinCopy then 2 else 0

/-- Send the OPEN cell (R300). -/
def State.sendOpen (s : State) (n : Nat) (t : StreamTx) : State :=
  s.injectVia t.via (s.cellTo t.destChip 0 t.channel n 0
    (le 8 t.address ++ le 4 t.length ++ le 4 s.chip ++ le 8 t.step ++ le 4 s.fabric.partition.generation ++
      le 2 t.rxCring ++ le 1 t.attempt) [])

/-- Payload of DATA cell `i`: bytes, and its poisoned granules. -/
def State.dataPayload (s : State) (t : StreamTx) (i : Nat) : List Byte × List Nat :=
  let off := 48 * (i - 1)
  match t.content with
  | some (bs, ps) => (slice bs off 48, [0, 1, 2].filter fun g => ps.contains (off / 16 + g))
  | none =>
    let n := min 48 (t.length - off)
    (s.bytesAt (t.source + off) n, [0, 1, 2].filter fun g =>
      decide (16 * g < n) && (s.firstPoison (t.source + off + 16 * g) (min 16 (n - 16 * g))).isSome)

/-- Send one DATA cell: its memory is read over the mesh and checked first (R182, R270). Poison there that a replay would read is
reported (R186). -/
def State.sendData (s : State) (n : Nat) (t : StreamTx) (i : Nat) : State :=
  let off := 48 * (i - 1)
  let a := t.source + off
  let k := min 48 (t.length - off)
  let s := if t.content.isSome then s
    else
      let u := s.fetch (.stream t.edge n) a k
      match u.firstPoison a k with
      | some g => if t.transfer then u else u.replayPoison (some t.step) g false
      | none => u
  let res := s.dataPayload t i
  let bs := res.1
  let ps := res.2
  s.injectVia t.via (s.cellTo t.destChip 1 t.channel n (i % 65536) bs ps)

/-- The router takes another cell of a stream: an output on its way has a place in the channel and a token for it (R277, R292), or
none of them is available and the router may find another way. -/
def State.roomToward (s : State) (t : StreamTx) : Bool :=
  let vc := t.channel
  let e := s.reg (.destEntry t.destChip)
  let os := match t.via with
    | some n => if s.available n then [n] else (s.productive t.destChip).flatMap s.outs
    | none => if field e 48 1 = 1 then ((List.range 16).filter fun n => field e n 1 == 1).map s.outOf
        else (s.productive t.destChip).flatMap s.outs
  let os := os.filter s.available
  if os.isEmpty then decide ((s.fabric.waiting.filter fun q => q.ingress.isNone && q.vc == vc).length < bufferCells vc)
  else os.any fun o => s.hasRoom o vc && s.hasToken o vc

/-- DATA cells of a stream whose bytes are there: what a collective engine sends grows as pieces come in (R308). -/
def StreamTx.ready (t : StreamTx) : Nat :=
  match t.content with
  | some (bs, _) => if bs.length < t.length then bs.length / 48 else cellCount t.length
  | none => cellCount t.length

/-- Send DATA cells as far as the window of 32,768 cells and the router allow (R302). The count bounds the
recursion. -/
def State.pumpTx (s : State) (n : Nat) : Nat → State
  | 0 => s
  | k + 1 =>
    match (s.context n).tx with
    | some t =>
      if t.sent < t.ready ∧ t.sent < t.acked + 32768 ∧ s.roomToward t then
        ((s.setTx n (some { t with sent := t.sent + 1 })).sendData n t (t.sent + 1)).pumpTx n k
      else s
    | none => s

/-- Let a transmit half send what it may. -/
def State.pump (s : State) (n : Nat) : State := s.pumpTx n 32768

/-- Let every transmit half send what it may, in context order. -/
def State.pumpAll (s : State) : State :=
  s.fabric.contexts.foldl (fun t c => if c.2.tx.isSome then t.pump c.1 else t) s

/-- Start a stream (R302). -/
def State.startTx (s : State) (n : Nat) (t : StreamTx) : State :=
  let t := { t with acked := 0, sent := 0, retries := 0, attempt := 0, progressAt := s.now }
  ((s.setTx n (some t)).sendOpen n t).pump n

/-- Retry a stream (R302): the OPEN with the next attempt, then the DATA cells not acknowledged. -/
def State.retryTx (s : State) (n : Nat) (t : StreamTx) : State :=
  let t := { t with attempt := t.attempt + 1, retries := t.retries + 1, sent := t.acked, progressAt := s.now }
  ((s.setTx n (some t)).sendOpen n t).pump n

/-! ### Receive half (R301) -/

/-- Windows that the reassembly ways hold (R173, R301). -/
def State.reassemblyWindows (s : State) : Nat := s.rf .memDrwCarve 8 3 * 12288

/-- Receive halves that hold a window. -/
def State.windowsUsed (s : State) : Nat :=
  (s.fabric.contexts.filter fun c => match c.2.rx with | some r => r.receiving | none => false).length

/-- A stream cell or OPEN discarded and counted (R301). -/
def State.streamDiscard (s : State) : State :=
  { s with fabric := { s.fabric with streamDiscards := s.fabric.streamDiscards + 1 } }

/-- Send an ACK (R303). -/
def State.sendAck (s : State) (n : Nat) (r : StreamRx) (complete : Bool) : State :=
  s.inject (s.cellTo r.sender 2 1 n 0
    (le 4 r.count ++ le 1 r.attempt ++ le 1 ((if complete then 1 else 0) + (if r.poison then 2 else 0)) ++ zeros 2 ++
      le 4 s.chip ++ zeros 4 ++ le 8 r.step) [])

/-- Contexts of a twin transfer that this module receives (R383). -/
def State.transferContext (s : State) (n : Nat) : Bool :=
  match s.twin.transfer with
  | some x => !x.sending && within n x.baseStream (x.baseStream + 2 * x.stripes - 1)
  | none => false

/-- Write a receiver's record (R304), unless the stream is a ring step of a collective, carries a digest record or
belongs to a twin transfer (assumption log 21). -/
def State.rxRecord (s : State) (n : Nat) (r : StreamRx) (st : Status) : State :=
  if r.ring || s.digestContext n || s.transferContext n then s
  else s.record r.cring (rxHolder n)
    (s.streamRecord st 1 (r.attempt + 1) n r.step (delivered r.count r.length) r.sender 0)

/-- The receiver's record of a context is held for space (R304). -/
def State.recordHeld (s : State) (n : Nat) : Bool := s.crings.any fun r => r.2.held.any fun h => h.2 == rxHolder n

/-- The last cell has come in (R301): record, final ACK, COMPLETED. The ACK waits for the record (R304). -/
def State.completeRx (s : State) (n : Nat) (r : StreamRx) : State :=
  let st := if r.poison then Status.poison else .ok
  let s := s.rxRecord n r st
  let held := s.recordHeld n
  let r := { r with completed := true, ackDue := held }
  let s := s.setRx n (some r)
  let s := if r.poison then s.failStep (some r.step) 3 else s
  if held then s else s.sendAck n r true

/-- Final ACKs whose record has been written meanwhile (R304). -/
def State.lateAcks (s : State) : State :=
  s.fabric.contexts.foldl (fun t c =>
    match c.2.rx with
    | some r =>
      if r.ackDue && !t.recordHeld c.1 then (t.setRx c.1 (some { r with ackDue := false })).sendAck c.1 r true else t
    | none => t) s

/-- Contiguous count and cells beyond it after cell `i`. -/
def advance : Nat → Nat → List Nat → Nat × List Nat
  | 0, c, b => (c, b)
  | k + 1, c, b => if b.contains (c + 1) then advance k (c + 1) (b.filter (· ≠ c + 1)) else (c, b)

/-- The number of a DATA cell in the window of a receive half: none outside it (R299). -/
def StreamRx.cellOf (r : StreamRx) (tail : Nat) : Option Nat :=
  let i := r.count + 1 + (tail + 65536 - (r.count + 1) % 65536) % 65536
  if i ≤ r.count + 32768 ∧ i ≤ cellCount r.length then some i else none

/-- A receive half may write its buffer: not in the Inlay of a clamped die (R23), and not in a Veneer while a step runs (R126). The
status that ends it otherwise. -/
def State.bufferStatus (s : State) (n : Nat) (r : StreamRx) : Status :=
  if r.length = 0 then .ok
  else if s.accessStatus r.address r.length = .clamped then .clamped
  else if s.veneerShut r.address r.length ∧ !s.transferContext n then .badParam
  else .ok

/-- Take in one DATA cell (R301) that came in at an edge: written over the mesh (R270), marked, acknowledged at every 4,096
cells. -/
def State.takeData (s : State) (edge n : Nat) (r : StreamRx) (c : Cell) : State :=
  if s.bufferStatus n r ≠ .ok then s
  else
  match r.cellOf c.tail with
  | none => s.streamDiscard
  | some i =>
    if r.beyond.contains i then s.setRx n (some { r with lastAt := s.now })
    else
      let off := 48 * (i - 1)
      let bs := c.payload.take (min 48 (r.length - off))
      let ps := (granulesOf (r.address + off) bs.length).filter fun g =>
        c.poison.any fun k => overlaps g 16 (r.address + off + 16 * k) 16
      let s := s.storePoisoned (.stream edge n) (r.address + off) bs ps
      let res := advance (cellCount r.length) r.count (i :: r.beyond)
      let count := res.1
      let beyond := res.2
      let r' := { r with count := count, beyond := beyond, lastAt := s.now, poison := r.poison || !ps.isEmpty }
      if count = cellCount r.length then s.completeRx n r'
      else
        let s := s.setRx n (some r')
        if r.count / 4096 < count / 4096 then s.sendAck n r' false else s

/-- Take in an OPEN (R301). An OPEN of a later attempt that finds no stream open is taken as the first (DEDUCED,
assumption log 14). `ring`: it came on VC2. -/
def State.takeOpen (s : State) (n : Nat) (c : Cell) (ring : Bool) : State :=
  let p := c.payload
  let step := uAt p 0x10 6
  let sender := uAt p 0x0C 4
  let attempt := uAt p 0x1E 1
  if uAt p 0x18 4 ≠ s.fabric.partition.generation then s.streamDiscard
  else
    let fresh : StreamRx :=
      { completed := false, sender := sender, address := uAt p 0 8, length := uAt p 8 4, step := step, attempt := attempt,
        count := 0, beyond := [], cring := uAt p 0x1C 2 % 16384, poison := false, lastAt := s.now, ring := ring,
        taken := false, ackDue := false }
    let enter (t : State) : State :=
      if t.reassemblyWindows ≤ t.windowsUsed then t.streamDiscard
      else if fresh.length = 0 then t.completeRx n fresh
      else t.setRx n (some fresh)
    match (s.context n).rx with
    | none => enter s
    | some r =>
      let same := r.sender == sender && r.step == step && r.length == fresh.length
      if r.completed then
        if attempt = 0 ∨ !same then enter s
        else if r.ackDue then s.setRx n (some { r with attempt := attempt })
        else (s.setRx n (some { r with attempt := attempt })).sendAck n { r with attempt := attempt } true
      else if same then
        if attempt ≤ r.attempt then s.streamDiscard
        else
          let r := { r with attempt := attempt, lastAt := s.now }
          (s.setRx n (some r)).sendAck n r false
      else s.streamDiscard

end Sys2Proof.Machine
end

