-- ==== Sys2Proof/Machine/Collectives.lean ====
section
/-! DEFINITION. Stream queues and descriptors (R305 to R307), collectives (R308 to R314), the end of a transmit half,
and ending the streams of a step or of the router (R356, R470, R477). -/

namespace Sys2Proof.Machine

/-! ### Stream descriptors (R306, R307) -/

/-- A stream descriptor. -/
structure StreamDesc where
  kind : Nat
  flags : Nat
  fmt : Nat
  order : Nat
  axisCount : Nat
  stripes : Nat
  stream : Nat
  src : Nat
  dst : Nat
  scratch : Nat
  twin : Nat
  len : Nat
  dest : Nat
  counter : Nat
  cring : Nat
  value : Nat
  twinStream : Nat
  rxCring : Nat
  tag : BitVec 32
deriving DecidableEq, Repr

/-- Read a stream descriptor of 64 bytes. -/
def parseStream (b : List Byte) : StreamDesc :=
  { kind := uAt b 0 1, flags := uAt b 1 1, fmt := uAt b 2 1, order := uAt b 3 1, axisCount := uAt b 4 1,
    stripes := uAt b 5 1, stream := uAt b 6 2, src := uAt b 8 8, dst := uAt b 0x10 8, scratch := uAt b 0x18 8,
    twin := uAt b 0x20 8, len := uAt b 0x28 4, dest := uAt b 0x2C 4, counter := uAt b 0x30 2, cring := uAt b 0x32 2,
    value := uAt b 0x34 4, twinStream := uAt b 0x38 2, rxCring := uAt b 0x3A 2, tag := BitVec.ofNat 32 (uAt b 0x3C 4) }

/-- Axis numbers of a collective, in its order. -/
def StreamDesc.axes (d : StreamDesc) : List Nat := (List.range d.axisCount).map fun i => bits d.order (2 * i) 2
/-- The collective reduces. -/
def StreamDesc.reduces (d : StreamDesc) : Bool := d.kind == 1 || d.kind == 3
/-- TWIN_COPY. -/
def StreamDesc.twinCopy (d : StreamDesc) : Bool := bits d.flags 1 1 == 1 && d.kind != 0
/-- Bytes of an element. -/
def StreamDesc.elem (d : StreamDesc) : Nat := if d.fmt = 7 then 4 else 2
/-- Bytes of a partial (R310, R311). -/
def StreamDesc.partialBytes (d : StreamDesc) : Nat := if bits d.flags 2 1 = 1 then 2 else 4

/-- Length of the `i`-th axis of a collective. -/
def State.collLen (s : State) (d : StreamDesc) (i : Nat) : Nat := (s.axis (nth 0 d.axes i)).length
/-- Product of the lengths of the first `i` axes. -/
def State.collSpan (s : State) (d : StreamDesc) (i : Nat) : Nat := ((List.range i).map fun k => s.collLen d k).foldl (· * ·) 1
/-- First element that this module holds after the first `i` axes (R310). -/
def State.collOffset (s : State) (d : StreamDesc) (i : Nat) : Nat :=
  ((List.range i).map fun k => s.position s.chip (nth 0 d.axes k) * (d.len / s.collSpan d (k + 1))).sum

/-- Contexts a descriptor uses to transmit. -/
def StreamDesc.contexts (d : StreamDesc) : List Nat :=
  if d.kind = 0 then [d.stream]
  else upFrom d.stream (4 * d.stripes) ++ (if d.twinCopy then [d.twinStream] else [])

/-- Address ranges of a descriptor on this module (R307). -/
def State.streamRanges (s : State) (d : StreamDesc) : List (Nat × Nat) :=
  if d.kind = 0 then [(d.src, d.len), (d.dst, d.len)]
  else
    let all := d.len * d.elem
    let k := d.axisCount
    let block := d.len / s.collSpan d k * d.elem
    let off := s.collOffset d k * d.elem
    (if d.kind = 2 then [(d.src, block)] else [(d.src, all), (d.scratch, 2 * (d.len / s.collSpan d 1) * d.partialBytes)]) ++
      (if d.kind = 1 then [(d.dst + off, block)] else [(d.dst, all)]) ++ (if d.twinCopy then [(d.twin, block)] else [])

/-- What R307, R360 and R378 refuse. -/
def State.streamBad (s : State) (d : StreamDesc) : Bool :=
  decide (3 < d.kind) || bits d.flags 3 5 != 0 || decide (2 ^ 17 ≤ d.dest) || decide (16384 ≤ d.cring) ||
  decide (16384 ≤ d.rxCring) || (bits d.flags 0 1 == 1 && decide (24576 ≤ d.counter)) ||
  d.contexts.any (fun n => decide (16384 ≤ n) || s.digestContext n) ||
  (if d.kind = 0 then d.fmt != 0 || d.axisCount != 0 || d.stripes != 0
   else
    (d.fmt != 5 && d.fmt != 7) || !within d.axisCount 1 4 || !within d.stripes 1 32 || d.stream % 4 != 0 ||
    d.axes.any (fun a => decide (1 < (d.axes.filter (· == a)).length) || decide ((s.axis a).length ≤ 1)) ||
    d.len % (32 * d.stripes * s.collSpan d d.axisCount) != 0 ||
    (d.kind == 2 && bits d.flags 1 1 == 1) || (d.twinCopy && s.fabric.partition.twin == s.chip)) ||
  (s.streamRanges d).any (fun r => decide (0 < r.2) && !inStore r.1 r.2)

/-! ### Stream queues (R305, R324 to R326) -/

/-- A stream queue. -/
def State.sq (s : State) (q : Nat) : StreamQueue := tabGet streamQueueReset s.fabric.queues q
/-- Replace a stream queue. -/
def State.setSq (s : State) (q : Nat) (x : StreamQueue) : State :=
  { s with fabric := { s.fabric with queues := tabSet streamQueueReset s.fabric.queues q x } }
/-- Entries between HEAD and TAIL. -/
def State.sqCount (s : State) (q : Nat) : Nat := (BitVec.ofNat 32 (s.rf (.netSqPtr q) 32 32) - (s.sq q).head).toNat
/-- A queue takes entries: enabled and not in error. -/
def State.sqOpen (s : State) (q : Nat) : Bool := s.rbit (.netSqCtrl q) 5 && !s.rbit (.netSqCtrl q) 8
/-- Address of the `i`-th waiting descriptor. -/
def State.sqEntry (s : State) (q i : Nat) : Nat :=
  s.rf (.netSqBase q) 6 42 * 64 + ((s.sq q).head.toNat + i) % 2 ^ s.rf (.netSqCtrl q) 0 5 * 64

/-- Step of a stream that starts now: as for an item of phase 0 (R562; DEDUCED, assumption log 15). -/
def State.streamStep (s : State) : Nat := (s.itemStep 0).1.getD 0

/-- Reduce-scatters or all-reduces of the open step wait in a queue or run (R103, R138; DEDUCED, assumption log 16). -/
def State.reducePending (s : State) (step : Nat) : Bool :=
  s.fabric.collectives.any (fun c => c.2.step == step) ||
    (List.range 16).any fun q => s.sqOpen q && (List.range (min 4096 (s.sqCount q))).any fun i =>
      (parseStream (s.bytesAt (s.sqEntry q i) 64)).reduces

/-- A sync counter (R141). -/
def State.counter (s : State) (n : Nat) : BitVec 32 := tabGet 0 s.fabric.counters n

/-! ### Collective arithmetic (R311) -/

/-- A partial of an element (R311): exact. -/
def toPartial (elem partBytes : Nat) (p : Nat) : Nat :=
  if elem = partBytes then p
  else if elem = 2 then p <<< 16
  else (convert 5 .even false false (val32 (BitVec.ofNat 32 p))).1

/-- Round a sum of partials (R311). -/
def addPartial (partBytes a b : Nat) : Nat :=
  if partBytes = 4 then (roundIeee ((val32 (BitVec.ofNat 32 a)).add (val32 (BitVec.ofNat 32 b)))).1.toNat
  else
    let f := (fmtOf 5).getD fp32
    (convert 5 .even false false ((f.decode a).add (f.decode b))).1

/-- The result of a partial in the element format (R311). -/
def fromPartial (elem partBytes p : Nat) : Nat :=
  if elem = partBytes then p
  else if elem = 2 then (convert 5 .even false false (val32 (BitVec.ofNat 32 p))).1
  else p <<< 16

/-- Add two lists of partials; poison stays. -/
def addParts (partBytes : Nat) (xs ys : List (Nat × Bool)) : List (Nat × Bool) :=
  (xs.zip ys).map fun z => (addPartial partBytes z.1.1 z.2.1, z.1.2 || z.2.2)

/-- Elements of `w` bytes in memory from an address, with their poison. -/
def State.elements (s : State) (a w n : Nat) : List (Nat × Bool) :=
  (List.range n).map fun i => (uAt (s.bytesAt (a + w * i) w) 0 w, (s.firstPoison (a + w * i) w).isSome)

/-- Bytes of elements, and the 16-byte pieces that poison touches. -/
def packElements (w : Nat) (xs : List (Nat × Bool)) : List Byte × List Nat :=
  (xs.flatMap fun x => le w x.1, (xs.zipIdx.filter fun x => x.1.2).map fun x => x.2 * w / 16)

/-! ### Rings (R308, R309) -/

/-- The cyclic order of a sub-ring on an axis of `n` positions. -/
def sigma (wrap : Bool) (n q : Nat) : List Nat :=
  let up := if wrap then List.range n
    else (List.range n).filter (fun i => i % 2 == 0) ++ ((List.range n).filter fun i => i % 2 == 1).reverse
  if q < 2 then up else up.reverse

/-- The position `k` places after `p` in an order of `n`, counted modulo `n`. -/
def after (order : List Nat) (p k : Nat) : Nat := nth p order ((order.idxOf p + k) % order.length)

/-- Port of the first hop of a ring step on axis `a`, sub-ring `q`, between two positions (R308, R309). -/
def ringPort (wrap : Bool) (a q fromPos toPos : Nat) : Nat :=
  let minus := if wrap then decide (2 ≤ q) else decide (toPos < fromPos)
  4 * a + (if minus then 2 else 0) + q % 2

/-- A collective by its base stream. -/
def State.coll (s : State) (base : Nat) : Option Collective := tabFind s.fabric.collectives base
/-- Replace a collective. -/
def State.setColl (s : State) (base : Nat) (c : Collective) : State :=
  { s with fabric := { s.fabric with collectives := tabPut s.fabric.collectives base c } }

/-- What a collective is doing on its axis. -/
structure RingView where
  d : StreamDesc
  a : Nat
  wrap : Bool
  len : Nat
  pos : Nat
  /-- Elements of a part. -/
  part : Nat
  w : Nat
deriving DecidableEq, Repr

/-- The view of a collective's current axis. -/
def State.ringView (s : State) (c : Collective) : RingView :=
  let d := parseStream c.descriptor
  let a := nth 0 d.axes c.axis
  let n := (s.axis a).length
  { d := d, a := a, wrap := (s.axis a).wrap, len := n, pos := s.position s.chip a,
    part := c.buffer.length / (4 * d.stripes * (if c.gathering then 1 else n)),
    w := if c.gathering then d.elem else d.partialBytes }

/-- Order of the sub-ring of a part. -/
def RingView.order (v : RingView) (i : Nat) : List Nat := sigma v.wrap v.len (i / v.d.stripes)
/-- The position `k` places before this module on the sub-ring of a part. -/
def RingView.back (v : RingView) (i k : Nat) : Nat := after (v.order i) v.pos (k * (v.len - 1))
/-- Own elements of part `i` of shard `j` of a reduction. -/
def RingView.own (v : RingView) (buffer : List (Nat × Bool)) (i j : Nat) : List (Nat × Bool) :=
  (buffer.drop (j * (buffer.length / v.len) + i * v.part)).take v.part

/-- The parts as an axis begins: what step 1 sends is the own contribution to the shard before, or the own block. -/
def State.freshParts (s : State) (c : Collective) : List RingPart :=
  let v := s.ringView c
  (List.range (4 * v.d.stripes)).map fun i =>
    { sent := 0, ended := 0, received := 0, got := 0,
      data := [(0, if c.gathering then (c.buffer.drop (i * v.part)).take v.part else v.own c.buffer i (v.back i 1))] }

/-- Begin an axis. -/
def State.beginAxis (s : State) (base : Nat) (c : Collective) : State :=
  s.setColl base { c with parts := s.freshParts c, blocks := [(s.position s.chip (s.ringView c).a, c.buffer)] }

/-- Address at the receiver of ring step `t` of part `i` (layout of the scratch area: DESIGN CHOICE, assumption log
17). -/
def State.ringAddress (s : State) (c : Collective) (v : RingView) (i t : Nat) : Nat :=
  if c.gathering then
    v.d.dst + (s.collOffset v.d c.axis + v.back i (t - 1) * c.buffer.length + i * v.part) * v.w
  else v.d.scratch + (t % 2 * (v.d.len / s.collSpan v.d 1) + i * v.part) * v.w

/-- What came of a received ring step, as far as it goes. -/
def RingPart.result (p : RingPart) (k : Nat) : List (Nat × Bool) := (tabFind p.data k).getD []

/-- Start ring step `sent + 1` of part `i`, with what there is of it (R308). -/
def State.sendRing (s : State) (base i : Nat) (c : Collective) (p : RingPart) : State :=
  let v := s.ringView c
  let next := after (v.order i) v.pos 1
  let t : StreamTx :=
    { destChip := s.chipAt (fun a => if a = v.a then next else s.position s.chip a),
      address := s.ringAddress c v i (p.sent + 1), source := 0, length := v.part * v.w, step := c.step, attempt := 0,
      acked := 0, sent := 0, retries := 0, progressAt := s.now, queue := some c.queue, cring := v.d.cring,
      rxCring := v.d.rxCring, tag := v.d.tag, transfer := false, digest := false, coll := some base, twinCopy := false,
      issue := c.issued, via := some (ringPort v.wrap v.a (i / v.d.stripes) v.pos next),
      content := some (packElements v.w (p.result p.sent)) }
  let s := s.setColl base { c with parts := setNth c.parts i { p with sent := p.sent + 1 }, issued := c.issued + 1 }
  s.startTx (base + i) t

/-- A status other than OK, at its place in the issue order of the streams of a collective: the first one counts (R314). -/
def Collective.fail (c : Collective) (at_ : Nat) (st : Status) : Collective :=
  match c.failed with
  | some f => if at_ < f.1 then { c with failed := some (at_, st) } else c
  | none => { c with failed := some (at_, st) }

/-- Elements of a ring step that are contiguous by whole pieces of 64 KiB, or all of them once it is complete (R308). -/
def StreamRx.pieces (r : StreamRx) (w part : Nat) : Nat :=
  if r.completed then part else delivered r.count r.length / 65536 * 65536 / w

/-- The transmit half that carries what part `i` goes on computing has it too (R308). -/
def State.growTx (s : State) (n w k : Nat) (p : RingPart) : State :=
  match (s.context n).tx with
  | some t => if t.coll.isSome ∧ !t.twinCopy ∧ p.sent = k + 1 then s.setTx n (some { t with content := some (packElements w (p.result k)) }) else s
  | none => s

/-- Take in the pieces that part `i` has received of a ring step: add them, or keep the block (R308, R311, R313). -/
def State.takeRing (s : State) (base i : Nat) (c : Collective) (p : RingPart) (r : StreamRx) : State :=
  let v := s.ringView c
  let s := if r.completed then s.setRx (base + i) (some { r with taken := true }) else s
  if r.length ≠ v.part * v.w then s.setColl base (c.fail c.issued .badParam)
  else
    let k := p.received + 1
    let upto := r.pieces v.w v.part
    let got := s.elements (r.address + v.w * p.got) v.w (upto - p.got)
    let new := if c.gathering then got
      else addParts v.w got ((v.own c.buffer i (v.back i (k + 1))).drop p.got)
    let p := { p with
      data := tabPut p.data k (p.result k ++ new), got := if r.completed then 0 else upto,
      received := if r.completed then k else p.received }
    let c := { c with parts := setNth c.parts i p }
    let c := if c.gathering ∧ r.completed then
        let from_ := v.back i k
        let old := match c.blocks.find? (·.1 == from_) with | some b => b.2 | none => []
        let blk := (old ++ List.replicate (i * v.part - old.length) (0, false)).take (i * v.part) ++ p.result k ++
          old.drop ((i + 1) * v.part)
        { c with blocks := c.blocks.filter (·.1 ≠ from_) ++ [(from_, blk)] }
      else c
    ((s.setColl base c).growTx (base + i) v.w k p).pump (base + i)

/-- A part that has done nothing. -/
def ringPartReset : RingPart := { sent := 0, ended := 0, received := 0, got := 0, data := [] }

/-- One pass over a part: take in what has come, send what may go. -/
def State.pumpPart (s : State) (base i : Nat) : State :=
  let s := match s.coll base, (s.context (base + i)).rx with
    | some c, some r =>
      let p := nth ringPartReset c.parts i
      let v := s.ringView c
      if c.failed.isNone ∧ r.ring ∧ !r.taken ∧ r.step = c.step ∧ p.received + 1 < v.len ∧
          (r.completed ∨ p.got < r.pieces v.w v.part) then
        s.takeRing base i c p r
      else s
    | _, _ => s
  match s.coll base with
  | some c =>
    let p := nth ringPartReset c.parts i
    if c.failed.isNone ∧ (s.context (base + i)).tx.isNone ∧ p.sent = p.ended ∧ !(p.result p.sent).isEmpty ∧
        p.sent + 1 < (s.ringView c).len then
      s.sendRing base i c p
    else s
  | none => s

/-- Transmit halves of a collective that are open. -/
def State.collBusy (s : State) (base : Nat) : Bool :=
  s.fabric.contexts.any fun x => match x.2.tx with | some t => t.coll == some base | none => false

/-- A stream queue's entry has ended. -/
def State.queueEnd (s : State) (q : Option Nat) : State :=
  match q with
  | some q => s.setSq q { s.sq q with running := (s.sq q).running - 1 }
  | none => s

/-- A stream or collective of a step ends with a status: what is not OK fails the step (R346). -/
def State.streamVerdict (s : State) (step : Nat) (st : Status) : State :=
  if st = .ok then s else s.failStep (some step) (reasonOf st)

/-- End a collective: its record (R304), its queue entry, the verdict. -/
def State.endColl (s : State) (base : Nat) (c : Collective) (st : Status) : State :=
  let d := parseStream c.descriptor
  let s := { s with fabric := { s.fabric with collectives := tabDel s.fabric.collectives base } }
  let s := s.record d.cring (engineHolder base)
    (s.streamRecord st 2 0 base c.step (if st = .ok then d.len / s.collSpan d d.axisCount * d.elem else 0) 0 d.tag)
  (s.queueEnd (some c.queue)).streamVerdict c.step st

/-- The reduced block has been written: twin copy, then the gather of an ALL_REDUCE, or the end (R312, R313). -/
def State.afterReduce (s : State) (base : Nat) (c : Collective) : State :=
  let d := parseStream c.descriptor
  let k := d.axisCount
  let block := d.len / s.collSpan d k
  if d.twinCopy ∧ !c.twinSent then
    let t : StreamTx :=
      { destChip := s.fabric.partition.twin, address := d.twin, source := d.dst + s.collOffset d k * d.elem,
        length := block * d.elem, step := c.step, attempt := 0, acked := 0, sent := 0, retries := 0, progressAt := s.now,
        queue := some c.queue, cring := d.cring, rxCring := d.rxCring, tag := d.tag, transfer := false, digest := false,
        coll := some base, twinCopy := true, issue := c.issued, via := none, content := none }
    (s.setColl base { c with twinSent := true, issued := c.issued + 1 }).startTx d.twinStream t
  else if d.twinCopy ∧ !c.twinDone then s
  else if d.kind = 3 then
    s.beginAxis base { c with gathering := true, axis := k - 1,
                              buffer := s.elements (d.dst + s.collOffset d k * d.elem) d.elem block }
  else s.endColl base c .ok

/-- Finish an axis whose parts are through. The owner writes no result into a Veneer while a step runs (R126). -/
def State.axisDone (s : State) (base : Nat) (c : Collective) : State :=
  let v := s.ringView c
  if c.gathering then
    let all := (List.range v.len).flatMap fun j =>
      match c.blocks.find? (·.1 == j) with | some b => b.2 | none => []
    if c.axis = 0 then s.endColl base c .ok
    else s.beginAxis base { c with axis := c.axis - 1, buffer := all }
  else
    let held := c.parts.flatMap (·.result (v.len - 1))
    if c.axis + 1 < v.d.axisCount then s.beginAxis base { c with axis := c.axis + 1, buffer := held }
    else
      let res := packElements v.d.elem (held.map fun x => (fromPartial v.d.elem v.w x.1, x.2))
      let bs := res.1
      let ps := res.2
      let at_ := v.d.dst + s.collOffset v.d v.d.axisCount * v.d.elem
      if s.veneerShut at_ bs.length then s.endColl base c .badParam
      else if s.accessStatus at_ bs.length = .clamped then s.endColl base c .clamped
      else
        let s := s.storePoisoned (.stream (c.queue / 4) base) at_ bs ((granulesOf at_ bs.length).filter fun g =>
          ps.any fun k => overlaps g 16 (at_ + 16 * k) 16)
        s.afterReduce base { c with axis := c.axis + 1, parts := [] }

/-- Let a collective go on as far as it can (R308, R314). The count bounds the recursion. -/
def State.pumpColl (s : State) (base : Nat) : Nat → State
  | 0 => s
  | k + 1 =>
    match s.coll base with
    | none => s
    | some c0 =>
      let s := (List.range c0.parts.length).foldl (fun t i => t.pumpPart base i) s
      match s.coll base with
      | none => s
      | some c =>
        match c.failed with
        | some f => if s.collBusy base then s else s.endColl base c f.2
        | none =>
          let v := s.ringView c
          if c.parts.isEmpty then
            if c.twinSent ∧ !c.twinDone then s else (s.afterReduce base c).pumpColl base k
          else if c.parts.all (fun p => p.received + 1 == v.len && p.ended + 1 == v.len) then
            (s.axisDone base c).pumpColl base k
          else s

/-- Let a collective go on. -/
def State.runColl (s : State) (base : Nat) : State := s.pumpColl base 10

/-- The collective that a context belongs to as a ring of it. -/
def State.collOf (s : State) (n : Nat) : Option Nat :=
  (s.fabric.collectives.find? fun c => decide (c.1 ≤ n ∧ n < c.1 + 4 * (parseStream c.2.descriptor).stripes)).map (·.1)

/-! ### The end of a transmit half (R302, R304, R314) -/

/-- A ring step or twin copy of a collective has ended. -/
def State.collTxEnd (s : State) (n base : Nat) (t : StreamTx) (st : Status) : State :=
  match s.coll base with
  | none => s
  | some c =>
    let c := if st ≠ .ok then c.fail t.issue st else c
    let c := if t.twinCopy then { c with twinDone := true }
      else
        let p := nth ringPartReset c.parts (n - base)
        { c with parts := setNth c.parts (n - base) { p with ended := p.ended + 1, data := tabDel p.data p.ended } }
    (s.setColl base c).runColl base

/-- End a transmit half with a status: record, queue entry, verdict. What follows it is `next`. -/
def State.endTx (s : State) (n : Nat) (t : StreamTx) (st : Status) : State :=
  let s := s.setTx n none
  match t.coll with
  | some base => s.collTxEnd n base t st
  | none =>
    if t.transfer ∨ t.digest then s
    else
      let s := s.record t.cring (engineHolder n)
        (s.streamRecord st 0 (t.attempt + 1) n t.step (delivered (if st = .ok ∨ st = .poison then cellCount t.length else t.acked) t.length)
          t.destChip t.tag)
      (s.queueEnd t.queue).streamVerdict t.step st

/-! ### Starting a descriptor (R305 to R308) -/

/-- A descriptor ends without moving anything. -/
def State.refuseStream (s : State) (d : StreamDesc) (step : Nat) (st : Status) : State :=
  let s := s.record (d.cring % 16384) (engineHolder d.stream)
    (s.streamRecord st (if d.kind = 0 then 0 else 2) 0 d.stream step 0 (if d.kind = 0 then d.dest % 2 ^ 17 else 0) d.tag)
  s.streamVerdict step st

/-- The entries of a collective's first axis (R310, R311, R313). -/
def State.firstBuffer (s : State) (d : StreamDesc) : List (Nat × Bool) :=
  if d.kind = 2 then s.elements d.src d.elem (d.len / s.collSpan d d.axisCount)
  else (s.elements d.src d.elem d.len).map fun x => (toPartial d.elem d.partialBytes x.1, x.2)

/-- REDUCE of the step in BWD begins with its first reduction (R103, R138). -/
def State.reduceBegins (s : State) (step : Nat) : State :=
  match s.step? step with
  | some r => if r.reduce = 0 then s.setStep { r with reduce := 1 } else s
  | none => s

/-- A member of an ALL_GATHER writes its own block at its offset of the result buffer (R313). -/
def State.ownBlock (s : State) (q : Nat) (d : StreamDesc) : State :=
  let n := d.len / s.collSpan d d.axisCount * d.elem
  let at_ := d.dst + s.collOffset d d.axisCount * d.elem
  s.storePoisoned (.stream (q / 4) d.stream) at_ (s.bytesAt d.src n) ((granulesOf at_ n).filter fun g =>
    (granulesOf d.src n).any fun k => s.mem.isPoisoned k && overlaps g 16 (at_ + (max k d.src - d.src)) (min 16 (k + 16 - d.src)))

/-- A collective whose scratch or result lies in a Veneer while a step runs (R126). -/
def State.streamShut (s : State) (d : StreamDesc) : Bool :=
  d.kind != 0 && ((s.streamRanges d).drop 1).any fun r => s.veneerShut r.1 r.2

/-- A descriptor that reads or writes the Inlay of a clamped die on this module (R23). -/
def State.streamClamped (s : State) (d : StreamDesc) : Bool :=
  ((s.streamRanges d).take (if d.kind = 0 then 1 else 9)).any fun r =>
    decide (0 < r.2) && s.accessStatus r.1 r.2 == .clamped

/-- The contexts of a descriptor are free: no transmit half of theirs is open, and no collective runs on them (R305). -/
def State.contextsFree (s : State) (d : StreamDesc) : Bool :=
  d.contexts.all fun n => (s.context n).tx.isNone && (s.collOf n).isNone

/-- Start a descriptor whose checks have passed. -/
def State.startStream (s : State) (q : Nat) (raw : List Byte) (d : StreamDesc) (step : Nat) : State :=
  let s := s.setSq q { s.sq q with running := (s.sq q).running + 1 }
  if d.kind = 0 then
    s.startTx d.stream
      { destChip := d.dest, address := d.dst, source := d.src, length := d.len, step := step, attempt := 0, acked := 0,
        sent := 0, retries := 0, progressAt := s.now, queue := some q, cring := d.cring, rxCring := d.rxCring, tag := d.tag,
        transfer := false, digest := false, coll := none, twinCopy := false, issue := 0, via := none, content := none }
  else
    let s := if d.reduces then s.reduceBegins step else s
    let span := (s.streamRanges d).headD (0, 0)
    let s := s.fetch (.stream (q / 4) d.stream) span.1 span.2
    let s := match s.firstPoison span.1 span.2 with | some g => s.replayPoison (some step) g false | none => s
    let c : Collective :=
      { queue := q, descriptor := raw, step := step, axis := if d.kind = 2 then d.axisCount - 1 else 0,
        gathering := d.kind == 2, buffer := s.firstBuffer d, parts := [], blocks := [], issued := 0, failed := none, twinSent := false,
        twinDone := false }
    let s := if d.kind = 2 then s.ownBlock q d else s
    (s.beginAxis d.stream c).runColl d.stream

/-- A queue that runs per step takes nothing between a recall and the replay (R356, order 2). -/
def State.queueHeld (s : State) (q : Nat) : Bool :=
  s.rbit (.netSqCtrl q) 6 && s.newest.isNone && (s.steps.halted || !s.steps.replays.isEmpty)

/-- The engine of queue `q` looks at the descriptor at HEAD (R305). -/
def State.streamDescriptorStart (s : State) (q : Nat) : State :=
  if !s.sqOpen q ∨ s.sqCount q = 0 ∨ s.inReset .router 0 ∨ s.queueHeld q then s
  else
    let a := s.sqEntry q 0
    let s := s.fetch .carcass a 64
    let raw := s.bytesAt a 64
    let d := parseStream raw
    let step := s.streamStep
    let taken (t : State) : State := t.setSq q { t.sq q with head := (t.sq q).head + 1, waiting := false }
    if (s.firstPoison a 64).isSome then (taken s).refuseStream d step .poison
    else if s.streamBad d ∨ s.streamShut d then (taken s).refuseStream d step .badParam
    else if s.streamClamped d then (taken s).refuseStream d step .clamped
    else if !s.contextsFree d ∨ (bits d.flags 0 1 = 1 ∧ (s.counter d.counter).toNat < d.value) then
      s.setSq q { s.sq q with waiting := true }
    else (taken s).startStream q raw d step

/-! ### Ending streams from outside -/

/-- Every transmit half, receiving half and collective that `p` names by its step ends with a status, with its
record; receive halves return to IDLE (R356, R470). -/
def State.endStreams (s : State) (p : Nat → Bool) (st : Status) : State :=
  let s := s.fabric.contexts.foldl (fun t c =>
    match c.2.tx with
    | some x =>
      if p x.step && !x.transfer then
        if x.coll.isSome then t.setTx c.1 none else t.endTx c.1 x st
      else t
    | none => t) s
  let s := s.fabric.contexts.foldl (fun t c =>
    match c.2.rx with
    | some r =>
      if p r.step then
        let t := if r.completed then t else (t.rxRecord c.1 r st).streamVerdict r.step st
        t.setRx c.1 none
      else t
    | none => t) s
  s.fabric.collectives.foldl (fun t c => if p c.2.step then t.endColl c.1 c.2 st else t) s

/-- Stream queues with PER_STEP return to HEAD 0 (R305). -/
def State.rewindQueues (s : State) : State :=
  (List.range 16).foldl (fun t q => if t.rbit (.netSqCtrl q) 6 then t.setSq q { t.sq q with head := 0, waiting := false } else t) s

/-- Work of a step is still on the fabric: a stream or collective of it (R346). -/
def State.fabricBusy (s : State) (step : Nat) : Bool :=
  s.fabric.collectives.any (fun c => c.2.step == step) ||
    s.fabric.contexts.any fun c =>
      (match c.2.tx with | some t => t.step == step && !t.transfer && !t.digest | none => false) ||
        (match c.2.rx with | some r => r.receiving && r.step == step | none => false)

end Sys2Proof.Machine
end

