-- ==== Sys2Proof/Machine/SquareCheck.lean ====
section
/-! DEFINITION. The square check (R330 to R345): sampling, fingerprints, checkers and referees, settlement, strikes,
the pattern ledger. -/

namespace Sys2Proof.Machine

/-! ### Fingerprints (R338) -/

/-- Multiply by x in GF(2^64). -/
def gf64Double (a : Word) : Word := if a.getLsbD 63 then (a <<< 1) ^^^ 0x1B else a <<< 1

/-- Product in GF(2^64), over the low `n` bits of `b`. -/
def gf64Mul (a b : Word) : (n : Nat) → Word
  | 0 => 0
  | n + 1 => gf64Double (gf64Mul a b n) ^^^ (if b.getLsbD (63 - n) then a else 0)

/-- The key κ of a step. -/
def fingerprintKey (step : BitVec 48) : Word :=
  let k : Word := ((generator step 0xFFFFFFFE 0 0).zeroExtend 64 <<< 32) ||| (generator step 0xFFFFFFFF 0 0).zeroExtend 64
  if k = 0 then 1 else k

/-- The fingerprint of a sequence of words. -/
def fingerprint (key : Word) (ws : List Word) : Word := ws.foldl (fun f w => gf64Mul key (f ^^^ w) 64) 0

/-! ### Sampling (R331) -/

/-- r_s of an accumulation. -/
def sampleTile (step : BitVec 48) (d : Desc) : BitVec 32 :=
  generator step (d.tile ^^^ 0x9E3779B9) (d.outRow % 2 ^ 24) (d.outCol % 2 ^ 24)

/-- r_s of a ROW operation. -/
def sampleRow (step : BitVec 48) (o : OpBlock) : BitVec 32 := generator step 0x9E3779B9 (bits o.dst 24 24) (bits o.dst 0 24)

/-- A unit that runs on physical core `c` is sampled. -/
def State.sampled (s : State) (r : BitVec 32) (c : Nat) (isRow : Bool) : Bool :=
  decide (bits r.toNat 24 8 < s.rf .sqCtrl 0 9) || (s.core c).watch || (isRow && (s.cluster (clusterOf c)).watch)

/-! ### Units -/

/-- A check unit. -/
def State.unit (s : State) (u : Nat) : Option CheckUnit := tabFind s.square.units u
/-- Replace a check unit. -/
def State.setUnit (s : State) (u : Nat) (x : CheckUnit) : State :=
  { s with square := { s.square with units := tabPut s.square.units u x } }

/-- A unit leaves the check; its store space is freed with it (R333). -/
def State.dropUnit (s : State) (u : Nat) : State :=
  { s with square := { s.square with units := tabDel s.square.units u } }

/-- A sampled unit is left unchecked (R333, R334, R337). -/
def State.skipUnit (s : State) (u : Nat) : State :=
  let s := s.dropUnit u
  { s with square := { s.square with skipped := satAdd s.square.skipped 1 } }

/-- A page of the check store that no unit holds: the lowest (DESIGN CHOICE, assumption log 130). -/
def State.freePage (s : State) (held : List Nat) : Option Nat :=
  let used := held ++ s.square.units.flatMap (·.2.pages)
  let page (i : Nat) : Nat := s.checkStore.1 + 4096 * i
  match (List.range (used.length + 1)).find? fun i => !used.contains (page i) with
  | some i => if 4096 * i < s.checkStore.2 then some (page i) else none
  | none => none

/-- `n` pages more for a unit that holds some; none without the room (R333). -/
def State.takePages (s : State) : (n : Nat) → List Nat → Option (List Nat)
  | 0, held => some held
  | n + 1, held =>
    match s.freePage held with
    | some p => s.takePages n (held ++ [p])
    | none => none

/-- Address of a captured byte. -/
def CheckUnit.address (x : CheckUnit) (i : Nat) : Nat := nth 0 x.pages (i / 4096) + i % 4096

/-- Captured bytes from `i` on. -/
def State.capturedAt (s : State) (x : CheckUnit) (i n : Nat) : List Byte := (upFrom i n).map fun k => s.byte (x.address k)

/-- Bytes in whole granules: what follows starts at the next (DESIGN CHOICE, assumption log 130). -/
def wholeGranules (n : Nat) : Nat := (n + 15) / 16 * 16

/-- The copy port of core `c` adds captured bytes to a unit in the check store; without room, or where the store cannot be
written, the capture is abandoned (R332, R333). -/
def State.capture (s : State) (u c : Nat) (bs : List Byte) : State :=
  match s.unit u with
  | some x =>
    let n := wholeGranules bs.length
    let bs := padTo n bs
    match s.takePages ((x.captured + n + 4095) / 4096 - x.pages.length) x.pages with
    | none => s.skipUnit u
    | some ps =>
      if ps.any (fun p => s.accessStatus p 4096 != .ok) then s.skipUnit u
      else
        let y := { x with capturing := true, captured := x.captured + n, pages := ps, descriptors := x.descriptors + 1 }
        (List.range (n / 16)).foldl (fun t k => t.store (.core c) (y.address (x.captured + 16 * k)) (slice bs (16 * k) 16))
          (s.setUnit u y)
  | none => s

/-- Open a check unit and count it (R331, R339): its number, and the state with it. -/
def State.openUnit (s : State) (step attempt : Nat) (training isRow strict : Bool) (core q0 c0 width : Nat) (r : BitVec 32) :
    Nat × State :=
  let u := s.square.nextUnit
  let x : CheckUnit :=
    { step := step, attempt := attempt, training := training, isRow := isRow, original := core, checker := none,
      referee := none, sample := r, q0 := q0, c0 := c0, width := width, key := fingerprintKey (BitVec.ofNat 48 step),
      strict := strict, fpOriginal := none, fpDuplicate := none, fpReferee := none, capturing := false, captured := 0,
      descriptors := 0, pages := [], used := [], disagreedFt := 0, originalDone := false, originalOk := false }
  (u, { s with square := { s.square with units := tabPut s.square.units u x, nextUnit := u + 1,
                                         sampled := satAdd s.square.sampled 1 } })

/-- The capture of a unit runs: its ops are incomplete (R332). -/
def State.capturing (s : State) (u : Option Nat) : Bool :=
  match u.bind s.unit with | some x => x.capturing | none => false

/-! ### Strikes and watches (R340, R341) -/

/-- Start a watch on a core or cluster of a unit kind. -/
def State.watch (s : State) (isRow : Bool) (core : Nat) (strike : Bool) : State :=
  if isRow then
    let k := clusterOf core
    let x := s.cluster k
    s.setCluster k { x with watch := true, watchStrike := strike, watchLeft := 4096 }
  else
    let x := s.core core
    s.setCore core { x with watch := true, watchStrike := strike, watchLeft := 4096 }

/-- A confirmed strike on a core, or for a ROW operation on its cluster; whether it clamps the unit now. -/
def State.strike (s : State) (isRow : Bool) (core : Nat) : State × Bool :=
  if isRow then
    let k := clusterOf core
    let x := s.cluster k
    let t := s.setCluster k { x with strikeTotal := min 65535 (x.strikeTotal + 1) }
    if s.clusterClamped k then (t, false)
    else if x.strikes = 1 then (t.clampCluster k 3 false, true)
    else
      let y := t.cluster k
      ((t.setCluster k { y with strikes := 1 }).watch true core true, false)
  else
    let x := s.core core
    let t := s.setCore core { x with strikeTotal := min 65535 (x.strikeTotal + 1) }
    if s.coreClamped core then (t, false)
    else if x.strikes = 1 then (t.clampCore core 6 false, true)
    else
      let y := t.core core
      ((t.setCore core { y with strikes := 1 }).watch false core true, false)

/-- A watch after one more unit has settled (R341): left, and whether it ends. -/
def watchStep (left : Nat) : Nat × Bool := (left - 1, decide (left ≤ 1))

/-- A unit that a core ran as original settles: the watch of the core counts down (R341). -/
def State.coreWatchDown (s : State) (core : Nat) : State :=
  let x := s.core core
  if !x.watch then s
  else
    let res := watchStep x.watchLeft
    s.setCore core { x with watchLeft := res.1, watch := !res.2, strikes := if res.2 && x.watchStrike then 0 else x.strikes }

/-- A ROW unit that a cluster ran as original settles: the watch of the cluster counts down (R341). -/
def State.clusterWatchDown (s : State) (k : Nat) : State :=
  let x := s.cluster k
  if !x.watch then s
  else
    let res := watchStep x.watchLeft
    s.setCluster k { x with watchLeft := res.1, watch := !res.2, strikes := if res.2 && x.watchStrike then 0 else x.strikes }

/-- The watches of a settled unit count down: that of its core, and for a ROW unit that of its cluster (R341). -/
def State.watchDown (s : State) (isRow : Bool) (core : Nat) : State :=
  let t := s.coreWatchDown core
  if isRow then t.clusterWatchDown (clusterOf core) else t

/-- As `watchDown`, but for what the unit itself has struck: a strike starts its watch anew (R341). -/
def State.watchDownBut (s : State) (isRow : Bool) (core : Nat) : State := if isRow then s.coreWatchDown core else s

/-! ### The pattern ledger (R343, R344) -/

/-- A ledger entry. -/
def State.ledgerEntry (s : State) (i : Nat) : LedgerEntry := tabGet ledgerEntryReset s.square.ledger i

/-- Insert an entry number by age: free and invalid entries first, then the oldest. -/
def insertAged (age : Nat → Nat) (i : Nat) : List Nat → List Nat
  | [] => [i]
  | j :: r => if age i < age j then i :: j :: r else j :: insertAged age i r

/-- Unpinned entries in the order in which they are taken. -/
def State.ledgerOrder (s : State) : List Nat :=
  let age (i : Nat) : Nat := if (s.ledgerEntry i).state = 1 then (s.ledgerEntry i).age + 1 else 0
  ((List.range 512).filter fun i => !(s.ledgerEntry i).pinned).foldl (fun l i => insertAged age i l) []

/-- Header of a ledger entry (R343), PINNED apart. -/
def ledgerHeader (x : CheckUnit) (truncated noMajority : Bool) (chain index losing q c : Nat) (qr cr : Nat)
    (qd cd : Nat) (operands : Nat) : List Byte :=
  padTo 256 (le 2 1 ++ le 1 (if x.isRow then 1 else 0) ++ le 1 (placeB truncated 0 + placeB noMajority 2) ++
    le 1 chain ++ le 1 index ++ zeros 2 ++ le 8 x.step ++ le 8 x.disagreedFt.toNat ++ le 2 x.original ++
    le 2 (x.checker.getD 0xFFFF) ++ le 2 (x.referee.getD 0xFFFF) ++ le 2 losing ++ le 8 (x.fpOriginal.getD 0).toNat ++
    le 8 (x.fpDuplicate.getD 0).toNat ++ le 8 (x.fpReferee.getD 0).toNat ++
    [q, c, qd, cd, qr, cr].flatMap (le 1) ++ zeros 2 ++ le 4 x.descriptors ++ le 4 operands ++ le 8 x.key.toNat)

/-- Rotations of the duplicate and of the referee (R335) on cores of given tile widths. -/
def duplicateRotation (x : CheckUnit) (w : Nat) : Nat × Nat :=
  ((x.q0 + 1 + x.step % 3) % 4, if w = 0 then 0 else (x.c0 + 1 + x.step % 7) % w)
/-- As `duplicateRotation`, for the referee. -/
def refereeRotation (x : CheckUnit) (w : Nat) : Nat × Nat :=
  ((x.q0 + 1 + (x.step + 1) % 3) % 4, if w = 0 then 0 else (x.c0 + 1 + (x.step + 3) % 7) % w)

/-- One captured part of a unit: a tile's descriptor or an operation block, and the bytes it read with their addresses. -/
structure CapturedPart where
  head : List Byte
  operands : List (Nat × Byte)
deriving DecidableEq, Repr

/-- The parts of a unit, read back from the check store: `left` of them from byte `i` on, after the descriptor `opener`. -/
def State.partsFrom (s : State) (x : CheckUnit) : (left i : Nat) → Option Desc → List CapturedPart
  | 0, _, _ => []
  | left + 1, i, opener =>
    let hn := if x.isRow then 64 else 128
    let head := s.capturedAt x i hn
    let d := parseDesc head
    let as := if x.isRow then (parseOp head).operands else d.operands (opener.getD d)
    { head := head, operands := as.zip (s.capturedAt x (i + hn) as.length) } ::
      s.partsFrom x left (i + wholeGranules (hn + as.length)) (some (opener.getD d))

/-- The parts of a unit. -/
def State.parts (s : State) (x : CheckUnit) : List CapturedPart := s.partsFrom x x.descriptors 0 none

/-- Bytes of content in one entry. -/
def ledgerRoom : Nat := 2 ^ 20 - 256

/-- Enter a unit into the ledger (R343, R344): its first entry, none if it was dropped. -/
def State.toLedger (s : State) (x : CheckUnit) (noMajority : Bool) (losing : Nat) : Option Nat × State :=
  let ps := s.parts x
  let heads := ps.flatMap (·.head)
  let content := heads ++ ps.flatMap fun p => p.operands.map (·.2)
  let need := max 1 ((content.length + ledgerRoom - 1) / ledgerRoom)
  let chain := min 8 need
  let order := s.ledgerOrder
  let short := decide (order.length < chain)
  let d := duplicateRotation x (s.tileWidth (x.checker.getD 0))
  let r := if x.fpReferee.isSome then refereeRotation x (s.tileWidth (x.referee.getD 0)) else (0, 0)
  let entry (k : Nat) : LedgerEntry :=
    { state := 1, pinned := false, step := x.step, age := s.square.ledgerAge, truncated := decide (8 < need),
      noMajority := noMajority, width := x.width, isRow := x.isRow,
      bytes := ledgerHeader x (decide (8 < need)) noMajority chain k losing x.q0 x.c0 r.1 r.2 d.1 d.2
        (content.length - heads.length) ++ slice content (k * ledgerRoom) ledgerRoom }
  let es := (order.take chain).zipIdx
  (if short then none else order.head?,
   if short then { s with square := { s.square with ledgerDropped := s.square.ledgerDropped + 1 } }
   else { s with square := { s.square with
     ledger := es.foldl (fun t e => tabSet ledgerEntryReset t e.1 (entry e.2)) s.square.ledger,
     ledgerAge := s.square.ledgerAge + 1 } })

/-- TOTAL of a core or cluster. -/
def State.strikeTotalOf (s : State) (isRow : Bool) (core : Nat) : Nat :=
  if isRow then (s.cluster (clusterOf core)).strikeTotal else (s.core core).strikeTotal

/-- Report a disagreement (R339, R446). -/
def State.strikeEvent (s : State) (x : CheckUnit) (losing : Option Nat) (clamped noMajority : Bool) (entry : Option Nat) :
    State :=
  s.emit (event 0x000D .integrity .ok
    (le 8 x.step ++ le 2 (match losing with | some c => if x.isRow then clusterOf c else c | none => 0xFFFF) ++
      le 1 (if x.isRow then 1 else 0) ++
      le 1 (placeB clamped 0 + placeB entry.isNone 1 + placeB noMajority 2) ++ le 2 (entry.getD 0xFFFF) ++
      le 2 (match losing with | some c => s.strikeTotalOf x.isRow c | none => 0)))

/-! ### Settlement (R339, R340, R342) -/

/-- A unit is settled: it leaves the check, and its original's watch counts down. -/
def State.settleUnit (s : State) (u : Nat) (x : CheckUnit) : State := (s.dropUnit u).watchDown x.isRow x.original

/-- The attempt of the unit's step is still the one that the unit belongs to (R342). -/
def State.unitCounts (s : State) (x : CheckUnit) : Bool :=
  x.training && (match s.step? x.step with | some r => r.attempt == x.attempt | none => false)

/-- One side lost (R340): its strike comes before the watches count down (R341). -/
def State.loses (s : State) (u : Nat) (x : CheckUnit) (losing : Nat) : State :=
  let res := s.toLedger x false losing
  let entry := res.1
  let s := res.2
  let res := s.strike x.isRow losing
  let s := res.1
  let clamped := res.2
  let s := if losing = x.original then (s.dropUnit u).watchDownBut x.isRow x.original else s.settleUnit u x
  let s := if losing = x.original ∧ x.fpReferee = x.fpDuplicate then
      let s := { s with square := { s.square with wrong := satAdd s.square.wrong 1 } }
      if s.unitCounts x then s.failStep (some x.step) 1 else s
    else s
  s.strikeEvent x (some losing) clamped false entry

/-- No majority, or no referee (R340): every core concerned enters watch, and the step fails UNSETTLED. The unit has not settled,
and no watch counts it. -/
def State.unsettled (s : State) (u : Nat) (x : CheckUnit) (cores : List Nat) : State :=
  let res := s.toLedger x true 0xFFFF
  let entry := res.1
  let s := res.2
  let s := s.dropUnit u
  let s := cores.foldl (fun t c => if (if x.isRow then t.clusterClamped (clusterOf c) else t.coreClamped c) then t
    else t.watch x.isRow c false) s
  let s := if s.unitCounts x then s.failStep (some x.step) 2 else s
  s.strikeEvent x none false true entry

/-- The majority decides (R340). -/
def State.majority (s : State) (u : Nat) (x : CheckUnit) : State :=
  let ck := x.checker.getD x.original
  if x.fpReferee = x.fpOriginal then s.loses u x ck
  else if x.fpReferee = x.fpDuplicate then s.loses u x x.original
  else s.unsettled u x [x.original, ck, x.referee.getD ck]

/-- Put a run in a core's queue (R336). -/
def State.queueRun (s : State) (c u : Nat) (referee : Bool) : State :=
  let x := s.core c
  s.setCore c { x with checks := x.checks ++ [(u, referee)] }

/-- Place the duplicate of a unit on the next core of its walk (R334, R337). -/
def State.placeDuplicate (s : State) (u : Nat) (x : CheckUnit) : State :=
  match if 2 < x.used.length then none else s.walk x.isRow x.width (x.sample.toNat % 384) [x.original] x.used with
  | some k => (s.setUnit u { x with checker := some k }).queueRun k u false
  | none => s.skipUnit u

/-- Place the referee of a unit (R334, R337). -/
def State.placeReferee (s : State) (u : Nat) (x : CheckUnit) : State :=
  let ck := x.checker.getD x.original
  match if 2 < x.used.length then none
    else s.walk x.isRow x.width ((x.sample.toNat % 384 + 192) % 384) [x.original, ck] x.used with
  | some k => (s.setUnit u { x with referee := some k }).queueRun k u true
  | none => s.unsettled u x [x.original, ck]

/-- Runs queued on cores that have been clamped or reset are given to other cores (R337). -/
def State.reissueLost (s : State) : State :=
  s.cores.foldl (fun t e =>
    let c := e.1
    if (t.core c).checks.isEmpty ∨ !(t.coreClamped c || t.inReset .core c) then t
    else
      let runs := (t.core c).checks
      let y := t.core c
      runs.foldl (fun t r =>
        match t.unit r.1 with
        | some x =>
          let x := { x with used := x.used ++ [c] }
          if r.2 then t.placeReferee r.1 x else t.placeDuplicate r.1 x
        | none => t) (t.setCore c { y with checks := [] })) s

/-- Compare the fingerprints of a unit (R339). -/
def State.compareUnit (s : State) (u : Nat) : State :=
  match s.unit u with
  | some x =>
    match x.fpOriginal, x.fpDuplicate with
    | some a, some b =>
      if x.referee.isSome ∨ x.disagreedFt ≠ 0 ∨ !x.originalDone then s
      else if a = b then s.settleUnit u x
      else
        let s := { s with square := { s.square with disagreed := satAdd s.square.disagreed 1 } }
        s.placeReferee u { x with used := [], disagreedFt := s.ft }
    | _, _ => s
  | none => s

/-- The capture of a unit ends (R332); a unit whose last tile has been issued gets its checker (R334). -/
def State.captureEnd (s : State) (u : Nat) : State :=
  match s.unit u with
  | some x =>
    if !x.capturing then s
    else
      let x := { x with capturing := false }
      let s := s.setUnit u x
      let open_ : Bool := match (s.core x.original).acc with | some a => a.unit == some u | none => false
      if open_ || x.checker.isSome then s else s.placeDuplicate u x
  | none => s

/-- The UPDATE phase of a unit's step has ended (R336). -/
def State.updateOver (s : State) (u : Nat) : Bool :=
  match s.unit u with
  | some x => (match s.step? x.step with | some r => r.phase == 7 | none => true)
  | none => false

/-- The run that a core's queue gives next: runs of a step whose UPDATE has ended before all others (R336); those of units that are
gone are passed over. -/
def State.headRun (s : State) (c : Nat) : Option (Nat × Bool) :=
  let runs := (s.core c).checks.filter fun r => (s.unit r.1).isSome
  match runs.find? fun r => s.updateOver r.1 with
  | some r => some r
  | none => runs.head?

/-- Take a run out of a core's queue. -/
def State.popRun (s : State) (c : Nat) (r : Nat × Bool) : State :=
  let x := s.core c
  s.setCore c { x with checks := (x.checks.filter fun e => (s.unit e.1).isSome).erase r, progressAt := s.now }

/-- Address in the Tray of core `c` at which a run finds what the original found at `a` (R336). -/
def runAddress (c a : Nat) : Nat := trayOf c + a % 2 ^ 22

/-- The copy port of core `c` reads a unit from the check store and loads its operands into the core's Tray (R336): the state, and
whether a granule of the captured bytes is poisoned. -/
def State.loadRun (s : State) (c : Nat) (x : CheckUnit) : State × Bool :=
  let as := (List.range (x.captured / 16)).map fun k => x.address (16 * k)
  let s := as.foldl (fun t a => t.fetch (.core c) a 16) s
  if as.any fun a => s.mem.isPoisoned a then (s, true)
  else (((s.parts x).flatMap (·.operands)).foldl (fun t o => t.store (.core c) (runAddress c o.1) [o.2]) s, false)

/-- The contents of a checker's Tray that a run has used are discarded (R157, R336): the bytes that it loaded or wrote hold free
values, the others are kept (UNVERIFIED, assumption log 131). -/
def State.discardTray (s : State) (c : Nat) (as : List Nat) : State :=
  { s with freeDraws := s.freeDraws + 1,
           mem := as.foldl (fun (m : Memory) a =>
             m.setByte (runAddress c a) (Config.discardedByte s.freeDraws (runAddress c a))) s.mem }

/-- What a part reads of its operands. -/
def CapturedPart.byte (p : CapturedPart) (a : Nat) : Byte :=
  match p.operands.find? (·.1 == a) with | some x => x.2 | none => 0

/-- Run the tiles of a captured accumulation from the store `vs` on: the output rows, the flags and the addresses written. -/
def CheckUnit.runTiles (x : CheckUnit) : Option Desc → List AccElem → List CapturedPart → List Word × BitVec 6 × List Nat
  | _, _, [] => ([], 0, [])
  | opener, vs, p :: rest =>
    let d := parseDesc p.head
    let o := opener.getD d
    let res := if d.m = 0 then ([], 0) else d.accumulate p.byte x.strict vs
    if rest.isEmpty then
      let rows := if d.m = 0 then [] else d.rowsOut o p.byte (BitVec.ofNat 48 x.step) res.1 (fun _ => 0)
      (d.words rows, res.2 ||| d.outFlags rows, (d.outWrites rows).map (·.1))
    else
      let more := CheckUnit.runTiles x (some o) res.1 rest
      (more.1, res.2 ||| more.2.1, more.2.2)

/-- What a run of a unit on sound silicon finds (R335, R338): its fingerprint, which no rotation changes (R55), its flags (R93), and
the addresses it loads and writes. -/
def State.soundRun (s : State) (x : CheckUnit) : Word × BitVec 6 × List Nat :=
  let ps := s.parts x
  let loaded := ps.flatMap fun p => p.operands.map (·.1)
  if x.isRow then
    match ps with
    | [] => (0, 0, [])
    | p :: _ =>
      let o := parseOp p.head
      let (es, scs, f) := o.rowElems p.byte (BitVec.ofNat 48 x.step)
      (fingerprint x.key (o.words es scs), f, rising (loaded ++ (o.rowWrites es scs).map (·.1)))
  else
    let (ws, f, out) := x.runTiles none [] ps
    (fingerprint x.key ws, f, rising (loaded ++ out))

/-- The check store that holds a unit's capture lies in the Inlay of a clamped die: a run of it completes CLAMPED (R23, R337). -/
def State.captureClamped (s : State) (x : CheckUnit) : Bool := x.pages.any fun p => s.accessStatus p 4096 == .clamped

/-- A duplicate or referee of unit `u` runs on core `c` (R335 to R337): `found` takes the unit with what the run found, which differs
from sound silicon by `wrong`. A run that completes CLAMPED is given to the next core of its walk; one that completes POISON
settles nothing and leaves the unit skipped (R187, R342). -/
def State.runCheck (s : State) (c u : Nat) (referee : Bool) (wrong : Word) (found : State → CheckUnit → Word → State) : State :=
  let s := s.popRun c (u, referee)
  match s.unit u with
  | some x =>
    if s.captureClamped x then
      let x := { x with used := x.used ++ [c] }
      if referee then s.placeReferee u x else s.placeDuplicate u x
    else
      let res := s.loadRun c x
      let s := res.1
      if res.2 then s.skipUnit u
      else
        let (print, f, as) := s.soundRun x
        let s := if f = 0 then s else s.setBits (.coreNumFlags c) (f.zeroExtend 64)
        found (s.discardTray c as) x (print ^^^ wrong)
  | none => s

/-- A duplicate runs. -/
def State.runDuplicate (s : State) (c u : Nat) (wrong : Word) : State :=
  s.runCheck c u false wrong fun t x w => t.setUnit u { x with fpDuplicate := some w }

/-- A referee runs, and the majority decides (R340). -/
def State.runReferee (s : State) (c u : Nat) (wrong : Word) : State :=
  s.runCheck c u true wrong fun t x w => t.majority u { x with fpReferee := some w }

/-- The original of a unit has completed (R339, R342). -/
def State.originalEnded (s : State) (u : Option Nat) (last : Bool) (st : Status) : State :=
  match u with
  | none => s
  | some u =>
    match s.unit u with
    | none => s
    | some x =>
      if st ≠ .ok then s.dropUnit u
      else if last then s.setUnit u { x with originalDone := true, originalOk := true, fpOriginal := x.fpOriginal }
      else s

/-- A recall drops the comparisons of steps that `p` names whose original or duplicate has not completed (R342). -/
def State.dropComparisons (s : State) (p : Nat → Bool) : State :=
  s.square.units.foldl (fun t e =>
    if p e.2.step && e.2.training && !(e.2.originalDone && e.2.fpDuplicate.isSome) then t.dropUnit e.1 else t) s

/-- Some sampled unit of a step has not settled (R346). -/
def State.checksPending (s : State) (step : Nat) : Bool := s.square.units.any fun e => e.2.training && e.2.step == step

/-! ### Ledger commands and the field test (R344, R345, R440) -/

/-- LEDGER_INDEX. -/
def doLedgerIndex (_ : OpenCmd) (s : State) : Result :=
  done s ((List.range 512).flatMap fun i =>
    let e := s.ledgerEntry i
    le 8 (place e.state 0 2 + placeB e.pinned 2 + place (if e.state = 1 then e.step else 0) 16 48))

/-- Bytes of an entry as LEDGER_READ gives them: PINNED in the flags, zeros to 1 MiB. -/
def LedgerEntry.byte (e : LedgerEntry) (i : Nat) : Byte :=
  if i = 3 ∧ e.state = 1 ∧ e.pinned then nth 0 e.bytes 3 ||| 2 else nth 0 e.bytes i

/-- LEDGER_READ: an entry beyond 511 or bytes beyond 1 MiB give BAD_PARAM; an entry that holds nothing reads as zeros. -/
def doLedgerRead (c : OpenCmd) (s : State) : Result :=
  let i := uAt c.params 0 2
  let off := uAt c.params 4 4
  let n := uAt c.params 8 4
  let e := s.ledgerEntry i
  if 512 ≤ i ∨ 2 ^ 20 < off + n then refuse s .badParam
  else done s ((upFrom off n).map e.byte)

/-- LEDGER_PIN. -/
def doLedgerPin (c : OpenCmd) (s : State) : Result :=
  let i := uAt c.params 0 2
  let e := s.ledgerEntry i
  if 512 ≤ i ∨ e.state ≠ 1 then refuse s .badParam
  else
    done { s with square := { s.square with
      ledger := tabSet ledgerEntryReset s.square.ledger i { e with pinned := uAt c.params 2 1 == 1 } } } []

/-- A core is clamped for a fault or a self-test, itself or with what encloses it (R345). -/
def State.faultClamped (s : State) (c : Nat) : Bool :=
  ((s.core c).clampReason != 0 && !(s.core c).clampByCommand) ||
  ((s.cluster (clusterOf c)).clampReason != 0 && !(s.cluster (clusterOf c)).clampByCommand) ||
  ((s.die (dieOf c)).clampReason != 0 && !(s.die (dieOf c)).clampByCommand)

/-- Entries that FIELD_TEST runs (R345): the one named, or of all valid ones those it may run (DEDUCED, assumption log
18). -/
def State.testable (s : State) (i c : Nat) : Bool :=
  let e := s.ledgerEntry i
  e.state == 1 && !e.truncated && !e.noMajority && decide (e.width ≤ s.tileWidth c)

/-- Entries of a field test. -/
def State.testEntries (s : State) (i c : Nat) : List Nat :=
  (if i = 0xFFFF then List.range 512 else [i]).filter fun k => s.testable k c

/-- FIELD_TEST (R345). `failing` is what the silicon gives: entry, q and c of each differing run. -/
def doFieldTest (failing : List (Nat × Nat × Nat)) (c : OpenCmd) (s : State) : Result :=
  let i := uAt c.params 0 2
  let k := uAt c.params 2 2
  if (512 ≤ i ∧ i ≠ 0xFFFF) ∨ 384 ≤ k then refuse s .badParam
  else if s.faultClamped k then refuse s .clamped
  else if s.stepOpen ∨ s.steps.evalSlot.isSome ∨ (s.core k).testing then refuse s .busy
  else if (s.testEntries i k).isEmpty then refuse s .badParam
  else
    let x := s.core k
    began (s.setCore k { x with testing := true })
      (.fieldTest i k (failing.filter fun f => (s.testEntries i k).contains f.1 && decide (f.2.1 < 4 ∧ f.2.2 < s.tileWidth k)))

/-- The end of a field test: one strike for any differing run, and FIELD_TEST_DONE (R345, R446). -/
def State.fieldTestEnd (s : State) (jseq i k : Nat) (failing : List (Nat × Nat × Nat)) : State :=
  let runs := (s.testEntries i k).length * 4 * s.tileWidth k
  let x := s.core k
  let s := s.setCore k { x with testing := false, progressAt := s.now }
  let res := if failing.isEmpty then (s, false) else s.strike false k
  let s := res.1
  let clamped := res.2
  let f := failing.headD (0, 0, 0)
  s.closeWith jseq 0x0011 .integrity (if clamped then .clamped else .ok)
    (le 2 i ++ le 2 k ++ le 2 runs ++ le 2 failing.length ++ le 1 f.2.1 ++ le 1 f.2.2)

end Sys2Proof.Machine
end

