-- ==== Sys2Proof/Machine/Steps.lean ====
section
/-! DEFINITION. Steps: Veneers and input slots (R372 to R377), the opening of LOAD (R259, R356), phases (R102, R138),
the stash decision (R110 to R117), verdicts, seals and recalls (R346 to R357), weight digests (R358 to R361). -/

namespace Sys2Proof.Machine

/-! ### The Veneer map (R372 to R376) -/

/-- The own master array of a Veneer. -/
def State.ownMaster (s : State) (v : Nat) : Nat × Nat := ((s.ownVeneer v).1, s.rf .veneerSize 28 28 * 4096)
/-- The mirror master array of a Veneer; empty without mirror Veneers. -/
def State.mirrorMaster (s : State) (v : Nat) : Nat × Nat :=
  ((s.mirrorVeneer v).1, if s.mirrorInUse then s.rf .twinMirrorSize 28 28 * 4096 else 0)
/-- Address and bytes of the stash spill area. -/
def State.spillArea (s : State) : Nat × Nat := (s.rf .stashSpillBase 12 36 * 4096, s.rf .stashSpillLimit 0 28 * 4096)

/-- Retention depth in force for steps that open now. -/
def State.depth (s : State) : Nat := s.rf .retainCtrl 0 2

/-- Successor of a Veneer (R374). -/
def successor (depth v : Nat) : Nat := if v = 0 then 1 else if v = 1 then (if depth = 2 then 2 else 0) else 0

/-- Letter that the next step reads: what the newest unsealed step writes, else the sealed one (R374). -/
def State.nextReads (s : State) : Nat :=
  match s.newest with
  | some r => r.writes
  | none => if s.steps.sealedLetter = 3 then 0 else s.steps.sealedLetter

/-- An area lies in the LPDDR6 region; one of zero bytes passes (R373). -/
def inLpddr6 (x : Nat × Nat) : Bool := x.2 == 0 || regionSpan x.1 x.2 == .lpddr6

/-- Some two areas of a list overlap. -/
def anyMeet : List (Nat × Nat) → Bool
  | [] => false
  | x :: r => r.any (areasMeet x) || anyMeet r

/-- The Veneer regions that a depth and the letter read use. -/
def State.veneersInUse (s : State) (reads : Nat) : List (Nat × Nat) :=
  let ls := [0, 1, 2].filter fun v => (depthLetters s.depth).contains v || v == reads
  ls.map s.ownVeneer ++ (if s.mirrorInUse then ls.map s.mirrorVeneer else [])

/-- Step ID and attempt of the next step to open: the one step control has named, else the first replay, else the one after
the newest step. None before any step is known (R436, R438, R439). -/
def State.nextStep (s : State) : Option (Nat × Nat) :=
  match s.steps.next, s.steps.replays, s.newest with
  | some x, _, _ => some x
  | none, (n, a, _) :: _, _ => some (n, a)
  | none, [], some r => some (r.id + 1, 0)
  | none, [], none => if s.steps.sealedLetter = 3 then none else some (s.steps.sealedStep + 1, 0)

/-- What R373 refuses at step open. -/
def State.mapBad (s : State) (reads : Nat) : Bool :=
  let areas := s.veneersInUse reads ++ (List.range (s.depth + 1)).map s.inputSlot
  areas.any (fun x => !inLpddr6 x || (decide (0 < x.2) && touchesReserved x.1 x.2) || areasMeet x s.spillArea ||
    areasMeet x s.checkStore) || anyMeet areas ||
  decide (s.rf .veneerSize 0 28 < s.rf .veneerSize 28 28) ||
  (s.mirrorInUse && decide (s.rf .twinMirrorSize 0 28 < s.rf .twinMirrorSize 28 28))

/-! ### The stash (R109 to R117) -/

/-- Pages of a die in a list of 24. -/
def pagesOf (l : List Nat) (d : Nat) : Nat := nth 0 l d

/-- Stash pages of each segment, by die: the first entry starts one whatever its flag (R109). -/
def segments : List StashEntry → List (List Nat)
  | [] => []
  | e :: r =>
    match segments r, r.head? with
    | seg :: rest, some n =>
      if n.segmentStart then e.stashPages :: seg :: rest
      else ((List.range 24).map fun d => pagesOf e.stashPages d + pagesOf seg d) :: rest
    | rest, _ => e.stashPages :: rest

/-- The segment test of R116: some segment needs more than the reserve on some die. -/
def segmentsTooLarge (reserve : Nat) (st : List StashEntry) : Bool :=
  (segments st).any fun seg => (List.range 24).any fun d => decide (reserve < pagesOf seg d)

/-- What R116 refuses at step open. -/
def State.stashBad (s : State) : Bool :=
  decide (1048576 < s.rf .stashInlayLimit 0 21 + s.rf .stashReserve 0 21) || !inLpddr6 s.spillArea ||
    (match s.program 0 with
     | some p => segmentsTooLarge (s.rf .stashReserve 0 21) p.stash
     | none => false)

/-- What R333 refuses at step open. -/
def State.storeBad (s : State) : Bool :=
  let x := s.checkStore
  (decide (0 < x.2) && (!inStore x.1 x.2 || areasMeet x s.spillArea)) ||
    (s.rf .sqCtrl 0 9 != 0 && s.rf .sqStoreLimit 0 28 == 0)

/-- Stash accounting while layers are decided. -/
structure StashState where
  inlay : List (Nat × Nat)
  spill : Nat
  dryfit : Option Nat
  /-- Spill pages in use at the switch (R113). -/
  atSwitch : Nat
  exhausted : Option Nat
deriving DecidableEq, Repr

/-- Spill pages that keeping `x` takes (R111). -/
def StashState.need (limit : Nat) (t : StashState) (x : List Nat) : Nat :=
  ((List.range 24).map fun d => pagesOf x d - (limit - tabGet 0 t.inlay d)).sum

/-- Keep `x` pages on every die: first in the Inlay, the rest in the spill area (R110). -/
def StashState.keep (limit : Nat) (t : StashState) (x : List Nat) : StashState :=
  { t with spill := t.spill + t.need limit x,
           inlay := (List.range 24).foldl (fun m d =>
             tabSet 0 m d (min limit (tabGet 0 m d + pagesOf x d))) t.inlay }

/-- The decision for one layer (R111). `first`: it is the first entry of the table. -/
def StashState.layer (limit spillLimit : Nat) (force : Option Nat) (first : Bool) (t : StashState) (e : StashEntry) :
    StashState :=
  let fits (x : List Nat) : Bool := decide (t.spill + t.need limit x ≤ spillLimit)
  let forced : Bool := match force with | some l => decide (l ≤ e.layer) | none => false
  if t.exhausted.isSome then t
  else if t.dryfit.isNone && !forced && fits e.stashPages then t.keep limit e.stashPages
  else
    let t := if t.dryfit.isNone then { t with dryfit := some e.layer, atSwitch := t.spill } else t
    let x := if t.dryfit = some e.layer ∨ e.segmentStart ∨ first then e.boundaryPages else []
    if fits x then t.keep limit x else { t with exhausted := some e.layer }

/-- The stash table of the training program. -/
def State.stashTable (s : State) : List StashEntry := match s.program 0 with | some p => p.stash | none => []

/-- The layers up to `l` that a step has not decided. -/
def State.layersDue (s : State) (r : StepRec) (l : Nat) : List StashEntry :=
  if r.exhausted.isSome then [] else (s.stashTable.drop r.decided).takeWhile fun e => decide (e.layer ≤ l)

/-- The decisions for the layers up to `l` that a step has not decided, in order. -/
def State.stashPlan (s : State) (r : StepRec) (l : Nat) : StashState :=
  let force := if s.rbit .stashCtrl 16 then some (s.rf .stashCtrl 0 16) else none
  (s.layersDue r l).zipIdx.foldl (fun t e =>
      t.layer (s.rf .stashInlayLimit 0 21) (s.rf .stashSpillLimit 0 28) force (r.decided + e.2 == 0) e.1)
    ⟨s.steps.inlayUsed, s.steps.spillUsed, r.dryfit, 0, none⟩

/-! ### Dry-fit segments (R113, R114) -/

/-- First layer of the dry-fit segment that layer `l` lies in, for a step whose first dry-fit layer is `f`. -/
def State.segmentOf (s : State) (f l : Nat) : Option Nat :=
  ((s.stashTable.filter fun e => decide (f ≤ e.layer) && decide (e.layer ≤ l) && (e.layer == f || e.segmentStart)).map
    (·.layer)).getLast?

/-- The dry-fit segment of a tile of a step, by its descriptor; none in stash mode. The layer of a tile is a free value
(assumption log 22). -/
def State.tileSegment (s : State) (r : StepRec) (raw : List Byte) : Option Nat :=
  r.dryfit.bind fun f => s.segmentOf f (Config.tileLayer raw)

/-- Pages of the recompute reserve that a segment takes, by die: the stash of its layers (R114, R116). -/
def State.segmentPages (s : State) (f seg : Nat) : List (Nat × Nat) :=
  let es := s.stashTable.filter fun e => s.segmentOf f e.layer == some seg
  (List.range 24).foldl (fun m d => tabSet 0 m d ((es.map fun e => pagesOf e.stashPages d).sum)) []

/-! ### Opening LOAD -/

/-- Work rings whose control register has been written. -/
def State.setRings (s : State) : List Nat :=
  s.regs.filterMap fun e => match Reg.ofAddr e.1 with | some (.wringCtrl c j) => some (c * 128 + j) | _ => none

/-- Work rings whose TAIL register has been written. -/
def State.tailRings (s : State) : List Nat :=
  s.regs.filterMap fun e => match Reg.ofAddr e.1 with | some (.wringPtr c j) => some (c * 128 + j) | _ => none

/-- HEAD and TAIL of the work rings that are not at zero (R356, order 7). -/
def State.ringMarks (s : State) : List (Nat × Word) :=
  (s.tailRings ++ s.ringHeads.map (·.1)).foldl (fun m r =>
    tabSet 0 m r (word ((s.wringTail r).toNat <<< 32 + (s.wringHead r).toNat))) []

/-- Put HEAD of every work ring, and TAIL of every POST ring, back to marked values (R356, order 7). -/
def State.restoreRings (s : State) (marks : List (Nat × Word)) : State :=
  let s1 : State := { s with ringHeads := marks.foldl (fun m e => tabSet 0 m e.1 (BitVec.ofNat 32 e.2.toNat)) [] }
  s1.setRings.foldl (fun t r =>
    if t.rbit (wctrl r) 27 then t.setWringTail r (BitVec.ofNat 32 ((tabGet 0 marks r).toNat >>> 32)) else t) s1

/-- SQ_STATUS at the opening of a LOAD phase (R365). -/
def SquareCheck.cleared (q : SquareCheck) : SquareCheck :=
  { q with sampled := 0, skipped := 0, disagreed := 0, wrong := 0, reason := 0, sent := false, sentFail := false }

/-- A phase of a step opens: its trace (R526). -/
def State.tracePhase (s : State) (phase step : Nat) : State := s.trace benchRing 0x0031 phase step

/-- STEP_END of a step that ends early (R446). -/
def State.stepEnd (s : State) (r : StepRec) (st : Status) (reason layer : Nat) : State :=
  s.emit (event 0x0007 .step st (le 8 r.id ++ le 1 r.attempt ++ le 1 reason ++ zeros 2 ++ le 4 layer))

/-- Open LOAD of a step (R138, R141, R305, R365, R374). A step whose configuration R116, R333 or R373 refuses ends in
LOAD with BAD_PARAM. -/
def State.openLoad (s : State) (id attempt : Nat) : State :=
  let reads := s.nextReads
  let depth := s.depth
  let r : StepRec :=
    { id := id, attempt := attempt, reads := reads, writes := successor depth reads, phase := 1, reduce := 0,
      closed := none, reasons := [], verdictSent := none, own := none,
      children := (s.steps.early.filter fun e => e.step == id && e.attempt == attempt).map (·.entry), combinedSent := false,
      rings := s.ringMarks, dryfit := none, exhausted := none, decided := 0, forward := [], cut := none,
      twinFailed := none }
  let bad := s.mapBad reads || s.stashBad || s.storeBad
  let r := if bad then { r with phase := 0, reasons := [4] } else r
  let s := { s with
    steps := { s.steps with
      opened := s.steps.opened ++ [r], depth := depth, next := none, early := s.steps.early.filter (·.step ≠ id) },
    square := s.square.cleared, fabric := { s.fabric with counters := [] },
    mem := { s.mem with bankFresh := [] } }.rewindQueues
  let s := s.tracePhase 1 id
  if bad then s.stepEnd r .badParam 4 0 else s

/-! ### Phases (R102, R138) -/

/-- Items of a phase that are in progress or wait to run again. -/
def State.itemsIn (s : State) (p : Nat) : Bool :=
  s.cores.any fun e => (match e.2.item with | some it => it.phase == p | none => false) ||
    e.2.restarts.any (·.phase == p)

/-- Every enabled ring gated to a phase is empty and its items have ended. -/
def State.phaseDrained (s : State) (p : Nat) : Bool :=
  !s.itemsIn p && s.setRings.all fun r => !(s.rbit (wctrl r) 28 && s.wringPhase r == p) || s.wringCount r == 0

/-- The FWD phase of a step opens: stash space is free (R110, R124, R125). -/
def State.fwdOpens (s : State) : State :=
  { s with steps := { s.steps with inlayUsed := [], spillUsed := 0, inlayMax := 0, spillMax := 0, stashDryfit := none,
                                   stashExhausted := none } }

/-- A step moves to its next phase where the present one has ended (R138). -/
def State.advanceStep (s : State) (r : StepRec) : State :=
  let go (t : State) (p : Nat) : State := (t.setStep { r with phase := p }).tracePhase p r.id
  if r.phase = 1 ∧ s.phaseDrained 1 then go s.fwdOpens 2
  else if r.phase = 2 ∧ s.phaseDrained 2 ∧ r.cut.isNone then go s 3
  else if r.phase = 3 ∧ s.phaseDrained 3 ∧ !s.checksPending r.id then
    let s := { s with steps := { s.steps with inlayUsed := [], spillUsed := 0, reserve := none } }
    if s.reducePending r.id || s.itemsIn 4 then (s.setStep { r with phase := 4, reduce := 1 }).tracePhase 4 r.id
    else (s.setStep { r with phase := 5, reduce := 2 }).tracePhase 5 r.id
  else if r.phase = 4 ∧ !s.reducePending r.id ∧ !s.itemsIn 4 then
    (s.setStep { r with phase := 5, reduce := 2 }).tracePhase 5 r.id
  else if r.phase = 5 ∧ s.phaseDrained 5 then s.setStep { r with phase := 7 }
  else s

/-- One pass over the open steps. -/
def State.advanceAll (s : State) : State :=
  s.steps.opened.foldl (fun t r => match t.step? r.id with | some x => t.advanceStep x | none => t) s

/-- Phases go on as far as they can: a step has at most six changes. -/
def State.advance (s : State) : State := (List.range 6).foldl (fun t _ => t.advanceAll) s

/-- The stash decisions before a FWD tile of layer `l` (R111 to R113, R117, R124, R125): those of the layers up to it that
have not been made. -/
def State.stashDecision (s : State) (r : StepRec) (l : Nat) : State :=
  if (s.layersDue r l).isEmpty then s
  else
    let p := s.stashPlan r l
    let s := s.setStep { r with dryfit := p.dryfit, exhausted := p.exhausted, decided := r.decided + (s.layersDue r l).length }
    let used := (p.inlay.map (·.2)).foldl max 0
    let s := { s with steps := { s.steps with
      inlayUsed := p.inlay, spillUsed := p.spill, inlayMax := max s.steps.inlayMax used,
      spillMax := max s.steps.spillMax p.spill, stashDryfit := p.dryfit, stashExhausted := p.exhausted } }
    let s := match r.dryfit, p.dryfit with
      | none, some f => s.emit (event 0x0006 .step .ok (le 8 r.id ++ le 2 f ++ zeros 2 ++ le 4 p.atSwitch))
      | _, _ => s
    match p.exhausted with
    | some l =>
      let s := (s.failStep (some r.id) 5).stepEnd r .stashExhausted 5 l
      let s := s.fault 0x0011 .module .stashExhausted l r.id
      { s with steps := { s.steps with halted := true } }
    | none => s

/-- What forward ran of a dry-fit segment is kept for its rerun (R114, R115). -/
def State.noteForward (s : State) (r : StepRec) (x : ForwardRun) : State := s.setStep { r with forward := r.forward ++ [x] }

/-- The recompute reserve may be freed: its runs have retired, no tile of BWD is in flight, and no check of the step is
pending (R114, R118). -/
def State.reserveFree (s : State) : Bool :=
  match s.steps.reserve with
  | none => true
  | some x => x.pending.isEmpty && !s.checksPending x.step &&
      s.cores.all fun e => match e.2.item with | some it => it.phase != 3 || !it.ops.any (·.kind == .tile) | none => true

/-- A dry-fit segment takes the recompute reserve: what forward ran of it is to run again, on the cores that host its
logical cores now (R114). -/
def State.openReserve (s : State) (r : StepRec) (seg : Nat) : State :=
  let runs := r.forward.filter fun x => x.segment == seg && (s.hostOf x.logical).isSome
  let pages := s.segmentPages (r.dryfit.getD 0) seg
  { s with steps := { s.steps with reserve := some ⟨r.id, seg, pages, runs, []⟩ } }

/-- A BWD tile of a dry-fit segment may start: the segment holds the reserve and its recompute runs have retired (R114). -/
def State.recomputed (s : State) (step seg : Nat) : Bool :=
  match s.steps.reserve with
  | some x => x.step == step && x.segment == seg && x.pending.isEmpty
  | none => false

/-- Before a BWD tile of a dry-fit segment: the reserve goes to the segment once it is free (R114). -/
def State.readySegment (s : State) (r : StepRec) (seg : Nat) : State :=
  match s.steps.reserve with
  | some x => if (x.step == r.id && x.segment == seg) || !s.reserveFree then s else s.openReserve r seg
  | none => s.openReserve r seg

/-! ### The seal tree (R348) -/

/-- Hops between two positions of a line of `n`. -/
def lineHops (wrap : Bool) (n p c : Nat) : Nat :=
  if wrap then min ((c + n - p) % n) ((p + n - c) % n) else max p c - min p c

/-- The next position from `p` toward `c` (R283). -/
def lineStep (wrap : Bool) (n p c : Nat) : Nat :=
  if p = c then p
  else if wrap then (if (c + n - p) % n ≤ n - (c + n - p) % n then (p + 1) % n else (p + n - 1) % n)
  else if p < c then p + 1 else p - 1

/-- A position of a line lies on the way of another to `c`; the count bounds the recursion. -/
def onTheWay (wrap : Bool) (n m c : Nat) : Nat → Nat → Bool
  | 0, p => p == m
  | k + 1, p => p == m || (p != c && onTheWay wrap n m c k (lineStep wrap n p c))

/-- Positions of a chip on the four axes. -/
def State.positions (s : State) (chip : Nat) : List Nat := (List.range 4).map (s.position chip)

/-- The lowest axis on which two chips differ. -/
def firstDiffer (p c : List Nat) : Option Nat := firstBelow 4 fun a => nth 0 p a != nth 0 c a

/-- The parent of positions `p` in the tree of the coordinator at `c`; the coordinator has none. -/
def State.parentOf (s : State) (p c : List Nat) : Option (List Nat) :=
  (firstDiffer p c).map fun a => setNth p a (lineStep (s.axis a).wrap (s.axis a).length (nth 0 p a) (nth 0 c a))

/-- The chip at listed positions. -/
def State.chipOf (s : State) (p : List Nat) : Nat := s.chipAt fun a => nth 0 p a

/-- Own positions and those of the coordinator. -/
def State.here (s : State) : List Nat := s.positions s.chip
/-- Positions of the seal coordinator. -/
def State.coordinatorAt (s : State) : List Nat := s.positions s.fabric.partition.coordinator

/-- This module is the seal coordinator of a partition. -/
def State.isCoordinator (s : State) : Bool := s.fabric.partition.tag != 0 && s.fabric.partition.coordinator == s.chip

/-- The parent chip. -/
def State.parentChip (s : State) : Option Nat := (s.parentOf s.here s.coordinatorAt).map s.chipOf

/-- Neighbours of this module inside the partition, by direction. -/
def State.neighbour (s : State) (d : Nat) : Option (List Nat) :=
  let a := d / 2
  let n := (s.axis a).length
  let p := nth 0 s.here a
  if n ≤ 1 then none
  else if d % 2 = 0 then
    (if p + 1 < n then some (setNth s.here a (p + 1)) else if (s.axis a).wrap then some (setNth s.here a 0) else none)
  else (if 0 < p then some (setNth s.here a (p - 1)) else if (s.axis a).wrap then some (setNth s.here a (n - 1)) else none)

/-- The children in the seal tree, rising. -/
def State.childChips (s : State) : List Nat :=
  if s.fabric.partition.tag = 0 then []
  else
    let cs := (List.range 8).filterMap fun d => (s.neighbour d).bind fun p =>
      if s.parentOf p s.coordinatorAt = some s.here then some (s.chipOf p) else none
    (cs.foldl (fun t c => tabSet false t c true) []).map (·.1)

/-- Height of this module in the seal tree. -/
def State.height (s : State) : Nat :=
  let c := s.coordinatorAt
  let k := (firstDiffer s.here c).getD 4
  let ecc (a : Nat) : Nat :=
    ((List.range (s.axis a).length).map fun p => lineHops (s.axis a).wrap (s.axis a).length p (nth 0 c a)).foldl max 0
  let below := ((List.range k).map ecc).sum
  if k = 4 then below
  else
    let a := s.axis k
    let m := nth 0 s.here k
    let mc := lineHops a.wrap a.length m (nth 0 c k)
    below + (((List.range a.length).filter fun p => onTheWay a.wrap a.length m (nth 0 c k) a.length p).map
      fun p => lineHops a.wrap a.length p (nth 0 c k) - mc).foldl max 0

/-! ### Verdicts (R346, R347, R349) -/

/-- Some item of a step is in progress or waits to run again. -/
def State.itemsOf (s : State) (step : Nat) : Bool :=
  s.cores.any fun e =>
    (match e.2.item with | some it => it.verdict && it.step == some step | none => false) ||
      e.2.restarts.any (fun it => it.verdict && it.step == some step)

/-- Every compute die is clamped (R25). -/
def State.noCompute (s : State) : Bool := (List.range 24).all s.dieClamped

/-- The local verdict of a step, once it is known (R346, R347). -/
def State.localVerdict (s : State) (r : StepRec) : Option Nat :=
  if s.noCompute then some 0
  else if !r.reasons.isEmpty then some (r.reasons.foldl min 255)
  else if r.phase = 7 ∧ !s.itemsOf r.id ∧ !s.fabricBusy r.id ∧ !s.checksPending r.id ∧
      (s.steps.depth ≠ 2 ∨ s.steps.opened.head?.map (·.id) = some r.id) then some 0
  else none

/-- A local verdict that has become known is sent to the seal logic; SQ_STATUS and the trace show it (R347, R365). -/
def State.sendLocal (s : State) (r : StepRec) : State :=
  if r.own.isSome then s
  else
    match s.localVerdict r with
    | none => s
    | some v =>
      let s := s.setStep { r with own := some v }
      let s := { s with square := { s.square with reason := BitVec.ofNat 8 v, sent := true, sentFail := decide (v ≠ 0) } }
      s.trace benchRing 0x0033 v r.id

/-- Payload of a VERDICT cell (R350). -/
def State.verdictPayload (s : State) (r : StepRec) (members : Nat) (fail : Bool) (reason chip : Nat) : List Byte :=
  le 8 (r.id % 2 ^ 48) ++ le 4 s.fabric.partition.generation ++ le 4 members ++ le 1 (if fail then 1 else 0) ++ le 1 reason ++
    le 1 r.attempt ++ zeros 1 ++ le 4 (chip % 2 ^ 17) ++ le 8 s.ft.toNat

/-- Payload of a SEAL or RECALL cell (R351). -/
def Outcome.payload (o : Outcome) (copy : Nat) : List Byte :=
  le 8 (o.step % 2 ^ 48) ++ le 4 o.generation ++ le 4 o.members ++ le 1 copy ++ le 1 (if o.halt then 1 else 0) ++
    le 1 o.reason ++ le 1 o.attempt ++ le 4 (o.chip % 2 ^ 17) ++ le 8 (if o.isRecall then o.replayFt.toNat else 0)

/-- Send a copy of an outcome to the children (R348, R351). -/
def State.sendOutcome (s : State) (o : Outcome) (copy : Nat) : State :=
  let s := { s with steps := { s.steps with forwarded := s.steps.forwarded ++ [(o.step, o.attempt, o.isRecall, copy)] } }
  s.childChips.foldl (fun t c =>
    t.inject (t.cellTo c (if o.isRecall then 5 else 4) 3 0 0 (o.payload copy) [])) s

/-! ### SEAL (R352, R374, R358) -/

/-- SEAL of a step: its Veneer becomes the sealed one; a digest starts; what was kept for its replay is released
(R352, R358, R374, R377, R380, R438). -/
def State.sealStep (s : State) (r : StepRec) : State :=
  let interval := s.rf .sqDigestCtrl 0 16
  let st := s.steps
  let s := { s with
    steps := { st with
      opened := st.opened.filter (·.id ≠ r.id), sealedLetter := r.writes, sealedStep := r.id, sealedSince := true,
      sealedParams := (tabFind st.params r.id).map (fun b => (r.id, b)),
      params := st.params.filter (fun e => decide (r.id < e.1)),
      attempts := st.attempts.filter (fun e => decide (r.id < e.1)), early := st.early.filter (fun e => decide (r.id < e.step)) },
    digests := if interval ≠ 0 ∧ r.id % interval = 0 then { s.digests with running := some (r.id, r.writes, false) }
      else s.digests,
    twin := if s.twin.role = 1 ∧ s.twin.newPairing then { s.twin with mirrorValid := true, newPairing := false } else s.twin }
  s.emit (event 0x0008 .step .ok (le 8 r.id ++ le 1 r.attempt ++ le 1 r.writes))

/-! ### RECALL and HALT (R356, R357, R381) -/

/-- Items of the named steps end RECALLED, those that wait to run again too (R356, order 3). -/
def State.recallItems (s : State) (p : Nat → Bool) : State :=
  s.cores.foldl (fun t e =>
    let c := e.1
    let hit (it : Item) : Bool := it.verdict && (match it.step with | some n => p n | none => false)
    let x := t.core c
    let t := t.setCore c { x with restarts := x.restarts.filter fun it => !hit it }
    let t := (x.restarts.filter hit).foldl (fun u it => u.itemRecord c it .recalled) t
    match (t.core c).item with
    | some it => if hit it then t.abortItem c .recalled else t
    | none => t) s

/-- The marker record of order 8 in every enabled completion ring. -/
def State.markRecall (s : State) (step : Nat) : State :=
  (s.regs.filterMap fun e => match Reg.ofAddr e.1 with | some (.cringCtrl n) => some n | _ => none).foldl (fun t n =>
    if t.rbit (.cringCtrl n) 5 then t.record n 0x20000 (t.recordBytes .recalled 1 0 0 0 step 0 0 0 0 0) else t) s

/-- Orders 2 to 9 of R356 for every unsealed step from `n` on. A step that ended with STASH_EXHAUSTED is not replayed (R117),
and a module whose replay would read poison takes no part in it (R186): the module then holds until RESUME (DEDUCED,
assumption log 109). -/
def State.recallFrom (s : State) (n : Nat) (halt : Bool) (reason chip : Nat) (replayFt : Word) : State :=
  match s.steps.opened.find? (fun r => decide (n ≤ r.id)) with
  | none => s
  | some r =>
    let s := if s.rbit .trcCtrl 1 then s.freezeAllRings else s
    let p (k : Nat) : Bool := decide (n ≤ k)
    let s := s.recallItems p
    let s := (s.endStreams p .recalled).dropComparisons p
    let gone := s.steps.opened.filter fun x => decide (n ≤ x.id)
    let held := gone.any fun x => x.exhausted.isSome || x.reasons.contains 9
    let s := { s with
      steps := { s.steps with
        opened := s.steps.opened.filter (fun x => decide (x.id < n)), inlayUsed := [], spillUsed := 0,
        attempts := gone.foldl (fun (t : List (Nat × Nat)) (x : StepRec) => tabPut t x.id (x.attempt + 1)) s.steps.attempts,
        reserve := none,
        replays := if halt || held then [] else s.steps.replays ++ gone.map (fun (x : StepRec) => (x.id, x.attempt + 1, replayFt)),
        halted := s.steps.halted || halt || held, overdue := s.steps.overdue.filter fun k => decide (k < n) },
      fabric := { s.fabric with counters := [] } }
    let s := (s.rewindQueues.restoreRings r.rings).markRecall n
    let s := s.emit (event 0x0009 .step .recalled (le 8 n ++ le 1 r.attempt ++ le 1 reason ++ le 1 (if halt then 1 else 0) ++
      zeros 1 ++ le 4 chip ++ le 8 replayFt.toNat))
    if halt then s.fault 0x0015 .module .recalled n reason else s

/-- HALT by command or by a watching unit: orders 1 to 8 for every unsealed step, then the module holds (R381). -/
def State.haltSteps (s : State) : State :=
  let n := match s.steps.opened.head? with | some r => r.id | none => s.steps.sealedStep
  let s := { s with steps := { s.steps with replays := [] } }
  match s.steps.opened.head? with
  | some r => s.recallFrom r.id true 0 s.chip 0
  | none =>
    ({ s with steps := { s.steps with halted := true } }).fault 0x0015 .module .recalled n 0

/-! ### Outcomes (R347, R351, R354) -/

/-- A RECALL of a step that is not open here: its next run is one attempt later, and a replay that waits takes the new replay FT
(R347, R356; DEDUCED, assumption log 133). -/
def State.recallUnopened (s : State) (o : Outcome) : State :=
  let replays := s.steps.replays.map fun x => if o.step ≤ x.1 then (x.1, x.2.1 + 1, o.replayFt) else x
  { s with steps := { s.steps with
      attempts := tabPut s.steps.attempts o.step (o.attempt + 1), replays := if o.halt then [] else replays,
      halted := s.steps.halted || o.halt } }

/-- An outcome takes effect on its first copy (R351, R352, R356). What was overdue of its step is so no longer (R354). -/
def State.act (s : State) (o : Outcome) : State :=
  let s := { s with steps := { s.steps with latest := some o, overdue := s.steps.overdue.filter (· ≠ o.step) } }
  let s := s.trace benchRing 0x0033 (o.reason + 0x8000) o.step
  match s.step? o.step with
  | some r => if o.isRecall then s.recallFrom o.step o.halt o.reason o.chip o.replayFt else s.sealStep r
  | none => if o.isRecall then s.recallUnopened o else s

/-- A step that has neither opened nor been sealed here. -/
def State.stepAhead (s : State) (n : Nat) : Bool := s.steps.sealedLetter == 3 || decide (s.steps.sealedStep < n)

/-- An outcome of which another copy has come in here already, or that this module has decided (R351). -/
def State.outcomeKnown (s : State) (o : Outcome) : Bool :=
  s.steps.forwarded.any fun f => f.1 == o.step && f.2.1 == o.attempt && f.2.2.1 == o.isRecall

/-- The attempt that a step has or will open with (R347). -/
def State.attemptNow (s : State) (n : Nat) : Option Nat :=
  match s.step? n with
  | some r => some r.attempt
  | none => if s.stepAhead n then some ((tabFind s.steps.attempts n).getD 0) else none

/-- A copy of an outcome arrives (R347, R351): forwarded once by its number, acted on if it is the first, whether or not the step
is open here; of another attempt or generation, discarded and counted. -/
def State.takeOutcome (s : State) (o : Outcome) (copy : Nat) : State :=
  let drop : State := { s with fabric := { s.fabric with sealDiscards := s.fabric.sealDiscards + 1 } }
  if o.generation ≠ s.fabric.partition.generation then drop
  else if s.steps.forwarded.contains (o.step, o.attempt, o.isRecall, copy) then s
  else if s.outcomeKnown o then s.sendOutcome o copy
  else if s.attemptNow o.step = some o.attempt then (s.sendOutcome o copy).act o
  else drop

/-- The seal coordinator decides (R351, R357): copy 0 goes out, the others follow. -/
def State.decideOutcome (s : State) (r : StepRec) (members : Nat) (fail : Bool) (reason chip : Nat) : State :=
  let o : Outcome :=
    { step := r.id, generation := s.fabric.partition.generation, members := members, isRecall := fail,
      halt := fail && (decide (s.rf .sqSealCtrl 32 8 ≤ r.attempt) || reason == 9), reason := reason, attempt := r.attempt,
      chip := if fail then chip else 0,
      replayFt := if fail then s.ft + word (ticksUs (s.rf .sqSealCtrl 16 16)) else 0 }
  let s := s.sendOutcome o 0
  ({ s with steps := { s.steps with copies := s.steps.copies ++ [(o, 1, s.now)] } }).act o

/-- The combined verdict goes to the parent, or decides the outcome at the coordinator (R349, R351). -/
def State.sendCombined (s : State) (r : StepRec) (fail : Bool) (reason chip : Nat) : State :=
  let members := (r.children.map fun c => c.2.1).sum + 1
  let s := s.setStep { r with combinedSent := true, verdictSent := some (if fail then reason else 0) }
  if s.isCoordinator then s.decideOutcome r members fail reason chip
  else
    match s.parentChip with
    | some p => s.inject (s.cellTo p 3 3 0 0 (s.verdictPayload r members fail reason chip) [])
    | none => s

/-- Failures the seal logic has seen for a step: chip and reason. -/
def State.failuresSeen (s : State) (r : StepRec) : List (Nat × Nat) :=
  (match r.own with | some v => if v = 0 then [] else [(s.chip, v)] | none => []) ++
    (r.children.filter fun c => c.2.2.1).map fun c => (c.2.2.2.2, c.2.2.2.1)

/-- The failure with the lowest chip ID. -/
def lowestChip : List (Nat × Nat) → Option (Nat × Nat)
  | [] => none
  | x :: r => match lowestChip r with | some y => some (if x.1 ≤ y.1 then x else y) | none => some x

/-- Children whose verdict has not come. -/
def State.missingAmong (s : State) (heard : List Nat) : List Nat := s.childChips.filter fun c => !heard.contains c

/-- Children of whose verdict a step waits. -/
def State.missingChildren (s : State) (r : StepRec) : List Nat := s.missingAmong (r.children.map (·.1))

/-- The seal logic looks at a step (R349). -/
def State.combine (s : State) (r : StepRec) : State :=
  if r.combinedSent ∨ s.fabric.partition.tag = 0 then s
  else
    match lowestChip (s.failuresSeen r) with
    | some (chip, reason) => s.sendCombined r true reason chip
    | none =>
      if r.own = some 0 ∧ (s.missingChildren r).isEmpty then
        (if s.isCoordinator ∧ (r.children.map fun c => c.2.1).sum + 1 ≠ s.fabric.partition.members then s
         else s.sendCombined r false 0 0)
      else s

/-- Verdicts of all steps, oldest first. -/
def State.verdicts (s : State) : State :=
  s.steps.opened.foldl (fun t r =>
    match t.step? r.id with
    | some x =>
      let t := t.sendLocal x
      match t.step? r.id with | some y => t.combine y | none => t
    | none => t) s

/-- The child that a VERDICT cell came from, of those still missing: the neighbour in the direction it came from; a cell
that took a detour counts for the lowest child still missing (DEDUCED, assumption log 19). -/
def State.verdictFrom (s : State) (missing : List Nat) (dir : Option Nat) : Option Nat :=
  match (dir.bind s.neighbour).map s.chipOf with
  | some c => if missing.contains c then some c else missing.head?
  | none => missing.head?

/-- What a VERDICT says for a child (R350). -/
def verdictEntry (c : Nat) (p : List Byte) : Nat × Nat × Bool × Nat × Nat :=
  (c, uAt p 0x0C 4, uAt p 0x10 1 == 1, uAt p 0x11 1, uAt p 0x14 4 % 2 ^ 17)

/-- A VERDICT for a step that has not opened here yet, in the attempt it will open with, is kept until it does (R347, R349;
DEDUCED, assumption log 53). -/
def State.takeEarly (s : State) (dir : Option Nat) (p : List Byte) : State :=
  let n := uAt p 0 6
  let a := (tabFind s.steps.attempts n).getD 0
  let heard := (s.steps.early.filter fun e => e.step == n && e.attempt == a).map (·.entry.1)
  let drop : State := { s with fabric := { s.fabric with sealDiscards := s.fabric.sealDiscards + 1 } }
  if !s.stepAhead n ∨ uAt p 0x12 1 ≠ a then drop
  else
    match s.verdictFrom (s.missingAmong heard) dir with
    | none => drop
    | some c => { s with steps := { s.steps with early := s.steps.early ++ [{ step := n, attempt := a, entry := verdictEntry c p }] } }

/-- A VERDICT arrives (R347, R349, R350). -/
def State.takeVerdict (s : State) (dir : Option Nat) (p : List Byte) : State :=
  let drop : State := { s with fabric := { s.fabric with sealDiscards := s.fabric.sealDiscards + 1 } }
  if uAt p 0x08 4 ≠ s.fabric.partition.generation then drop
  else
    match s.step? (uAt p 0 6) with
    | none => s.takeEarly dir p
    | some r =>
      if uAt p 0x12 1 ≠ r.attempt then drop
      else
        match s.verdictFrom (s.missingChildren r) dir with
        | none => drop
        | some c => s.setStep { r with children := r.children ++ [verdictEntry c p] }

/-- An outcome cell as its payload says it. -/
def outcomeOf (isRecall : Bool) (p : List Byte) : Outcome × Nat :=
  ({ step := uAt p 0 6, generation := uAt p 0x08 4, members := uAt p 0x0C 4, isRecall := isRecall,
     halt := uAt p 0x11 1 % 2 == 1, reason := uAt p 0x12 1, attempt := uAt p 0x13 1, chip := uAt p 0x14 4 % 2 ^ 17,
     replayFt := word (uAt p 0x18 8) }, uAt p 0x10 1)

/-- CHECK_CLOSE closes CHECK of a step: a module not ready fails it with LATE (R347). -/
def State.closeCheck (s : State) (r : StepRec) : State :=
  let s := s.setStep { r with closed := some s.ft }
  if r.own.isSome ∨ (s.localVerdict r).isSome then s else s.failStep (some r.id) 7

/-- The deadline of R349 for a step, in FT. -/
def State.sealDeadlineAt (s : State) (tc : Word) : Word := tc + word (s.height * s.rf .sqSealCtrl 0 16 * 125)

/-- SEAL_DEADLINE: verdicts not all in by Tc + h × HOP make the seal logic send FAIL with MISSING (R349). The coordinator decides
at its own deadline even where every child has been heard and the members covered are too few: it then names itself (R351;
DESIGN CHOICE for the chip, assumption log 134). -/
def State.sealDeadline (s : State) (step : Nat) : State :=
  match s.step? step with
  | some r =>
    match r.closed with
    | some tc =>
      if r.combinedSent ∨ s.ft.toNat < (s.sealDeadlineAt tc).toNat ∨ s.fabric.partition.tag = 0 then s
      else
        match s.missingChildren r with
        | c :: _ => s.sendCombined r true 8 c
        | [] => if s.isCoordinator then s.sendCombined r true 8 s.chip else s
    | none => s
  | none => s

/-- SEAL_COPY_RESEND: copies 1 and 2 of each outcome decided here, 1 µs apart (R351). -/
def State.resendCopy (s : State) : State :=
  let due := s.steps.copies.filter fun x => decide (x.2.2 + ticksUs 1 ≤ s.now)
  let left := s.steps.copies.filterMap fun x =>
    if s.now < x.2.2 + ticksUs 1 then some x else if x.2.1 = 1 then some (x.1, 2, s.now) else none
  let s := due.foldl (fun t x => t.sendOutcome x.1 x.2.1) s
  { s with steps := { s.steps with copies := left } }

/-- OUTCOME_OVERDUE: no outcome by Tc + OUTCOME_MS is reported, once for each step (R354). -/
def State.outcomeOverdue (s : State) (step : Nat) : State :=
  match s.step? step with
  | some r =>
    match r.closed with
    | some tc =>
      if s.ft.toNat < tc.toNat + ticksMs (s.rf .sqSealCtrl 40 16) ∨ s.steps.overdue.contains step then s
      else ({ s with steps := { s.steps with overdue := s.steps.overdue ++ [step] } }).fault 0x0013 .module .deadline step r.attempt
    | none => s
  | none => s

/-! ### Replays (R130, R356) -/

/-- LOAD may open: every open step has ended UPDATE, no EVAL slot is open, the module does not hold, the Bench is neither
fenced nor in reset (R465), and the retention depth permits it (R259, R375). -/
def State.mayOpen (s : State) (m : Nat) : Bool :=
  s.steps.opened.all (fun r => r.phase == 7) && s.steps.evalSlot.isNone && !s.steps.halted && !s.steps.restoreFailed && s.benchUp &&
    (let d := s.depth
     (s.steps.sealedLetter != 3 && decide (m ≤ s.steps.sealedStep + d)) ||
       !(s.steps.opened.any fun r => decide (m ≤ r.id + d ∧ r.id < m))) &&
    (match s.ckpt.frozen with | some (v, _) => successor s.depth s.nextReads != v | none => true)

/-- REPLAY_OPEN: at the later of the replay FT and the end of the recall; a late start is reported (R356). -/
def State.replayOpen (s : State) : State :=
  match s.steps.replays with
  | (m, a, ft) :: rest =>
    if s.ft.toNat < ft.toNat ∨ !s.mayOpen m then s
    else
      let late := s.ft.toNat - ft.toNat
      let s := { s with steps := { s.steps with replays := rest } }
      let s := if 0 < late ∧ s.steps.opened.isEmpty then s.fault 0x0014 .module .deadline m (late / 1250) else s
      s.openLoad m a
  | [] => s

/-- At depth 2 the replay of the step after a replayed one opens when UPDATE of that one ends (R356). -/
def State.secondReplay (s : State) : State :=
  match s.steps.replays with
  | (m, a, _) :: rest =>
    if (s.steps.opened.any fun r => r.id + 1 == m && r.phase == 7) && s.mayOpen m then
      ({ s with steps := { s.steps with replays := rest } }).openLoad m a
    else s
  | [] => s

/-! ### Weight digests (R358 to R361) -/

/-- The digest of an array (R358): leaves of 1 MiB chunks, then the root. -/
def arrayDigest (step : Nat) (bs : List Byte) : List Byte :=
  let leaves := (List.range ((bs.length + 2 ^ 20 - 1) / 2 ^ 20)).flatMap fun i =>
    exactly 32 (Config.shake256 (slice bs (i * 2 ^ 20) (2 ^ 20)) 32)
  exactly 32 (Config.shake256 (le 8 step ++ le 8 bs.length ++ leaves) 32)

/-- The digest of an array of memory once it has been read and checked; poison makes it invalid (R185, R358). -/
def State.digestOf (s : State) (step : Nat) (x : Nat × Nat) : List Byte := arrayDigest step (s.bytesAt x.1 x.2)
/-- An array holds no poisoned granule. -/
def State.arrayClean (s : State) (x : Nat × Nat) : Bool := (s.firstPoison x.1 x.2).isNone

/-- A digest record (R360). -/
def State.digestRecord (s : State) (step array : Nat) (valid : Bool) (dg : List Byte) : List Byte :=
  le 8 (step % 2 ^ 48) ++ le 4 s.fabric.partition.generation ++ le 4 s.chip ++ le 1 array ++ le 1 (if valid then 1 else 0) ++
    zeros 6 ++ exactly 32 dg ++ zeros 8

/-- Send a digest record on a reserved context (R360). -/
def State.sendDigest (s : State) (context dest : Nat) (rec : List Byte) : State :=
  s.startTx context
    { destChip := dest, address := Config.digestInbox context, source := 0, length := 64, step := s.digests.step,
      attempt := 0, acked := 0, sent := 0, retries := 0, progressAt := s.now, queue := none, cring := 0, rxCring := 0,
      tag := 0, transfer := false, digest := true, coll := none, twinCopy := false, issue := 0, via := none,
      content := some (rec, []) }

/-- Chip of a member of the replica group. -/
def State.groupChip (s : State) (i : Nat) : Nat := s.rf (.sqDigestGroup i) 0 17
/-- Members of the replica group. -/
def State.groupSize (s : State) : Nat := s.rf .sqDigestCtrl 19 4
/-- Own index in the replica group. -/
def State.groupSelf (s : State) : Nat := s.rf .sqDigestCtrl 16 3

/-- Send the own-array record to the first group member from index `i` on (R360): the members in turn, on the one
context of this module. -/
def State.digestToGroup (s : State) (i : Nat) : State :=
  match (upFrom i (s.groupSize - i)).find? (· ≠ s.groupSelf) with
  | some j => s.sendDigest (16368 + s.groupSelf) (s.groupChip j)
      (s.digestRecord s.digests.step 0 s.digests.ownValid s.digests.ownDigest)
  | none => s

/-- A digest stream has ended: the next group member follows. -/
def State.digestNext (s : State) (context dest : Nat) : State :=
  if context = 16368 + s.groupSelf then
    match (List.range s.groupSize).find? (fun i => s.groupChip i == dest && i != s.groupSelf) with
    | some i => s.digestToGroup (i + 1)
    | none => s
  else s

/-- Own and mirror digest of a step's Veneer, as read now (R358). -/
def Digests.ended (g : Digests) (s : State) (n v : Nat) (invalid : Bool) : Digests :=
  let own := s.arrayClean (s.ownMaster v) && !invalid
  let mirror := s.arrayClean (s.mirrorMaster v) && !invalid
  { g with running := none, ownDigest := s.digestOf n (s.ownMaster v), mirrorDigest := s.digestOf n (s.mirrorMaster v),
           ownValid := own, mirrorValid := mirror, endedAt := some s.now, step := n, valid := own && mirror,
           mismatch := false, selfOdd := false, noMajority := false, missing := false }

/-- Send the records of the latest digest to the group and the twin (R360). -/
def State.sendDigests (s : State) : State :=
  let s := s.digestToGroup 0
  if s.twin.role = 1 then
    s.sendDigest 16376 s.twin.peer (s.digestRecord s.digests.step 1 s.digests.mirrorValid s.digests.mirrorDigest)
  else s

/-- The digest engine reads an array; the address of its first poisoned granule is reported (R185; as the fault that names an
address of poison, DESIGN CHOICE, assumption log 135). -/
def State.digestRead (s : State) (x : Nat × Nat) : State :=
  let s := s.fetch .carcass x.1 x.2
  match s.firstPoison x.1 x.2 with
  | some g => s.fault 0x0009 .module .poison g (s.mediumOf g)
  | none => s

/-- WEIGHT_DIGEST_END (R358, R360): the digests of the arrays are known and their records go out. -/
def State.weightDigestEnd (s : State) : State :=
  match s.digests.running with
  | some (n, v, invalid) =>
    let s := s.digestRead (s.ownMaster v)
    let s := s.digestRead (s.mirrorMaster v)
    { s with digests := s.digests.ended s n v invalid }.sendDigests
  | none => s

/-- A digest record of 64 bytes (R360). -/
def parseDigest (bs : List Byte) : DigestRecord :=
  { chip := uAt bs 0x0C 4 % 2 ^ 17, array := uAt bs 0x10 1, valid := uAt bs 0x11 1 % 2 == 1, generation := uAt bs 0x08 4,
    step := uAt bs 0 6, digest := slice bs 0x18 32 }

/-- A digest record has come in on a reserved context (R360). -/
def State.takeDigest (s : State) (bs : List Byte) : State :=
  let r := parseDigest bs
  { s with digests := { s.digests with
      received := (s.digests.received.filter fun x => !(x.chip == r.chip && x.array == r.array)) ++ [r] } }

/-- The record of a chip and array for the latest digest, in this generation. -/
def State.peerDigest (s : State) (chip array : Nat) : Option DigestRecord :=
  s.digests.received.find? fun r => r.chip == chip && r.array == array && r.step == s.digests.step &&
    r.generation == s.fabric.partition.generation

/-- Own digests of the group by member: none missing, else whether valid and the value. -/
def State.groupDigests (s : State) : List (Nat × Option (Bool × List Byte)) :=
  (List.range s.groupSize).map fun i =>
    if i = s.groupSelf then (s.chip, some (s.digests.ownValid, s.digests.ownDigest))
    else (s.groupChip i, (s.peerDigest (s.groupChip i) 0).map fun r => (r.valid, r.digest))

/-- Values that more than half the group holds. -/
def majorityDigest (size : Nat) (vs : List (List Byte)) : Option (List Byte) :=
  vs.find? fun v => decide (size < 2 * (vs.filter (· == v)).length)

/-- All expected records are in. -/
def State.digestsIn (s : State) : Bool :=
  s.groupDigests.all (fun x => x.2.isSome) && (s.twin.role != 1 || (s.peerDigest s.twin.peer 1).isSome)

/-- Report one comparison (R361, R446). -/
def State.digestMismatch (s : State) (array : Nat) (named : List Nat) (noMajority missing invalid : Bool) : State :=
  let self := named.contains s.chip
  let s := { s with digests := { s.digests with
    selfOdd := s.digests.selfOdd || self, noMajority := s.digests.noMajority || noMajority,
    missing := s.digests.missing || missing } }
  if named.isEmpty then s
  else s.emit (event 0x0005 .fault .ok (le 8 s.digests.step ++ le 1 array ++
    le 1 (placeB self 0 + placeB noMajority 1 + placeB missing 2 + placeB invalid 3) ++ le 1 (min 8 named.length) ++ zeros 5 ++
    (List.range 8).flatMap fun i => le 4 (nth 0 named i)))

/-- DIGEST_COMPARE (R361). -/
def State.digestCompare (s : State) : State :=
  match s.digests.endedAt with
  | some at_ =>
    if !s.digestsIn ∧ s.now < at_ + ticksMs (s.rf .sqDigestCtrl 24 16) then s
    else
      let g := s.groupDigests
      let size := s.groupSize
      let vs := g.filterMap fun x => match x.2 with | some (true, v) => some v | _ => none
      let differ := match vs with | [] => false | v :: r => r.any (· ≠ v)
      let maj := majorityDigest size vs
      let odd := if !differ then [] else g.filterMap fun x =>
        match x.2, maj with
        | some (true, v), some m => if v = m then none else some x.1
        | some (true, _), none => some x.1
        | _, _ => none
      let gone := g.filterMap fun x => match x.2 with | none => some x.1 | some (ok, _) => if ok then none else some x.1
      let noMaj := differ && maj.isNone
      let named := if noMaj then g.map (·.1) else odd ++ gone
      let s := { s with digests := { s.digests with endedAt := none, mismatch := differ } }
      let s := s.digestMismatch 0 (if 1 < size then named else gone) noMaj (g.any fun x => x.2.isNone)
        (g.any fun x => match x.2 with | some (ok, _) => !ok | none => false)
      if s.twin.role ≠ 1 then s
      else
        match s.peerDigest s.twin.peer 1 with
        | none => s.digestMismatch 1 [s.twin.peer] false true false
        | some r =>
          if !r.valid then s.digestMismatch 1 [s.twin.peer] false false true
          else if r.digest = s.digests.ownDigest ∨ !s.digests.ownValid then s
          else
            let s := { s with digests := { s.digests with mismatch := true } }
            if 3 ≤ size ∧ maj = some s.digests.ownDigest then s.digestMismatch 1 [s.twin.peer] false false false
            else s.digestMismatch 1 [s.chip, s.twin.peer] false false false
  | none => s

end Sys2Proof.Machine
end

