-- ==== Sys2Proof/Machine/Retention.lean ====
section
/-! DEFINITION. The twin (R378 to R385), glue-up images (R386 to R394) and restores (R395 to R399). -/

namespace Sys2Proof.Machine

/-! ### The twin transfer (R383) -/

/-- A transfer, an image write or a restore runs (R385, R395). -/
def State.retentionBusy (s : State) : Bool :=
  s.twin.transfer.isSome || s.ckpt.writing.isSome || s.ckpt.restore.isSome

/-- ROLE of a module that neither receives nor has adopted (R378, R409). -/
def State.plainRole (s : State) : Nat :=
  if s.fabric.partition.tag ≠ 0 ∧ s.fabric.partition.twin ≠ s.chip then 1 else 0

/-- Bytes of stripe `i` of `k` of an array: offset and length, cut at pages (assumption log 23). -/
def stripe (bytes k i : Nat) : Nat × Nat :=
  let c := roundUp ((bytes + k - 1) / k) 4096
  (min bytes (i * c), min bytes ((i + 1) * c) - min bytes (i * c))

/-- A transmit half of a twin transfer. -/
def State.transferTx (s : State) (x : TwinTransfer) (source address length : Nat) (digest : Bool)
    (content : Option (List Byte × List Nat)) : StreamTx :=
  { destChip := x.peer, address := address, source := source, length := length, step := x.step, attempt := 0, acked := 0,
    sent := 0, retries := 0, progressAt := s.now, queue := none, cring := 0, rxCring := 0, tag := 0, transfer := true,
    digest := digest, coll := none, twinCopy := false, issue := 0, via := none, content := content }

/-- Start the streams of TWIN_SEND: stripes of the mirror Veneer, which becomes the spare's own, then stripes of the
own Veneer, which becomes its mirror. The receiver's addresses are those of this module's map (DESIGN CHOICE,
assumption log 23). -/
def State.startTransfer (s : State) (x : TwinTransfer) : State :=
  let part (src dst : Nat × Nat) (first : Nat) (t : State) : State :=
    (List.range x.stripes).foldl (fun u i =>
      let res := stripe src.2 x.stripes i
      let o := res.1
      let n := res.2
      u.startTx (x.baseStream + first + i) (u.transferTx x (src.1 + o) (dst.1 + o) n false none)) t
  part (s.ownVeneer x.letter) (s.mirrorVeneer x.letter) x.stripes
    (part (s.mirrorVeneer x.letter) (s.ownVeneer x.letter) 0 s)

/-- The digest records follow on the first context of each array, once its stripe has ended (R383; assumption log 23). -/
def State.transferNext (s : State) (n : Nat) (t : StreamTx) : State :=
  match s.twin.transfer with
  | some x =>
    if t.digest ∨ !x.sending then s
    else if n = x.baseStream then
      s.startTx n (s.transferTx x 0 (Config.digestInbox n) 64 true (some (s.digestRecord x.step 0
        (s.arrayClean (s.mirrorMaster x.letter)) (s.digestOf x.step (s.mirrorMaster x.letter)), [])))
    else if n = x.baseStream + x.stripes then
      s.startTx n (s.transferTx x 0 (Config.digestInbox n) 64 true (some (s.digestRecord x.step 1
        (s.arrayClean (s.ownMaster x.letter)) (s.digestOf x.step (s.ownMaster x.letter)), [])))
    else s
  | none => s

/-- End a twin transfer: TWIN_XFER closes its command (R383, R446). -/
def State.endTransfer (s : State) (x : TwinTransfer) (st : Status) : State :=
  let s := { s with twin := { s.twin with transfer := none } }
  let s := if x.sending ∨ s.twin.role ≠ 3 then s
    else { s with twin := { s.twin with role := s.plainRole, peer := if s.plainRole = 1 then s.fabric.partition.twin else 0 } }
  s.closeWith x.cmd 0x000E .retention st (le 8 x.step ++ le 4 x.peer ++ le 1 x.letter ++ le 1 (if x.sending then 0 else 1))

/-- A transfer fails: its streams stop, nothing activates (R383, R385). -/
def State.failTransfer (s : State) (st : Status) : State :=
  match s.twin.transfer with
  | some x =>
    let s := (upFrom x.baseStream (2 * x.stripes)).foldl (fun t n =>
      if x.sending then t.setTx n none else t.setRx n none) s
    s.endTransfer x st
  | none => s

/-- A stream of a transfer has ended at its sender. -/
def State.transferTxEnd (s : State) (n : Nat) (t : StreamTx) (st : Status) : State :=
  if st = .ok then s.transferNext n t else s.failTransfer st

/-- Context numbers of a transfer. -/
def TwinTransfer.contexts (x : TwinTransfer) : List Nat := upFrom x.baseStream (2 * x.stripes)

/-- Every stream of the transfer has completed at this module; the records came last on their contexts. -/
def State.transferDone (s : State) (x : TwinTransfer) : Bool :=
  if x.sending then x.contexts.all fun n => (s.context n).tx.isNone
  else x.contexts.all fun n =>
    match (s.context n).rx with
    | some r => r.completed && (!(n == x.baseStream || n == x.baseStream + x.stripes) || r.length == 64)
    | none => false

/-- TWIN_TRANSFER_END (R383): the sender is done; the spare starts its digests, or fails on poison. -/
def State.transferEnd (s : State) : State :=
  match s.twin.transfer with
  | some x =>
    if !s.transferDone x ∨ x.digesting then s
    else if x.sending then s.endTransfer x .ok
    else if x.contexts.any (fun n => match (s.context n).rx with | some r => r.poison | none => false) then
      s.failTransfer .poison
    else { s with twin := { s.twin with transfer := some { x with digesting := true } } }
  | none => s

/-- A digest record of a transfer has come in: it ends the streams of its context (R383). -/
def State.takeTransferRecord (s : State) (n : Nat) (r : StreamRx) : State :=
  match s.twin.transfer with
  | some x =>
    if !x.sending ∧ (n = x.baseStream ∨ n = x.baseStream + x.stripes) ∧ r.length = 64 then
      { s with twin := { s.twin with transfer := some { x with records := x.records ++ [parseDigest (s.bytesAt r.address 64)] } } }
    else s
  | none => s

/-- The digest of a received array equals the one of its record (R358, R383). -/
def State.recordMatches (s : State) (x : TwinTransfer) (array : Nat) (own : Nat × Nat) : Bool :=
  match x.records.find? (·.array == array) with
  | some r => r.valid && s.arrayClean own && r.digest == s.digestOf x.step own
  | none => false

/-- TWIN_DIGEST_END (R383): the received state becomes the sealed one, or nothing activates. The sender's mirror array, its array 0
here, is the spare's own, and the sender's own array the spare's mirror. -/
def State.transferDigested (s : State) : State :=
  match s.twin.transfer with
  | some x =>
    if x.sending ∨ !x.digesting then s
    else
      let s := (s.digestRead (s.ownMaster x.letter)).digestRead (s.mirrorMaster x.letter)
      if s.recordMatches x 0 (s.ownMaster x.letter) && s.recordMatches x 1 (s.mirrorMaster x.letter) then
        let s := { s with
          steps := { s.steps with sealedLetter := x.letter, sealedStep := x.step, sealedSince := false,
                                  sealedParams := none },
          twin := { s.twin with role := 1, peer := x.peer, mirrorValid := true, newPairing := false } }
        s.endTransfer x .ok
      else s.failTransfer .badTag
  | none => s

/-- Parameters of TWIN_SEND and TWIN_RECEIVE. -/
def transferOf (sending : Bool) (c : OpenCmd) : TwinTransfer :=
  { sending := sending, peer := uAt c.params 0 4, generation := uAt c.params 4 4, step := uAt c.params 8 8,
    letter := uAt c.params 0x10 1, stripes := uAt c.params 0x11 1, baseStream := uAt c.params 0x12 2, cmd := c.jseq,
    digesting := false, records := [] }

/-- What either side refuses by the parameters alone (R383, R441). -/
def State.transferBad (s : State) (x : TwinTransfer) : Bool :=
  decide (2 < x.letter) || decide (16384 < x.baseStream + 2 * x.stripes) || decide (2 ^ 17 ≤ x.peer) || decide (2 ^ 48 ≤ x.step) ||
    x.contexts.any s.digestContext

/-- TWIN_SEND (R383, R385, R398). -/
def doTwinSend (c : OpenCmd) (s : State) : Result :=
  let x := transferOf true c
  if s.transferBad x ∨ x.generation ≠ s.fabric.partition.generation then refuse s .badParam
  else if s.retentionBusy ∨ s.stepOpen ∨ x.contexts.any (fun n => (s.context n).busy) then refuse s .busy
  else if !s.twin.mirrorValid ∨ s.steps.restoreFailed ∨ x.step ≠ s.steps.sealedStep ∨ x.letter ≠ s.steps.sealedLetter then
    refuse s .badParam
  else ⟨.start .twinSend, { s with twin := { s.twin with transfer := some x } }, fun t => t.startTransfer x⟩

/-- TWIN_RECEIVE (R380, R383): arm as a receiving spare. -/
def doTwinReceive (c : OpenCmd) (s : State) : Result :=
  let x := transferOf false c
  if s.transferBad x then refuse s .badParam
  else if s.retentionBusy ∨ s.stepOpen ∨ x.contexts.any (fun n => (s.context n).busy) then refuse s .busy
  else
    let s := x.contexts.foldl (fun t n => t.setRx n none) s
    began { s with twin := { s.twin with transfer := some x, role := 3, mirrorValid := false, peer := x.peer,
                                         newPairing := false } } .twinReceive

/-- TWIN_ADOPT (R384, R385). -/
def doTwinAdopt (_ : OpenCmd) (s : State) : Result :=
  if s.stepOpen ∨ s.retentionBusy then refuse s .busy
  else if !s.twin.mirrorValid ∨ s.twin.role = 2 then refuse s .badParam
  else done { s with twin := { s.twin with role := 2, mirrorValid := false } } []

/-- An OPEN on the contexts of a transfer that names another step (R383): discarded and counted, and the transfer
ends. -/
def State.mixedOpen (s : State) (n step : Nat) : Bool :=
  match s.twin.transfer with
  | some x => !x.sending && s.transferContext n && x.step != step
  | none => false

/-! ### Sections of an image (R386) -/

/-- Key and value pairs as the model lays out the CONFIG and SEQUENCER sections (DESIGN CHOICE, assumption log 24). -/
def pairBytes (l : List (Nat × Nat)) : List Byte := l.flatMap fun e => le 8 e.1 ++ le 8 e.2

/-- Read pairs back; the count bounds the recursion. -/
def pairsOf : Nat → List Byte → List (Nat × Nat)
  | 0, _ => []
  | n + 1, bs => if bs.length < 16 then [] else (uAt bs 0 8, uAt bs 8 8) :: pairsOf n (bs.drop 16)

/-- A register whose RW and RWL fields the CONFIG section holds (R386). -/
def Reg.inImage (r : Reg) : Bool :=
  (match r with | .netChip | .portAdmit _ => false | _ => true) &&
    [0x07, 0x08, 0x09, 0x0B, 0x10, 0x12, 0x13, 0x14, 0x15].contains r.block

/-- Fields of a register that CONFIG holds: RW and RWL, NEXT_SLOT and pointers apart (R386). -/
def Reg.imageMask (r : Reg) : Word :=
  match r with
  | .ckptCtrl => r.writable &&& ~~~1
  | .wringPtr _ _ | .cringPtr _ | .netSqPtr _ => 0
  | _ => r.writable

/-- CONFIG: the listed registers that are not at reset. -/
def State.configSection (s : State) : List Byte :=
  pairBytes (s.regs.filterMap fun e =>
    match Reg.ofAddr e.1 with
    | some r => if r.inImage ∧ r.imageMask ≠ 0 then some (e.1, (e.2 &&& r.imageMask).toNat) else none
    | none => none)

/-- A timetable entry in 32 bytes (R256). -/
def TTEntry.bytes (e : TTEntry) : List Byte :=
  le 8 e.startFt.toNat ++ le 4 e.periodUs.toNat ++ le 4 e.windowUs.toNat ++ le 1 e.action.toNat ++ zeros 1 ++
    le 2 e.repeatCount.toNat ++ le 4 e.paramA.toNat ++ le 8 e.paramB.toNat

/-- A timetable entry of 32 bytes. -/
def parseEntry (b : List Byte) : TTEntry :=
  { startFt := word (uAt b 0 8), periodUs := BitVec.ofNat 32 (uAt b 8 4), windowUs := BitVec.ofNat 32 (uAt b 12 4),
    action := BitVec.ofNat 8 (uAt b 16 1), repeatCount := BitVec.ofNat 16 (uAt b 18 2),
    paramA := BitVec.ofNat 32 (uAt b 20 4), paramB := word (uAt b 24 8) }

/-- A slot that holds an entry none of whose occurrences has fallen. -/
def freshSlot (e : TTEntry) : TTSlot :=
  { entry := e, next := 0, stopped := false, waiting := none, openedBy := [], openedCount := 0 }

/-- TIMETABLE: GUARD_US, then each entry with its index (assumption log 24). -/
def State.tableSection (s : State) : List Byte :=
  le 8 (s.rf .ttCtrl 16 16) ++ s.table.slots.flatMap fun e => le 8 e.1 ++ e.2.entry.bytes

/-- Keys of SEQUENCER that are no register addresses. -/
def seqKeyStep : Nat := 0
/-- Key of the sealed letter. -/
def seqKeyLetter : Nat := 1
/-- Key of the depth. -/
def seqKeyDepth : Nat := 2
/-- Key of the next step ID. -/
def seqKeyNext : Nat := 3
/-- Key of its attempt. -/
def seqKeyAttempt : Nat := 4
/-- Keys of STEP_STASH_STATUS and STEP_STASH_USE: the first dry-fit layer and the layer at which space ran out, each plus one; spill
pages in use, highest spill pages, highest Inlay pages; from `seqKeyInlay` on, pages in use on each die. -/
def seqKeyDryfit : Nat := 5
/-- As `seqKeyDryfit`. -/
def seqKeyExhausted : Nat := 6
/-- As `seqKeyDryfit`. -/
def seqKeySpill : Nat := 7
/-- As `seqKeyDryfit`. -/
def seqKeySpillMax : Nat := 8
/-- As `seqKeyDryfit`. -/
def seqKeyInlayMax : Nat := 9
/-- As `seqKeyDryfit`. -/
def seqKeyInlay : Nat := 16
/-- First key of the sync counters. -/
def seqKeyCounter : Nat := 0x100000

/-- SEQUENCER (R386; layout: assumption log 24). -/
def State.sequencerSection (s : State) (phase : Bool) (r : Option StepRec) : List Byte :=
  let next := match r with | some x => (x.id, x.attempt) | none => s.nextStep.getD (0, 0)
  pairBytes (
    [(seqKeyStep, s.steps.sealedStep), (seqKeyLetter, s.steps.sealedLetter), (seqKeyDepth, s.steps.depth),
     (seqKeyNext, next.1), (seqKeyAttempt, next.2)] ++
    (s.ringMarks.map fun e => ((Reg.wringPtr (e.1 / 128) (e.1 % 128)).addr, e.2.toNat)) ++
    (s.crings.map fun e => ((Reg.cringPtr e.1).addr, (s.cringHead e.1).toNat <<< 32 + e.2.tail.toNat)) ++
    (s.fabric.queues.map fun e => ((Reg.netSqPtr e.1).addr, (s.reg (.netSqPtr e.1)).toNat + e.2.head.toNat)) ++
    (s.hosts.map fun e => ((Reg.coreRemap e.1).addr, e.2)) ++
    (s.setRings.filterMap fun r => if s.rbit (wctrl r) 29 then some ((wctrl r).addr, 1) else none) ++
    (if phase then
      [(seqKeyDryfit, (s.steps.stashDryfit.map (· + 1)).getD 0), (seqKeyExhausted, (s.steps.stashExhausted.map (· + 1)).getD 0),
       (seqKeySpill, s.steps.spillUsed), (seqKeySpillMax, s.steps.spillMax), (seqKeyInlayMax, s.steps.inlayMax)] ++
      (s.steps.inlayUsed.map fun e => (seqKeyInlay + e.1, e.2)) ++
      (s.fabric.counters.map fun e => (seqKeyCounter + e.1, e.2.toNat))
     else []))

/-- Used Inlay stash pages of the dies in die order, then the used pages of the spill area. The pages of a die are taken
from the start of its Inlay: no rule places them (DESIGN CHOICE, assumption log 24). -/
def State.stashRanges (s : State) : List (Nat × Nat) :=
  (s.steps.inlayUsed.map fun e => (e.1 * 2 ^ 32, e.2 * 4096)) ++ [(s.spillArea.1, s.steps.spillUsed * 4096)]

/-- Bytes of ranges, one after the other. -/
def State.rangeBytes (s : State) (l : List (Nat × Nat)) : List Byte := l.flatMap fun x => s.bytesAt x.1 x.2

/-- What an image copies at its start from registers and tables: sections 1 to 4 and, under 7, the step parameters. A
reset of the Bench while the image is written does not change it (R386, R510). -/
def State.imageCapture (s : State) (w : ImageWrite) : List (Nat × List Byte) :=
  let r := if w.phaseImage then s.step? w.step else none
  [(1, s.configSection), (2, s.tableSection), (3, s.sequencerSection w.phaseImage r),
   (4, s.rangeBytes (s.programs.map fun e => (e.2.base, e.2.length))), (7, (tabFind s.steps.params w.step).getD [])]

/-- A captured section. -/
def ImageWrite.part (w : ImageWrite) (k : Nat) : List Byte := (tabFind w.captured k).getD []

/-- Sections of an image: code and bytes (R386). -/
def State.sections (s : State) (w : ImageWrite) : List (Nat × List Byte) :=
  let common := [(1, w.part 1), (2, w.part 2), (3, w.part 3), (4, w.part 4), (5, s.rangeBytes [s.ownVeneer w.letter])] ++
    (if s.twin.role = 1 then [(6, s.rangeBytes [s.mirrorVeneer w.letter])] else [])
  if w.phaseImage then
    common ++ [(7, s.rangeBytes [s.inputSlot (w.step % (s.steps.depth + 1))] ++ padTo 256 (w.part 7)), (8, s.rangeBytes s.stashRanges)]
  else common

/-- One shard: section code, offset in the section, section length and payload (R387). -/
structure Shard where
  code : Nat
  offset : Nat
  sectionLength : Nat
  payload : List Byte
deriving DecidableEq, Repr

/-- Shards of the sections in order (R387). -/
def shardsOf (l : List (Nat × List Byte)) : List Shard :=
  l.flatMap fun x => (List.range ((x.2.length + 2 ^ 30 - 1) / 2 ^ 30)).map fun i =>
    ⟨x.1, i * 2 ^ 30, x.2.length, slice x.2 (i * 2 ^ 30) (2 ^ 30)⟩

/-- Storage targets in use, rising (R387, R415). -/
def State.targets (s : State) : List Nat := (List.range 16).filter fun i => s.rbit (.ckptTarget i) 0

/-- The GCM nonce of a shard (R389). -/
def State.shardNonce (s : State) (image shard : Nat) : List Byte :=
  le 12 (place s.chip 0 17 + place s.fabric.partition.generation 17 32 + place image 49 23 + place shard 72 24)

/-- A shard header with a given tag (R388). -/
def State.shardHeader (s : State) (w : ImageWrite) (k : Nat) (x : Shard) (tag : List Byte) : List Byte :=
  padTo 256 (le 4 0x5A474931 ++ le 2 1 ++ le 1 (if w.phaseImage then 1 else 0) ++ le 1 x.code ++ le 8 w.step ++ le 4 s.chip ++
    le 2 s.fabric.partition.tag ++ le 1 s.steps.depth ++ le 1 w.letter ++ le 4 s.fabric.partition.generation ++
    le 4 w.imageNumber ++ le 4 k ++ le 4 w.shards ++ le 8 x.offset ++ le 8 x.payload.length ++ le 8 x.sectionLength ++
    exactly 32 (Config.shake256 x.payload 32) ++ s.shardNonce w.imageNumber k ++ le 4 (match s.ckpt.engineKeys with | e :: _ => e.1 | [] => 0) ++
    exactly 16 tag ++ le 1 s.targets.length ++ le 1 w.slot)

/-- The active job key (R508). -/
def State.activeKey (s : State) : Option JobKey := s.security.active.bind fun k => tabFind s.security.keys k

/-- Header and encrypted payload of a shard (R387 to R389). -/
def State.sealShard (s : State) (w : ImageWrite) (k : Nat) (x : Shard) : List Byte × List Byte :=
  let key := match s.ckpt.engineKeys with | e :: _ => e.2.key | [] => []
  let nonce := s.shardNonce w.imageNumber k
  let aad := s.shardHeader w k x []
  let plain := padTo (roundUp x.payload.length 4096) x.payload
  (s.shardHeader w k x (Config.gcmTag key nonce aad plain), exactly plain.length (Config.gcmEncrypt key nonce aad plain))

/-- Ethernet port, queue pair and namespace of a storage target (R415). -/
def State.targetAt (s : State) (i : Nat) : Nat × Nat × Nat :=
  let r := Reg.ckptTarget i
  (4 + s.rf r 1 1, s.rf r 2 12, s.rf r 16 8)

/-- Storage target of a shard, and the first byte of its object there (R387). -/
def State.objectAt (s : State) (slot k : Nat) : Nat × Nat :=
  let ts := s.targets
  let i := nth 0 ts (if ts.length = 0 then 0 else k % ts.length)
  let j := if ts.length = 0 then 0 else k / ts.length
  (i, s.rf (.ckptTarget i) 40 24 * 2 ^ 30 + (slot * s.rf .ckptCtrl 8 16 + j) * (2 ^ 30 + 4096))

/-- Write one object at its target (R387). -/
def State.writeObject (s : State) (w : ImageWrite) (k : Nat) (x : List Byte × List Byte) : State :=
  let p := s.objectAt w.slot k
  let t := s.targetAt p.1
  s.send (.object t.1 t.2.1 t.2.2 p.2 (padTo 4096 x.1 ++ x.2))

/-- Read `n` bytes of an object from byte `off` on. -/
def State.readObject (s : State) (slot k off n : Nat) : State :=
  let p := s.objectAt slot k
  let t := s.targetAt p.1
  s.send (.objectRead t.1 t.2.1 t.2.2 (p.2 + off) n)

/-- Connect to every storage target in use (R390), as an image or a restore starts (DESIGN CHOICE, assumption log 136). -/
def State.connectTargets (s : State) : State :=
  s.targets.foldl (fun t i => let x := t.targetAt i; t.send (.connect x.1 x.2.1 x.2.2)) s

/-! ### Image writes (R389, R391 to R394) -/

/-- CKPT_DONE (R446): it closes the command of the image, or comes with related sequence 0 after a HOLD. -/
def State.ckptDone (s : State) (w : ImageWrite) (st : Status) (failed : Nat) (digest : List Byte) : State :=
  let body := le 8 w.step ++ le 4 w.imageNumber ++ le 1 w.slot ++ le 1 (if w.phaseImage then 1 else 0) ++ zeros 2 ++ le 4 w.shards ++
    le 4 failed ++ exactly 32 digest
  match w.cmd with
  | some j => s.closeWith j 0x000F .retention st body
  | none => s.emit (event 0x000F .retention st body)

/-- The image of a hold has ended (R262). -/
def State.holdImageEnded (s : State) (w : ImageWrite) : State :=
  match w.holdEntry, s.table.hold with
  | some _, some (n, e, ft, _, _) => { s with table := { s.table with hold := some (n, e, ft, true, true) } }
  | _, _ => s

/-- A cut step goes on where CONTINUE asks for it (R394). -/
def State.cutEnded (s : State) (w : ImageWrite) : State :=
  if w.phaseImage ∧ w.continueAfter then
    match s.step? w.step with | some r => s.setStep { r with cut := none } | none => s
  else s

/-- No image is written: no target, no room, no active key or a counter at its end (R387, R389, R508). -/
def State.imageRefused (s : State) (shards : Nat) : Bool :=
  s.targets.isEmpty || decide (s.rf .ckptCtrl 8 16 * s.targets.length < shards) || s.activeKey.isNone ||
    decide (2 ^ 23 - 1 ≤ s.ckpt.underKey.toNat) || decide (2 ^ 32 - 1 ≤ s.ckpt.imageNumber.toNat)

/-- Start an image write (R389, R391): the image number is taken, the Veneer frozen. A refused one ends at once. -/
def State.startImage (s : State) (w : ImageWrite) : State :=
  let w := if w.captured.isEmpty then { w with captured := s.imageCapture w } else w
  let n := (shardsOf (s.sections w)).length
  if s.imageRefused n then
    let w := { w with imageNumber := s.ckpt.imageNumber.toNat, shards := n }
    ((s.ckptDone w .noResource 0 []).holdImageEnded w).cutEnded w
  else
    let w := { w with imageNumber := s.ckpt.imageNumber.toNat + 1, shards := n }
    let s := s.connectTargets
    { s with ckpt := { s.ckpt with
        state := 1, writing := some w, frozen := some (w.letter, w.step), latestPhase := w.phaseImage, latestStep := w.step,
        imageNumber := s.ckpt.imageNumber + 1, underKey := s.ckpt.underKey + 1,
        engineKeys := match s.activeKey with | some j => [(j.id, j)] | none => [] } }

/-- Where the sections of an image come from that lie in memory: section code and ranges, in order (R386). -/
def State.sectionSources (s : State) (w : ImageWrite) : List (Nat × List (Nat × Nat)) :=
  [(4, s.programs.map fun e => (e.2.base, e.2.length)), (5, [s.ownVeneer w.letter])] ++
    (if s.twin.role = 1 then [(6, [s.mirrorVeneer w.letter])] else []) ++
    (if w.phaseImage then [(7, [s.inputSlot (w.step % (s.steps.depth + 1))]), (8, s.stashRanges)] else [])

/-- The image engine reads its sources. -/
def State.sourceRead (s : State) (w : ImageWrite) : State :=
  ((s.sectionSources w).flatMap (·.2)).foldl (fun t x => t.fetch .carcass x.1 x.2) s

/-- Offsets in a section of the poisoned granules of its ranges, `at_` the offset of the first range. -/
def State.poisonOffsets (s : State) : (at_ : Nat) → List (Nat × Nat) → List Nat
  | _, [] => []
  | at_, x :: r =>
    ((granulesOf x.1 x.2).filter s.mem.isPoisoned).map (fun g => at_ + (g - x.1)) ++ s.poisonOffsets (at_ + x.2) r

/-- The first shard whose source holds poison, which no image carries (R183, R185). -/
def State.poisonedShard (s : State) (w : ImageWrite) : Option Nat :=
  let bad := (s.sectionSources w).map fun e => (e.1, s.poisonOffsets 0 e.2)
  ((shardsOf (s.sections w)).zipIdx.find? fun e =>
    bad.any fun b => b.1 == e.1.code && b.2.any fun i => i / 2 ^ 30 == e.1.offset / 2 ^ 30).map (·.2)

/-- Status of an object fault (R393). -/
def faultStatus : Sys2Proof.ObjectFault → Status
  | .timeout => .timeout | .poison => .poison | .noResource => .noResource

/-- OBJECT_WRITE_FAIL (R393): the write stops; Veneers stay frozen; NEXT_SLOT stays. -/
def State.imageFailed (s : State) (shard : Nat) (cause : Sys2Proof.ObjectFault) : State :=
  match s.ckpt.writing with
  | some w =>
    let xs := ((shardsOf (s.sections w)).zipIdx.take shard).map fun e => (s.sealShard w e.2 e.1, e.2)
    let s := xs.foldl (fun t e => t.writeObject w e.2 e.1) s
    let s := { s with ckpt := { s.ckpt with state := 3, writing := none, last := some w, engineKeys := [] } }
    ((s.ckptDone w (faultStatus cause) shard []).holdImageEnded w).cutEnded w
  | none => s

/-- An object write fails (R393); a shard of a lower index whose source is poisoned has failed before it (R185). -/
def State.objectFailed (s : State) (shard : Nat) (cause : Sys2Proof.ObjectFault) : State :=
  match s.ckpt.writing with
  | some w =>
    let s := s.sourceRead w
    match s.poisonedShard w with
    | some k => if k < shard then s.imageFailed k .poison else s.imageFailed shard cause
    | none => s.imageFailed shard cause
  | none => s

/-- GLUE_UP_WRITE_END (R391): every object written and flushed, CKPT_DONE with OK, NEXT_SLOT flips. A shard whose source is poisoned
fails with POISON instead (R185, R393). -/
def State.imageWritten (s : State) : State :=
  match s.ckpt.writing with
  | some w =>
    let s := s.sourceRead w
    match s.poisonedShard w with
    | some k => s.imageFailed k .poison
    | none =>
      let xs := (shardsOf (s.sections w)).zipIdx.map fun e => (s.sealShard w e.2 e.1, e.2)
      let s := xs.foldl (fun t e => t.writeObject w e.2 e.1) s
      let s := s.targets.foldl (fun t i => let y := t.targetAt i; t.send (.flush y.1 y.2.1 y.2.2)) s
      let digest := Config.shake256 (xs.flatMap fun e => e.1.1) 32
      let s := { s with ckpt := { s.ckpt with state := 2, writing := none, last := some w, engineKeys := [] } }
      let s := s.setReg .ckptCtrl (s.reg .ckptCtrl ^^^ 1)
      ((s.ckptDone w .ok 0xFFFFFFFF digest).holdImageEnded w).cutEnded w
  | none => s

/-- The image of a HOLD starts at the later of its FT and SEAL (R262). -/
def State.holdImage (s : State) : State :=
  match s.table.hold with
  | some (n, e, ft, started, ended) =>
    if started ∨ ended ∨ s.steps.sealedLetter = 3 ∨ s.steps.sealedStep < n ∨ s.retentionBusy then s
    else
      let s := { s with table := { s.table with hold := some (n, e, ft, true, false) } }
      s.startImage
        { step := n, phaseImage := false, imageNumber := 0, slot := s.rf .ckptCtrl 0 1, shards := 0,
          letter := s.steps.sealedLetter, cmd := none, holdEntry := some e, continueAfter := false, captured := [] }
  | none => s

/-- A step that CKPT_CUT names has come to its FWD to BWD boundary (R394). -/
def State.cutReady (s : State) (r : StepRec) : Bool :=
  r.phase == 2 && r.cut.isSome && s.phaseDrained 2 && !s.checksPending r.id &&
    (s.steps.depth != 2 || s.steps.opened.head?.map (·.id) == some r.id)

/-- The phase image of a cut step starts (R394). -/
def State.cutImage (s : State) : State :=
  if s.retentionBusy then s
  else
    match s.steps.opened.find? s.cutReady, s.longOps.find? (fun o => o.2 == .ckptCut) with
    | some r, some o =>
      s.startImage
        { step := r.id, phaseImage := true, imageNumber := 0, slot := s.rf .ckptCtrl 0 1, shards := 0, letter := r.reads,
          cmd := some o.1, holdEntry := none, continueAfter := r.cut == some true, captured := [] }
    | _, _ => s

/-- A recall or a halt of a step that CKPT_CUT holds ends the command with RECALLED (assumption log 25). -/
def State.dropCuts (s : State) : State :=
  if s.ckpt.writing.isSome then s
  else
    match s.longOps.find? (fun o => o.2 == .ckptCut) with
    | some o =>
      if s.steps.opened.any (fun r => r.cut.isSome) then s
      else s.ckptDone { step := match s.openCmd o.1 with | some c => uAt c.params 0 8 | none => 0, phaseImage := true,
                        imageNumber := s.ckpt.imageNumber.toNat, slot := s.rf .ckptCtrl 0 1, shards := 0, letter := 0,
                        cmd := some o.1, holdEntry := none, continueAfter := false, captured := [] } .recalled 0xFFFFFFFF []
    | none => s

/-- CKPT_CUT (R394): the step is in LOAD or FWD and not yet cut. -/
def doCkptCut (c : OpenCmd) (s : State) : Result :=
  match s.step? (uAt c.params 0 8) with
  | some r =>
    if s.retentionBusy ∨ (s.longOps.any fun o => o.2 == .ckptCut) then refuse s .busy
    else if !within r.phase 1 2 ∨ r.cut.isSome then refuse s .badParam
    else began (s.setStep { r with cut := some (uAt c.params 8 1 == 1) }) .ckptCut
  | none => if s.retentionBusy then refuse s .busy else refuse s .badParam

/-- CHECKPOINT_RELEASE (R392). -/
def doCheckpointRelease (c : OpenCmd) (s : State) : Result :=
  if s.ckpt.writing.isSome then refuse s .busy
  else
    match s.ckpt.frozen with
    | some (_, n) =>
      if n = uAt c.params 0 8 then done { s with ckpt := { s.ckpt with frozen := none } } [] else refuse s .badParam
    | none => refuse s .badParam

/-- CKPT_RETRY (R393): the failed image is written again under a new number. -/
def doCkptRetry (c : OpenCmd) (s : State) : Result :=
  if s.retentionBusy then refuse s .busy
  else
    match s.ckpt.last, s.ckpt.frozen with
    | some w, some (_, n) =>
      if s.ckpt.state = 3 ∧ n = uAt c.params 0 8 ∧ w.step = n then
        ⟨.start .ckptRetry, s, fun t =>
          t.startImage { w with cmd := some c.jseq, holdEntry := none, continueAfter := false }⟩
      else refuse s .badParam
    | _, _ => refuse s .badParam

/-! ### Restores (R395 to R399) -/

/-- A step is held by CKPT_CUT at its boundary, its image written (R394, R396). -/
def State.heldByCut (s : State) : Bool := s.steps.opened.any s.cutReady && s.ckpt.writing.isNone

/-- RESTORE (R395): a step that CKPT_CUT holds is replaced (R394). -/
def doRestore (c : OpenCmd) (s : State) : Result :=
  if 1 < uAt c.params 0x14 1 ∨ 2 ^ 17 ≤ uAt c.params 0xC 4 ∨ 2 ^ 48 ≤ uAt c.params 0 8 then refuse s .badParam
  else if (s.stepOpen ∧ !s.heldByCut) ∨ s.retentionBusy then refuse s .busy
  else
    let s := s.connectTargets.readObject (uAt c.params 0x14 1) 0 0 4096
    began { s with ckpt := { s.ckpt with
      state := 4, restore := some { step := uAt c.params 0 8, generation := uAt c.params 8 4, chip := uAt c.params 0xC 4,
                                    imageNumber := uAt c.params 0x10 4, slot := uAt c.params 0x14 1, cmd := c.jseq,
                                    headers := [] }
      engineKeys := s.security.keys } } .restore

/-- End a restore with RESTORE_DONE (R395, R446). -/
def State.endRestore (s : State) (x : Restore) (st : Status) (offending : List Nat) : State :=
  let s := { s with ckpt := { s.ckpt with state := 0, restore := none, engineKeys := [] } }
  s.closeWith x.cmd 0x0010 .retention st
    (le 8 x.step ++ le 4 offending.length ++ zeros 4 ++ (offending.take 64).flatMap (le 4))

/-- Positions of the headers that `p` names. -/
def badAt (hs : List (Option (List Byte))) (p : Nat → List Byte → Bool) : List Nat :=
  hs.zipIdx.filterMap fun e => match e.1 with | some h => if p e.2 h then some e.2 else none | none => none

/-- The checks of the header pass in order (R396, R397): the status, and the offending shards. -/
def State.headerFault (s : State) (x : Restore) (hs : List (Option (List Byte))) : Option (Status × List Nat) :=
  let h0 := (hs.head?.bind id).getD []
  let count := uAt h0 0x24 4
  let hs := (List.range (max 1 count)).map fun k => nth none hs k
  let steps := hs.filterMap fun h => h.map fun b => uAt b 8 6
  let missing := hs.zipIdx.filterMap fun e => if e.1.isNone then some e.2 else none
  let magic := badAt hs fun k b => uAt b 0 4 != 0x5A474931 || uAt b 4 2 != 1 || uAt b 0x20 4 != k || uAt b 0x24 4 != count ||
    uAt b 0x80 1 != s.targets.length || uAt b 0x81 1 != x.slot
  let mixed := badAt hs fun _ b => uAt b 8 6 != x.step
  let other := badAt hs fun _ b => uAt b 0x10 4 % 2 ^ 17 != x.chip || uAt b 0x14 2 != uAt h0 0x14 2 ||
    uAt b 0x18 4 != x.generation || uAt b 0x1C 4 != x.imageNumber
  let kind := badAt hs fun _ b => !(uAt b 6 1 == 0 || (uAt b 6 1 == 1 && (s.heldByCut || s.steps.sealedLetter == 3)))
  let key := badAt hs fun _ b => (tabFind s.ckpt.engineKeys (uAt b 0x6C 4)).isNone && (tabFind s.security.keys (uAt b 0x6C 4)).isNone
  if (match steps with | [] => false | n :: r => r.any (· ≠ n)) then some (.mixedStep, mixed)
  else if !missing.isEmpty then some (.timeout, missing)
  else if !magic.isEmpty then some (.badParam, magic)
  else if !mixed.isEmpty then some (.mixedStep, mixed)
  else if !other.isEmpty then some (.badParam, other)
  else if !kind.isEmpty then some (.badParam, kind)
  else if !key.isEmpty then some (.badParam, key)
  else none

/-- RESTORE_HEADER_PASS_END (R396): the headers after the first have been read; if all is well the payloads are read next. -/
def State.headerPass (s : State) (hs : List (Option (List Byte))) : State :=
  match s.ckpt.restore with
  | some x =>
    if !x.headers.isEmpty then s
    else
      let s := (upFrom 1 (hs.length - 1)).foldl (fun t k => t.readObject x.slot k 0 4096) s
      match s.headerFault x hs with
      | some (st, off) => s.endRestore x st off
      | none =>
        let gs := hs.filterMap id
        let s := gs.zipIdx.foldl (fun t h => t.readObject x.slot h.2 4096 (roundUp (uAt h.1 0x30 8) 4096)) s
        { s with ckpt := { s.ckpt with restore := some { x with headers := gs } } }
  | none => s

/-- Write bytes over ranges that follow each other, from an offset (R398). -/
def State.storeRanges (s : State) : List (Nat × Nat) → Nat → List Byte → State
  | [], _, _ => s
  | (a, n) :: r, off, bs =>
    if n ≤ off then s.storeRanges r (off - n) bs
    else (s.store .carcass (a + off) (bs.take (n - off))).storeRanges r 0 (bs.drop (n - off))

/-- Whole content of a section, from the payloads of its shards. -/
def sectionBytes (hs ps : List (List Byte)) (code : Nat) : List Byte :=
  (hs.zip ps).flatMap fun e => if uAt e.1 7 1 = code then e.2.take (uAt e.1 0x30 8) else []

/-- Activation, CONFIG (R399, order 1). -/
def State.applyConfig (s : State) (bs : List Byte) : State :=
  (pairsOf (bs.length / 16) bs).foldl (fun t e =>
    match Reg.ofAddr e.1 with
    | some r => if r.inImage then t.setReg r (blend r.imageMask (r.norm (word e.2)) (t.reg r)) else t
    | none => t) (s.dropRegs fun r => r.inImage && r.imageMask != 0 && r != .ckptCtrl)

/-- Activation, SEQUENCER (R386): pointers, hosts, counters. -/
def State.applySequencer (s : State) (ps : List (Nat × Nat)) : State :=
  ps.foldl (fun t e =>
    match Reg.ofAddr e.1 with
    | some (.wringPtr c j) =>
      let t := t.setWringTail (c * 128 + j) (BitVec.ofNat 32 (e.2 >>> 32))
      { t with ringHeads := tabSet 0 t.ringHeads (c * 128 + j) (BitVec.ofNat 32 e.2) }
    | some (.cringPtr n) =>
      let t := t.setReg (.cringPtr n) (word (place (e.2 >>> 32) 32 32))
      t.setCring n { t.cring n with tail := BitVec.ofNat 32 e.2 }
    | some (.netSqPtr q) =>
      let t := t.setReg (.netSqPtr q) (word (place (e.2 >>> 32) 32 32))
      t.setSq q { t.sq q with head := BitVec.ofNat 32 e.2 }
    | some (.coreRemap l) => { t with hosts := tabPut t.hosts l e.2 }
    | some (.wringCtrl c j) => t.wringError (c * 128 + j)
    | _ =>
      if seqKeyCounter ≤ e.1 ∧ e.1 < seqKeyCounter + 24576 then
        { t with fabric := { t.fabric with counters := tabSet 0 t.fabric.counters (e.1 - seqKeyCounter) (BitVec.ofNat 32 e.2) } }
      else t) s

/-- A restored timetable entry (R399, order 3): a repeating one moves to its first occurrence after the current FT plus
GUARD_US, a single one that has passed is dropped. -/
def restoreEntry (limit : Nat) (e : TTEntry) : Option TTSlot :=
  let start := e.startFt.toNat
  if e.periodUs = 0 ∨ e.repeatCount = 1 then (if limit < start then some (freshSlot e) else none)
  else
    let period := ticksUs e.periodUs.toNat
    let k := if limit < start then 0 else (limit - start) / period + 1
    if e.repeatCount ≠ 0 ∧ e.repeatCount.toNat ≤ k then none else some { freshSlot e with next := k }

/-- Activation, TIMETABLE (R399, order 3). -/
def State.applyTable (s : State) (bs : List Byte) : State :=
  let es := (List.range ((bs.length - 8) / 40)).map fun i =>
    (uAt bs (8 + 40 * i) 8, parseEntry (slice bs (16 + 40 * i) 32))
  let limit := s.ft.toNat + ticksUs (uAt bs 0 2)
  let kept := es.filterMap fun e => (restoreEntry limit e.2).map fun x => (e.1, x)
  let s := s.setReg .ttCtrl (word (place (uAt bs 0 2) 16 16))
  { s with table := { s.table with
      slots := kept.foldl (fun (m : List (Nat × TTSlot)) x => tabPut m x.1 x.2) [],
      missed := satAdd s.table.missed (es.length - kept.length), hold := none } }

/-- Value of a key. -/
def pairOf (ps : List (Nat × Nat)) (k : Nat) : Nat := (tabFind ps k).getD 0

/-- The layer that a key gives, kept plus one; 0 for none. -/
def layerOf (v : Nat) : Option Nat := if v = 0 then none else some (v - 1)

/-- Activation of a phase image, the stash (R386): what STEP_STASH_STATUS and STEP_STASH_USE show. -/
def State.applyStash (s : State) (ps : List (Nat × Nat)) : State :=
  { s with steps := { s.steps with
      stashDryfit := layerOf (pairOf ps seqKeyDryfit), stashExhausted := layerOf (pairOf ps seqKeyExhausted),
      spillUsed := pairOf ps seqKeySpill, spillMax := pairOf ps seqKeySpillMax, inlayMax := pairOf ps seqKeyInlayMax,
      inlayUsed := (List.range 24).foldl (fun m d => tabSet 0 m d (pairOf ps (seqKeyInlay + d))) [] } }

/-- Where the program images of a section lie: each header names its base and its length (R132). The count bounds the recursion. -/
def programRanges : Nat → List Byte → List (Nat × Nat)
  | 0, _ => []
  | n + 1, bs =>
    if uAt bs 0x10 4 = 0 then [] else (uAt bs 8 8, uAt bs 0x10 4) :: programRanges n (bs.drop (uAt bs 0x10 4))

/-- The module as the image's own CONFIG and SEQUENCER lay it out: where the regions of a restore lie (R398; DEDUCED, assumption log
137). -/
def State.imageMap (s : State) (hs ps : List (List Byte)) : State :=
  let sp := sectionBytes hs ps 3
  (s.applyConfig (sectionBytes hs ps 1)).applyStash (pairsOf (sp.length / 16) sp)

/-- Write the payload of a shard into its region (R398): sections of memory; the others are applied at activation. `z` is the map, and
`programs` the ranges of the PROGRAM section. -/
def State.restoreShard (s z : State) (programs : List (Nat × Nat)) (h p : List Byte) : State :=
  let off := uAt h 0x28 8
  let bs := p.take (uAt h 0x30 8)
  let v := uAt h 0x17 1
  match uAt h 7 1 with
  | 4 => s.storeRanges programs off bs
  | 5 => s.storeRanges [z.ownVeneer v] off bs
  | 6 => s.storeRanges [z.mirrorVeneer v] off bs
  | 7 => s.storeRanges [z.inputSlot (uAt h 8 6 % (uAt h 0x16 1 + 1))] off bs
  | 8 => s.storeRanges z.stashRanges off bs
  | _ => s

/-- Activation of an image whose shards have all passed (R399). A phase image leaves its step at the FWD to BWD
boundary, where RESUME lets it go on. -/
def State.activate (s : State) (x : Restore) (ps : List (List Byte)) : State :=
  let h0 := nth [] x.headers 0
  let phase := uAt h0 6 1 == 1
  let depth := uAt h0 0x16 1
  let letter := uAt h0 0x17 1
  let sp := sectionBytes x.headers ps 3
  let seqs := pairsOf (sp.length / 16) sp
  let mirror := x.headers.any fun h => uAt h 7 1 == 6
  let s := ((s.applyConfig (sectionBytes x.headers ps 1)).applySequencer seqs).applyTable (sectionBytes x.headers ps 2)
  let s := if phase then s.applyStash seqs else s
  let n := x.step
  let held : List StepRec := if phase then
      [{ id := n, attempt := pairOf seqs seqKeyAttempt, reads := letter, writes := successor depth letter, phase := 2,
         reduce := 0, closed := none, reasons := [], verdictSent := none, own := none, children := [],
         combinedSent := false, rings := s.ringMarks, dryfit := s.steps.stashDryfit, exhausted := none,
         decided := s.stashTable.length, forward := [], cut := some false, twinFailed := none }]
    else []
  let block := (sectionBytes x.headers ps 7).drop (s.inputSlot 0).2
  { s with
    steps := { s.steps with
      opened := held, replays := [], depth := depth, sealedLetter := letter,
      sealedStep := if phase then pairOf seqs seqKeyStep else n, sealedSince := false, restoreFailed := false,
      sealedParams := none, next := some (if phase then (n, pairOf seqs seqKeyAttempt) else (n + 1, 0)),
      params := if phase then tabPut s.steps.params n (exactly 256 block) else s.steps.params },
    twin := { s.twin with mirrorValid := s.twin.mirrorValid || mirror } }

/-- A payload as read, decrypted (R389, R398). -/
def State.openPayload (s : State) (h p : List Byte) : List Byte :=
  let key := match tabFind s.ckpt.engineKeys (uAt h 0x6C 4) with | some k => k.key | none => []
  exactly p.length (Config.gcmDecrypt key (slice h 0x60 12) (slice h 0 0x70 ++ zeros 16 ++ slice h 0x80 0x80) p)

/-- A decrypted payload passes: the GCM tag and the SHAKE256 digest of its header (R388, R389, R398). -/
def State.payloadOk (s : State) (h plain : List Byte) : Bool :=
  let key := match tabFind s.ckpt.engineKeys (uAt h 0x6C 4) with | some k => k.key | none => []
  exactly 16 (Config.gcmTag key (slice h 0x60 12) (slice h 0 0x70 ++ zeros 16 ++ slice h 0x80 0x80) plain) == slice h 0x70 16 &&
    exactly 32 (Config.shake256 (plain.take (uAt h 0x30 8)) 32) == slice h 0x40 32

/-- The payloads that pass, up to the first that fails, and how that one fails: BAD_TAG, or TIMEOUT where it cannot be read. -/
def State.payloadsPassed (s : State) : List (List Byte × Option (List Byte)) → List (List Byte) × Option Status
  | [] => ([], none)
  | (_, none) :: _ => ([], some .timeout)
  | (h, some p) :: r =>
    let plain := s.openPayload h p
    if s.payloadOk h plain then
      let res := s.payloadsPassed r
      (plain :: res.1, res.2)
    else ([], some .badTag)

/-- RESTORE_PAYLOAD_PASS_END (R398, R399): `payloads` are the payloads as read from the targets, in shard order; none for one that
cannot be read (TIMEOUT, as in the header pass; DEDUCED, assumption log 137). What has passed is written, and the image is activated
or the module is left in state restore failed. -/
def State.payloadPass (s : State) (payloads : List (Option (List Byte))) : State :=
  match s.ckpt.restore with
  | some x =>
    if x.headers.isEmpty then s
    else
      let read := x.headers.zipIdx.map fun h => (h.1, (payloads[h.2]?).bind id)
      let res := s.payloadsPassed read
      let ps := res.1
      let z := s.imageMap x.headers ps
      let s := (x.headers.zip ps).foldl
        (fun t e => t.restoreShard z (programRanges 16 (sectionBytes x.headers ps 4)) e.1 e.2) s
      match res.2 with
      | none => (s.activate x ps).endRestore x .ok []
      | some st =>
        let s := { s with steps := { s.steps with restoreFailed := true, opened := [] } }
        s.endRestore x st [ps.length]
  | none => s

end Sys2Proof.Machine
end

