-- ==== Sys2Proof/Machine/Settle.lean ====
section
/-! DEFINITION. What follows from every change of the module by itself, within the same step: bad Tray banks (R189),
check runs of lost cores (R337), phases (R138), verdicts (R347), images that wait (R262, R394), and cells and records
that can now move (R154, R213, R302, R304). -/

namespace Sys2Proof.Machine

/-- A unit whose original has neither ended nor is still on its core is not compared: its ops ended with another status
(R342). -/
def State.dropOrphans (s : State) : State :=
  s.square.units.foldl (fun t e =>
    let x := t.core e.2.original
    let held := (match x.acc with | some a => a.unit == some e.1 | none => false) ||
      (match x.item with | some it => it.ops.any fun o => o.unit == some e.1 | none => false)
    if e.2.originalDone || held then t else t.dropUnit e.1) s

/-- Replace a timetable entry with its progress. -/
def State.setSlot (s : State) (i : Nat) (x : TTSlot) : State :=
  { s with table := { s.table with slots := tabPut s.table.slots i x } }

/-- An occurrence is missed: counted, reported, traced (R258, R526). -/
def State.ttMiss (s : State) (i : Nat) (x : TTSlot) (due : Nat) : State :=
  let s := { s with table := { s.table with missed := satAdd s.table.missed 1 } }.trace benchRing 0x0032 (i + 0x8000)
    x.entry.action.toNat
  s.emit (event 0x000A .timetable .deadline
    (le 2 i ++ le 1 x.entry.action.toNat ++ zeros 5 ++ le 8 due))

/-- STEP_OPEN occurrences that still wait when the module comes to hold are refused (R357): missed, and their entries
stop (R259; DEDUCED, assumption log 30). -/
def State.refuseWaiting (s : State) : State :=
  if s.steps.halted then
    s.table.slots.foldl (fun t e =>
      match e.2.waiting with
      | some d =>
        if e.2.entry.action = 5 then
          (t.setSlot e.1 { e.2 with waiting := none, stopped := true }).ttMiss e.1 e.2 d.toNat
        else t
      | none => t) s
  else s

/-- Phases and verdicts go on. -/
def State.progress (s : State) : State := s.advance.verdicts

/-- Work of the steps goes on as far as it can: a seal may let a pass of the next step go out, and a replay open. -/
def State.settleSteps (s : State) : State :=
  (((s.clampBadBanks.dropOrphans.reissueLost.progress).secondReplay.holdImage.cutImage.dropCuts).progress).refuseWaiting

/-- The stream of the twin's gradient for a step has ended otherwise than OK (R379). -/
def State.twinStreamFailed (s : State) (r : StreamRx) (st : Status) : State :=
  if r.ring ∨ r.sender ≠ s.twin.peer ∨ s.twin.role ≠ 1 then s
  else match s.step? r.step with
    | some x => s.setStep { x with twinFailed := some st }
    | none => s

/-- A receive half ends otherwise than by its last cell: it returns to IDLE; what it served fails (R301, R314, R346). -/
def State.rxFails (s : State) (n : Nat) (r : StreamRx) (st : Status) : State :=
  let t := (s.rxRecord n r st).setRx n none
  if s.transferContext n then t.failTransfer st
  else if s.digestContext n then t
  else
    let t := (t.streamVerdict r.step st).twinStreamFailed r st
    match t.collOf n with
    | some base =>
      match t.coll base with
      | some c => (t.setColl base (c.fail c.issued st)).runColl base
      | none => t
    | none => t

/-- A transmit half ends: a twin transfer or a digest exchange goes on (R302, R360, R383). -/
def State.txEnds (s : State) (n : Nat) (t : StreamTx) (st : Status) : State :=
  let s := s.endTx n t st
  if t.transfer then s.transferTxEnd n t st
  else if t.digest then s.digestNext n t.destChip
  else s

/-- Streams whose poisoned data a bridge has refused end with POISON (R183). -/
def State.endBarred (s : State) : State :=
  s.fabric.barred.foldl (fun t n =>
    match (t.context n).tx with | some x => t.txEnds n x .poison | none => t)
    { s with fabric := { s.fabric with barred := [] } }

/-- Streams whose data lie in the Inlay of a clamped die, or whose buffer has come to lie where it may not be written, end (R23,
R126). -/
def State.endShut (s : State) : State :=
  let s := s.fabric.contexts.foldl (fun t c =>
    match (t.context c.1).tx with
    | some x =>
      if x.content.isNone ∧ x.sent < cellCount x.length ∧ t.accessStatus x.source x.length = .clamped then t.txEnds c.1 x .clamped
      else t
    | none => t) s
  s.fabric.contexts.foldl (fun t c =>
    match (t.context c.1).rx with
    | some r => if r.receiving ∧ t.bufferStatus c.1 r ≠ .ok then t.rxFails c.1 r (t.bufferStatus c.1 r) else t
    | none => t) s

/-- Held records whose ring has room are written, final ACKs follow, and senders go on. -/
def State.settleFabric (s : State) : State :=
  let s := s.crings.foldl (fun t e => if e.2.held.isEmpty then t else t.releaseCring e.1) s
  s.endBarred.endShut.lateAcks.pumpAll.flushAll.endBarred

/-- Everything that follows by itself. -/
def State.settle (s : State) : State := s.settleSteps.settleFabric

end Sys2Proof.Machine
end

