-- ==== Sys2Proof/Machine/Clock.lean ====
section
/-! DEFINITION. The fabric-time unit (R245 to R252): time sources, the offset measurement, the states of R251. -/

namespace Sys2Proof.Machine

/-- FT_STATUS.ALARM is set and a fault notice sent (R252). -/
def State.ftAlarm (s : State) : State :=
  (s.setBits .ftStatus (word (2 ^ 12))).fault 0x0012 .module .ok (BitVec.ofInt 64 s.time.offset).toNat
    (match s.time.state with | .free => 0 | .acquiring => 1 | .locked => 2 | .holdover => 3)

/-- FT of a TAI instant, seconds and nanoseconds, under FT_EPOCH, rounded down (R245). -/
def State.ftOf (s : State) (t : Nat × Nat) : Word :=
  BitVec.ofInt 64 (((t.1 : Int) - (s.rf .ftEpoch 0 48 : Int)) * 1250000000 + ((t.2 * 5 / 4 : Nat) : Int))

/-- A measured offset to the source (R251, R252). A threshold that stays exceeded is reported once, until software clears
ALARM (DESIGN CHOICE, assumption log 28). -/
def State.takeOffset (s : State) (off : Int) : State :=
  let within_ := decide (-8 ≤ off ∧ off ≤ 8)
  let above := decide ((s.rf .ftCtrl 12 8 : Int) < off.natAbs)
  let known := s.time.exceeding && s.rbit .ftStatus 12
  let s := { s with time := { s.time with
    offset := off, exceeding := above, withinSince := if within_ then some (s.time.withinSince.getD s.now) else none } }
  if above && !known then s.ftAlarm else s

/-- A source is selected (R249, R251): FREE turns to ACQUIRING, HOLDOVER back to LOCKED without a step. -/
def State.useSource (s : State) (src : TimeSource) (hops : Nat) : State :=
  let t := { s.time with source := src, hops := hops }
  { s with time := match t.state with
    | .free => { t with state := .acquiring, stepped := false, withinSince := none }
    | .holdover => { t with state := .locked }
    | _ => t }

/-- The peer of a tensor port can be a time source (R249). -/
def State.canFollow (s : State) (n : Nat) : Bool :=
  let p := s.port n
  (p.state == .discovered || p.state == .admitted) && p.peerFtState == 2 && decide (p.peerHops < 15)

/-- The tensor port with the lowest hop count, the lowest number first (R249). -/
def State.bestPeer (s : State) : Option Nat :=
  (List.range 15).findSome? fun h => (List.range 16).find? fun n => s.canFollow n && (s.port n).peerHops == h

/-- FT_CTRL lets PTP on an Ethernet port be the source (R249, R266). -/
def State.ptpAllowed (s : State) (n : Nat) : Bool := s.rbit .ftCtrl 0 && s.rf .ftCtrl 1 3 == n

/-- The source that R249 chooses, with the own hop count that it gives: PTP in sync on the configured port, else the best peer. -/
def State.bestSource (s : State) : Option (TimeSource × Nat) :=
  match s.time.ptpSync.filter s.ptpAllowed with
  | some n => some (.ptp n, 0)
  | none => s.bestPeer.map fun m => (.cells m, (s.port m).peerHops + 1)

/-- Use the source that R249 chooses. -/
def State.selectSource (s : State) : State :=
  match s.bestSource with | some x => s.useSource x.1 x.2 | none => s

/-- The source is lost (R249, R251): LOCKED turns to HOLDOVER, with its alarm, until another source takes its place, be it at once.
ACQUIRING goes on with another source; without one it returns to FREE (DEDUCED, assumption log 28). -/
def State.sourceLost (s : State) : State :=
  let s := { s with time := { s.time with source := .none, hops := 15, withinSince := none, ptp := none } }
  match s.time.state with
  | .locked => ({ s with time := { s.time with state := .holdover, holdoverSince := s.now } }.ftAlarm).selectSource
  | .acquiring =>
    if s.bestSource.isSome then s.selectSource
    else { s with time := { s.time with state := .free, stepped := false } }.ftAlarm
  | _ => s.selectSource

/-- A measurement against the source in use: ACQUIRING steps to it once, and never after the first LOCKED; else the servo takes the
offset up (R247, R251). -/
def State.discipline (s : State) (off : Int) : State :=
  let s := s.takeOffset off
  if s.time.state = .acquiring ∧ !s.time.stepped ∧ !s.time.lockedOnce then
    { s with ft := s.ft + BitVec.ofInt 64 off, time := { s.time with stepped := true, slew := 0 } }
  else { s with time := { s.time with stepped := true, slew := off } }

/-- Re-select where there is no source, or where one appears whose hop count is lower by at least 2 (R249). -/
def State.reconsider (s : State) : State :=
  match s.bestSource with
  | some x => if s.time.source = .none ∨ x.2 + 2 ≤ s.time.hops then s.useSource x.1 x.2 else s
  | none => s

/-- Choose among time sources once a time cell has come in on port `n` (R249). -/
def State.chooseSource (s : State) (n : Nat) : State :=
  if s.time.source = .cells n then
    if s.canFollow n then ({ s with time := { s.time with hops := (s.port n).peerHops + 1 } } : State).reconsider else s.sourceLost
  else s.reconsider

/-- FT_CTRL has changed (R249, R266): a PTP source that it no longer lets be the source is lost. -/
def State.recheckPtp (s : State) : State :=
  let s := { s with time := { s.time with ptpSync := s.time.ptpSync.filter s.ptpAllowed } }
  match s.time.source with
  | .ptp k => if s.ptpAllowed k then s else s.sourceLost
  | _ => s.reconsider

/-- The PTP source of an Ethernet port is no longer in sync (R249). -/
def State.ptpLost (s : State) (n : Nat) : State :=
  let s := { s with time := { s.time with ptpSync := s.time.ptpSync.filter (· != n) } }
  if s.time.source = .ptp n then s.sourceLost else s

/-- FT at which a cell passes the PHY boundary of a tensor port (R248). -/
def State.stamp (s : State) (incoming : Bool) : Word :=
  s.ft - BitVec.ofNat 64 (Config.phyLatency s.boot.timingSet incoming)

/-- A time cell has come in on a tensor port: the four stamps, the peer's state, offset and link delay (R248, R276). Stamps of 0 stand
for a cell that has not come in yet. -/
def State.takeTime (s : State) (n : Nat) (p : List Byte) : State :=
  let t3 := word (uAt p 0 8)
  let t1 := word (uAt p 8 8)
  let t2 := word (uAt p 0x10 8)
  let x := s.port n
  let t4 := s.stamp true
  let seen := x.timeSent ≠ 0 ∧ t1 ≠ 0
  let out := (t2 - t1).toInt
  let back := (t4 - t3).toInt
  let x := { x with
    timePeerSent := t3, timeReceived := t4, peerFtState := uAt p 0x18 1, peerHops := uAt p 0x19 1,
    offset := if seen then (out - back) / 2 else x.offset, delay := if seen then (out + back) / 2 else x.delay }
  let s := (s.setPort n x).chooseSource n
  if seen ∧ s.time.source = .cells n then s.discipline x.offset else s

/-- A time cell goes out on a tensor port (R248, R276). -/
def State.sendTime (s : State) (n : Nat) : State :=
  let x := s.port n
  let st := match s.time.state with | .free => 0 | .acquiring => 1 | .locked => 2 | .holdover => 3
  let at_ := s.stamp false
  let pay := le 8 at_.toNat ++ le 8 x.timePeerSent.toNat ++ le 8 x.timeReceived.toNat ++ le 1 st ++ le 1 s.time.hops
  let s := s.setPort n { x with timeSent := at_, timeSentAt := s.now }
  s.putCell n (s.linkCell n 6 3 pay).bytes

/-- TIME_CELL_SEND: every 16 µs on an admitted or discovered port (R248). -/
def execTimeCellSend (n : Nat) (s : State) : Host.Outcome State Fault Refusal :=
  let x := s.port n
  let due := (x.state == .discovered || x.state == .admitted) && decide (x.timeSentAt + ticksUs 16 ≤ s.now)
  onUnit n 16 (if due then s.sendTime n else s).settle

/-- Send the Delay_Req of an exchange (R250). -/
def State.delayRequest (s : State) (x : PtpExchange) : State :=
  ({ s with time := { s.time with ptp := some { x with t3 := some s.ft } } }.send (.delayRequest x.port (s.rf .ftCtrl 4 8) x.seq)).count
    (1184 + 3 * x.port) 90

/-- A message of a PTP source in sync: the delay request-response exchange, one-step or two-step (R250). -/
def State.ptpStep (s : State) (n : Nat) (m : Sys2Proof.PtpMessage) : State :=
  match m.kind with
  | .sync origin =>
    let x : PtpExchange := { port := n, seq := m.seq, t1 := origin.map s.ftOf, t2 := s.ft, t3 := none }
    if origin.isSome then s.delayRequest x else { s with time := { s.time with ptp := some x } }
  | .followUp origin =>
    match s.time.ptp with
    | some x => if x.port = n ∧ x.seq = m.seq ∧ x.t1.isNone then s.delayRequest { x with t1 := some (s.ftOf origin) } else s
    | none => s
  | .delayResponse received =>
    match s.time.ptp with
    | some x =>
      match x.t1, x.t3 with
      | some t1, some t3 =>
        if x.port ≠ n ∨ x.seq ≠ m.seq then s
        else
          let off := ((s.ftOf received - t3).toInt - (x.t2 - t1).toInt) / 2
          let s := { s with time := { s.time with ptp := none } }
          if s.time.source = .ptp n then s.discipline off else s
      | _, _ => s
    | none => s

/-- PTP_MESSAGE: a message of the configured port and domain disciplines fabric time (R249, R250). -/
def execPtpMessage (n : Nat) (m : Sys2Proof.PtpMessage) (s : State) : Host.Outcome State Fault Refusal :=
  let ours := s.ptpAllowed n && m.domain == s.rf .ftCtrl 4 8 && (s.eth n).linkUp
  let good := m.inSync && decide (m.intervalMs ≤ 125)
  let s := if (s.eth n).linkUp then s.count (1185 + 3 * n) (ptpBytes m.kind) else s
  let t :=
    if !ours then s
    else if !good then s.ptpLost n
    else (({ s with time := { s.time with ptpSync := some n } } : State).reconsider).ptpStep n m
  onUnit n 6 t.settle

/-- FT_LOCK: the offset has stayed within ±8 ticks for 1 s (R251); pending commands of a Bench reset settle (R255). -/
def execFtLock (s : State) : Host.Outcome State Fault Refusal :=
  let due := s.time.state == .acquiring && (match s.time.withinSince with | some t => decide (t + ticksS 1 ≤ s.now) | none => false)
  .next (if due then ({ s with time := { s.time with state := .locked, lockedOnce := true } } : State).settleHeld false else s).settle

/-- FT_SOURCE_LOST (R251). -/
def execFtSourceLost (s : State) : Host.Outcome State Fault Refusal :=
  .next (match s.time.source with
    | .cells n => ((s.setPort n { s.port n with peerFtState := 0 }).sourceLost).settle
    | .ptp n => (s.ptpLost n).settle
    | .none => s.settle)

/-- FT_HOLDOVER_EXPIRY: HOLDOVER_MS have passed (R251, R252). -/
def execFtHoldoverExpiry (s : State) : Host.Outcome State Fault Refusal :=
  let due := s.time.state == .holdover && decide (s.time.holdoverSince + ticksMs (s.rf .ftCtrl 20 16) ≤ s.now)
  .next (if due then ({ s with time := { s.time with state := .free, stepped := false } }.ftAlarm).settle else s)

end Sys2Proof.Machine
end

