-- ==== Sys2Proof/Machine/Sequencer.lean ====
section
/-! DEFINITION. The core sequencers (R135 to R142): taking a work entry, fetching an instruction, control flow, sync
counters, POST, PARAM, BIND and CLOSE, and how an item ends (R142, R156). -/

namespace Sys2Proof.Machine

/-! ### Running -/

/-- A core's sequencer runs: it is powered, not clamped, not held by a field test, and no reset of it has been
asserted. A fenced core runs on (R465). From power fail on it issues nothing (R400). -/
def State.coreRuns (s : State) (c : Nat) : Bool :=
  s.power.rails == .on && !s.coreClamped c && !(s.core c).testing &&
    !s.resets.any fun r => (match r.phase with | .asserted _ => true | _ => false) &&
      match r.domain with
      | .core => r.inst == c | .cluster => r.inst == clusterOf c | .die => r.inst == dieOf c | .cold => true | _ => false

/-- The Bench serves the cores: taking entries, reading the tables it keeps. -/
def State.benchServes (s : State) : Bool := s.power.rails == .on && !s.inReset .bench 0

/-- Replace the item of a core. -/
def State.setItem (s : State) (c : Nat) (it : Item) : State :=
  let x := s.core c
  let busy := match x.item with | some y => !y.ops.isEmpty | none => false
  s.setCore c { x with item := some it, progressAt := if busy then x.progressAt else s.now }

/-- An item fails at an instruction: it issues nothing further, and ends once its ops have completed (R142). -/
def State.failItem (s : State) (c : Nat) (it : Item) (st : Status) : State :=
  let it := { it with failed := earlierFailure it.failed (it.instrIndex * 65536) st }
  if it.ops.isEmpty then s.endItem c it (match it.failed with | some f => f.2 | none => st)
  else s.setItem c { it with wait := .ending }

/-- An instruction (R139). `c` has its base added. -/
structure Ins where
  op : Nat
  reserved : Nat
  a : Nat
  b : Nat
  c : Nat
deriving DecidableEq, Repr

/-- Read an instruction of an item (R139). -/
def Item.parse (it : Item) (bs : List Byte) : Ins :=
  let f := uAt bs 1 1
  let base := if f % 4 = 0 then 0 else nth 0 it.args (f % 4 - 1)
  { op := uAt bs 0 1, reserved := f / 4, a := uAt bs 2 2, b := uAt bs 4 4, c := if f % 4 = 0 then uAt bs 8 8 else (uAt bs 8 8 + base) % 2 ^ 48 }

/-- A reserved opcode or a reserved field that is not zero (R139). Fields the table leaves out (—) are not looked at. -/
def Ins.bad (i : Ins) : Bool :=
  i.reserved != 0 || decide (0x11 < i.op) ||
    match i.op with
    | 0x01 => i.a != 0 || decide (65536 < i.b)
    | 0x02 | 0x03 | 0x04 => i.a != 0 || i.b != 0
    | 0x05 => decide (1 < i.a) || i.b != 0
    | 0x06 => i.b != 0
    | 0x07 => decide (15 < i.a) || i.b != 0
    | 0x08 => decide (7 < i.a)
    | 0x09 | 0x0A => i.a != 0 || decide (24576 ≤ i.c)
    | 0x0B => i.a != 0 || decide (49152 ≤ i.b)
    | 0x0C => decide (7 < i.a)
    | 0x0D => decide (7 < i.a)
    | 0x0E => i.a != 0
    | _ => false

/-- Whether an instruction address may be fetched from: Inlay or LPDDR6 (R139, R142), 16-byte aligned. -/
def State.fetchStatus (s : State) (pc : Nat) : Status :=
  if pc % 16 ≠ 0 ∨ regionOf pc = .tray then .badParam else s.opAccess pc 16

/-- The item of a core may issue its next instruction (R142, R154). -/
def State.issues (s : State) (c : Nat) (it : Item) : Bool :=
  s.coreRuns c && it.wait == .none && it.failed.isNone && (s.cring (s.wringCring it.ring)).held.isEmpty

/-- The sequencer of core `c` comes to its next instruction; if its opcode is `op`, `f` is its effect. Whatever row
asks, an instruction that cannot be fetched or is reserved ends the item (R139, R142, R185). -/
def State.atInstr (s : State) (c op : Nat) (f : State → Item → Ins → State) : State :=
  match (s.core c).item with
  | none => s
  | some it =>
    if !s.issues c it then s
    else
      let st := s.fetchStatus it.pc
      if st ≠ .ok then s.failItem c it st
      else
        let t := s.checkRange it.pc 16
        let i := it.parse (t.bytesAt it.pc 16)
        if (t.firstPoison it.pc 16).isSome then
          ((t.account (.core c) it.pc 16 false).replayPoison it.step (granule it.pc) false).failItem c it .poison
        else if i.bad then (t.account (.core c) it.pc 16 false).failItem c it .badParam
        else if i.op ≠ op then s
        else f (t.account (.core c) it.pc 16 false) it i

/-- The item goes on to the next instruction. Its index counts the instructions that it has run (DESIGN CHOICE, assumption
log 111). -/
def Item.onward (it : Item) : Item := { it with pc := (it.pc + 16) % 2 ^ 48, instrIndex := it.instrIndex + 1 }
/-- The item jumps. The target is as written: an address of 2^48 or more is none that can be fetched from (R139). -/
def Item.jump (it : Item) (pc : Nat) : Item := { it with pc := pc, instrIndex := it.instrIndex + 1 }

/-! ### What deferred effects do (R136, R141, R156) -/

/-- Add to a sync counter (R141). -/
def State.signal (s : State) (n : Nat) (inc : BitVec 32) : State :=
  { s with fabric := { s.fabric with counters := tabMod 0 s.fabric.counters n (· + inc) } }

/-- How a POST ends, with `extra` entries posted to the ring before it (R136). -/
def State.postStatus (s : State) (r extra : Nat) : Status :=
  if !s.rbit (wctrl r) 27 then .badParam
  else if s.wringSize r ≤ s.wringCount r + extra then .noResource
  else .ok

/-- Copy an entry into a POST ring (R136). -/
def State.post (s : State) (c r : Nat) (entry : List Byte) : State :=
  let t := s.wringTail r
  (s.store (.core c) (s.wringBase r + t.toNat % s.wringSize r * 64) entry).setWringTail r (t + 1)

/-- First failing POST of a list of deferred effects, each counted with the posts before it (R156). -/
def State.deferredFault (s : State) : List Deferred → List Nat → Status
  | [], _ => .ok
  | .signal _ _ :: r, seen => s.deferredFault r seen
  | .post n _ :: r, seen =>
    let st := s.postStatus n (seen.filter (· == n)).length
    if st = .ok then s.deferredFault r (n :: seen) else st

/-- Apply deferred effects in order (R156). -/
def State.applyDeferred (s : State) (c : Nat) : List Deferred → State
  | [] => s
  | .signal n inc :: r => (s.signal n inc).applyDeferred c r
  | .post n e :: r => (s.post c n e).applyDeferred c r

/-- An item whose ops have all completed ends (R142, R156). -/
def State.finishItem (s : State) (c : Nat) (it : Item) : State :=
  match it.failed with
  | some f => s.endItem c it f.2
  | none =>
    if (s.core c).acc.isSome then s.endItem c it .badParam
    else
      let st := s.deferredFault it.deferred []
      if st = .ok then (s.applyDeferred c it.deferred).endItem c it .ok else s.endItem c it st

/-! ### Taking work (R137, R156, R336) -/

/-- A ring qualifies under R137 on core `c`. -/
def State.ringQualifies (s : State) (r : Nat) : Bool :=
  s.wringOpen r && s.wringCount r != 0 &&
    (s.wringPhase r == 0 || (s.wringPhase r != 7 && s.phaseRuns (s.wringPhase r)))

/-- Rings that qualify on a core, in ascending order. -/
def State.candidates (s : State) (c : Nat) : List Nat :=
  (s.hostedBy c).flatMap fun l => (upFrom (l * 128) 128).filter s.ringQualifies

/-- The queue of check runs as a candidate of the arbiter (R336). -/
def checkQueue : Nat := 49152

/-- A run in the queue wins whatever the pointer says: UPDATE of its step has ended (R336). -/
def State.queueWins (s : State) (c : Nat) : Bool :=
  match s.headRun c with | some r => s.updateOver r.1 | none => false

/-- The candidate that the arbiter of a core chooses (R137, R336): from its pointer up, then from the start. -/
def State.arbitrate (s : State) (c : Nat) : Option Nat :=
  if s.queueWins c then some checkQueue
  else
    let cs := s.candidates c ++ (if (s.headRun c).isSome then [checkQueue] else [])
    match cs.find? (fun r => decide ((s.core c).pointer ≤ r)) with
    | some r => some r
    | none => cs.head?

/-- A core may take work: it runs, is free, holds no record, and neither it nor the Bench is fenced (R154, R465). A core that holds
a record of any ring takes none at all, whichever ring the work would feed (DESIGN CHOICE, assumption log 118). -/
def State.takesWork (s : State) (c : Nat) : Bool :=
  s.coreRuns c && (s.core c).item.isNone && !s.holdsRecord c && !s.inReset .core c && s.benchServes

/-- The arbiter's pointer moves one past the winner (R137). -/
def State.passPointer (s : State) (c r : Nat) : State :=
  let x := s.core c
  s.setCore c { x with pointer := if r = checkQueue then 0 else r + 1 }

/-- What R142 refuses in a work entry. -/
def entryBad (e : List Byte) : Bool :=
  let pc := uAt e 0 8
  pc % 16 != 0 || !(regionOf pc == .inlay || regionOf pc == .lpddr6) || decide (3 < uAt e 0xC 2) ||
    uAt e 0xE 2 != 0 || !zeroFrom e 0x28 0x40

/-- The item of a work entry. -/
def State.itemOfEntry (s : State) (r : Nat) (e : List Byte) (poisoned : Bool) : Item :=
  let res := s.itemStep (s.wringPhase r)
  let step := res.1
  let verdict := res.2
  let e := if poisoned then [] else e
  { ring := r, logical := ringCore r, phase := s.wringPhase r, step := step, verdict := verdict,
    tag := BitVec.ofNat 32 (uAt e 8 4), restartable := bits (uAt e 0xC 2) 0 1 == 1, reportAll := bits (uAt e 0xC 2) 1 1 == 1,
    entryPc := uAt e 0 8, pc := uAt e 0 8, args := [uAt e 0x10 8, uAt e 0x18 8, uAt e 0x20 8],
    loops := List.replicate 8 0, instrIndex := 0, wait := .none, run := none, late := false, ops := [], failed := none, quiet := 0,
    deferred := [], restarted := false }

/-- Take the entry at HEAD of a ring (R137, R142, R185). -/
def State.takeEntry (s : State) (c r : Nat) : State :=
  let a := s.wringEntry r
  let s := s.fetch (.core c) a 64
  let e := s.bytesAt a 64
  let poisoned := (s.firstPoison a 64).isSome
  let it := s.itemOfEntry r e poisoned
  let s := (s.wringTake r).passPointer c r
  let s := (s.setItem c it).trace c 0x0001 (r % 128) it.tag.toNat
  if poisoned then (s.replayPoison it.step ((s.firstPoison a 64).getD a) true).endItem c it .poison
  else if entryBad e then s.endItem c it .badParam
  else s

/-- WORK_ITEM_START: items that run again come first (R156), then the arbiter's ring (R137). -/
def State.startWork (s : State) (c : Nat) : State :=
  if !s.takesWork c then s
  else
    let x := s.core c
    match x.restarts with
    | it :: rest =>
      ((s.setCore c { x with restarts := rest }).setItem c it).trace c 0x0001 (it.ring % 128) it.tag.toNat
    | [] =>
      match s.arbitrate c with
      | some r => if r = checkQueue then s else s.takeEntry c r
      | none => s

/-! ### Control instructions -/

/-- WAIT, BNZ and END: the ops that are awaited have completed. -/
def Item.waited (it : Item) (mask : BitVec 3) : Bool :=
  it.ops.all fun op => !mask.getLsbD (match op.kind with | .tile => 0 | .row => 1 | .transfer => 2)

/-- The trace of a wait that ends (R526); its length is a free value. -/
def State.traceWait (s : State) (c : Nat) (it : Item) : State :=
  { (s.trace c 0x0004 (Config.traceCycles c 4 s.freeDraws).toNat it.pc) with freeDraws := s.freeDraws + 1 }

/-- The jump of BNZ once all ops have completed (R139): the word lies in a Tray. -/
def State.branch (s : State) (c : Nat) (it : Item) (a : Nat) : State :=
  if regionSpan a 4 ≠ .tray then s.failItem c it .badParam
  else if s.opAccess a 4 ≠ .ok then s.failItem c it (s.opAccess a 4)
  else
    match s.translate a with
    | none => s.failItem c it .clamped
    | some p =>
      let s := s.fetch (.core c) p 4
      if (s.firstPoison p 4).isSome then s.failItem c it .poison
      else if uAt (s.bytesAt p 4) 0 4 = 0 then s.setItem c { it.onward with wait := .none }
      else s.setItem c { it.jump (nth 0 it.args 0) with wait := .none }

/-- WAIT (R140). -/
def State.doWait (s : State) (c : Nat) (it : Item) (i : Ins) : State :=
  let m := BitVec.ofNat 3 i.a
  if it.waited m then s.setItem c it.onward else s.setItem c { it with wait := .ops m }

/-- WAITC (R141): the SIGNALs of a router in reset end DEADLINE (R466). -/
def State.doWaitc (s : State) (c : Nat) (it : Item) (i : Ins) : State :=
  if s.routerClosed then s.failItem c it .deadline
  else if i.b ≤ (s.counter i.c).toNat then s.setItem c it.onward
  else s.setItem c { it with wait := .counter i.c (BitVec.ofNat 32 i.b) }

/-- SIGNAL (R141, R156). -/
def State.doSignal (s : State) (c : Nat) (it : Item) (i : Ins) : State :=
  if s.routerClosed then s.failItem c it .deadline
  else if it.restartable then
    s.setItem c { it.onward with deferred := it.deferred ++ [.signal i.c (BitVec.ofNat 32 i.b)] }
  else (s.signal i.c (BitVec.ofNat 32 i.b)).setItem c it.onward

/-- POST (R136, R156): the entry is read when the instruction runs. -/
def State.doPost (s : State) (c : Nat) (it : Item) (i : Ins) : State :=
  let st := s.opAccess i.c 64
  match s.translate i.c with
  | none => s.failItem c it .clamped
  | some p =>
    if st ≠ .ok then s.failItem c it st
    else
      let s := s.fetch (.core c) p 64
      let e := s.bytesAt p 64
      if (s.firstPoison p 64).isSome then s.failItem c it .poison
      else if it.restartable then s.setItem c { it.onward with deferred := it.deferred ++ [.post i.b e] }
      else if s.postStatus i.b 0 = .ok then (s.post c i.b e).setItem c it.onward
      else s.failItem c it (s.postStatus i.b 0)

/-- LOOPSET. -/
def State.doLoopset (s : State) (c : Nat) (it : Item) (i : Ins) : State :=
  s.setItem c { it.onward with loops := setNth it.loops i.a (BitVec.ofNat 32 i.b) }

/-- DJNZ. -/
def State.doDjnz (s : State) (c : Nat) (it : Item) (i : Ins) : State :=
  let v := nth 0 it.loops i.a - 1
  let it := { it with loops := setNth it.loops i.a v }
  s.setItem c (if v = 0 then it.onward else it.jump i.c)

/-- BNZ. -/
def State.doBnz (s : State) (c : Nat) (it : Item) (i : Ins) : State :=
  if it.ops.isEmpty then s.branch c it i.c else s.setItem c { it with wait := .bnz i.c }

/-- JUMP. -/
def State.doJump (s : State) (c : Nat) (it : Item) (i : Ins) : State := s.setItem c (it.jump i.c)

/-- The parameter block of an item's step (R150). -/
def State.paramBlock (s : State) (it : Item) : Option (List Byte) :=
  it.step.bind fun n =>
    match tabFind s.steps.params n with
    | some b => some b
    | none => s.steps.sealedParams.bind fun x => if x.1 = n then some x.2 else none

/-- PARAM (R150). -/
def State.doParam (s : State) (c : Nat) (it : Item) (i : Ins) : State :=
  match s.paramBlock it, s.translate i.c with
  | some b, some p =>
    if regionSpan i.c 256 ≠ .tray then s.failItem c it .badParam
    else if s.opAccess i.c 256 ≠ .ok then s.failItem c it (s.opAccess i.c 256)
    else (s.store (.core c) p (exactly 256 b)).setItem c it.onward
  | none, _ => s.failItem c it .badParam
  | _, none => s.failItem c it .clamped

/-- END: an accumulation that is still open ends the item with BAD_PARAM (R142). -/
def State.doEnd (s : State) (c : Nat) (it : Item) (_ : Ins) : State :=
  if it.ops.isEmpty then s.finishItem c it else s.setItem c { it with wait := .ending }

/-- A slot that a logical core binds: one that another core of the cluster has bound to the same group, by function and rows,
takes both (R63); any other starts empty. -/
def FusedSlot.bound (old : Option FusedSlot) (e : SlotEntry) : FusedSlot :=
  let fresh : FusedSlot := { owners := [e.logical], function := e.function, rows := e.rows, chunks := [] }
  match old with
  | some x =>
    if x.function = e.function ∧ x.rows = e.rows ∧ !x.owners.contains e.logical then { x with owners := x.owners ++ [e.logical] }
    else fresh
  | none => fresh

/-- BIND (R62, R63, R139): the slot of this item's logical core, in the cluster of its host. An entry of another logical core
ends the item with BAD_PARAM (DESIGN CHOICE, assumption log 107). -/
def State.doBind (s : State) (c : Nat) (it : Item) (i : Ins) : State :=
  match (s.itemProgram it).bind fun p => p.slots[i.a]? with
  | some e =>
    if e.logical ≠ it.logical then s.failItem c it .badParam
    else
      let s := s.forgetLost fun x => x == (it.logical, e.slot)
      let k := s.cluster (clusterOf c)
      (s.setCluster (clusterOf c) { k with
        slots := tabPut k.slots e.slot (FusedSlot.bound (tabFind k.slots e.slot) e) }).setItem c it.onward
  | none => s.failItem c it .badParam

/-- WAIT_SATISFIED (R140): the ops that a WAIT, BNZ or END awaits have completed. -/
def State.waitSatisfied (s : State) (c : Nat) : State :=
  match (s.core c).item with
  | none => s
  | some it =>
    if !s.coreRuns c then s
    else
      match it.wait with
      | .ops m => if it.waited m then (s.traceWait c it).setItem c { it.onward with wait := .none } else s
      | .bnz a => if it.ops.isEmpty then (s.traceWait c it).branch c { it with wait := .none } a else s
      | .ending => if it.ops.isEmpty then s.finishItem c it else s
      | _ => s

/-- WAITC_SATISFIED (R141). -/
def State.waitcSatisfied (s : State) (c : Nat) : State :=
  match (s.core c).item with
  | none => s
  | some it =>
    match it.wait with
    | .counter n v =>
      if s.coreRuns c ∧ v.toNat ≤ (s.counter n).toNat then (s.traceWait c it).setItem c { it.onward with wait := .none } else s
    | _ => s

/-! ### Completing ops (R140, R142, R153) -/

/-- Commit the bytes of an op: whole granules are encoded afresh, others are checked and merged (R169, R188). -/
def State.commit (s : State) (c : Nat) (ws : List (Nat × Byte)) (ps : List Nat) : State :=
  s.withMem <|
    let gs := (ws.map fun w => (granule w.1, true)).foldl (fun (t : List (Nat × Bool)) g => tabPut t g.1 true) []
    let n (g : Nat) : Nat := ((List.range 16).filter fun i => ws.any fun w => w.1 == g + i).length
    let s := gs.foldl (fun t g => if n g.1 = 16 then { t with mem := t.mem.setDiff g.1 0 } else t.checkGranule g.1) s
    let s := s.accountBytes (.core c) (ws.map (·.1)) true
    let m := ws.foldl (fun (m : Memory) w => m.setByte w.1 w.2) s.mem
    { s with mem := ps.foldl (fun (m : Memory) g => m.poison g) m }

/-- Remove the first op of a kind. -/
def takeOp (k : OpKind) : List Op → Option (Op × List Op)
  | [] => none
  | o :: r => if o.kind = k then some (o, r) else (takeOp k r).map fun x => (x.1, o :: x.2)

/-- The oldest op of a kind on a core completes (R140): its writes are made, its record written; an item that has failed
ends with its last op. An op whose capture runs is incomplete (R332); one whose ring holds records waits (R154). -/
def State.completeOp (s : State) (c : Nat) (k : OpKind) : State :=
  match (s.core c).item with
  | none => s
  | some it =>
    match takeOp k it.ops with
    | none => s
    | some (op, rest) =>
      if !s.coreRuns c ∨ s.capturing op.unit then s
      else
        let s := s.commit c op.writes op.poisoned
        let res := s.closeOp c { it with ops := rest } op op.status
        let s := res.1
        let it := res.2
        let s := s.originalEnded op.unit op.last op.status
        if it.failed.isSome ∧ it.ops.isEmpty then s.endItem c it (match it.failed with | some f => f.2 | none => .ok)
        else s.setItem c it

/-! ### Rows of the table -/

/-- Answer for a core-numbered row: the effect, then what follows by itself. -/
def onCore (c : Nat) (s' : State) : Host.Outcome State Fault Refusal := onUnit c 384 s'.settle

/-- WORK_ITEM_START. -/
def execWorkItemStart (c : Nat) (s : State) : Host.Outcome State Fault Refusal := onCore c (s.startWork c)
/-- NOP. -/
def execNop (c : Nat) (s : State) : Host.Outcome State Fault Refusal :=
  onCore c (s.atInstr c 0x00 fun t it _ => t.setItem c it.onward)
/-- BIND. -/
def execBind (c : Nat) (s : State) : Host.Outcome State Fault Refusal := onCore c (s.atInstr c 0x06 fun t it i => t.doBind c it i)
/-- WAIT. -/
def execWait (c : Nat) (s : State) : Host.Outcome State Fault Refusal := onCore c (s.atInstr c 0x08 fun t it i => t.doWait c it i)
/-- WAIT_SATISFIED. -/
def execWaitSatisfied (c : Nat) (s : State) : Host.Outcome State Fault Refusal := onCore c (s.waitSatisfied c)
/-- SIGNAL. -/
def execSignal (c : Nat) (s : State) : Host.Outcome State Fault Refusal := onCore c (s.atInstr c 0x09 fun t it i => t.doSignal c it i)
/-- WAITC. -/
def execWaitc (c : Nat) (s : State) : Host.Outcome State Fault Refusal := onCore c (s.atInstr c 0x0A fun t it i => t.doWaitc c it i)
/-- WAITC_SATISFIED. -/
def execWaitcSatisfied (c : Nat) (s : State) : Host.Outcome State Fault Refusal := onCore c (s.waitcSatisfied c)
/-- POST. -/
def execPost (c : Nat) (s : State) : Host.Outcome State Fault Refusal := onCore c (s.atInstr c 0x0B fun t it i => t.doPost c it i)
/-- LOOPSET. -/
def execLoopset (c : Nat) (s : State) : Host.Outcome State Fault Refusal := onCore c (s.atInstr c 0x0C fun t it i => t.doLoopset c it i)
/-- DJNZ. -/
def execDjnz (c : Nat) (s : State) : Host.Outcome State Fault Refusal := onCore c (s.atInstr c 0x0D fun t it i => t.doDjnz c it i)
/-- BNZ. -/
def execBnz (c : Nat) (s : State) : Host.Outcome State Fault Refusal := onCore c (s.atInstr c 0x0E fun t it i => t.doBnz c it i)
/-- JUMP. -/
def execJump (c : Nat) (s : State) : Host.Outcome State Fault Refusal := onCore c (s.atInstr c 0x0F fun t it i => t.doJump c it i)
/-- PARAM. -/
def execParam (c : Nat) (s : State) : Host.Outcome State Fault Refusal := onCore c (s.atInstr c 0x10 fun t it i => t.doParam c it i)
/-- END. -/
def execEnd (c : Nat) (s : State) : Host.Outcome State Fault Refusal := onCore c (s.atInstr c 0x11 fun t it i => t.doEnd c it i)
/-- ROW_OP_COMPLETE. -/
def execRowOpComplete (c : Nat) (s : State) : Host.Outcome State Fault Refusal := onCore c (s.completeOp c .row)
/-- TRANSFER_COMPLETE. -/
def execTransferComplete (c : Nat) (s : State) : Host.Outcome State Fault Refusal := onCore c (s.completeOp c .transfer)

/-! ### Field faults and check runs (R64, R332, R336, R339, R340) -/

/-- Reason code of a field fault (R38, R68, R70). -/
def fieldFaultReason : UnitKind → Nat
  | .core => 4 | .cluster => 3 | .die => 3

/-- UNIT_FIELD_FAULT (R64): the unit is clamped. -/
def execUnitFieldFault (k : UnitKind) (u : Nat) (s : State) : Host.Outcome State Fault Refusal :=
  onUnit u (UnitKind.count k) (s.clampUnit k u (fieldFaultReason k) false).settle

/-- CAPTURE_END. -/
def execCaptureEnd (u : Nat) (s : State) : Host.Outcome State Fault Refusal := .next (s.captureEnd u).settle

/-- The arbiter of a core chooses the queue, and the run at its head is of the asked kind (R336). -/
def State.checkTurn (s : State) (c : Nat) (referee : Bool) : Option Nat :=
  if s.takesWork c && (s.core c).restarts.isEmpty && s.arbitrate c == some checkQueue then
    (s.headRun c).bind fun r => if r.2 = referee then some r.1 else none
  else none

/-- DUPLICATE_RUN. `errs` are bit errors in the check store. -/
def execDuplicateRun (c : Nat) (errs : BitErrors) (wrong : Word) (s : State) : Host.Outcome State Fault Refusal :=
  let s := s.hit errs
  onCore c (match s.checkTurn c false with
    | some u => (s.passPointer c checkQueue).runDuplicate c u wrong
    | none => s).unhit

/-- FINGERPRINT_COMPARE. -/
def execFingerprintCompare (u : Nat) (s : State) : Host.Outcome State Fault Refusal := .next (s.compareUnit u).settle

/-- REFEREE_RUN. -/
def execRefereeRun (c : Nat) (errs : BitErrors) (wrong : Word) (s : State) : Host.Outcome State Fault Refusal :=
  let s := s.hit errs
  onCore c (match s.checkTurn c true with
    | some u => (s.passPointer c checkQueue).runReferee c u wrong
    | none => s).unhit

end Sys2Proof.Machine
end

