-- ==== Sys2Proof/Machine/Compute.lean ====
section
/-! DEFINITION. TILE and ROW (R139, R143 to R149, R331 to R333): what an op reads, what it computes at issue, the fused
row path it feeds, and its capture when it is sampled. -/

namespace Sys2Proof.Machine

/-! ### What an op reads (R140, R182, R185) -/

/-- Device address behind a program's address (R134). -/
def State.physical (s : State) (a : Nat) : Nat := (s.translate a).getD a

/-- Ops of a class that have not completed: later ops of the class see what they will write (R140). -/
def Item.opsOf (it : Item) (k : OpKind) : List Op := it.ops.filter (·.kind = k)

/-- Bytes those ops will write, the latest first. -/
def pendingBytes (ops : List Op) : List (Nat × Byte) := (ops.flatMap (·.writes)).reverse

/-- A byte as an op of the class reads it. -/
def State.opByte (s : State) (overlay : List (Nat × Byte)) (a : Nat) : Byte :=
  let p := s.physical a
  match overlay.find? (·.1 == p) with
  | some x => x.2
  | none => s.byte p

/-- A granule is poisoned for an op of the class: a whole write clears poison, a partial one keeps it (R188). -/
def State.opPoison (s : State) (ops : List Op) (g : Nat) : Bool :=
  ops.foldl (fun p op =>
    if op.poisoned.contains g then true
    else if (List.range 16).all (fun i => op.writes.any (·.1 == g + i)) then false
    else p) (s.mem.isPoisoned g)

/-- Check and account for the granules an op of a core reads (R181, R182, R521). -/
def State.readGranules (s : State) (c : Nat) (as : List Nat) : State :=
  s.withMem (((granuleSet as).foldl (fun t g => t.checkGranule g) s).accountBytes (.core c) as false)

/-- First poisoned granule among those an op reads. -/
def State.firstBad (s : State) (ops : List Op) (as : List Nat) : Option Nat := (granuleSet as).find? (s.opPoison ops ·)

/-- An op of an instruction that has not computed anything. -/
def Item.newOp (it : Item) (k : OpKind) (n : Nat) (st : Status) : Op :=
  { kind := k, instrIndex := it.instrIndex, descIndex := n, tileId := 0, quiet := false, status := st, flags := 0,
    writes := [], poisoned := [], reach := [], unit := none, last := false }

/-- An op is issued. -/
def Item.issue (it : Item) (op : Op) : Item := { it with ops := it.ops ++ [op] }

/-- Read what an op of a core fetches as its descriptor or operation block, which stands at a multiple of its length: the
status, and the bytes (R15, R143, R147, R185). -/
def State.fetchBlock (s : State) (c : Nat) (it : Item) (a n : Nat) : Status × List Byte × State :=
  let st := if a % n ≠ 0 then .badParam else s.opAccess a n
  if st ≠ .ok then (st, [], s)
  else
    let p := s.physical a
    let t := s.fetch (.core c) p n
    match t.firstPoison p n with
    | some g => (.poison, [], t.replayPoison it.step g false)
    | none => (.ok, t.bytesAt p n, t)

/-- Step ID as the generator takes it (R90, R91). -/
def Item.stepBits (it : Item) : BitVec 48 := BitVec.ofNat 48 (it.step.getD 0)

/-- What a defective part adds to the pattern of element `i`. -/
def wrongAt (wrong : List (Nat × Byte)) (i : Nat) : Nat :=
  match wrong.find? (·.1 == i) with | some x => x.2.toNat | none => 0

/-- Close the accumulation of a core. -/
def State.closeAcc (s : State) (c : Nat) : State := let x := s.core c; s.setCore c { x with acc := none }

/-! ### Sampling at issue (R331, R332) -/

/-- Open a check unit for work of an item that is sampled; an item of no step is not (R331 takes its step). -/
def State.sampleUnit (s : State) (c : Nat) (it : Item) (isRow strict : Bool) (r : BitVec 32) (q0 c0 width : Nat) : Option Nat × State :=
  match it.step with
  | some n =>
    if s.sampled r c isRow then
      let attempt := match s.step? n with | some x => x.attempt | none => 0
      let res := s.openUnit n attempt it.verdict isRow strict c q0 c0 width r
      let u := res.1
      let t := res.2
      (some u, t)
    else (none, s)
  | none => (none, s)

/-- Capture what a sampled op reads (R332). -/
def State.captureFor (s : State) (c : Nat) (u : Option Nat) (bs : List Byte) : State :=
  match u with
  | some n => s.capture n c bs
  | none => s

/-- Enter the fingerprint of what a sampled unit wrote (R338, R339). -/
def State.enterPrint (s : State) (u : Option Nat) (ws : List Word) : State :=
  match u.bind fun n => (s.unit n).map fun x => (n, x) with
  | some (n, x) => s.setUnit n { x with fpOriginal := some (fingerprint x.key ws) }
  | none => s

/-! ### TILE (R143 to R146) -/

/-- The trace of a tile at its issue: TILE issued on the core's ring; on the engines' rings the swap and the end of each
row block (R50, R51, R526). Idle cycles before a swap are a free value. -/
def State.traceTile (s : State) (c n : Nat) (d : Desc) : State :=
  let s := s.trace c 0x0003 n d.tile.toNat
  if d.m = 0 then s
  else
    let blk := (d.rows + 3) / 4
    (List.range 4).foldl (fun t j =>
      let e := 384 + 4 * c + (j + d.q) % 4
      let rows := min blk (d.rows - min d.rows (j * blk))
      let t := { (t.trace e 0x0010 (Config.traceCycles e 0x10 t.freeDraws).toNat d.tile.toNat) with freeDraws := t.freeDraws + 1 }
      if rows = 0 then t else t.trace e 0x0011 rows d.tile.toNat) s

/-- The values of one output row as the fused row path takes them (R62, R107): before the output stage converts them
(DESIGN CHOICE, assumption log 26). -/
def Desc.fusedRow (d o : Desc) (rd : Nat → Byte) (store : List AccElem) (r : Nat) : List (BitVec 32) :=
  (List.range d.width).map fun j =>
    (roundIeee (d.outValue o rd (store.getD (r * d.width + j) ⟨0, false, false, false⟩) r j)).1

/-- A tile feeds the fused row path: it is the last of a float accumulation and computes something (assumption log 26). -/
def Desc.feeds (d : Desc) : Bool := d.last && !d.isInt && d.m != 0

/-- The rows of a finished tile go to the slots that its logical core has bound (R62, R63). -/
def State.feedSlots (s : State) (c : Nat) (it : Item) (d o : Desc) (rd : Nat → Byte) (store : List AccElem) : State :=
  if !d.feeds then s
  else
    let k := s.cluster (clusterOf c)
    let chunks (rows : Nat) : List FusedChunk := (List.range d.rows).map fun r =>
      { logical := it.logical, row := if rows = 0 then 0 else (d.outRow + r) % rows, values := d.fusedRow o rd store r }
    s.setCluster (clusterOf c) { k with
      slots := k.slots.map fun e =>
        if e.2.owners.contains it.logical then (e.1, { e.2 with chunks := e.2.chunks ++ chunks e.2.rows }) else e }

/-- The Rabbet stages the A region of a plain transposed streamed operand, transposed, into the staging area at the top of
its core's Tray before the tile's first row (R98, R99). The rows stand there one after another (DESIGN CHOICE, assumption
log 110). -/
def State.stageA (s : State) (c : Nat) (it : Item) (d : Desc) (rd : Nat → Byte) : State :=
  if d.kind ≠ 2 ∨ d.la ∨ d.m = 0 then s
  else
    let b := fmtBits d.fa
    let base := windowEnd it.logical true
    let ws := (pairs d.k d.m).flatMap fun x =>
      elemWrite false base 0 b 0 (x.1 * d.m + x.2) (readElem rd d.la d.a d.pa b x.2 x.1)
    let bs := mergeWrites (fun _ => 0) ws []
    s.store (.core c) (s.physical base) ((upFrom base ((d.m * d.k * b + 7) / 8)).map fun a => (tabFind bs a).getD 0)

/-- What a finished tile or a closed slot of a dry-fit segment wrote is kept for the rerun in backward (R114, R115). -/
def State.keepForward (s : State) (it : Item) (x : Option Nat) (isTile : Bool) (flags : BitVec 6) (ws : List (Nat × Byte)) : State :=
  if it.phase ≠ 2 ∨ !it.verdict then s
  else
    match it.step.bind s.step?, x with
    | some r, some seg => s.noteForward r { segment := seg, logical := it.logical, isTile := isTile, flags := flags, writes := ws }
    | _, _ => s

/-- Dry-fit segment of a tile of an item; none outside dry-fit mode. -/
def State.itemSegment (s : State) (it : Item) (raw : List Byte) : Option Nat :=
  if !it.verdict then none else (it.step.bind s.step?).bind fun r => s.tileSegment r raw

/-- Dry-fit segment of the last tile that forward ran on a logical core: a slot that closes belongs to it. -/
def State.lastSegment (s : State) (it : Item) : Option Nat :=
  (it.step.bind s.step?).bind fun r => ((r.forward.filter fun x => x.logical == it.logical).map (·.segment)).getLast?

/-- A tile that goes on with an accumulation reads the core's accumulator store, which the (144,128) code guards (R47, R182): a
correctable error is corrected and counted; of any other the tile reads poison. -/
def State.checkAccumulator (s : State) (c : Nat) : State × Bool :=
  (s.mem.inflight.filter fun h => h.1 == .accumulator).foldl (fun t h =>
    let u := { t.1 with mem := { t.1.mem with inflight := t.1.mem.inflight.erase h } }
    match decodeSyndrome (syndrome h.2.2) with
    | .clean => (u, t.2)
    | .poisoned => (u, true)
    | .corrected _ _ => (u.noteCorrected, t.2)
    | .uncorrectable =>
      let x := Config.accumulatorGranule c h.2.1
      (u.noteUncorrectable x.2 (x.1 % 16), true)) (s, false)

/-- A tile that passes its checks and whose operands are clean: the accumulation, and at its last tile the output. -/
def State.runTile (s : State) (c : Nat) (it : Item) (n : Nat) (d : Desc) (wrong : List (Nat × Byte)) : State × Item :=
  let ops := it.opsOf .tile
  let rd (a : Nat) : Byte := s.opByte (pendingBytes ops) a
  let acc := (s.core c).acc
  let o := match acc with | some x => parseDesc x.opener | none => d
  let store := match acc with | some x => x.values | none => []
  let strict := match acc with
    | some x => x.strict
    | none => match s.itemProgram it with | some p => p.strict | none => false
  let sampled := match acc with
    | some x => (x.unit, s)
    | none => s.sampleUnit c it false strict (sampleTile it.stepBits d) d.q d.c d.width
  let u := sampled.1
  let s := sampled.2
  let s := s.captureFor c u (d.raw ++ (d.operands o).map rd)
  let s := s.stageA c it d rd
  let res := if d.m = 0 then ([], 0) else d.accumulate rd strict store
  let vs := res.1
  let f := res.2
  let s := s.traceTile c n d
  let op := { it.newOp .tile n .ok with tileId := d.tile, quiet := d.quiet, unit := u, last := d.last }
  if d.last then
    let rows := if d.m = 0 then [] else d.rowsOut o rd it.stepBits vs (fun i => wrongAt wrong (n * 32768 + i))
    let ws := (mergeWrites rd (d.outWrites rows) []).reverse.map fun w => (s.physical w.1, w.2)
    let s := ((s.feedSlots c it d o rd vs).enterPrint u (d.words rows)).closeAcc c
    let s := if d.kind = 0 then s.keepForward it (s.itemSegment it d.raw) true (f ||| d.outFlags rows) ws else s
    (s, it.issue { op with flags := f ||| d.outFlags rows, writes := ws })
  else
    let x := s.core c
    (s.setCore c { x with acc := some { opener := o.raw, strict := strict, values := vs, unit := u } }, it.issue { op with flags := f })

/-- Some loaded program reserves the staging area of every core (R99, R132). -/
def State.staging (s : State) : Bool := s.programs.any (·.2.rabbet)

/-- One descriptor of a TILE instruction: the op it issues, and whether the run goes on. One that fails closes an open
accumulation (R146, R185); a tile that would feed a lost slot of the fused row path ends CLAMPED (R65). An evaluation program
has FWD tiles only, and none once its slot has closed (R129, R131). -/
def State.issueTile (s : State) (c : Nat) (it : Item) (n a : Nat) (wrong : List (Nat × Byte)) : State × Item × Bool :=
  let unit := (s.core c).acc.bind (·.unit)
  let fail (t : State) (st : Status) (d : Option Desc) : State × Item × Bool :=
    let id : BitVec 32 := match d with | some x => x.tile | none => 0
    (t.closeAcc c, it.issue { it.newOp .tile n st with tileId := id, unit := unit }, false)
  if it.late then fail s .deadline none
  else if (s.itemProgram it).isNone then fail s .badParam none
  else
    match s.fetchBlock c it a 128 with
    | (.ok, raw, t) =>
      let d := parseDesc raw
      let opened := (t.core c).acc.map fun x => parseDesc x.opener
      let st := d.check (t.tileWidth c) it.logical t.staging t.dieClamped opened
      if st ≠ .ok then fail t st (some d)
      else if (d.stochastic ∧ it.step.isNone) ∨ (it.phase = 6 ∧ d.kind ≠ 0) then fail t .badParam (some d)
      else if d.feeds ∧ t.feedsLost it.logical then fail t .clamped (some d)
      else
        let ps := (d.reads (opened.getD d)).map t.physical
        let t := t.readGranules c ps
        let store := if opened.isSome then t.checkAccumulator c else (t, false)
        let t := store.1
        match t.firstBad (it.opsOf .tile) ps with
        | some g => fail (t.replayPoison it.step g false) .poison (some d)
        | none =>
          if store.2 then fail t .poison (some d)
          else
          let res := t.runTile c it n d wrong
          let t := res.1
          let it := res.2
          (t, it, true)
    | (st, _, t) => fail t st none

/-- The bytes of a tile descriptor as the stash manager sees it before it is issued; none where it cannot be read. -/
def State.peekTile (s : State) (a : Nat) : Option (List Byte) :=
  if a % 128 = 0 ∧ s.opAccess a 128 = .ok then some (s.bytesAt (s.physical a) 128) else none

/-- Before a tile of a step: in FWD the stash decisions of its layer (R111), in BWD the recompute reserve for its dry-fit
segment (R114). The answer says whether the tile may be issued now (R114, R117). -/
def State.beforeTile (s : State) (it : Item) (a : Nat) : State × Bool :=
  match s.peekTile a, it.step.bind s.step? with
  | some raw, some r =>
    if !it.verdict then (s, true)
    else if it.phase = 2 ∧ uAt raw 0 1 = 0 then
      let t := s.stashDecision r (Config.tileLayer raw)
      (t, match t.step? r.id with | some x => x.exhausted.isNone | none => true)
    else if it.phase = 3 then
      match s.tileSegment r raw with
      | some seg => let t := s.readySegment r seg; (t, t.recomputed r.id seg)
      | none => (s, true)
    else (s, true)
  | _, _ => (s, true)

/-- Tiles of an item that have been issued and have not completed. -/
def Item.tilesOut (it : Item) : Nat := (it.opsOf .tile).length

/-- The item goes on past a TILE instruction whose descriptors have all been fetched, or one of which failed. -/
def Item.runOver (it : Item) : Item := { it.onward with run := none }

/-- Fetch the next descriptors of the TILE instruction under way: at most 8 ahead of the tile that the engines run (R140).
The one that fails is the last one issued: the item then issues nothing further (R142; assumption log 27). The count bounds
the recursion. -/
def State.fetchTiles (c : Nat) : Nat → State → Item → State × Item
  | 0, s, it => (s, it)
  | k + 1, s, it =>
    match it.run with
    | none => (s, it)
    | some r =>
      if 8 < it.tilesOut then (s, it)
      else
        let ready := s.beforeTile it (r.base + 128 * r.next)
        if !ready.2 then (ready.1, it)
        else
          let res := ready.1.issueTile c it r.next (r.base + 128 * r.next) r.wrong
          let it := res.2.1
          if !res.2.2 ∨ r.count ≤ r.next + 1 then (res.1, it.runOver)
          else State.fetchTiles c k res.1 { it with run := some { r with next := r.next + 1 } }

/-- TILE (R139): the run begins, or goes on as far as it may. -/
def State.doTile (s : State) (c : Nat) (it : Item) (i : Ins) (wrong : List (Nat × Byte)) : State :=
  let run : TileRun := match it.run with
    | some r => r
    | none => { base := i.c, count := if i.b = 0 then 65536 else i.b, next := 0, wrong := wrong }
  let res := State.fetchTiles c 9 s { it with run := some run }
  res.1.setItem c res.2

/-- A TILE instruction under way goes on once one of its tiles has completed (R140). -/
def State.moreTiles (s : State) (c : Nat) : State :=
  match (s.core c).item with
  | some it =>
    if it.run.isNone ∨ !s.issues c it then s
    else
      let res := State.fetchTiles c 9 s it
      res.1.setItem c res.2
  | none => s

/-- A recompute run of a core retires (R114, R115): it gives the bits and the flags of the forward run, in the reserve. It
has no record of its own (DESIGN CHOICE, assumption log 22). -/
def State.retireRerun (s : State) (c : Nat) : State :=
  match s.steps.reserve with
  | none => s
  | some x =>
    match x.pending.find? (fun r => s.hostOf r.logical == some c) with
    | none => s
    | some r =>
      if !s.coreRuns c then s
      else
        let y := s.core c
        let s := s.setCore c { y with tilesRetired := if r.isTile then y.tilesRetired + 1 else y.tilesRetired, progressAt := s.now }
        let s := if r.flags = 0 then s else s.setBits (.coreNumFlags c) (r.flags.zeroExtend 64)
        { s with steps := { s.steps with
            reserve := some { x with pending := x.pending.erase r, contents := x.contents ++ r.writes } } }

/-- A tile of a core retires: one that an item issued, else a recompute run (R114, R140); fetching goes on. -/
def State.completeTile (s : State) (c : Nat) : State :=
  let s := match (s.core c).item.bind fun it => takeOp .tile it.ops with
    | some _ => s.completeOp c .tile
    | none => s.retireRerun c
  (List.range 384).foldl (fun t k => t.moreTiles k) s

/-! ### ROW (R147 to R149) -/

/-- A row operation that passes its checks and whose sources are clean. -/
def State.runRow (s : State) (c : Nat) (it : Item) (o : OpBlock) (wrong : List (Nat × Byte)) : State × Item :=
  let rd (a : Nat) : Byte := s.opByte (pendingBytes (it.opsOf .row)) a
  let res := s.sampleUnit c it true false (sampleRow it.stepBits o) 0 0 o.dstLen
  let u := res.1
  let s := res.2
  let s := s.captureFor c u (o.raw ++ o.operands.map rd)
  let res := o.rowElems rd it.stepBits
  let es := res.1
  let scs := res.2.1
  let f := res.2.2
  let bad := o.spoil (wrongAt wrong) es
  let ws := (mergeWrites rd (o.rowWrites bad scs) []).reverse.map fun w => (s.physical w.1, w.2)
  (s.enterPrint u (o.words bad scs), it.issue { it.newOp .row 0 .ok with flags := f, writes := ws, unit := u, last := true })

/-- The op of a ROW instruction. -/
def State.issueRow (s : State) (c : Nat) (it : Item) (a : Nat) (wrong : List (Nat × Byte)) : State × Item :=
  if it.late then (s, it.issue (it.newOp .row 0 .deadline))
  else
  match s.fetchBlock c it a 64 with
  | (.ok, raw, t) =>
    let o := parseOp raw
    if o.rowBad it.logical ∨ (o.stochastic ∧ it.step.isNone) then (t, it.issue (it.newOp .row 0 .badParam))
    else
      let ps := o.rowReads.map t.physical
      let t := t.readGranules c ps
      match t.firstBad (it.opsOf .row) ps with
      | some _ => (t, it.issue (it.newOp .row 0 .poison))
      | none => t.runRow c it o wrong
  | (st, _, t) => (t, it.issue (it.newOp .row 0 st))

/-- ROW (R139). -/
def State.doRow (s : State) (c : Nat) (it : Item) (i : Ins) (wrong : List (Nat × Byte)) : State :=
  let res := s.issueRow c it i.c wrong
  let t := res.1
  let it := res.2
  t.setItem c it.onward

/-- CLOSE (R107): the state is written to the Tray and the slot is free. -/
def State.doClose (s : State) (c : Nat) (it : Item) (i : Ins) : State :=
  let k := s.cluster (clusterOf c)
  match tabFind k.slots i.a with
  | none => s.failItem c it (if k.lost.contains (it.logical, i.a) then .clamped else .badParam)
  | some x =>
    let bs := fusedBytes x.function x.stats
    match s.translate i.c with
    | none => s.failItem c it .clamped
    | some p =>
      if regionSpan i.c bs.length ≠ .tray then s.failItem c it .badParam
      else if s.opAccess i.c bs.length ≠ .ok then s.failItem c it (s.opAccess i.c bs.length)
      else
        let t := (s.store (.core c) p bs).setCluster (clusterOf c) { k with slots := tabDel k.slots i.a }
        (t.keepForward it (t.lastSegment it) false 0 ((upFrom p bs.length).zip bs)).setItem c it.onward

/-- TILE. -/
def execTile (c : Nat) (errs : BitErrors) (wrong : List (Nat × Byte)) (s : State) : Host.Outcome State Fault Refusal :=
  onCore c ((s.hit errs).atInstr c 0x01 fun t it i => t.doTile c it i wrong).unhit
/-- CLOSE. -/
def execClose (c : Nat) (s : State) : Host.Outcome State Fault Refusal := onCore c (s.atInstr c 0x07 fun t it i => t.doClose c it i)
/-- TILE_COMPLETE. -/
def execTileComplete (c : Nat) (s : State) : Host.Outcome State Fault Refusal := onCore c (s.completeTile c)
/-- ROW. -/
def execRow (c : Nat) (errs : BitErrors) (wrong : List (Nat × Byte)) (s : State) : Host.Outcome State Fault Refusal :=
  onCore c ((s.hit errs).atInstr c 0x02 fun t it i => t.doRow c it i wrong).unhit

end Sys2Proof.Machine
end

