-- ==== Sys2Proof/Machine/Transfers.lean ====
section
/-! DEFINITION. COPY, GATHER and SCATTER (R100, R147, R149, R158), and the rules for writes into a Veneer (R126, R359,
R379). -/

namespace Sys2Proof.Machine

/-! ### Writes into a Veneer -/

/-- How an op's write stands towards the Veneers. -/
inductive VeneerWrite where
  | free
  /-- It may not write there (R126). -/
  | refused
  /-- A digest of the Veneer runs, or the twin's gradient has not come (R359, R379). -/
  | waits
  /-- The stream with the twin's gradient ended with a status (R379). -/
  | fails (st : Status)
deriving DecidableEq, Repr

/-- Some byte of `ps` lies in an area. -/
def touches (x : Nat × Nat) (ps : List Nat) : Bool := ps.any fun a => decide (x.1 ≤ a) && decide (a < x.1 + x.2)

/-- A digest of letter `v` runs. -/
def State.digesting (s : State) (v : Nat) : Bool := match s.digests.running with | some r => r.2.1 == v | none => false

/-- The stream that brings the twin's gradient of a step has completed (R312, R379). -/
def State.twinArrived (s : State) (r : StepRec) : Bool :=
  let mine := s.fabric.contexts.filter fun c =>
    match c.2.rx with | some x => x.sender == s.twin.peer && x.step == r.id && !x.ring | none => false
  !mine.isEmpty && mine.all fun c => match c.2.rx with | some x => x.completed | none => false

/-- What an evaluation program never writes beside the Veneers: the spill area and the input slots (R129). -/
def State.evalBarred (s : State) (it : Item) (ps : List Nat) : Bool :=
  it.phase == 6 && (touches s.spillArea ps || (List.range (s.steps.depth + 1)).any fun i => touches (s.inputSlot i) ps)

/-- How an op of an item stands that writes the bytes `ps` (R126, R129, R359, R379). Only the letters of the depth in use count
(R355, R372). -/
def State.veneerWrite (s : State) (it : Item) (ps : List Nat) : VeneerWrite :=
  let own := s.lettersInUse.filter fun v => touches (s.ownVeneer v) ps
  let mirror := if s.mirrorInUse then s.lettersInUse.filter fun v => touches (s.mirrorVeneer v) ps else []
  if s.evalBarred it ps then .refused
  else if own.isEmpty ∧ mirror.isEmpty then .free
  else
    match it.step.bind s.step? with
    | some r =>
      if it.phase ≠ 5 ∨ (own ++ mirror).any (· != r.writes) then .refused
      else if s.digesting r.writes then .waits
      else if mirror.isEmpty ∨ s.twin.role ≠ 1 then .free
      else
        match r.twinFailed with
        | some st => .fails st
        | none => if s.twinArrived r then .free else .waits
    | none => .refused

/-! ### The shared part of a transfer -/

/-- What a transfer does when it may run: bytes it writes by device address, and granules it leaves poisoned; its status. -/
structure Moves where
  writes : List (Nat × Byte)
  poisoned : List Nat
  status : Status
deriving DecidableEq, Repr

/-- The dies whose Inlays some of these bytes lie in. -/
def diesOf (ps : List Nat) : List Nat := rising ((ps.filter fun a => regionOf a == .inlay).map inlayDie)

/-- Issue a transfer whose writes `ps` and reads `rs` are known; none: it waits, and the sequencer stays at the instruction. A
clamp of a die that it reaches breaks it off (R23). -/
def State.issueMoves (s : State) (it : Item) (m : Moves) (ps rs : List Nat) : Option Item :=
  match s.veneerWrite it ps with
  | .waits => none
  | .refused => some (it.issue (it.newOp .transfer 0 .badParam))
  | .fails st => some (it.issue (it.newOp .transfer 0 st))
  | .free => some (it.issue
      { it.newOp .transfer 0 m.status with writes := m.writes, poisoned := m.poisoned, reach := diesOf (ps ++ rs) })

/-- Report the first poisoned granule an op reads where a replay would read it again (R186). -/
def State.reportBad (s : State) (it : Item) (g : Option Nat) : State :=
  match g with | some g => s.replayPoison it.step g false | none => s

/-- Run a transfer instruction: fetch its block, then `f` gives the op, or none while it waits. Once its EVAL slot has closed, an
evaluation program runs nothing more (R129, R131). -/
def State.doTransfer (s : State) (c : Nat) (it : Item) (i : Ins)
    (f : State → OpBlock → State × Option Item) : State :=
  if it.late then s.setItem c (it.issue (it.newOp .transfer 0 .deadline)).onward
  else
  match s.fetchBlock c it i.c 64 with
  | (.ok, raw, t) =>
    match f t (parseOp raw) with
    | (t, some it) => t.setItem c it.onward
    | (_, none) => s
  | (st, _, t) => t.setItem c (it.issue (it.newOp .transfer 0 st)).onward

/-! ### COPY -/

/-- The op of a COPY (R100, R147, R149, R185). -/
def State.copyOp (s : State) (c : Nat) (it : Item) (o : OpBlock) : State × Option Item :=
  let fail (st : Status) : State × Option Item := (s, some (it.issue (it.newOp .transfer 0 st)))
  let res := o.copyRanges
  let src := res.1
  let dst := res.2
  if o.copyFieldsBad then fail .badParam
  else if src.2 = 0 ∨ dst.2 = 0 then (s, some (it.issue (it.newOp .transfer 0 .ok)))
  else if regionSpan src.1 src.2 ≠ .tray ∧ regionSpan dst.1 dst.2 ≠ .tray then fail .badParam
  else if s.opAccess src.1 src.2 ≠ .ok then fail (s.opAccess src.1 src.2)
  else if s.opAccess dst.1 dst.2 ≠ .ok then fail (s.opAccess dst.1 dst.2)
  else
    let ops := it.opsOf .transfer
    let moves := o.copyMoves
    let from_ := moves.map fun m => s.physical m.2
    let t := s.readGranules c from_
    let bad := (granuleSet from_).filter (t.opPoison ops ·)
    let rd (a : Nat) : Byte := t.opByte (pendingBytes ops) a
    let ws := (mergeWrites rd (o.copyWrites rd) []).reverse.map fun w => (t.physical w.1, w.2)
    let spoiled := granuleSet ((moves.filter fun m => bad.contains (granule (t.physical m.2))).map fun m => t.physical m.1)
    let t := t.reportBad it bad.head?
    (t, t.issueMoves it ⟨ws, spoiled, if bad.isEmpty then .ok else .poison⟩ (ws.map (·.1)) from_)

/-! ### GATHER and SCATTER (R158) -/

/-- What GATHER and SCATTER reserve (R147). `add`: SCATTER with a = 1. -/
def OpBlock.listFieldsBad (o : OpBlock) (add : Bool) : Bool :=
  o.fn != 0 || o.flags != 0 || o.spec != 0 || o.tile != 0 || o.scalar != 0 || o.scp != 0 || o.s1 != 0 ||
  decide (o.count = 0) || decide (65536 < o.count) ||
  (if add then o.fs != o.fd || (o.fs != 5 && o.fs != 7) else o.fs != 0 || o.fd != 0)

/-- The index list and the Tray rows of a gather or scatter lie where they must: the list in the Tray window of the
issuing logical core, the rows in a Tray window. -/
def State.listStatus (s : State) (it : Item) (o : OpBlock) : Status :=
  let n := 4 * o.count
  let rows := (o.count - 1) * o.dp + o.len
  if o.s2 < trayOf it.logical ∨ trayOf (it.logical + 1) < o.s2 + n then .badParam
  else if o.len = 0 then s.opAccess o.s2 n
  else if regionSpan o.dst rows ≠ .tray then .badParam
  else if s.opAccess o.s2 n ≠ .ok then s.opAccess o.s2 n
  else s.opAccess o.dst rows

/-- Rows of a gather or scatter as they take effect in list order: bytes written so far, granules spoiled, the status. -/
structure RowState where
  writes : List (Nat × Byte)
  spoiled : List Nat
  status : Status
  stopped : Bool
deriving DecidableEq, Repr

/-- Byte `p` after the rows so far; `rd` reads device addresses. -/
def RowState.read (x : RowState) (rd : Nat → Byte) (p : Nat) : Byte :=
  match x.writes.find? (·.1 == p) with | some w => w.2 | none => rd p

/-- Copy one row. A granule with poison in its source arrives poisoned; one that is written again whole is clean. -/
def RowState.copyRow (x : RowState) (rd : Nat → Byte) (bad : Nat → Bool) (pairs : List (Nat × Nat)) : RowState :=
  let spoiled := granuleSet ((pairs.filter fun m => bad (granule m.2) || x.spoiled.contains (granule m.2)).map (·.1))
  let whole (g : Nat) : Bool := (List.range 16).all fun i => pairs.any fun m => m.1 == g + i
  { x with
    writes := (pairs.map fun m => (m.1, x.read rd m.2)).reverse ++ x.writes,
    spoiled := (x.spoiled.filter fun g => !whole g) ++ spoiled, status := if spoiled.isEmpty then x.status else .poison }

/-- Sum of two elements of SCATTER with a = 1: FP32, or BF16 with FP32 arithmetic (R84, R86). -/
def scatterSum (fmt : Nat) (a b : Nat) : Nat :=
  if fmt = 5 then
    (convert 5 .even false false (val32 (roundIeee ((val32 (BitVec.ofNat 32 (a <<< 16))).add
      (val32 (BitVec.ofNat 32 (b <<< 16))))).1)).1
  else (roundIeee ((val32 (BitVec.ofNat 32 a)).add (val32 (BitVec.ofNat 32 b)))).1.toNat

/-- Add one row into its target; `pairs` are target and source bytes in order. A target granule that is poisoned, or
whose row brings poison, is written poisoned (R185). -/
def RowState.addRow (x : RowState) (fmt : Nat) (rd : Nat → Byte) (bad : Nat → Bool) (pairs : List (Nat × Nat)) : RowState :=
  let w := fmtBits fmt / 8
  let poisoned (g : Nat) : Bool := bad g || x.spoiled.contains g
  let spoiled := granuleSet ((pairs.filter fun m => poisoned (granule m.1) || poisoned (granule m.2)).map (·.1))
  let new := (List.range (pairs.length / w)).flatMap fun k =>
    let ms := (pairs.drop (k * w)).take w
    let a := unle (ms.map fun m => x.read rd m.1)
    let b := unle (ms.map fun m => x.read rd m.2)
    (ms.map (·.1)).zip (le w (scatterSum fmt a b))
  { x with
    writes := new.reverse ++ x.writes, spoiled := x.spoiled ++ spoiled,
    status := if spoiled.isEmpty then x.status else .poison }

/-- One index of a gather (`scatter` none) or scatter (whether it adds): the rows of memory and of the Tray, by device
address. An index whose row is nowhere ends the op after the earlier ones (R158). -/
def State.indexRow (s : State) (o : OpBlock) (scatter : Option Bool) (rd : Nat → Byte) (bad : Nat → Bool) (x : RowState)
    (e : Nat × Nat) : RowState :=
  if x.stopped then x
  else
    let row := o.s0 + e.2 * o.sp
    let tray := o.dst + e.1 * o.dp
    let st := s.opAccess row o.len
    if st ≠ .ok then { x with status := st, stopped := true }
    else
      let mem := (upFrom row o.len).map s.physical
      let own := (upFrom tray o.len).map s.physical
      match scatter with
      | none => x.copyRow rd bad (own.zip mem)
      | some false => x.copyRow rd bad (mem.zip own)
      | some true => x.addRow o.fs rd bad (mem.zip own)

/-- The op of a GATHER or SCATTER. One that addresses the reserved area, by any of its indices, moves nothing (R177). -/
def State.listOp (s : State) (c : Nat) (it : Item) (o : OpBlock) (scatter : Option Bool) : State × Option Item :=
  let fail (st : Status) : State × Option Item := (s, some (it.issue (it.newOp .transfer 0 st)))
  if o.listFieldsBad (scatter == some true) then fail .badParam
  else if s.listStatus it o ≠ .ok then fail (s.listStatus it o)
  else
    let ops := it.opsOf .transfer
    let list := (upFrom o.s2 (4 * o.count)).map s.physical
    let s' := s.readGranules c list
    match s'.firstBad ops list with
    | some g => (s'.reportBad it (some g), some (it.issue (it.newOp .transfer 0 .poison)))
    | none =>
      let earlier := pendingBytes ops
      let idx := (List.range o.count).map fun n => (n, unle ((upFrom (o.s2 + 4 * n) 4).map (s'.opByte earlier)))
      if decide (0 < o.len) && idx.any (fun e => touchesReserved (o.s0 + e.2 * o.sp) o.len) then
        (s', some (it.issue (it.newOp .transfer 0 .badParam)))
      else
      let good := idx.takeWhile fun e => s'.opAccess (o.s0 + e.2 * o.sp) o.len == .ok
      let mem := good.flatMap fun e => (upFrom (o.s0 + e.2 * o.sp) o.len).map s'.physical
      let own := good.flatMap fun e => (upFrom (o.dst + e.1 * o.dp) o.len).map s'.physical
      let sources := match scatter with | none => mem | some false => own | some true => mem ++ own
      let t := s'.readGranules c sources
      let rd (p : Nat) : Byte := match earlier.find? (·.1 == p) with | some x => x.2 | none => t.byte p
      let bad (g : Nat) : Bool := t.opPoison ops g
      let x := idx.foldl (t.indexRow o scatter rd bad) ⟨[], [], .ok, false⟩
      let t := t.reportBad it ((granuleSet sources).find? bad)
      (t, t.issueMoves it ⟨x.writes.reverse, x.spoiled, x.status⟩ (x.writes.map (·.1)) (list ++ sources))

/-- SCATTER (R139, R156): a RESTARTABLE item ends before one that adds. -/
def State.doScatter (s : State) (c : Nat) (it : Item) (i : Ins) : State :=
  if i.a = 1 ∧ it.restartable then s.failItem c it .badParam
  else s.doTransfer c it i fun t o => t.listOp c it o (some (i.a == 1))

/-- COPY. -/
def execCopy (c : Nat) (errs : BitErrors) (s : State) : Host.Outcome State Fault Refusal :=
  onCore c ((s.hit errs).atInstr c 0x03 fun t it i => t.doTransfer c it i fun t o => t.copyOp c it o).unhit
/-- GATHER. -/
def execGather (c : Nat) (errs : BitErrors) (s : State) : Host.Outcome State Fault Refusal :=
  onCore c ((s.hit errs).atInstr c 0x04 fun t it i => t.doTransfer c it i fun t o => t.listOp c it o none).unhit
/-- SCATTER. -/
def execScatter (c : Nat) (errs : BitErrors) (s : State) : Host.Outcome State Fault Refusal :=
  onCore c ((s.hit errs).atInstr c 0x05 fun t it i => t.doScatter c it i).unhit

end Sys2Proof.Machine
end

