-- ==== Sys2Proof/Machine/Cells.lean ====
section
/-! DEFINITION. Cells that arrive (R273 to R279, R287 to R292, R301 to R303), stream timers, the queues of the
collective engines and the bridges. -/

namespace Sys2Proof.Machine

/-! ### What a cell does where it is consumed -/

/-- A receive half that has just completed: digest records are taken in (R360), a poisoned gradient is noted (R379). -/
def State.afterRx (s : State) (n : Nat) (before : Option StreamRx) : State :=
  match (s.context n).rx with
  | some r =>
    let was := match before with | some b => b.completed && b.step == r.step && b.sender == r.sender | none => false
    if !r.completed || was then s
    else
      let s := if r.poison then s.twinStreamFailed r .poison else s
      if r.poison then s
      else if s.digestContext n then s.takeDigest (s.bytesAt r.address r.length)
      else s.takeTransferRecord n r
  | none => s

/-- The collective that a context belongs to goes on (R308). -/
def State.ringGoesOn (s : State) (n : Nat) : State :=
  match s.collOf n with | some base => s.runColl base | none => s

/-- An OPEN reaches its context (R301, R383). A cell of a ring step that has moved to escape is known by its context. -/
def State.arriveOpen (s : State) (c : Cell) : State :=
  let n := c.stream
  let step := uAt c.payload 0x10 6
  if s.mixedOpen n step then s.streamDiscard.failTransfer .mixedStep
  else
    let before := (s.context n).rx
    ((s.takeOpen n c (c.vc == 2 || (decide (4 ≤ c.vc) && (s.collOf n).isSome))).afterRx n before).ringGoesOn n

/-- A DATA cell reaches its context (R301); `n0` is the port it came in on. -/
def State.arriveData (s : State) (n0 : Nat) (c : Cell) : State :=
  let n := c.stream
  match (s.context n).rx with
  | some r =>
    if r.receiving then ((s.takeData (portEdge n0) n r c).afterRx n (some r)).ringGoesOn n else s.streamDiscard
  | none => s.streamDiscard

/-- An ACK reaches its transmit half (R302, R303). -/
def State.arriveAck (s : State) (c : Cell) : State :=
  let n := c.stream
  let p := c.payload
  match (s.context n).tx with
  | some t =>
    if bits (uAt p 8 4) 0 17 ≠ t.destChip ∨ uAt p 0x10 6 ≠ t.step then s
    else
      let flags := uAt p 5 1
      if bits flags 0 1 = 1 then s.txEnds n t (if bits flags 1 1 = 1 then .poison else .ok)
      else
        let count := min (uAt p 0 4) (cellCount t.length)
        if t.acked < count then
          (s.setTx n (some { t with acked := count, sent := max t.sent count, retries := 0, progressAt := s.now })).pump n
        else s
  | none => s

/-- A LINK_DARK notice (R288): routed cells stop at once and return to routing. -/
def State.takeDark (s : State) (n : Nat) (p : List Byte) : State :=
  (s.setPort n { s.port n with darkNotice := some (word (uAt p 0 8)) }).reroute

/-- A CREDIT cell (R276, R279). -/
def State.takeCredits (s : State) (n : Nat) (p : List Byte) : State :=
  let x := s.port n
  (s.setPort n { x with
    credits := (List.range 6).map fun vc => min (bufferCells vc) (nth 0 x.credits vc + uAt p vc 1) }).flushPort n

/-! ### Ingress (R291) -/

/-- TYPE is defined and the channel is one that R274 and R280 allow for it. -/
def typeAllowed (typ vc : Nat) : Bool :=
  match typ with
  | 0 | 1 => vc == 0 || vc == 2 || vc == 4 || vc == 5
  | 2 => vc == 1 || vc == 4 || vc == 5
  | 3 | 4 | 5 => vc == 3 || vc == 4 || vc == 5
  | 6 => vc == 3
  | 7 | 8 => vc == 6
  | _ => false

/-- Address that the poison log shows for payload granule `k` of a cell: where a stream of this module puts it, else none that a rule
names. -/
def State.cellAddress (s : State) (bs : List Byte) (k : Nat) : Nat :=
  let c := parseCell bs
  match (if c.typ = 1 ∧ c.dest = s.chip then (s.context c.stream).rx else none) with
  | some r => match r.cellOf c.tail with | some i => r.address + 48 * (i - 1) + 16 * k | none => Config.granuleAddress bs
  | none => Config.granuleAddress bs

/-- The receiving port checks the granules of a cell (R182, R275): corrections are counted, an uncorrectable granule is counted,
captured and reported with medium 5 (R184, R197, R198). -/
def State.checkCell (s : State) (bs : List Byte) : State :=
  let found := arrivedGranules bs
  let s := found.1.foldl (fun t _ => t.noteCorrected) s
  found.2.foldl (fun t k => t.noteUncorrectable (t.cellAddress bs k) 5) s

/-- A cell whose payload is no data has no effect where a granule of it is poisoned (R184; DESIGN CHOICE, assumption log 124). -/
def Cell.spoilt (c : Cell) : Bool := c.typ != 1 && !c.poison.isEmpty

/-- A routed cell is for this module (R278): to a stream or to the seal logic. -/
def State.eject (s : State) (n : Nat) (c : Cell) : State :=
  if c.spoilt then s
  else
  match c.typ with
  | 0 => s.arriveOpen c
  | 1 => s.arriveData n c
  | 2 => s.arriveAck c
  | 3 => s.takeVerdict (if c.detour then none else some (n / 2)) c.payload
  | 4 => let x := outcomeOf false c.payload; s.takeOutcome x.1 x.2
  | 5 => let x := outcomeOf true c.payload; s.takeOutcome x.1 x.2
  | _ => s

/-- Checks 5 to 7 of R291 for a routed cell. Its buffer is free again, and a credit owed, unless it goes on. -/
def State.routed (s : State) (n : Nat) (bs : List Byte) : State :=
  let c := parseCell bs
  let tag := s.fabric.partition.tag
  if c.ptag ≠ tag ∨ tag = 0 ∨ 0xFFF ≤ tag then (s.oweCredit (some n) c.vc).discard n 2 5 bs
  else if c.dest = s.chip then (s.oweCredit (some n) c.vc).eject n c
  else s.forward c (some n)

/-- A cell that comes in at a port, past the codeword check (R291). `link`: it came on a tensor port's own link, where
link-local cells belong; `full`: routed cells are taken. -/
def State.ingress (s : State) (n : Nat) (bs : List Byte) (link full : Bool) : State :=
  if !cellCrcOk bs then s.discard n 1 2 bs
  else
    let c := parseCell bs
    if !typeAllowed c.typ c.vc then s.discard n 1 3 bs
    else
    let s := s.checkCell bs
    if 6 ≤ c.typ then
      if !link ∨ c.spoilt then s
      else if c.typ = 6 then s.takeTime n c.payload
      else if c.typ = 7 then s.takeDark n c.payload
      else s.takeCredits n c.payload
    else if !full ∨ s.routerClosed then s
    else s.routed n bs

/-- A cell arrives on a tensor port, which counts it (R291, R521). `want` is the TYPE the row names; a cell that a check
refuses before its TYPE counts is discarded whatever the row. Outside ADMITTED the port takes link-local cells only
(R211, R212). -/
def State.arriveCell (s : State) (n : Nat) (bs : List Byte) (want : Nat) : State :=
  let p := s.port n
  let bs := exactly 64 bs
  let c := parseCell bs
  if p.state ≠ .discovered ∧ p.state ≠ .admitted then s
  else if cellCrcOk bs ∧ typeAllowed c.typ c.vc ∧ c.typ ≠ want then s
  else (s.count (1137 + 3 * n) 64).ingress n bs true (p.state == .admitted)

/-- A row whose port is a tensor port. -/
def onPort (n : Nat) (s' : State) : Host.Outcome State Fault Refusal := onUnit n 16 s'.settle

/-- OPEN. -/
def execOpen (n : Nat) (bs : List Byte) (s : State) : Host.Outcome State Fault Refusal := onPort n (s.arriveCell n bs 0)
/-- DATA. -/
def execData (n : Nat) (bs : List Byte) (s : State) : Host.Outcome State Fault Refusal := onPort n (s.arriveCell n bs 1)
/-- ACK. -/
def execAck (n : Nat) (bs : List Byte) (s : State) : Host.Outcome State Fault Refusal := onPort n (s.arriveCell n bs 2)
/-- VERDICT. -/
def execVerdict (n : Nat) (bs : List Byte) (s : State) : Host.Outcome State Fault Refusal := onPort n (s.arriveCell n bs 3)
/-- SEAL. -/
def execSeal (n : Nat) (bs : List Byte) (s : State) : Host.Outcome State Fault Refusal := onPort n (s.arriveCell n bs 4)
/-- RECALL. -/
def execRecall (n : Nat) (bs : List Byte) (s : State) : Host.Outcome State Fault Refusal := onPort n (s.arriveCell n bs 5)
/-- TIME. -/
def execTime (n : Nat) (bs : List Byte) (s : State) : Host.Outcome State Fault Refusal := onPort n (s.arriveCell n bs 6)
/-- LINK_DARK. -/
def execLinkDark (n : Nat) (bs : List Byte) (s : State) : Host.Outcome State Fault Refusal := onPort n (s.arriveCell n bs 7)
/-- CREDIT. -/
def execCredit (n : Nat) (bs : List Byte) (s : State) : Host.Outcome State Fault Refusal := onPort n (s.arriveCell n bs 8)

/-! ### Timers of the router (R279, R280, R290, R292) -/

/-- Rows that need a port whose router runs. -/
def State.portRuns (s : State) (n : Nat) : Bool := (s.port n).state == .admitted && !s.routerClosed

/-- The queues of the router by number: 0 to 15 the egress queues of a port, 16 + d the cells packed for the bridge of direction d,
24 + n the ingress buffers of port n, 40 the cells of this module that wait for an output. -/
def State.routerQueue (s : State) (k : Nat) : List QueuedCell :=
  if k < 16 then (s.port k).egress
  else if k < 24 then match s.fabric.bridges.find? (·.1 == k - 16) with | some b => b.2.1 | none => []
  else if k < 40 then s.fabric.waiting.filter fun q => q.ingress == some (k - 24)
  else s.fabric.waiting.filter fun q => q.ingress.isNone

/-- Channel of the queue that a cell stands in: where it waits to be routed, that it came in on. -/
def queueVc (k : Nat) (q : QueuedCell) : Nat := if k < 24 then cellVc q.bytes else q.vc

/-- A cell at the head of its queue of channel `vc` since `age` ticks at least. -/
def State.oldHead (s : State) (k vc age : Nat) : Option QueuedCell :=
  (s.routerQueue k).find? fun q =>
    queueVc k q == vc && (match q.headAt with | some t => decide (t + age ≤ s.now) | none => false)

/-- Take a cell out of its queue. -/
def State.takeOut (s : State) (k : Nat) (q : QueuedCell) : State :=
  if k < 16 then s.setEgress k ((s.port k).egress.erase q)
  else if k < 24 then match s.fabric.bridges.find? (·.1 == k - 16) with
    | some b => s.setBridge (k - 16) (b.2.1.erase q) b.2.2
    | none => s
  else s.setWaiting (s.fabric.waiting.erase q)

/-- CELL_ESCAPE: the head of VC0 to VC3 has waited 64 network cycles and the escape port has a credit (R280). A network
cycle is one 2.5 GHz cycle: 32 ticks are 64 cycles. The cell is routed from where it came in, on escape. -/
def execCellEscape (k vc : Nat) (s : State) : Host.Outcome State Fault Refusal :=
  let t :=
    if 3 < vc ∨ s.routerClosed then s
    else
      match s.oldHead k vc 32 with
      | some q =>
        let x := { parseCell q.origin with vc := 4, dateline := false }
        let s' := s.takeOut k q
        match s'.route x q.ingress true with
        | .out o detour hop =>
          let y := s'.leaving x q.ingress o detour hop
          if s'.hasCredit o y.vc then
            s'.withRouter (s'.enqueue o { q with bytes := y.bytes, origin := x.bytes })
          else s
        | _ => s
      | none => s
  onUnit k 41 t.settle

/-- CELL_STALL_DISCARD: the head of a channel has waited STALL_US without an output (R290). -/
def execCellStallDiscard (k vc : Nat) (s : State) : Host.Outcome State Fault Refusal :=
  let t :=
    match s.oldHead k vc (ticksUs (s.rf .netRouteCtrl 0 10)) with
    | some q => (s.takeOut k q).unroutable q
    | none => s
  onUnit k 41 t.settle

/-- CREDIT_RETURN: credits owed go out in a CREDIT cell (R276, R279). -/
def execCreditReturn (n : Nat) (s : State) : Host.Outcome State Fault Refusal :=
  let p := s.port n
  let t :=
    if (p.state ≠ .admitted ∧ p.state ≠ .discovered) ∨ p.owed.all (· == 0) then s
    else
      let now := p.owed.map fun k => min 255 k
      let s' := s.setPort n { p with owed := p.owed.map (fun k => k - min 255 k), owedSince := s.now }
      s'.putCell n (s'.linkCell n 8 6 (now.flatMap (le 1))).bytes
  onPort n t

/-- THROTTLE_RECOVERY: every microsecond of fabric time, on every tensor port (R292). -/
def execThrottleRecovery (s : State) : Host.Outcome State Fault Refusal :=
  .next ((List.range 16).foldl (fun t n =>
    let p := (t.port n).refill t.now
    if p.state = .admitted ∧ p.qPrev < t.rf .netThrottle 0 8 then
      t.setPort n { p with rate := min 256 (p.rate + t.rf .netThrottle 32 8) }
    else t) s)

/-! ### Streams (R301, R302) -/

/-- STREAM_RETRY_TIMEOUT. -/
def execStreamRetryTimeout (n : Nat) (s : State) : Host.Outcome State Fault Refusal :=
  let t := match (s.context n).tx with
    | some t =>
      if s.routerClosed ∨ s.now < t.progressAt + s.streamTimeout then s
      else if s.streamRetries ≤ t.retries then s.txEnds n t .timeout
      else s.retryTx n t
    | none => s
  onUnit n 16384 t.settle

/-- STREAM_RECEIVE_TIMEOUT: the receive half returns to IDLE; what it served fails with TIMEOUT (R301, R314, R346). -/
def execStreamReceiveTimeout (n : Nat) (s : State) : Host.Outcome State Fault Refusal :=
  let t := match (s.context n).rx with
    | some r =>
      if !r.receiving ∨ s.routerClosed ∨ s.now < r.lastAt + s.streamTimeout * (s.streamRetries + 1) then s
      else s.rxFails n r .timeout
    | none => s
  onUnit n 16384 t.settle

/-- BRIDGE_PACK_TIMEOUT: 200 ns after the first cell a packet goes out as it is (R315). -/
def execBridgePackTimeout (d : Nat) (s : State) : Host.Outcome State Fault Refusal :=
  let due := match s.fabric.bridges.find? (·.1 == d) with | some b => decide (b.2.2 + 250 ≤ s.now) | none => false
  onUnit d 8 (if due then s.withRouter (s.flushBridge d) else s).settle

/-- STREAM_DESCRIPTOR_START (R305): poison in the ring is data that a replay reads (R186). -/
def execStreamDescriptorStart (q : Nat) (s : State) : Host.Outcome State Fault Refusal :=
  let a := s.sqEntry q 0
  let looks := s.sqOpen q && s.sqCount q != 0 && !s.queueHeld q
  let c := if looks then s.checkRange a 64 else s
  let t := if looks then (match c.firstPoison a 64 with
    | some g => c.replayPoison (c.newest.map (·.id)) g true
    | none => c) else s
  onUnit q 16 (if s.power.rails == .on ∧ !s.routerClosed then t.streamDescriptorStart q else s).settle

end Sys2Proof.Machine
end

