-- ==== Sys2Proof/Machine/Lanes.lean ====
section
/-! DEFINITION. Tensor ports (R202, R203, R207, R208, R211 to R224, R236 to R241): states, admission, lane rotation, lane
failure and restriping. `txData` and `rxData` keep the numbering of four lanes; a lane that three-lane mode leaves out
reads 7. -/

namespace Sys2Proof.Machine

/-! ### States -/

/-- Code of a port state (R211). -/
def PortState.code : PortState → Nat
  | .down => 0 | .training => 1 | .discovered => 2 | .admitted => 3 | .dark => 4

/-- Count a rotation skipped or abandoned (R238). -/
def TensorPort.abort (p : TensorPort) : TensorPort := { p with aborted := satAdd p.aborted 1 }

/-- A rotation ends: the next one takes the next logical lane (R215). -/
def TensorPort.nextLane (p : TensorPort) : TensorPort := { p with nextLogical := (p.nextLogical + 1) % 4, txRot := none }

/-- A rotation of the transmit direction is in progress that R218 can abandon: MIRROR has gone out and it does not follow
a lane failure. -/
def TensorPort.rotating (p : TensorPort) : Bool :=
  match p.txRot with | some (_, _, .mirrorSent, false) => true | some (_, _, .trainSent, false) => true | _ => false

/-- All lane sequences of a port end (R218, R223). -/
def TensorPort.endSequences (p : TensorPort) : TensorPort :=
  let p := if p.rotating then p.abort.nextLane else { p with txRot := none }
  { p with rxMirror := none, rxTraining := none, rxLaneFail := [], rxAnswer := none, txOnce := none }

/-- A port changes its state, with its trace (R211, R214, R223, R279, R526). What it holds returns to routing (R287), and
a time source on it is lost (R249). Credits start full after a bring-up only (R279). -/
def State.portTo (s : State) (n : Nat) (st : PortState) : State :=
  let p := s.port n
  if p.state = st then s
  else
    let q : TensorPort := { (if p.state = .admitted then p.endSequences else p) with state := st }
    let q : TensorPort := match st with
      | .down | .dark => { q with peerValid := false, peerMismatch := false, darkNotice := none, peerFtState := 0, timeSent := 0 }
      | .training => { q with trainingSince := s.now, darkNotice := none }
      | .discovered =>
        if p.state = .training then
          { q with credits := (List.range 6).map bufferCells, owed := [0, 0, 0, 0, 0, 0], rate := 256, qPrev := 0, markerCount := 0,
                   markerAt := s.now, rxWords := 0, laneSymbols := [0, 0, 0, 0, 0] }
        else q
      | .admitted => { q with peerMismatch := false, rate := 256, tokens := 65536, tokensAt := s.now }
    let s := (s.setPort n q).trace (1920 + n) 0x0020 st.code (if q.peerValid then field q.peer 0 17 else 0)
    let s := if (st = .down ∨ st = .dark) ∧ s.time.source = .cells n then s.sourceLost else s
    s.reroute

/-- A bring-up starts where signal is present and the port's router runs (R211). -/
def State.bringUp (s : State) (n : Nat) : State :=
  if (s.port n).signal ∧ !s.routerClosed ∧ s.power.rails = .on ∧ !s.power.dark then s.portTo n .training else s

/-- RETRAIN (R214): DOWN, and a bring-up at once. -/
def State.retrainPort (s : State) (n : Nat) : State := (s.portTo n .down).bringUp n

/-- The peer is the one PORT_Tn_ADMIT names (R212). -/
def State.peerMatches (s : State) (n : Nat) : Bool :=
  let w := (s.port n).peer
  (s.rbit (.portAdmit n) 17 || field w 0 17 == s.rf (.portAdmit n) 0 17) && field w 32 4 == s.rf (.portAdmit n) 18 4

/-- PORT_PEER (R212). -/
def State.portPeer (s : State) (n : Nat) : State :=
  let w := (s.port n).peer
  s.emit (event 0x000C .fabric .ok (le 1 n ++ le 1 (field w 32 4) ++ zeros 2 ++ le 4 (field w 0 17)))

/-- The admission test (R212). PORT_PEER is sent when the mismatch is found, and again when the peer changes (`anew`). -/
def State.admitTest (s : State) (n : Nat) (anew : Bool) : State :=
  let p := s.port n
  if !p.peerValid then s
  else
    let same := s.peerMatches n
    let admits := same && s.rbit (.portAdmit n) 22
    let s := s.setPort n { p with peerMismatch := !same }
    match p.state with
    | .discovered =>
      if admits then s.portTo n .admitted
      else if !same ∧ (anew ∨ !p.peerMismatch) then s.portPeer n
      else s
    | .admitted => if admits then s else if same then s.portTo n .discovered else (s.portTo n .discovered).portPeer n
    | _ => s

/-- Fields of a discovery word that are not reserved (R207). -/
def peerMask : Word := 0x1F1FFFFFFF

/-- A discovery word with a valid CRC (R212, R213, R239). -/
def State.takeWord (s : State) (n : Nat) (w : Word) : State :=
  let p := s.port n
  if p.state ≠ .discovered ∧ p.state ≠ .admitted then s
  else
    let w := w &&& peerMask
    let anew := !p.peerValid || field w 0 17 != field p.peer 0 17 || field w 32 4 != field p.peer 32 4
    ((s.setPort n { p with peer := w, peerValid := true }).admitTest n anew).reroute

/-! ### Lane maps -/

/-- Physical lanes of a usable map, rising. -/
def usableLanes (m : BitVec 5) : List Nat := (List.range 5).filter fun p => m.getLsbD p

/-- Data lanes and shim lane after bring-up: the lanes that train, in rising order (R202, R224). -/
def lanesOf (m : BitVec 5) : List Nat × Nat :=
  let u := usableLanes m
  ((List.range 4).map fun i => u.getD i 7, u.getD 4 7)

/-- Bit of a physical lane. -/
def laneBit (p : Nat) : BitVec 5 := BitVec.ofNat 5 (2 ^ p)

/-- Three-lane mode of either direction. -/
def TensorPort.withMode (p : TensorPort) : TensorPort := { p with threeLane := p.txData.contains 7 || p.rxData.contains 7 }

/-- The logical lane on a physical lane. -/
def logicalOn (l : List Nat) (phys : Nat) : Option Nat := (List.range 4).find? fun i => nth 7 l i == phys && phys != 7

/-! ### Marker blocks (R205 to R208) -/

/-- The sync pattern of a marker block (R207). -/
def markerSync : Nat := 0x9E3C5A1D0F66C3A5

/-- A marker block without its CRC: 40 bytes, most significant byte first (R207). -/
def markerHead (lane role count code arg discovery margin : Nat) : List Byte :=
  be 8 markerSync ++ be 1 lane ++ be 1 role ++ be 2 count ++ be 1 code ++ be 1 arg ++ be 2 0 ++ be 8 discovery ++ be 8 margin ++ be 8 0

/-- CRC-16 of 40 bytes (R207). -/
def markerCrc (bs : List Byte) : Nat := crcBytes 16 0x1021 bs 0xFFFF

/-- A whole marker block, 42 bytes. -/
def markerBlock (lane role count code arg discovery margin : Nat) : List Byte :=
  let h := markerHead lane role count code arg discovery margin
  h ++ be 2 (markerCrc h)

/-- A value of bytes, most significant first. -/
def unbe (bs : List Byte) : Nat := unle bs.reverse

/-- A marker block as received: whole, in lock, its CRC valid (R206, R207). -/
def blockOk (b : List Byte) : Bool :=
  b.length == 42 && unbe (slice b 0 8) == markerSync && unbe (slice b 40 2) == markerCrc (slice b 0 40)

/-- The blocks of a slot whose CRC is valid. -/
def validBlocks (slot : List (List Byte)) : List (List Byte) := slot.filter blockOk

/-- The control code of a slot with its argument: that of the valid blocks, none where they disagree (R208). -/
def slotCode (slot : List (List Byte)) : Option (Nat × Nat) :=
  match (validBlocks slot).map fun b => (uAt b 12 1, uAt b 13 1) with
  | [] => none
  | c :: r => if r.all (· == c) then some c else none

/-- The discovery word of a slot: that of its last valid block (R207, R208, R239). -/
def slotWord (slot : List (List Byte)) : Option Word := ((validBlocks slot).getLast?).map fun b => word (unbe (slice b 16 8))

/-- The discovery word that a port sends (R207, R213). -/
def State.ownWord (s : State) (n : Nat) : Nat :=
  place s.chip 0 17 + place s.fabric.partition.tag 17 12 + place n 32 4 + placeB ((s.port n).state == .admitted) 36

/-- Role of a physical lane that sends (R207). A lane out of service says so (DEDUCED, assumption log 128). -/
def TensorPort.role (p : TensorPort) (phys : Nat) : Nat :=
  match logicalOn p.txData phys with
  | some i => i
  | none => if p.txShim = phys then 0xFE else 0xFF

/-- A physical lane carries a training pattern instead of markers (R206, R216, R218). -/
def TensorPort.trains (p : TensorPort) (phys : Nat) : Bool :=
  match p.txRot with | some (_, x, .trainSent, _) => x == phys | some (_, x, .retrain, _) => x == phys | _ => false

/-- Control codes that a port has to send, with their arguments (R208, R216, R219, R221): a RESTRIPE code, the request of a lane
sequence, the answer of the receiver, a failed lane. Each but the first is repeated until its answer comes. -/
def TensorPort.codes (p : TensorPort) : List (Nat × Nat) :=
  match p.txOnce with
  | some c => [c]
  | none =>
    (match p.txRot with
      | some (l, _, .mirrorSent, _) => [(1, l)]
      | some (_, x, .trainSent, _) => [(4, x)]
      | some (_, x, .retrain, _) => [(4, x)]
      | none => []) ++
    (match p.rxAnswer with | some a => [a] | none => []) ++ (p.rxLaneFail.head?.map fun x => (7, x)).toList

/-- The control code of the next marker slot. Where several wait they take turns by the marker count (DESIGN CHOICE, assumption log
128: a block holds one code). -/
def TensorPort.codeNow (p : TensorPort) : Nat × Nat := nth (0, 0) p.codes (p.markerCount.toNat % max 1 p.codes.length)

/-- The marker slot that a port sends now (R206, R207): the block of each physical lane, none on a lane that trains. The margin word
goes with an answer about a trained lane. -/
def State.slotNow (s : State) (n : Nat) : List (List Byte) :=
  let p := s.port n
  let c := p.codeNow
  (List.range 5).map fun phys =>
    if p.trains phys then []
    else markerBlock phys (p.role phys) p.markerCount.toNat c.1 c.2 (s.ownWord n) (if c.1 = 5 ∨ c.1 = 6 then p.margin.toNat % 2 ^ 32 else 0)

/-- Ticks from one marker slot to the next: 4,097 codewords of 2 ticks; in three-lane mode 185,732 symbols of a lane, 17 a tick (R204,
R205, R222). -/
def TensorPort.slotTicks (p : TensorPort) : Nat := if p.threeLane then 185732 / 17 else 4097 * 2

/-- Send the marker slot of a port. -/
def State.sendSlot (s : State) (n : Nat) : State :=
  let p := s.port n
  let s := s.send (.marker n (s.slotNow n))
  s.setPort n { p with markerCount := p.markerCount + 1, markerAt := s.now, txOnce := none }

/-- Marker slots that are due on ports in service. -/
def State.sendMarkers (s : State) : State :=
  s.ports.foldl (fun t e =>
    let p := t.port e.1
    if (p.state = .admitted ∨ p.state = .discovered) ∧ p.markerAt + p.slotTicks ≤ t.now then t.sendSlot e.1 else t) s

/-- A control code is to go out in the markers of a port: its trace (R208, R526). -/
def State.sendMarker (s : State) (n code arg : Nat) : State := s.trace (1920 + n) 0x0021 code arg

/-- The receiver answers a request (R208): its markers say so until it is asked again (DESIGN CHOICE, assumption log 128: no rule
names an answer to an answer). -/
def State.answerMarker (s : State) (n code arg : Nat) : State :=
  (s.setPort n { s.port n with rxAnswer := some (code, arg) }).sendMarker n code arg

/-- A control code has come in: its trace. -/
def State.gotMarker (s : State) (n code arg : Nat) : State := s.trace (1920 + n) 0x0021 (0x8000 + code) arg

/-- A port whose markers count. -/
def State.markersRun (s : State) (n : Nat) : Bool := (s.port n).state == .admitted || (s.port n).state == .discovered

/-- A marker slot on a port in service whose code is `code`; a slot of another code does nothing here. `f` takes the argument. -/
def State.onMarker (s : State) (n code : Nat) (slot : List (List Byte)) (f : State → TensorPort → Nat → State) : State :=
  match slotCode slot with
  | some (c, arg) => if s.markersRun n ∧ c = code then let t := s.gotMarker n code arg; f t (t.port n) arg else s
  | none => s

/-! ### The transmitter (R215 to R223) -/

/-- The transmitter starts to mirror a logical lane onto the shim lane. -/
def State.startMirror (s : State) (n lane phys : Nat) (fail : Bool) : State :=
  (s.setPort n { s.port n with txRot := some (lane, phys, .mirrorSent, fail), mirrorAt := s.now }).sendMarker n 1 lane

/-- The 250 ms instant of a port (R215). -/
def State.rotateLane (s : State) (n : Nat) : State :=
  let p := s.port n
  let lane := p.nextLogical
  if p.state = .admitted ∧ !p.threeLane ∧ p.txShim ≠ 7 ∧ s.rbit (.portJig n) 32 ∧ p.txRot.isNone then
    s.startMirror n lane (nth 7 p.txData lane) false
  else s.setPort n p.abort

/-- STEER_ACK (R216, R220). -/
def State.takeSteerAck (s : State) (n lane : Nat) (p : TensorPort) : State :=
  match p.txRot with
  | some (l, x, .mirrorSent, fail) =>
    if l ≠ lane ∨ p.txShim = 7 then s
    else
      let p := { p with txData := setNth p.txData l p.txShim, txShim := 7 }
      if fail then s.setPort n { p with txFailed := p.txFailed ||| laneBit x, txRot := none }
      else (s.setPort n { p with txRot := some (l, x, .trainSent, false) }).sendMarker n 4 x
  | _ => s

/-- STEER_NAK (R218): the rotation is abandoned, the shim lane trains in place. -/
def State.takeSteerNak (s : State) (n lane : Nat) (p : TensorPort) : State :=
  match p.txRot with
  | some (l, _, .mirrorSent, false) =>
    if l ≠ lane ∨ p.txShim = 7 then s
    else
      let q := p.abort.nextLane
      (s.setPort n { q with txRot := some (l, p.txShim, .retrain, false), txShim := 7 }).sendMarker n 4 p.txShim
  | _ => s

/-- The transmitter goes to three-lane mode (R221), with the next marker. -/
def State.restripe (s : State) (n lane phys : Nat) : State :=
  let p := s.port n
  (s.setPort n { p with txOnce := some (8, lane), txData := setNth p.txData lane 7, txFailed := p.txFailed ||| laneBit phys }.withMode).sendMarker n 8 lane

/-- LANE_FAIL from the receiver (R219 to R221, R223): reported, and the lane moves to the shim lane where that is free, or three
lanes go on, or the port goes DOWN. A repetition changes nothing. -/
def State.takeLaneFail (s : State) (n phys : Nat) (p : TensorPort) : State :=
  if p.txFailed.getLsbD phys then s
  else
    match logicalOn p.txData phys with
    | some lane =>
      let again : Bool := match p.txRot with | some (l, _, .mirrorSent, true) => l == lane | _ => false
      if again then s
      else
        let s := s.fault 0x0008 (.port n) .ok phys 0
        let free : Bool := match p.txRot with | none => true | some (_, _, .mirrorSent, fail) => !fail | _ => false
        let s := if p.rotating ∧ free then s.setPort n p.abort.nextLane else s
        if free ∧ p.txShim ≠ 7 ∧ !p.txData.contains 7 then s.startMirror n lane phys true
        else if p.txData.contains 7 then s.portTo n .down
        else s.restripe n lane phys
    | none =>
      if p.txShim = phys then
        let s := s.fault 0x0008 (.port n) .ok phys 0
        let q := if p.rotating then p.abort.nextLane else { p with txRot := none }
        s.setPort n { q with txShim := 7, txFailed := q.txFailed ||| laneBit phys }
      else s

/-- TRAIN_PASS (R216, R223). -/
def State.takeTrainPass (s : State) (n phys : Nat) (p : TensorPort) : State :=
  match p.txRot with
  | some (_, x, step, _) =>
    if x ≠ phys ∨ step = .mirrorSent then s
    else
      let p := if step = .trainSent then { p.nextLane with done := p.done + 1 } else { p with txRot := none }
      match (List.range 4).find? fun i => nth 0 p.txData i == 7 with
      | some lane => (s.setPort n { p with txOnce := some (9, x), txData := setNth p.txData lane x }.withMode).sendMarker n 9 x
      | none => s.setPort n { p with txShim := x }
  | none => s

/-- TRAIN_FAIL (R216): the lane is failed permanently; the port has no shim lane. -/
def State.takeTrainFail (s : State) (n phys : Nat) (p : TensorPort) : State :=
  match p.txRot with
  | some (_, x, step, _) =>
    if x ≠ phys ∨ step = .mirrorSent then s
    else
      let p := if step = .trainSent then p.nextLane else { p with txRot := none }
      s.setPort n { p with txFailed := p.txFailed ||| laneBit x }
  | none => s

/-! ### The receiver -/

/-- The receiver takes a logical lane from the shim lane. -/
def TensorPort.steer (p : TensorPort) (lane : Nat) : TensorPort :=
  { p with rxData := setNth p.rxData lane p.rxShim, rxShim := 7, rxMirror := none }

/-- MIRROR (R216, R220): compared, unless it answers a LANE_FAIL. A repetition of what is under way or answered changes
nothing. -/
def State.takeMirror (s : State) (n lane : Nat) (p : TensorPort) : State :=
  if 4 ≤ lane ∨ p.rxShim = 7 ∨ p.rxMirror = some lane ∨ p.rxAnswer = some (2, lane) ∨ p.rxAnswer = some (3, lane) then s
  else
    let phys := nth 7 p.rxData lane
    if p.rxLaneFail.contains phys then
      (s.setPort n { p.steer lane with rxLaneFail := p.rxLaneFail.filter (· != phys) }).answerMarker n 2 lane
    else s.setPort n { p with rxMirror := some lane, rxAnswer := none }

/-- The comparison of 256 codewords has ended (R216). -/
def State.compared (s : State) (n : Nat) (matched : Bool) : State :=
  let p := s.port n
  match p.rxMirror with
  | some lane =>
    if matched ∧ p.rxShim ≠ 7 then (s.setPort n (p.steer lane)).answerMarker n 2 lane
    else (s.setPort n { p with rxMirror := none }).answerMarker n 3 lane
  | none => s

/-- TRAIN (R216): the receiver adapts its equaliser on the lane. One that has failed in service fails at once. -/
def State.takeTrain (s : State) (n phys : Nat) (p : TensorPort) : State :=
  if 5 ≤ phys ∨ p.rxTraining = some phys ∨ p.rxAnswer = some (5, phys) ∨ p.rxAnswer = some (6, phys) then s
  else if p.rxFailed.getLsbD phys then s.answerMarker n 6 phys
  else s.setPort n { p with rxTraining := some phys, rxAnswer := none, rxShim := if p.rxShim = phys then 7 else p.rxShim }

/-- The receiver's training of a lane ends (R216, R223). -/
def State.trained (s : State) (n : Nat) (pass : Bool) (margin : Word) : State :=
  let p := s.port n
  match p.rxTraining with
  | some x =>
    let p := { p with rxTraining := none, margin := margin }
    if pass then (s.setPort n { p with rxShim := if p.rxData.contains 7 then 7 else x }).answerMarker n 5 x
    else (s.setPort n { p with rxFailed := p.rxFailed ||| laneBit x }).answerMarker n 6 x
  | none => s

/-- Data lanes that have failed at the receiver and still carry their logical lane. -/
def TensorPort.lost (p : TensorPort) : Nat :=
  ((List.range 4).filter fun i => nth 7 p.rxData i != 7 && p.rxFailed.getLsbD (nth 7 p.rxData i)).length

/-- Data lanes whose loss the rules can absorb: one by the shim lane, one by three-lane mode (R211, R220, R221). -/
def TensorPort.absorbs (p : TensorPort) : Nat := (if p.rxShim = 7 then 0 else 1) + (if p.rxData.contains 7 then 0 else 1)

/-- A lane fails in service at the receiver (R219, R221, R223): reported, and declared in the markers until the transmitter answers.
The lane under comparison is left for its copy at once; more lanes lost than the rules absorb take the port DOWN (R211). -/
def State.loseLane (s : State) (n phys : Nat) : State :=
  let p := s.port n
  if p.rxFailed.getLsbD phys then s
  else
    let data := logicalOn p.rxData phys
    if data.isNone ∧ p.rxShim ≠ phys then s
    else
      let s := (s.fault 0x0008 (.port n) .ok phys 1)
      let q := { p with rxFailed := p.rxFailed ||| laneBit phys }
      if data.isSome ∧ p.rxMirror = data ∧ p.rxShim ≠ 7 then
        let lane := data.getD 0
        (s.setPort n (q.steer lane)).answerMarker n 2 lane
      else
        let q := { q with rxLaneFail := q.rxLaneFail ++ [phys], rxShim := if p.rxShim = phys then 7 else p.rxShim,
                          rxMirror := if p.rxShim = phys then none else p.rxMirror }
        let s := (s.setPort n q).sendMarker n 7 phys
        if q.absorbs < q.lost then s.portTo n .down else s

/-- One more codeword of the marker period of 4,096 (R205, R219): symbols corrected by physical lane. -/
def TensorPort.word1 (p : TensorPort) (corrected : List Nat) : TensorPort :=
  let p := if 4096 ≤ p.rxWords then { p with rxWords := 0, laneSymbols := [0, 0, 0, 0, 0] } else p
  { p with rxWords := p.rxWords + 1, laneSymbols := (List.range 5).map fun i => nth 0 p.laneSymbols i + nth 0 corrected i }

/-- A codeword comes in (R205, R209, R219, R241): at most 4 symbols of 136 are corrected; one that is not loses the cells in it, of
which 160 bytes touch at most 3. More than 64 corrected symbols of a lane in a marker period fail the lane. -/
def State.takeCodeword (s : State) (n : Nat) (corrected : List Nat) (uncorrectable : Bool) (cells : Nat) : State :=
  let p := s.port n
  let k := min 3 cells
  if uncorrectable ∨ 4 < corrected.sum then
    (s.setPort n { p.word1 [] with fecUncorrectable := satAdd p.fecUncorrectable 1, discardFec := satAdd p.discardFec k }).count
      (1138 + 3 * n) k
  else
    let p := p.word1 corrected
    let s := s.setPort n (if corrected.sum = 0 then p else { p with fecCorrected := satAdd p.fecCorrected 1 })
    ((List.range 5).filter fun i => decide (64 < nth 0 p.laneSymbols i)).foldl (fun t i => t.loseLane n i) s

/-! ### Rows -/

/-- SIGNAL_DETECT (R211, R214). -/
def execSignalDetect (n lanes : Nat) (s : State) : Host.Outcome State Fault Refusal :=
  let p := s.port n
  let t := if (p.state = .down ∨ p.state = .dark) ∧ 4 ≤ lanes then (s.setPort n { p with signal := true }).bringUp n else s
  onPort n t
/-- BRING_UP_ATTEMPT (R211). -/
def execBringUpAttempt (n : Nat) (s : State) : Host.Outcome State Fault Refusal :=
  onPort n (if (s.port n).state = .down then s.bringUp n else s)
/-- TRAINING_TIMEOUT (R211). -/
def execTrainingTimeout (n : Nat) (s : State) : Host.Outcome State Fault Refusal :=
  let p := s.port n
  onPort n (if p.state = .training ∧ p.trainingSince + ticksMs 20 ≤ s.now then s.portTo n .down else s)
/-- PORT_LOCK: the lanes that train, by direction (R202, R211, R224). Fewer than three return the port to DOWN. -/
def execPortLock (n : Nat) (tx rx : BitVec 5) (s : State) : Host.Outcome State Fault Refusal :=
  let p := s.port n
  let t :=
    if p.state ≠ .training then s
    else if (usableLanes tx).length < 3 ∨ (usableLanes rx).length < 3 then s.portTo n .down
    else
      let res := lanesOf tx
      let td := res.1
      let ts := res.2
      let res := lanesOf rx
      let rd := res.1
      let rs := res.2
      let q := { p with txData := td, txShim := ts, rxData := rd, rxShim := rs, txFailed := ~~~tx, rxFailed := ~~~rx }
      (s.setPort n q.withMode).portTo n .discovered
  onPort n t
/-- CODEWORD: a decoder that has lost lock takes the port DOWN (R211, R221). -/
def execCodeword (n : Nat) (corrected : List Nat) (uncorrectable lockLost : Bool) (cells : Nat) (s : State) :
    Host.Outcome State Fault Refusal :=
  let p := s.port n
  let t :=
    if p.state = .down ∨ p.state = .dark then s
    else
      let t := s.takeCodeword n corrected uncorrectable cells
      if lockLost ∧ s.markersRun n then t.portTo n .down else t
  onPort n t
/-- DISCOVERY_WORD (R208, R212, R239). A marker ends the period of corrected symbols (R219). -/
def execDiscoveryWord (n : Nat) (slot : List (List Byte)) (s : State) : Host.Outcome State Fault Refusal :=
  onPort n (match slotWord slot with
    | some w => (s.setPort n { s.port n with rxWords := 0, laneSymbols := [0, 0, 0, 0, 0] }).takeWord n w
    | none => s)
/-- LOSS_OF_SIGNAL (R214, R288, R482). -/
def execLossOfSignal (n : Nat) (s : State) : Host.Outcome State Fault Refusal :=
  let p := s.port n
  let s' := s.setPort n { p with signal := false }
  let t :=
    if p.state = .down ∨ p.state = .dark then s'
    else if p.darkNotice.isSome then s'.portTo n .dark
    else (s'.fault 0x0007 (.port n) .timeout (field p.peer 0 17) 0).portTo n .down
  onPort n t
/-- JIG_ROTATION (R215). -/
def execJigRotation (n : Nat) (s : State) : Host.Outcome State Fault Refusal :=
  let period := max 10 (s.rf (.portJig n) 0 16)
  let due := s.ft.toNat % ticksMs period == ticksMs (s.rf (.portJig n) 16 16 % period)
  onPort n (if due then s.rotateLane n else s)
/-- MIRROR. -/
def execMirror (n : Nat) (slot : List (List Byte)) (s : State) : Host.Outcome State Fault Refusal :=
  onPort n (s.onMarker n 1 slot fun t p lane => t.takeMirror n lane p)
/-- MIRROR_COMPARE_END. -/
def execMirrorCompareEnd (n : Nat) (matched : Bool) (s : State) : Host.Outcome State Fault Refusal :=
  onPort n (if s.markersRun n then s.compared n matched else s)
/-- STEER_ACK. -/
def execSteerAck (n : Nat) (slot : List (List Byte)) (s : State) : Host.Outcome State Fault Refusal :=
  onPort n (s.onMarker n 2 slot fun t p lane => t.takeSteerAck n lane p)
/-- STEER_NAK. -/
def execSteerNak (n : Nat) (slot : List (List Byte)) (s : State) : Host.Outcome State Fault Refusal :=
  onPort n (s.onMarker n 3 slot fun t p lane => t.takeSteerNak n lane p)
/-- STEER_ACK_TIMEOUT: 4 marker slots of 4,097 codewords of 2 ticks (R205, R218). -/
def execSteerAckTimeout (n : Nat) (s : State) : Host.Outcome State Fault Refusal :=
  let p := s.port n
  let t := match p.txRot with
    | some (_, _, .mirrorSent, false) => if p.mirrorAt + 4 * 4097 * 2 ≤ s.now then s.setPort n p.abort.nextLane else s
    | _ => s
  onPort n t
/-- TRAIN. -/
def execTrain (n : Nat) (slot : List (List Byte)) (s : State) : Host.Outcome State Fault Refusal :=
  onPort n (s.onMarker n 4 slot fun t p phys => t.takeTrain n phys p)
/-- LANE_TRAINING_END. -/
def execLaneTrainingEnd (n : Nat) (pass : Bool) (margin : Word) (s : State) : Host.Outcome State Fault Refusal :=
  onPort n (if s.markersRun n then s.trained n pass margin else s)
/-- TRAIN_PASS. -/
def execTrainPass (n : Nat) (slot : List (List Byte)) (s : State) : Host.Outcome State Fault Refusal :=
  onPort n (s.onMarker n 5 slot fun t p phys => t.takeTrainPass n phys p)
/-- TRAIN_FAIL. -/
def execTrainFail (n : Nat) (slot : List (List Byte)) (s : State) : Host.Outcome State Fault Refusal :=
  onPort n (s.onMarker n 6 slot fun t p phys => t.takeTrainFail n phys p)
/-- MARKER_LOCK_LOSS (R219). -/
def execMarkerLockLoss (n phys : Nat) (s : State) : Host.Outcome State Fault Refusal :=
  onPort n (if s.markersRun n ∧ phys < 5 then s.loseLane n phys else s)
/-- LANE_FAIL. -/
def execLaneFail (n : Nat) (slot : List (List Byte)) (s : State) : Host.Outcome State Fault Refusal :=
  onPort n (s.onMarker n 7 slot fun t p phys => if phys < 5 then t.takeLaneFail n phys p else t)
/-- RESTRIPE_3 (R221). -/
def execRestripe3 (n : Nat) (slot : List (List Byte)) (s : State) : Host.Outcome State Fault Refusal :=
  onPort n (s.onMarker n 8 slot fun t p lane =>
    if 4 ≤ lane ∨ p.rxData.contains 7 then t
    else
      let phys := nth 7 p.rxData lane
      t.setPort n { p with rxFailed := p.rxFailed ||| laneBit phys, rxData := setNth p.rxData lane 7,
                           rxLaneFail := p.rxLaneFail.filter (· != phys) }.withMode)
/-- RESTRIPE_4 (R222, R223). -/
def execRestripe4 (n : Nat) (slot : List (List Byte)) (s : State) : Host.Outcome State Fault Refusal :=
  onPort n (s.onMarker n 9 slot fun t p phys =>
    match (List.range 4).find? fun i => nth 0 p.rxData i == 7 with
    | some lane => if 5 ≤ phys then t else t.setPort n { p with rxData := setNth p.rxData lane phys }.withMode
    | none => t)

end Sys2Proof.Machine
end

