-- ==== Sys2Proof/Machine/Ethernet.lean ====
section
/-! DEFINITION. Ethernet ports as receivers, and their timers (R225 to R231, R242, R315). -/

namespace Sys2Proof.Machine

/-! ### PSN order -/

/-- How far PSN `a` lies past `b`, modulo 2^24. -/
def psnPast (a b : BitVec 24) : Nat := (a - b).toNat
/-- PSN `a` lies at `b` or past it. -/
def psnFrom (a b : BitVec 24) : Bool := decide (psnPast a b < 2 ^ 23)

/-! ### Answers -/

/-- Selective repeat runs on a queue pair (R229). -/
def State.selectiveOn (s : State) (n : Nat) (x : QueuePair) : Bool := x.selective && s.rbit (.ethRdma n) 17

/-- The bitmap of the 128 PSNs past the cumulative one (R229). -/
def QueuePair.bitmap (x : QueuePair) : BitVec 128 :=
  BitVec.ofNat 128 (((List.range 128).map fun i => placeB (x.placed.any fun p => p.1 == x.recvPsn + BitVec.ofNat 24 i) i).sum)

/-- Acknowledge up to the last packet in order: cumulative, with the bitmap under selective repeat. -/
def State.rdmaAck (s : State) (n q : Nat) : State :=
  match s.qp n q with
  | some x =>
    s.rdmaAnswer n x q (x.recvPsn - 1) (if s.selectiveOn n x then .selectiveAck x.bitmap else .ack)
  | none => s

/-! ### Placing data -/

/-- A peer may reach these bytes under this key: the window of the queue pair, its key the local number (R435). -/
def QueuePair.inWindow (x : QueuePair) (q address rkey n : Nat) : Bool :=
  rkey == q && decide (x.windowBase ≤ address) && decide (address + n ≤ x.windowBase + x.windowLength)

/-- The bridged direction whose queue pair this is (R315). -/
def State.bridgeOf (s : State) (n q : Nat) : Option Nat := (List.range 8).find? fun d => s.bridged d && s.bridgeQp d == (n, q)

/-- The ingress buffers of a bridged direction hold no more cells of some channel: its receiver is not ready (R277, R315). -/
def State.bridgeFull (s : State) (d : Nat) : Bool :=
  (List.range 6).any fun vc =>
    decide (bufferCells vc ≤ (s.fabric.waiting.filter fun q => q.buffer == some (2 * d, vc)).length)

/-- The cells of a bridge packet pass checks 2 to 7 as on a port of the direction (R315). -/
def State.bridgeCells (s : State) (d : Nat) (bs : List Byte) : State :=
  (List.range (bs.length / 64)).foldl (fun t i => t.ingress (2 * d) (slice bs (64 * i) 64) false true) s

/-- The payload of an accepted SEND: cells of a bridge; the capsules of a storage target say what the rows of image
objects say (R390). -/
def State.takeSend (s : State) (n q : Nat) (bs : List Byte) : State :=
  match s.bridgeOf n q with
  | some d => s.bridgeCells d bs
  | none => s

/-- Packets placed beyond the gap that a packet has closed: the next PSN, what stays beyond, and the message ends in order. -/
def closeGap : Nat → BitVec 24 → List (BitVec 24 × Option (Option (BitVec 32))) →
    BitVec 24 × List (BitVec 24 × Option (Option (BitVec 32))) × List (BitVec 24 × Option (BitVec 32))
  | 0, p, l => (p, l, [])
  | k + 1, p, l =>
    match l.find? (·.1 == p) with
    | none => (p, l, [])
    | some e =>
      let res := closeGap k (p + 1) (l.filter (·.1 ≠ p))
      (res.1, res.2.1, (match e.2 with | some i => [(p, i)] | none => []) ++ res.2.2)

/-- The next `parts` PSNs are accepted; `fin` is the message end of the last with its immediate value. Completions are delivered in
message order (R229). -/
def QueuePair.accept (x : QueuePair) (parts : Nat) (fin : Option (Option (BitVec 32))) : QueuePair :=
  let next := x.recvPsn + BitVec.ofNat 24 parts
  let res := closeGap x.placed.length next x.placed
  let mine := match fin with | some i => [(next - 1, i)] | none => []
  { x with recvPsn := res.1, placed := res.2.1, delivered := res.2.2.reverse ++ mine ++ x.delivered }

/-- A peer's write may land: in the window of the queue pair, outside the Veneers of a step (R126) and outside the Inlay of a
clamped die (R23). -/
def State.writeLands (s : State) (x : QueuePair) (q address rkey n : Nat) : Bool :=
  x.inWindow q address rkey n && !s.veneerShut address n && (n == 0 || s.accessStatus address n == .ok)

/-- A request packet in order (R228). One that may not land is neither placed nor acknowledged (DESIGN CHOICE, assumption log
29). -/
def State.takeRequest (s : State) (n q : Nat) (x : QueuePair) (k : RdmaKind) : State :=
  match k with
  | .send bs =>
    match s.bridgeOf n q with
    | some d =>
      if s.bridgeFull d then s.rdmaAnswer n x q x.recvPsn .notReady
      else ((s.setQp n q (x.accept 1 (some none))).takeSend n q bs).rdmaAck n q
    | none => ((s.setQp n q (x.accept 1 (some none))).takeSend n q bs).rdmaAck n q
  | .write a r bs last i =>
    if s.writeLands x q a r bs.length then
      ((s.store .carcass a bs).setQp n q (x.accept 1 (if last then some i else none))).rdmaAck n q
    else s
  | .read a r len =>
    if x.inWindow q a r len then
      let y := x.accept (partCount len) none
      (s.setQp n q { y with reads := y.reads ++ [(x.recvPsn, a, len)] }).answerReads n q (partCount len)
    else s
  | _ => s

/-- A request packet (R228, R229): in order, past a gap, or a repetition. A repeated READ is answered again. -/
def State.requestPacket (s : State) (n q : Nat) (x : QueuePair) (psn : BitVec 24) (k : RdmaKind) : State :=
  if psn = x.recvPsn then s.takeRequest n q x k
  else if psnFrom psn x.recvPsn then
    match k with
    | .write a r bs last i =>
      if s.selectiveOn n x ∧ psnPast psn x.recvPsn < 128 then
        if !s.writeLands x q a r bs.length then s
        else if x.placed.any (·.1 == psn) then s.rdmaAck n q
        else ((s.store .carcass a bs).setQp n q { x with placed := x.placed ++ [(psn, if last then some i else none)] }).rdmaAck n q
      else s.rdmaAnswer n x q x.recvPsn .nak
    | _ => s.rdmaAnswer n x q x.recvPsn .nak
  else
    match k with
    | .read a r len =>
      if x.inWindow q a r len ∧ !(x.reads.any (·.1 == psn)) then
        let old := x.responses.filter fun p => !(psnFrom p.psn psn && decide (psnPast p.psn psn < partCount len))
        (s.setQp n q { x with responses := old, reads := x.reads ++ [(psn, a, len)] }).answerReads n q (partCount len)
      else s
    | _ => s.rdmaAck n q

/-! ### Acknowledgements -/

/-- Packets up to `psn` are acknowledged. -/
def QueuePair.acked (x : QueuePair) (psn : BitVec 24) (now : Nat) : QueuePair :=
  let rest := x.retained.filter fun p => !psnFrom psn p.psn
  if rest.length = x.retained.length then x else { x with retained := rest, expiries := 0, progressAt := now }

/-- A request that comes after READ responses shows that the peer has them: they leave the retention buffer (R227; PRESUMED from
RoCEv2, assumption log 13). -/
def QueuePair.answered (x : QueuePair) (psn : BitVec 24) : QueuePair :=
  { x with responses := x.responses.filter fun p => !(decide (p.psn ≠ psn) && psnFrom psn p.psn) }

/-- A packet arrives on a queue pair (R228 to R231). -/
def State.rdmaArrives (s : State) (n : Nat) (p : RdmaPacket) : State :=
  match s.qp n p.qpn with
  | none => s
  | some x =>
    if x.error then s
    else
      let q := p.qpn
      let mark := p.congestion && (match x.notifySentAt with | some t => decide (t + ticksUs 50 ≤ s.now) | none => true)
      let x := if mark then { x with notifySentAt := some s.now } else x
      let s := s.setQp n q x
      let s := if mark then (s.send (.congestion n q)).count (1184 + 3 * n) (notificationBytes x.remoteIp) else s
      match p.kind with
      | .ack => s.setQp n q (x.acked p.psn s.now)
      | .nak =>
        let x := x.acked (p.psn - 1) s.now
        (s.setQp n q x).rdmaResend n q x.retained
      | .selectiveAck bitmap =>
        let x := x.acked p.psn s.now
        let arrived (r : RdmaPacket) : Bool :=
          let d := psnPast r.psn (p.psn + 1)
          decide (d < 128) && bitmap.getLsbD d
        let top := ((List.range 128).filter fun i => bitmap.getLsbD i).foldl max 0
        let rest := x.retained.filter fun r => !arrived r
        let missing := rest.filter fun r => decide (psnPast r.psn (p.psn + 1) < top)
        (s.setQp n q { x with retained := rest, selectiveFrom := some p.psn }).rdmaResend n q missing
      | .notReady => s.setQp n q { x.acked (p.psn - 1) s.now with progressAt := s.now }
      | .nakError => s.setQp n q { x with completions := (p.psn, .poison) :: x.completions }
      | .readResponse _ _ => s
      | .send _ | .write _ _ _ _ _ | .read _ _ _ =>
        let x := x.answered p.psn
        (s.setQp n q x).requestPacket n q x p.psn p.kind

/-! ### Rows -/

/-- RDMA_PACKET: a frame that fails its checks, or is longer than the port supports (R225), is discarded and counts as lost (R231,
R521). -/
def execRdmaPacket (n : Nat) (p : Sys2Proof.RdmaPacket) (s : State) : Host.Outcome State Fault Refusal :=
  let e := s.eth n
  let ip := match s.qp n p.qpn with | some x => x.remoteIp | none => []
  let size := frameBytesOf ip p.priority.isSome p.kind
  let t :=
    if !e.linkUp ∨ s.routerClosed then s
    else if !p.checksOk ∨ !packetFits p ip then (s.setEth n { e with framesBad := e.framesBad + 1 }).count (1186 + 3 * n) 1
    else (((s.setEth n { e with framesIn := e.framesIn + 1 }).count (1185 + 3 * n) size).rdmaArrives n p)
  onUnit n 6 t.settle

/-- What a queue pair resends at a timeout: everything it retains, or under selective repeat what the last bitmap shows missing and
what is older (R228, R229). -/
def State.timeoutResends (s : State) (n : Nat) (x : QueuePair) : List RdmaPacket :=
  match s.selectiveOn n x, x.selectiveFrom with
  | true, some c => x.retained.filter fun r => !psnFrom r.psn (c + 1) || decide (psnPast r.psn (c + 1) < 128)
  | _, _ => x.retained

/-- RDMA_RETRANSMIT_TIMEOUT (R228). -/
def execRdmaRetransmitTimeout (n q : Nat) (s : State) : Host.Outcome State Fault Refusal :=
  let t := match s.qp n q with
    | some x =>
      if x.error ∨ x.retained.isEmpty ∨ s.routerClosed ∨ s.now < x.progressAt + ticksUs (10 * s.rf (.ethRdma n) 0 14) then s
      else if s.rf (.ethRdma n) 14 3 ≤ x.expiries + 1 then (s.qpError n q).reroute
      else (s.setQp n q { x with expiries := x.expiries + 1, progressAt := s.now }).rdmaResend n q (s.timeoutResends n x)
    | none => s
  onUnit n 6 t.settle

/-- Line rate of an Ethernet port in GB/s (R225, R230). -/
def lineRate : Nat := 100

/-- CONGESTION_NOTIFICATION (R230). -/
def execCongestionNotification (n q : Nat) (s : State) : Host.Outcome State Fault Refusal :=
  onUnit n 6 (if !(s.eth n).linkUp ∨ s.routerClosed then s else
    match s.qp n q with
    | some x =>
      (s.setQp n q { x with rate := max 1 (x.rate / 2), notifiedAt := s.now }).count (1185 + 3 * n) (notificationBytes x.remoteIp)
    | none => s.count (1185 + 3 * n) (notificationBytes []))

/-- RATE_RECOVERY: 50 µs without a notification (R230). -/
def execRateRecovery (n q : Nat) (s : State) : Host.Outcome State Fault Refusal :=
  onUnit n 6 (match s.qp n q with
    | some x => if x.notifiedAt + ticksUs 50 ≤ s.now then s.setQp n q { x with rate := min lineRate (x.rate + 1), notifiedAt := s.now } else s
    | none => s)

/-- PRIORITY_FLOW_CONTROL: a priority pauses or goes on (R225, R230); whether that stops the port's RoCEv2 traffic, PORT_En_RDMA
says (R243). -/
def execPriorityFlowControl (n prio : Nat) (pause : Bool) (s : State) : Host.Outcome State Fault Refusal :=
  let e := s.eth n
  let bit := BitVec.ofNat 8 (placeB true (prio % 8))
  onUnit n 6 (if e.linkUp ∧ prio < 8 then
    ((s.setEth n { e with paused := if pause then e.paused ||| bit else e.paused &&& ~~~bit }).count (1185 + 3 * n) pauseBytes).settle
    else s)

/-- ETHERNET_LINK_CHANGE (R242): bridges and notices over the port follow (R287, R315, R479). -/
def execEthernetLinkChange (n : Nat) (up : Bool) (s : State) : Host.Outcome State Fault Refusal :=
  let e := s.eth n
  let t :=
    if e.linkUp = up ∨ (up ∧ s.routerClosed) then s
    else
      let s := (s.setEth n { e with linkUp := up, pcsLock := up, paused := 0, held := [] }).trace
        (1936 + n) 0x0020 (if up then 1 else 0) 0
      let s := if up then s else s.ptpLost n
      if up then s.releaseHeld else s.reroute
  onUnit n 6 t.settle

end Sys2Proof.Machine
end

