-- ==== Sys2Proof/Machine/Observe.lean ====
section
/-! DEFINITION. Counter snapshots, trace rings, telemetry and power caps as commands (R443, R520 to R527, R531, R537,
R541). -/

namespace Sys2Proof.Machine

/-! ### Snapshots (R521 to R523) -/

/-- Counters the module has (R523). -/
def counterCount : Nat := 1208

/-- A counter as it stands: indexes 0 to 3 are the FT, the tag, the generation and 0 (R521). -/
def State.counterNow (s : State) (tag : Nat) (i : Nat) : Word :=
  match i with
  | 0 => s.ft
  | 1 => word tag
  | 2 => word s.fabric.partition.generation
  | 3 => 0
  | _ => tabGet 0 s.obs.counters i

/-- The slot a snapshot with this tag takes: the one that carries the tag, else a free one, else the one with the oldest
FT (R523). -/
def State.snapshotSlot (s : State) (tag : BitVec 32) : Nat :=
  match s.obs.snapshots.find? fun e => e.2.tag == tag with
  | some e => e.1
  | none =>
    match (List.range 16).find? fun i => (tabFind s.obs.snapshots i).isNone with
    | some i => i
    | none =>
      (s.obs.snapshots.foldl (fun (best : Nat × Nat) e =>
        if e.2.ft.toNat < best.2 then (e.1, e.2.ft.toNat) else best) (0, 2 ^ 64)).1

/-- Latch every counter under a tag (R522). -/
def State.latch (s : State) (tag : BitVec 32) : State :=
  let x : CounterSnapshot :=
    { tag := tag, ft := s.ft, takenAt := s.now, complete := false, generation := s.fabric.partition.generation,
      values := s.obs.counters }
  { s with obs := { s.obs with snapshots := tabPut s.obs.snapshots (s.snapshotSlot tag) x } }

/-- Counter `i` of a snapshot. -/
def CounterSnapshot.value (x : CounterSnapshot) (i : Nat) : Word :=
  match i with
  | 0 => x.ft
  | 1 => x.tag.zeroExtend 64
  | 2 => word x.generation
  | 3 => 0
  | _ => tabGet 0 x.values i

/-- Reply data of SNAPSHOT_READ (R443). -/
def CounterSnapshot.data (x : CounterSnapshot) (first count : Nat) : List Byte :=
  (upFrom first count).flatMap fun i => le 8 (x.value i).toNat

/-- The stored snapshot of a tag. -/
def State.snapshot (s : State) (tag : Nat) : Option CounterSnapshot :=
  (s.obs.snapshots.find? fun e => e.2.tag.toNat == tag).map (·.2)

/-- SNAPSHOT_NOW (R522). -/
def doSnapshotNow (c : OpenCmd) (s : State) : Result := done (s.latch (BitVec.ofNat 32 (uAt c.params 0 4))) []

/-- SNAPSHOT_READ (R523). -/
def doSnapshotRead (c : OpenCmd) (s : State) : Result :=
  let first := uAt c.params 4 4
  let count := uAt c.params 8 4
  match s.snapshot (uAt c.params 0 4) with
  | none => refuse s .badParam
  | some x =>
    if counterCount < first + count then refuse s .badParam
    else if x.complete then done s (x.data first count)
    else ⟨.wait, s, id⟩

/-- A snapshot is complete in the store: the reads that waited for it reply, unless their deadline has passed (R421,
R523). -/
def State.snapshotComplete (s : State) (tag : BitVec 32) : State :=
  match s.obs.snapshots.find? fun e => e.2.tag == tag with
  | some (i, x) =>
    if x.complete ∨ s.now < x.takenAt + ticksUs 1 then s
    else
      let s := { s with obs := { s.obs with snapshots := tabPut s.obs.snapshots i { x with complete := true } } }
      let mine := s.obs.waitingReads.filter fun j =>
        match s.openCmd j with | some c => uAt c.params 0 4 == tag.toNat | none => false
      let s := { s with obs := { s.obs with waitingReads := s.obs.waitingReads.filter fun j => !mine.contains j } }
      mine.foldl (fun t j =>
        match t.openCmd j with
        | some c =>
          if c.long || c.notBefore.isSome then t.closeCmd j .ok (x.data (uAt c.params 4 4) (uAt c.params 8 4))
          else if t.tooLate c then t.finish c .deadline []
          else t.finish c .ok (x.data (uAt c.params 4 4) (uAt c.params 8 4))
        | none => t) s
  | none => s

/-! ### Trace rings (R524, R525) -/

/-- First ring number and rings of a selector kind (R524). -/
def ringKind : Nat → Option (Nat × Nat)
  | 0 => some (0, 384) | 1 => some (384, 1536) | 2 => some (1920, 16) | 3 => some (1936, 6) | 4 => some (1942, 2)
  | 5 => some (1944, 1) | _ => none

/-- Rings that a selector names; `all`: the value that names a whole kind is allowed (R524). -/
def ringsOf (sel : Nat) (all : Bool) : Option (List Nat) :=
  (ringKind (bits sel 28 4)).bind fun k =>
    let i := bits sel 0 28
    if i = 0xFFFFFFF ∧ all then some (upFrom k.1 k.2) else if i < k.2 then some [k.1 + i] else none

/-- One action on one ring (R525). -/
def TraceRing.act (r : TraceRing) (action : Nat) : TraceRing :=
  match action with
  | 0 => { r with state := 0 }
  | 1 => { r with state := 1 }
  | 2 => { r with state := 2 }
  | _ => { r with entries := [], written := 0 }

/-- TRACE_CTRL with one action. -/
def doTraceCtrl (c : OpenCmd) (s : State) : Result :=
  match ringsOf (uAt c.params 0 4) true with
  | none => refuse s .badParam
  | some rs =>
    let action := uAt c.params 4 1
    done { s with obs := { s.obs with
      rings := rs.foldl (fun t r => tabMod traceRingReset t r fun x => x.act action) s.obs.rings } } []

/-- TRACE_READ: entries from the oldest held (R525). -/
def doTraceRead (c : OpenCmd) (s : State) : Result :=
  match ringsOf (uAt c.params 0 4) false with
  | some [r] =>
    let x := tabGet traceRingReset s.obs.rings r
    let first := uAt c.params 4 4
    let count := uAt c.params 8 4
    if x.state = 1 then refuse s .busy
    else if x.entries.length < first + count then refuse s .badParam
    else done s (((x.entries.reverse.drop first).take count).flatMap id)
  | _ => refuse s .badParam

/-! ### Power (R531, R537, R541) -/

/-- Core clock in MHz (R532, R537). -/
def clockMhz (c : Nat) : Nat := if c = 0 then 1250 else if c = 1 then 1000 else 800

/-- PWR_STATUS (R537). -/
def State.pwrStatus (s : State) : Word :=
  let p := s.power
  word (place p.clock 0 2 + placeB p.capped 2 + placeB p.thermal 3 + placeB p.inRange0 4 + placeB p.inRange1 5 +
    placeB p.aux 6 + place p.moduleDuty 8 7 + place p.inputW.toNat 16 16 + place p.hottest.toNat 32 16)

/-- One telemetry record (R541): `i` counts the dies, then Bench and Carcass. -/
def State.telemetryRecord (s : State) (i : Nat) : List Byte :=
  let t := nth ⟨0, 0, 0, 0⟩ s.power.records i
  let flags := if i < 24 then placeB (s.power.cappedDies.contains i) 0 + placeB (s.power.thermalDies.contains i) 1 +
    placeB (s.dieClamped i) 2 else 0
  le 2 t.railDw.toNat ++ le 2 t.hottest.toNat ++ le 2 t.sensor.toNat ++ le 2 t.railMv.toNat ++
    le 1 (if i < 24 then (s.die i).duty else 64) ++ le 1 flags ++ zeros 6

/-- TELEMETRY_READ (R541). -/
def doTelemetryRead (_ : OpenCmd) (s : State) : Result :=
  done s (le 8 s.power.evaluatedFt.toNat ++ le 4 s.power.inputW.toNat ++ le 2 (clockMhz s.power.clock) ++
    le 2 s.power.moduleDuty ++ (List.range 26).flatMap s.telemetryRecord)

/-- PWR_STATUS as a command. -/
def doPwrStatus (_ : OpenCmd) (s : State) : Result := done s (le 8 s.pwrStatus.toNat)

/-- A power cap of a scope may be set: module, or a die (R531, R539). -/
def capOk (die : Bool) (w : Nat) : Bool := if die then w == 0 || within w 30 140 else within w 1000 3800

/-- PWR_CAP (R531). -/
def doPwrCap (c : OpenCmd) (s : State) : Result :=
  let w := uAt c.params 0 4
  let scope := uAt c.params 4 1
  if !capOk (scope != 0) w then refuse s .badParam
  else done (s.setReg (if scope = 0 then .pwrCapModule else .pwrCapDie (scope - 1)) (word w)) []

/-! ### Rows -/

/-- SNAPSHOT_NOW. -/
def execSnapshotNow (s : State) : Host.Outcome State Fault Refusal := .next (s.run 0x0900 doSnapshotNow)
/-- SNAPSHOT_READ. -/
def execSnapshotRead (s : State) : Host.Outcome State Fault Refusal := .next (s.run 0x0901 doSnapshotRead)
/-- SNAPSHOT_COMPLETE. -/
def execSnapshotComplete (tag : BitVec 32) (s : State) : Host.Outcome State Fault Refusal := .next (s.snapshotComplete tag)
/-- A TRACE_CTRL whose action is `a`. -/
def State.traceCtrl (s : State) (a : Nat) : State := s.runFront 0x0902 (fun c => uAt c.params 4 1 == a) doTraceCtrl
/-- TRACE_OFF; an action above 3 is refused by this row too. -/
def execTraceOff (s : State) : Host.Outcome State Fault Refusal :=
  .next (s.runFront 0x0902 (fun c => let a := uAt c.params 4 1; a == 0 || decide (3 < a)) doTraceCtrl)
/-- TRACE_ON. -/
def execTraceOn (s : State) : Host.Outcome State Fault Refusal := .next (s.traceCtrl 1)
/-- TRACE_FREEZE. -/
def execTraceFreeze (s : State) : Host.Outcome State Fault Refusal := .next (s.traceCtrl 2)
/-- TRACE_CLEAR. -/
def execTraceClear (s : State) : Host.Outcome State Fault Refusal := .next (s.traceCtrl 3)
/-- TRACE_READ. -/
def execTraceRead (s : State) : Host.Outcome State Fault Refusal := .next (s.run 0x0903 doTraceRead)
/-- TELEMETRY_READ. -/
def execTelemetryRead (s : State) : Host.Outcome State Fault Refusal := .next (s.run 0x0904 doTelemetryRead)
/-- PWR_STATUS. -/
def execPwrStatus (s : State) : Host.Outcome State Fault Refusal := .next (s.run 0x0A00 doPwrStatus)
/-- PWR_CAP. -/
def execPwrCap (s : State) : Host.Outcome State Fault Refusal := .next (s.run 0x0A01 doPwrCap)

end Sys2Proof.Machine
end

