-- ==== Sys2Proof/Machine/Table.lean ====
section
/-! DEFINITION. The timetable (R256 to R263), its commands, the evaluation slot (R129 to R131) and the calibration
windows of the memory channels (R191 to R194). -/

namespace Sys2Proof.Machine

/-! ### Occurrences (R256 to R258) -/

/-- FT of occurrence `k` of an entry. -/
def TTEntry.at_ (e : TTEntry) (k : Nat) : Nat := e.startFt.toNat + k * ticksUs e.periodUs.toNat

/-- FT of the next occurrence of an entry; none once it is over. A repeat count is the number of occurrences in all. -/
def TTSlot.due (x : TTSlot) : Option Nat :=
  let gone := x.stopped || (if x.entry.periodUs = 0 then x.next != 0
    else x.entry.repeatCount != 0 && decide (x.entry.repeatCount.toNat ≤ x.next))
  if gone then none else some (x.entry.at_ x.next)

/-- Occurrences that have fallen up to `ft` are passed over. -/
def TTSlot.pass (x : TTSlot) (ft : Nat) : TTSlot :=
  let start := x.entry.startFt.toNat
  if ft < start then x
  else
    let k := if x.entry.periodUs = 0 then 1 else (ft - start) / ticksUs x.entry.periodUs.toNat + 1
    { x with next := Nat.max x.next k }

/-- TT_CTRL.ARM. -/
def State.armed (s : State) : Bool := s.rbit .ttCtrl 0

/-- An entry as it stands: occurrences that fall while ARM is 0, and those of NONE, pass without effect (R257; DEDUCED,
assumption log 31). -/
def State.standing (s : State) (x : TTSlot) : TTSlot :=
  if s.armed && x.entry.action != 0 then x else x.pass s.ft.toNat

/-- Order of two occurrences: FT, action code, index. -/
def fireBefore (a b : Nat × Nat × Nat) : Bool :=
  decide (a.1 < b.1) || (a.1 == b.1 && (decide (a.2.1 < b.2.1) || (a.2.1 == b.2.1 && decide (a.2.2 < b.2.2))))

/-- The next occurrence due of a list of entries: FT, action code and index. -/
def earliest : List (Nat × Nat × Nat) → Option (Nat × Nat × Nat)
  | [] => none
  | x :: l => some (l.foldl (fun best y => if fireBefore y best then y else best) x)

/-- The entry due next (R258, R269). -/
def State.nextDue (s : State) : Option (Nat × Nat × Nat) :=
  earliest (s.table.slots.filterMap fun e =>
    (s.standing e.2).due.map fun d => (d, e.2.entry.action.toNat, e.1))

/-- The first entry that fires: NONE has no effect and holds nothing up. -/
def State.nextFiring (s : State) : Option (Nat × Nat × Nat) :=
  earliest (s.table.slots.filterMap fun e =>
    if e.2.entry.action = 0 then none else e.2.due.map fun d => (d, e.2.entry.action.toNat, e.1))

/-- An occurrence fires: `f` takes the entry with the occurrence behind it, the FT due and the number of the occurrence.
Nothing happens unless the timetable is armed and this occurrence is the next, and has fallen. -/
def State.fire (s : State) (i action : Nat) (f : State → TTSlot → Nat → Nat → State) : State :=
  match tabFind s.table.slots i, s.nextFiring with
  | some x, some (d, a, j) =>
    if s.armed && s.benchServes && a == action && j == i && decide (d ≤ s.ft.toNat) then
      let y := { x with next := x.next + 1 }
      f (s.setSlot i y) y d x.next
    else s
  | _, _ => s

/-- An occurrence that takes effect: its trace (R526). -/
def State.fired (s : State) (i : Nat) (x : TTSlot) : State := s.trace benchRing 0x0032 i x.entry.action.toNat

/-- An occurrence that is skipped (R259, R260). -/
def State.ttSkip (s : State) : State := { s with table := { s.table with skipped := satAdd s.table.skipped 1 } }

/-- FT at which the window of an occurrence ends. -/
def TTSlot.windowEnd (x : TTSlot) (due : Nat) : Nat := due + ticksUs x.entry.windowUs.toNat

/-! ### STEP_OPEN (R259) -/

/-- Step and attempt that the next opening of an entry opens: what step control has named (R439), else one past the last
step the entry opened, else B. -/
def State.openingOf (s : State) (x : TTSlot) : Nat × Nat :=
  match s.steps.next with
  | some n => n
  | none =>
    match x.openedBy.getLast? with
    | some o => (o.2 + 1, 0)
    | none => (bits x.entry.paramB.toNat 0 48, 0)

/-- The step is ready: UPDATE of the step before has ended, the retention depth and the EVAL slot permit it, and its
parameter block is there. -/
def State.ready (s : State) (m : Nat) : Bool :=
  s.mayOpen m && s.steps.replays.isEmpty && (tabFind s.steps.params m).isSome

/-- An occurrence opens LOAD of its step. -/
def State.openBy (s : State) (i : Nat) (x : TTSlot) (k : Nat) : State :=
  let res := s.openingOf x
  let m := res.1
  let a := res.2
  let x := { x with waiting := none, openedBy := x.openedBy ++ [(k, m)], openedCount := x.openedCount + 1 }
  (s.setSlot i x).openLoad m a

/-- STEP_OPEN falls. A module that holds refuses it (R357): the opening is missed (DEDUCED, assumption log 30). -/
def State.stepOpenFalls (i : Nat) (s : State) (x : TTSlot) (due k : Nat) : State :=
  if s.steps.halted ∨ s.steps.restoreFailed then (s.setSlot i { x with stopped := true, waiting := none }).ttMiss i x due
  else if s.table.hold.isSome ∨ x.waiting.isSome then s.ttSkip
  else
    let s := s.fired i x
    if s.ready (s.openingOf x).1 then s.openBy i x k
    else s.setSlot i { x with waiting := some (word due) }

/-- Number of the occurrence of an entry that fell at `due`. -/
def TTEntry.occurrence (e : TTEntry) (due : Nat) : Nat :=
  if e.periodUs = 0 then 0 else (due - e.startFt.toNat) / ticksUs e.periodUs.toNat

/-- The window of a waiting STEP_OPEN is over. -/
def TTSlot.openExpired (x : TTSlot) (due : Word) (ft : Nat) : Bool :=
  x.entry.windowUs != 0 && decide (x.windowEnd due.toNat ≤ ft)

/-- A waiting STEP_OPEN finds its step ready. -/
def State.loadOpens (s : State) (i : Nat) : State :=
  match tabFind s.table.slots i with
  | some x =>
    match x.waiting with
    | some d =>
      if x.entry.action = 5 ∧ s.benchServes ∧ !x.openExpired d s.ft.toNat ∧ s.ready (s.openingOf x).1 then
        s.openBy i x (x.entry.occurrence d.toNat)
      else s
    | none => s
  | none => s

/-- The window of a waiting STEP_OPEN ends: missed, and the entry stops repeating. -/
def State.openingMissed (s : State) (i : Nat) : State :=
  match tabFind s.table.slots i with
  | some x =>
    match x.waiting with
    | some d =>
      if x.entry.action = 5 ∧ s.benchServes ∧ x.openExpired d s.ft.toNat then
        (s.setSlot i { x with waiting := none, stopped := true }).ttMiss i x d.toNat
      else s
    | none => s
  | none => s

/-! ### HOLD and CHECK_CLOSE (R260 to R262) -/

/-- The step that an occurrence addresses, and whether it is anchored; none where the anchor occurrence opened no step. -/
def State.addressed (s : State) (x : TTSlot) (k : Nat) : Option Nat × Bool :=
  let e := x.entry
  if bits e.paramA.toNat 31 1 = 0 then (some (bits e.paramB.toNat 0 48), false)
  else
    match tabFind s.table.slots (bits e.paramA.toNat 0 12) with
    | some anchor =>
      let a0 := anchor.entry.occurrence e.startFt.toNat
      let m := if anchor.entry.periodUs = 0 then 0 else e.periodUs.toNat / anchor.entry.periodUs.toNat
      ((anchor.openedBy.find? (·.1 == a0 + k * m)).map (·.2), true)
    | none => (none, true)

/-- LOAD of a step after `n` has opened. -/
def State.openedPast (s : State) (n : Nat) : Bool :=
  s.steps.opened.any (fun r => decide (n < r.id)) || s.steps.replays.any (fun r => decide (n < r.1)) ||
    (s.steps.sealedLetter != 3 && decide (n < s.steps.sealedStep))

/-- A HOLD in force: occurrences of STEP_OPEN that wait end as skipped (R259). One that falls while another is in force
joins it: the later step and the later end (DESIGN CHOICE, assumption log 32). -/
def State.holdFalls (i : Nat) (s : State) (x : TTSlot) (due k : Nat) : State :=
  match (s.addressed x k).1 with
  | none => s.ttSkip
  | some n =>
    if s.openedPast n then s.ttMiss i x due
    else
      let s := s.fired i x
      let s := s.table.slots.foldl (fun t e =>
        if e.2.entry.action = 5 ∧ e.2.waiting.isSome then (t.setSlot e.1 { e.2 with waiting := none }).ttSkip else t) s
      let stop := word (x.windowEnd due)
      let hold := match s.table.hold with
        | some (m, e, w, st, en) =>
          let w := if w.toNat < stop.toNat then stop else w
          if n ≤ m then (m, e, w, st, en) else (n, i, w, false, false)
        | none => (n, i, stop, false, false)
      { s with table := { s.table with hold := some hold } }

/-- The hold ends at the later of its window and the end of the image write, or without an image where SEAL has not come. -/
def State.holdEnds (s : State) : State :=
  match s.table.hold with
  | some (n, _, w, started, ended) =>
    let without := !started && (s.steps.sealedLetter == 3 || decide (s.steps.sealedStep < n))
    if s.benchServes && decide (w.toNat ≤ s.ft.toNat) && (ended || without) then
      { s with table := { s.table with hold := none } }
    else s
  | none => s

/-- CHECK_CLOSE falls (R261). -/
def State.closeFalls (i : Nat) (s : State) (x : TTSlot) (due k : Nat) : State :=
  match s.addressed x k with
  | (none, _) => s.ttSkip
  | (some n, anchored) =>
    match s.step? n with
    | some r => if (anchored && r.attempt != 0) || r.closed.isSome then s.fired i x else (s.fired i x).closeCheck r
    | none =>
      let gone := (s.steps.sealedLetter != 3 && decide (n ≤ s.steps.sealedStep)) || s.steps.replays.any (·.1 == n) ||
        (tabFind s.steps.attempts n).isSome
      if anchored || gone then s.fired i x else s.ttMiss i x due

/-! ### CLOCK, SNAPSHOT, MARK (R262) -/

/-- CLOCK falls (R532). -/
def State.clockFalls (i : Nat) (s : State) (x : TTSlot) (due _k : Nat) : State :=
  if s.stepOpen then s.ttMiss i x due
  else { s.fired i x with power := { s.power with clock := bits x.entry.paramA.toNat 0 2 } }

/-- SNAPSHOT falls. -/
def State.snapshotFalls (i : Nat) (s : State) (x : TTSlot) (_due _k : Nat) : State := (s.fired i x).latch x.entry.paramA

/-- MARK falls (R258). -/
def State.markFalls (i : Nat) (s : State) (x : TTSlot) (_due _k : Nat) : State :=
  (s.fired i x).emit (event 0x000B .timetable .ok (le 2 i ++ zeros 6 ++ le 8 x.entry.paramB.toNat))

/-! ### The EVAL slot (R129 to R131, R262) -/

/-- The slot may open. -/
def State.evalMayOpen (s : State) : Bool := !s.stepOpen && s.steps.evalSlot.isNone

/-- Open the slot of an entry whose occurrence fell at `due`; an entry that names no evaluation program is missed. -/
def State.openEval (s : State) (i : Nat) (x : TTSlot) (due : Nat) : State :=
  let n := x.entry.paramA.toNat
  let s := s.setSlot i { x with waiting := none }
  if (match s.program n with | some p => p.eval | none => false) then
    let slot := (i, n, word (x.windowEnd due), s.steps.sealedStep, s.steps.sealedLetter)
    { s with steps := { s.steps with evalSlot := some slot } }.tracePhase 6 s.steps.sealedStep
  else s.ttMiss i x due

/-- EVAL falls: one that falls while an occurrence of its entry still waits is missed (DESIGN CHOICE, assumption log 33). -/
def State.evalFalls (i : Nat) (s : State) (x : TTSlot) (due _k : Nat) : State :=
  if x.waiting.isSome then s.ttMiss i x due
  else if s.evalMayOpen then (s.fired i x).openEval i x due
  else (s.fired i x).setSlot i { x with waiting := some (word due) }

/-- The first entry of an action that waits, by FT, then index, among those that `p` accepts. -/
def State.firstWaiting (s : State) (action : BitVec 8) (p : TTSlot → Bool) : Option (Nat × TTSlot × Nat) :=
  match earliest (s.table.slots.filterMap fun e =>
      match e.2.waiting with
      | some d => if e.2.entry.action = action ∧ p e.2 then some (d.toNat, 0, e.1) else none
      | none => none) with
  | some (d, _, i) => (tabFind s.table.slots i).map fun x => (i, x, d)
  | none => none

/-- A waiting EVAL slot opens. -/
def State.evalOpens (s : State) : State :=
  match s.firstWaiting 6 (fun _ => true) with
  | some (i, x, d) =>
    if s.benchServes && s.evalMayOpen && decide (s.ft.toNat < x.windowEnd d) then s.openEval i x d else s
  | none => s

/-- The tiles of an item that wait behind the one its engines run end with DEADLINE, without running (R131). -/
def cutWaiting : (started : Bool) → List Op → List Op
  | _, [] => []
  | started, o :: r =>
    if o.kind = .tile then
      (if started ∧ o.status = .ok then { o with status := .deadline, flags := 0, writes := [], poisoned := [] } else o) ::
        cutWaiting true r
    else o :: cutWaiting started r

/-- The EVAL slot of an item has closed (R131). -/
def Item.closeEval (it : Item) : Item :=
  if it.phase = 6 then { it with late := true, ops := cutWaiting false it.ops } else it

/-- Entries that nobody has taken from an EVAL ring end with DEADLINE, each with its record (DEDUCED from R131, assumption log
120). The count bounds the recursion. -/
def State.dropEntries (c r : Nat) : Nat → State → State
  | 0, s => s
  | k + 1, s =>
    let a := s.wringEntry r
    let it := s.itemOfEntry r (s.bytesAt a 64) (s.firstPoison a 64).isSome
    State.dropEntries c r k ((s.wringTake r).itemRecord c it .deadline)

/-- What of an evaluation program has not started when its slot closes (R131). -/
def State.closeEval (s : State) : State :=
  let s := (List.range 384).foldl (fun t c =>
    let x := t.core c
    if (match x.item with | some it => it.phase == 6 | none => false) || x.restarts.any (·.phase == 6) then
      t.setCore c { x with item := x.item.map Item.closeEval, restarts := x.restarts.map Item.closeEval }
    else t) s
  s.hosts.foldl (fun t h =>
    ((upFrom (h.1 * 128) 128).filter fun r => t.wringOpen r && t.wringPhase r == 6).foldl
      (fun u r => u.dropEntries h.2 r (min 65536 (u.wringCount r))) t) s

/-- The slot closes at start plus window. Where no slot has reached its end, an occurrence that has waited to its end is
missed. -/
def State.evalCloses (s : State) : State :=
  let waits := match s.firstWaiting 6 (fun x => match x.waiting with
      | some d => decide (x.windowEnd d.toNat ≤ s.ft.toNat) | none => false) with
    | some (i, x, d) => (s.setSlot i { x with waiting := none }).ttMiss i x d
    | none => s
  match s.steps.evalSlot with
  | some (_, _, stop, _, _) =>
    if stop.toNat ≤ s.ft.toNat then { s.closeEval with steps := { s.closeEval.steps with evalSlot := none } } else waits
  | none => waits

/-! ### Calibration windows (R191 to R194, R199, R200) -/

/-- Units and channels of a kind of window. -/
def calOk (k : CalKind) (unit channel : Nat) : Bool :=
  decide (unit < 24) && decide (channel < (match k with | .lpddr6 => 8 | .inlay => 32))

/-- Key of a channel in `windowAt`. -/
def calKey (k : CalKind) (unit channel : Nat) : Nat :=
  match k with | .lpddr6 => 8 * unit + channel | .inlay => 1000 + 32 * unit + channel

/-- A window of a device or die is open. -/
def State.windowOpen (s : State) (k : CalKind) (unit : Nat) : Bool :=
  s.mem.windows.any fun w => w.1 == k && w.2.1 == unit

/-- The controller of a channel is in service. -/
def State.calServes (s : State) (k : CalKind) (unit : Nat) : Bool :=
  s.power.rails == .on && (match k with
    | .lpddr6 => !s.inReset .memory 0
    | .inlay => !s.inReset .die unit && !s.dieClamped unit)

/-- Open a window. -/
def State.openWindow (s : State) (k : CalKind) (unit channel : Nat) (forced : Bool) : State :=
  { s with mem := { s.mem with
      windows := s.mem.windows ++ [(k, unit, channel, s.now, forced)],
      windowAt := tabPut s.mem.windowAt (calKey k unit channel) s.now } }

/-- Kind, unit and channel that a CAL_LP or CAL_INL entry names (R258). -/
def TTEntry.cal (e : TTEntry) : CalKind × Nat × Nat :=
  let a := e.paramA.toNat
  if e.action = 7 then (.lpddr6, bits a 0 5, bits a 8 3) else (.inlay, bits a 0 5, bits a 8 5)

/-- A calibration action falls: the window opens, or waits while another of its device or die is open (R262). An entry
that names no channel in service is missed. -/
def State.calFalls (i : Nat) (s : State) (x : TTSlot) (due _k : Nat) : State :=
  let res := x.entry.cal
  let k := res.1
  let u := res.2.1
  let ch := res.2.2
  if !calOk k u ch || !s.calServes k u || x.waiting.isSome then s.ttMiss i x due
  else if s.windowOpen k u then
    if x.entry.windowUs = 0 then s.ttMiss i x due else (s.fired i x).setSlot i { x with waiting := some (word due) }
  else (s.fired i x).openWindow k u ch false

/-- A calibration action has waited to the end of its window. -/
def State.calExpires (s : State) (i : Nat) : State :=
  match tabFind s.table.slots i with
  | some x =>
    match x.waiting with
    | some d =>
      if (x.entry.action = 7 ∨ x.entry.action = 8) ∧ s.benchServes ∧ x.windowEnd d.toNat ≤ s.ft.toNat then
        (s.setSlot i { x with waiting := none }).ttMiss i x d.toNat
      else s
    | none => s
  | none => s

/-- An action that waited for the window of a device or die opens its own. -/
def State.calNext (s : State) (k : CalKind) (unit : Nat) : State :=
  let action : BitVec 8 := match k with | .lpddr6 => 7 | .inlay => 8
  match s.firstWaiting action (fun x => x.entry.cal.2.1 == unit) with
  | some (i, x, d) =>
    if s.windowOpen k unit || !s.calServes k unit || decide (x.windowEnd d ≤ s.ft.toNat) then s
    else (s.setSlot i { x with waiting := none }).openWindow k unit x.entry.cal.2.2 false
  | none => s

/-- A window ends (R194): below margin the channel keeps its old settings, and the failure is reported. -/
def State.windowEnds (s : State) (k : CalKind) (unit channel : Nat) (marginOk : Bool) : State :=
  if !(s.mem.windows.any fun w => w.1 == k && w.2.1 == unit && w.2.2.1 == channel) then s
  else
    let s := { s with mem := { s.mem with
      windows := s.mem.windows.filter fun w => !(w.1 == k && w.2.1 == unit && w.2.2.1 == channel) } }
    let s :=
      if marginOk then s
      else
        let s := { s with mem := { s.mem with failUnit := unit, failChannel := channel } }
        match k with
        | .lpddr6 => (s.setBits .memCalStatus 1).fault 0x000B (.lpChannel (8 * unit + channel)) .ok 0 0
        | .inlay => (s.setBits .memCalStatus 2).fault 0x000B (.inlayChannel (32 * unit + channel)) .ok 0 0
    s.calNext k unit

/-- Interval of a kind in ticks (R199). -/
def State.calInterval (s : State) (k : CalKind) : Nat :=
  match k with | .lpddr6 => ticksMs (s.rf .memCalCtrl 0 8) | .inlay => ticksMs (s.rf .memCalCtrl 8 8)

/-- A channel that has had no window for twice its interval has one opened by its controller (R193). -/
def State.forceWindow (s : State) (k : CalKind) (unit channel : Nat) : State :=
  let last := tabGet 0 s.mem.windowAt (calKey k unit channel)
  if calOk k unit channel && s.rbit .memCalCtrl 16 && s.calServes k unit && !s.windowOpen k unit &&
      decide (last + 2 * s.calInterval k ≤ s.now) then
    (s.setBits .memCalStatus 4).openWindow k unit channel true
  else s

/-! ### Commands (R257, R260, R436, R437) -/

/-- Reply data of a timetable command that is refused at an entry. -/
def refuseAt (s : State) (st : Status) (i : Nat) : Result := refuseWith s st (le 4 i)

/-- Reply data where no entry refused. -/
def noEntry : List Byte := le 4 0xFFFFFFFF

/-- The parameters of an entry name only the bits of their action (R257, R258). -/
def TTEntry.fieldsOk (e : TTEntry) : Bool :=
  let a := e.paramA.toNat
  let b := e.paramB.toNat
  match e.action.toNat with
  | 0 => a == 0 && b == 0
  | 1 | 2 => bits a 12 19 == 0 && bits b 48 16 == 0
  | 3 => decide (a < 3) && b == 0
  | 4 | 6 => b == 0
  | 5 => a == 0 && bits b 48 16 == 0
  | 7 => bits a 5 3 == 0 && bits a 11 21 == 0 && b == 0
  | 8 => bits a 5 3 == 0 && bits a 13 19 == 0 && b == 0
  | 9 => a == 0
  | _ => false

/-- An entry names an anchor. -/
def TTEntry.anchor (e : TTEntry) : Option Nat :=
  if (e.action = 1 ∨ e.action = 2) ∧ bits e.paramA.toNat 31 1 = 1 then some (bits e.paramA.toNat 0 12) else none

/-- The anchoring rules of R260, in a table as it will stand. -/
def anchorOk (entryAt : Nat → Option TTEntry) (e : TTEntry) : Bool :=
  match e.anchor with
  | none => true
  | some j =>
    match entryAt j with
    | some x => x.action == 5 && x.periodUs != 0 && e.periodUs.toNat % x.periodUs.toNat == 0 &&
        decide (x.startFt.toNat ≤ e.startFt.toNat)
    | none => false

/-- FT of now plus the guard. -/
def State.guardEnd (s : State) : Nat := s.ft.toNat + ticksUs (s.rf .ttCtrl 16 16)

/-- What R257 and R260 refuse with BUSY about an entry that is to be changed or removed. -/
def State.entryBusy (s : State) (i : Nat) : Bool :=
  match tabFind s.table.slots i with
  | none => false
  | some x =>
    (match (s.standing x).due with | some d => decide (d ≤ s.guardEnd) | none => false) ||
      (x.entry.action == 5 && s.table.slots.any fun e => e.2.entry.anchor == some i)

/-- TT_WRITE: every entry is checked before any is changed. -/
def doTtWrite (c : OpenCmd) (s : State) : Result :=
  let p := c.params
  let first := uAt p 0 2
  let count := uAt p 2 2
  let raw (j : Nat) : List Byte := slice p (8 + 32 * j) 32
  let entryAt (i : Nat) : Option TTEntry :=
    if within i first (first + count - 1) then some (parseEntry (raw (i - first)))
    else (tabFind s.table.slots i).map (·.entry)
  let bad (j : Nat) : Bool :=
    let e := parseEntry (raw j)
    uAt (raw j) 0x11 1 != 0 || !e.fieldsOk || decide (e.startFt.toNat < s.guardEnd) || !anchorOk entryAt e
  if 4096 < first + count then refuseWith s .badParam noEntry
  else
    match (List.range count).find? bad, (List.range count).find? (fun j => s.entryBusy (first + j)) with
    | some j, _ => refuseAt s .badParam (first + j)
    | none, some j => refuseAt s .busy (first + j)
    | none, none =>
      done ((List.range count).foldl (fun t j => t.setSlot (first + j) (freshSlot (parseEntry (raw j)))) s) noEntry

/-- TT_REMOVE. -/
def doTtRemove (c : OpenCmd) (s : State) : Result :=
  let first := uAt c.params 0 2
  let count := uAt c.params 2 2
  if 4096 < first + count then refuseWith s .badParam noEntry
  else
    match (List.range count).find? (fun j => s.entryBusy (first + j)) with
    | some j => refuseAt s .busy (first + j)
    | none =>
      done { s with table := { s.table with
               slots := s.table.slots.filter fun e => !(decide (first ≤ e.1) && decide (e.1 < first + count)) } } noEntry

/-- TT_READ: unused entries read as zeros. -/
def doTtRead (c : OpenCmd) (s : State) : Result :=
  let first := uAt c.params 0 2
  let count := uAt c.params 2 2
  if 4096 < first + count then refuse s .badParam
  else done s ((upFrom first count).flatMap fun i =>
    match tabFind s.table.slots i with | some x => x.entry.bytes | none => zeros 32)

/-! ### Rows -/

/-- An occurrence falls, and what follows by itself. -/
def falls (i action : Nat) (f : Nat → State → TTSlot → Nat → Nat → State) (s : State) :
    Host.Outcome State Fault Refusal := .next (s.fire i action (f i)).settle

/-- TT_WRITE. -/
def execTtWrite (s : State) : Host.Outcome State Fault Refusal := .next (s.run 0x0502 doTtWrite)
/-- TT_REMOVE. -/
def execTtRemove (s : State) : Host.Outcome State Fault Refusal := .next (s.run 0x0503 doTtRemove)
/-- TT_READ. -/
def execTtRead (s : State) : Host.Outcome State Fault Refusal := .next (s.run 0x0504 doTtRead)
/-- STEP_OPEN. -/
def execStepOpen (i : Nat) (s : State) : Host.Outcome State Fault Refusal := falls i 5 State.stepOpenFalls s
/-- LOAD_OPEN. -/
def execLoadOpen (i : Nat) (s : State) : Host.Outcome State Fault Refusal := .next (s.loadOpens i).settle
/-- STEP_OPEN_WINDOW_END. -/
def execStepOpenWindowEnd (i : Nat) (s : State) : Host.Outcome State Fault Refusal := .next (s.openingMissed i).settle
/-- HOLD. -/
def execHold (i : Nat) (s : State) : Host.Outcome State Fault Refusal := falls i 1 State.holdFalls s
/-- HOLD_END. -/
def execHoldEnd (s : State) : Host.Outcome State Fault Refusal := .next s.holdEnds.settle
/-- CHECK_CLOSE. -/
def execCheckClose (i : Nat) (s : State) : Host.Outcome State Fault Refusal := falls i 2 State.closeFalls s
/-- CLOCK. -/
def execClock (i : Nat) (s : State) : Host.Outcome State Fault Refusal := falls i 3 State.clockFalls s
/-- SNAPSHOT. -/
def execSnapshot (i : Nat) (s : State) : Host.Outcome State Fault Refusal := falls i 4 State.snapshotFalls s
/-- EVAL. -/
def execEval (i : Nat) (s : State) : Host.Outcome State Fault Refusal := falls i 6 State.evalFalls s
/-- EVAL_SLOT_OPEN. -/
def execEvalSlotOpen (s : State) : Host.Outcome State Fault Refusal := .next s.evalOpens.settle
/-- EVAL_SLOT_CLOSE. -/
def execEvalSlotClose (s : State) : Host.Outcome State Fault Refusal := .next s.evalCloses.settle
/-- CAL_LP. -/
def execCalLp (i : Nat) (s : State) : Host.Outcome State Fault Refusal := falls i 7 State.calFalls s
/-- CAL_INL. -/
def execCalInl (i : Nat) (s : State) : Host.Outcome State Fault Refusal := falls i 8 State.calFalls s
/-- CAL_WAIT_EXPIRY. -/
def execCalWaitExpiry (i : Nat) (s : State) : Host.Outcome State Fault Refusal := .next (s.calExpires i)
/-- CALIBRATION_WINDOW_END. -/
def execCalibrationWindowEnd (k : CalKind) (unit channel : Nat) (marginOk : Bool) (s : State) :
    Host.Outcome State Fault Refusal := .next (s.windowEnds k unit channel marginOk)
/-- FORCED_WINDOW. -/
def execForcedWindow (k : CalKind) (unit channel : Nat) (s : State) : Host.Outcome State Fault Refusal :=
  .next (s.forceWindow k unit channel)
/-- MARK. -/
def execMark (i : Nat) (s : State) : Host.Outcome State Fault Refusal := falls i 9 State.markFalls s

end Sys2Proof.Machine
end

