-- ==== Sys2Proof/Machine/Jobs.lean ====
section
/-! DEFINITION. Programs (R132, R133, R437), step control (R354, R381, R438, R439), the clocks of the seal logic (R349 to
R356) and of the weight digests (R358 to R361), and clamps by command (R440). -/

namespace Sys2Proof.Machine

/-! ### Program images -/

/-- Slices of `n` bytes each, `k` of them from offset `off`. -/
def tableRows (bs : List Byte) (off n k : Nat) : List (List Byte) := (List.range k).map fun i => slice bs (off + n * i) n

/-- A placement table entry (R132). -/
def parsePlacement (b : List Byte) : Placement :=
  { primary := uAt b 0 2, minWidth := uAt b 2 1, bindsSlots := uAt b 3 1 % 2 == 1,
    substitutes := ((List.range 6).map fun i => uAt b (4 + 2 * i) 2).takeWhile (· != 0xFFFF) }

/-- A slot table entry (R132). -/
def parseSlot (b : List Byte) : SlotEntry :=
  { logical := uAt b 0 2, slot := uAt b 2 1, function := uAt b 3 1, rows := uAt b 4 2 }

/-- A stash table entry (R109). -/
def parseStash (b : List Byte) : StashEntry :=
  { layer := uAt b 0 2, segmentStart := uAt b 2 1 % 2 == 1,
    stashPages := (List.range 24).map fun d => uAt b (8 + 4 * d) 4,
    boundaryPages := (List.range 24).map fun d => uAt b (0x68 + 4 * d) 4 }

/-- A program image as its bytes say it. -/
def parseProgram (bs : List Byte) (ft : Word) : Program :=
  { base := uAt bs 8 8, length := uAt bs 0x10 4, strict := bits (uAt bs 6 2) 0 1 == 1, rabbet := bits (uAt bs 6 2) 1 1 == 1,
    eval := bits (uAt bs 6 2) 2 1 == 1,
    placement := (tableRows bs (uAt bs 0x14 4) 16 (uAt bs 4 2)).map parsePlacement,
    slots := (tableRows bs (uAt bs 0x20 4) 8 (uAt bs 0x1E 2)).map parseSlot,
    stash := (tableRows bs (uAt bs 0x18 4) 200 (uAt bs 0x1C 2)).map parseStash,
    measuredFt := ft, digest := exactly 32 (Config.shake256 (bs.take (uAt bs 0x10 4)) 32) }

/-- What the header itself breaks (R132, R133): version, counts, flags, base, reserved bytes, and that the image lies in
one region clear of the reserved area. -/
def headerBad (b : List Byte) (address : Nat) : Bool :=
  uAt b 0 4 != 1 || !within (uAt b 4 2) 1 384 || bits (uAt b 6 2) 3 13 != 0 || uAt b 8 8 != address ||
    address % 4096 != 0 || decide (uAt b 0x10 4 < 64) || !inStore address (uAt b 0x10 4) || decide (4096 < uAt b 0x1E 2) ||
    !zeroFrom b 0x24 0x40

/-- A table does not lie within the image, or starts inside the header; one without entries lies nowhere. -/
def tableBad (length off n k : Nat) : Bool := k != 0 && (decide (off < 64) || decide (length < off + n * k))

/-- Layer indices rise strictly (R109). -/
def layersRise : List StashEntry → Bool
  | x :: y :: l => decide (x.layer < y.layer) && layersRise (y :: l)
  | _ => true

/-- Some value stands twice in a list. -/
def repeats : List Nat → Bool
  | [] => false
  | x :: l => l.contains x || repeats l

/-- What R63, R109, R116, R129, R133 and R437 refuse in an image: number 0 is no evaluation program and the others are; an
evaluation program keeps no stash. How an image shows the other rules of R129 is not stated: a free value says whether it
breaks them (assumption log 34). -/
def State.programBad (s : State) (bs : List Byte) (number : Nat) : Bool :=
  let p := parseProgram bs 0
  let len := uAt bs 0x10 4
  let cores := uAt bs 4 2
  p.eval != (number != 0) ||
  tableBad len (uAt bs 0x14 4) 16 cores || tableBad len (uAt bs 0x18 4) 200 (uAt bs 0x1C 2) ||
  tableBad len (uAt bs 0x20 4) 8 (uAt bs 0x1E 2) ||
  (tableRows bs (uAt bs 0x14 4) 16 cores).any (fun r => decide (1 < uAt r 3 1)) ||
  (tableRows bs (uAt bs 0x18 4) 200 (uAt bs 0x1C 2)).any (fun r => decide (1 < uAt r 2 1) || !zeroFrom r 3 8) ||
  (tableRows bs (uAt bs 0x20 4) 8 (uAt bs 0x1E 2)).any (fun r => uAt r 6 2 != 0) ||
  repeats (p.placement.map (·.primary)) ||
  p.placement.any (fun e => decide (384 ≤ e.primary) || !within e.minWidth 1 32 ||
    e.substitutes.any (fun k => decide (384 ≤ k) || (e.bindsSlots && clusterOf k != clusterOf e.primary)) ||
    (!s.coreClamped e.primary && decide (s.tileWidth e.primary < e.minWidth))) ||
  p.slots.any (fun e => decide (cores ≤ e.logical) || decide (15 < e.slot) || decide (2 < e.function) ||
    !within e.rows 1 2048) ||
  !layersRise p.stash || segmentsTooLarge (s.rf .stashReserve 0 21) p.stash ||
  (p.eval && (!p.stash.isEmpty || Config.evalRulesBroken (bs.take len)))

/-- Host of a logical core at load (R133): its primary, or the first qualifying substitute of a clamped one. -/
def State.hostAtLoad (s : State) (e : Placement) : Option Nat :=
  if s.coreClamped e.primary then e.substitutes.find? (s.qualifies e.minWidth) else some e.primary

/-- Place the logical cores of the training program (R133, R155). Cores that have returned from a reset host their own again
(R468). -/
def State.placeCores (s : State) (p : Program) : State :=
  let ls := upFrom 0 p.placement.length
  let hostOf (l : Nat) : Option Nat := (p.placement[l]?).bind s.hostAtLoad
  { s with
    hosts := ls.filterMap fun l => (hostOf l).map fun c => (l, c)
    noHost := ls.filter fun l => (hostOf l).isNone
    cores := (s.cores.map fun e => (e.1, { e.2 with returned := false })).filter fun e => e.2 != coreReset }

/-- A program of a number may not be replaced or removed now (R437). -/
def State.programBusy (s : State) (number : Nat) : Bool :=
  (number == 0 && s.stepUnsealed) || (match s.steps.evalSlot with | some e => e.2.1 == number | none => false)

/-- PROGRAM_LOAD: work in progress first (R561); the image is read as the long operation runs. -/
def doProgramLoad (c : OpenCmd) (s : State) : Result :=
  let a := uAt c.params 0 8
  let n := uAt c.params 8 1
  if s.accessStatus a 64 = .badParam then refuse s .badParam
  else if s.accessStatus a 64 = .clamped then refuse s .clamped
  else if s.programBusy n ∨ s.accessStatus a 64 = .busy then refuse s .busy
  else began s (.programLoad a n)

/-- The image has been read (R132, R133, R437): the program is loaded, or the status of the refusal. -/
def State.loadProgram (s : State) (a n : Nat) : Status × State :=
  let s := s.fetch .bench a 64
  if (s.firstPoison a 64).isSome then (.poison, s)
  else
    let h := s.bytesAt a 64
    let len := uAt h 0x10 4
    if headerBad h a then (.badParam, s)
    else if s.accessStatus a len ≠ .ok then (s.accessStatus a len, s)
    else
      let s := s.fetch .bench a len
      if (s.firstPoison a len).isSome then (.poison, s)
      else if s.programBad (s.bytesAt a len) n then (.badParam, s)
      else if s.programBusy n then (.busy, s)
      else
        let p := parseProgram (s.bytesAt a len) s.ft
        let s := { s with programs := tabPut s.programs n p }
        (.ok, if n = 0 then (s.placeCores p).forgetLost fun _ => true else s)

/-- PROGRAM_UNLOAD (R437). -/
def doProgramUnload (c : OpenCmd) (s : State) : Result :=
  let n := uAt c.params 0 1
  if s.programBusy n then refuse s .busy
  else if (s.program n).isNone then refuse s .badParam
  else
    let s := { s with programs := tabDel s.programs n }
    done (if n = 0 then { s with hosts := [], noHost := [] } else s) []

/-! ### Step control -/

/-- STEP_PARAM (R150, R438): with no next step known any step ID above the sealed one is in range (DEDUCED, assumption
log 35). -/
def doStepParam (c : OpenCmd) (s : State) : Result :=
  let m := uAt c.params 0 6
  let below := s.steps.sealedLetter != 3 && decide (m ≤ s.steps.sealedStep)
  let above := match s.nextStep with | some (n, _) => decide (n + 4 < m) | none => false
  if uAt c.params 6 2 ≠ 0 then refuse s .badParam
  else if (tabFind s.steps.params m).isSome && ((s.step? m).isSome || s.steps.replays.any (·.1 == m)) then refuse s .busy
  else if below || above then refuse s .badParam
  else if (tabFind s.steps.params m).isNone ∧ 4 ≤ s.steps.params.length then refuse s .noResource
  else done { s with steps := { s.steps with params := tabPut s.steps.params m c.params } } []

/-- STEP_CONTROL RESUME (R394, R439): a module that CKPT_CUT holds goes on with the step it holds (DEDUCED, assumption
log 36). -/
def doResume (c : OpenCmd) (s : State) : Result :=
  if s.heldByCut ∧ !s.retentionBusy then
    done { s with steps := { s.steps with opened := s.steps.opened.map fun r => { r with cut := none } } } []
  else if s.stepOpen ∨ s.retentionBusy then refuse s .busy
  else
    done { s with steps := { s.steps with
      halted := false, next := some (uAt c.params 8 8, uAt c.params 2 1) } } []

/-- STEP_CONTROL HALT (R381): the sequence runs once the command has been answered. -/
def doHalt (_ : OpenCmd) (s : State) : Result := { verdict := .start .stepHalt, state := s, post := State.haltSteps }

/-- The outcome that STEP_CONTROL delivers (R354). -/
def commandOutcome (c : OpenCmd) (s : State) (isRecall : Bool) : Outcome :=
  { step := uAt c.params 8 8, generation := uAt c.params 4 4, members := s.fabric.partition.members, isRecall := isRecall,
    halt := isRecall && bits (uAt c.params 1 1) 0 1 == 1, reason := 0, attempt := uAt c.params 2 1, chip := 0,
    replayFt := word (if isRecall then uAt c.params 16 8 else 0) }

/-- The outcome of a command has already arrived (R439). -/
def State.arrived (s : State) (o : Outcome) : Bool :=
  match s.steps.latest with
  | some l => l.step == o.step && l.attempt == o.attempt && l.isRecall == o.isRecall && l.generation == o.generation
  | none => false

/-- The outcome of a command names an unsealed step, in its attempt and generation (R439). -/
def State.matches_ (s : State) (o : Outcome) : Bool :=
  o.generation == s.fabric.partition.generation &&
    (match s.step? o.step with | some r => r.attempt == o.attempt | none => false)

/-- STEP_CONTROL SEAL. -/
def doStepSeal (c : OpenCmd) (s : State) : Result :=
  let o := commandOutcome c s false
  if s.matches_ o then doneThen s [] fun t => t.takeOutcome o 0
  else if s.arrived o then done s []
  else refuse s .badParam

/-- STEP_CONTROL RECALL. -/
def doStepRecall (c : OpenCmd) (s : State) : Result :=
  let o := commandOutcome c s true
  let op : LongOp := .stepRecall o.step o.attempt o.halt o.replayFt.toNat
  if s.matches_ o then { verdict := .start op, state := s, post := fun t => t.takeOutcome o 0 }
  else if s.arrived o then began s op
  else refuse s .badParam

/-- Phase that STEP_STATUS reports (R138). -/
def State.currentPhase (s : State) : Nat :=
  match (s.steps.opened.filter fun r => within r.phase 1 5).getLast? with
  | some r => r.phase
  | none =>
    if s.steps.opened.any (·.phase == 7) then 7 else if s.steps.evalSlot.isSome then 6 else 0

/-- STEP_STATUS (R436): the attempt is that of the newest step, else of the next one (DEDUCED, assumption log 37). -/
def doStepStatus (_ : OpenCmd) (s : State) : Result :=
  let next := s.nextStep.getD (0, 0)
  let attempt := match s.newest with | some r => r.attempt | none => next.2
  let opened := (s.steps.opened.filter fun r => within r.phase 1 5).length
  done s (le 8 s.steps.sealedStep ++ le 8 next.1 ++ le 1 attempt ++ le 1 s.steps.sealedLetter ++ le 1 opened ++
    le 1 s.currentPhase ++ le 1 (placeB s.steps.halted 0 + placeB s.table.hold.isSome 1 + placeB s.steps.evalSlot.isSome 2 +
      placeB s.steps.restoreFailed 3))

/-! ### Clamps by command (R66, R440) -/

/-- The unit kind of a code. -/
def unitKind (k : Nat) : UnitKind := if k = 0 then .core else if k = 1 then .cluster else .die

/-- CLAMP. -/
def doClamp (c : OpenCmd) (s : State) : Result :=
  let k := unitKind (uAt c.params 0 1)
  let u := uAt c.params 2 2
  if UnitKind.count k ≤ u then refuse s .badParam
  else done (s.clampUnit k u (if k = .core then 7 else 4) true) []

/-- UNCLAMP. -/
def doUnclamp (c : OpenCmd) (s : State) : Result :=
  let k := unitKind (uAt c.params 0 1)
  let u := uAt c.params 2 2
  if UnitKind.count k ≤ u then refuse s .badParam
  else if s.stepOpen then refuse s .busy
  else if !(s.ownClamp k u).2 ∨ s.enclosedClamp k u then refuse s .badParam
  else done (s.unclampUnit k u) []

/-! ### Rows -/

/-- A command row whose effect may let work go on. -/
def State.runSettle (s : State) (opcode : Nat) (f : OpenCmd → State → Result) : Host.Outcome State Fault Refusal :=
  .next (s.run opcode f).settle

/-- PROGRAM_LOAD. -/
def execProgramLoad (s : State) : Host.Outcome State Fault Refusal := .next (s.run 0x0500 doProgramLoad)
/-- PROGRAM_UNLOAD. -/
def execProgramUnload (s : State) : Host.Outcome State Fault Refusal := .next (s.run 0x0501 doProgramUnload)
/-- STEP_PARAM. -/
def execStepParam (s : State) : Host.Outcome State Fault Refusal := .next (s.run 0x0505 doStepParam)
/-- STEP_CONTROL_RESUME. -/
def execStepControlResume (s : State) : Host.Outcome State Fault Refusal :=
  .next (s.runFront 0x0506 (fun c => uAt c.params 0 1 == 0 || decide (3 < uAt c.params 0 1)) doResume).settle
/-- STEP_CONTROL_HALT. -/
def execStepControlHalt (s : State) : Host.Outcome State Fault Refusal :=
  .next (s.runFront 0x0506 (fun c => uAt c.params 0 1 == 1) doHalt).settle
/-- STEP_CONTROL_SEAL. -/
def execStepControlSeal (s : State) : Host.Outcome State Fault Refusal :=
  .next (s.runFront 0x0506 (fun c => uAt c.params 0 1 == 2) doStepSeal).settle
/-- STEP_CONTROL_RECALL. -/
def execStepControlRecall (s : State) : Host.Outcome State Fault Refusal :=
  .next (s.runFront 0x0506 (fun c => uAt c.params 0 1 == 3) doStepRecall).settle
/-- STEP_STATUS. -/
def execStepStatus (s : State) : Host.Outcome State Fault Refusal := .next (s.run 0x0507 doStepStatus)
/-- CLAMP. -/
def execClamp (s : State) : Host.Outcome State Fault Refusal := s.runSettle 0x0600 doClamp
/-- UNCLAMP. -/
def execUnclamp (s : State) : Host.Outcome State Fault Refusal := s.runSettle 0x0601 doUnclamp
/-- LEDGER_INDEX. -/
def execLedgerIndex (s : State) : Host.Outcome State Fault Refusal := .next (s.run 0x0602 doLedgerIndex)
/-- LEDGER_READ. -/
def execLedgerRead (s : State) : Host.Outcome State Fault Refusal := .next (s.run 0x0603 doLedgerRead)
/-- LEDGER_PIN. -/
def execLedgerPin (s : State) : Host.Outcome State Fault Refusal := .next (s.run 0x0604 doLedgerPin)
/-- FIELD_TEST. -/
def execFieldTest (failing : List (Nat × Nat × Nat)) (s : State) : Host.Outcome State Fault Refusal :=
  .next (s.run 0x0605 (doFieldTest failing))
/-- SEAL_DEADLINE. -/
def execSealDeadline (step : Nat) (s : State) : Host.Outcome State Fault Refusal := .next (s.sealDeadline step).settle
/-- SEAL_COPY_RESEND. -/
def execSealCopyResend (s : State) : Host.Outcome State Fault Refusal := .next s.resendCopy.settle
/-- OUTCOME_OVERDUE. -/
def execOutcomeOverdue (step : Nat) (s : State) : Host.Outcome State Fault Refusal := .next (s.outcomeOverdue step)
/-- REPLAY_OPEN. -/
def execReplayOpen (s : State) : Host.Outcome State Fault Refusal := .next s.replayOpen.settle
/-- WEIGHT_DIGEST_END. -/
def execWeightDigestEnd (s : State) : Host.Outcome State Fault Refusal := .next s.weightDigestEnd.settle
/-- DIGEST_COMPARE. -/
def execDigestCompare (s : State) : Host.Outcome State Fault Refusal := .next s.digestCompare

end Sys2Proof.Machine
end

