-- ==== Sys2Proof/Machine/Stores.lean ====
section
/-! DEFINITION. Memory commands (R433, R434) and partition and fabric commands (R294, R295, R435). -/

namespace Sys2Proof.Machine

/-! ### Memory commands -/

/-- Areas that no memory command may write now: while a step is open the Veneers of R434, program images and the check
store; in every case a frozen Veneer (R392), and the input slots and the Veneers read of unsealed steps (R2, R377). -/
def State.protectedAreas (s : State) : List (Nat × Nat) :=
  let unsealed := s.steps.opened.map (·.id) ++ s.steps.replays.map (·.1)
  let slots := unsealed.map fun m => s.inputSlot (m % (s.steps.depth + 1))
  let both (v : Nat) : List (Nat × Nat) := s.ownVeneer v :: (if s.mirrorInUse then [s.mirrorVeneer v] else [])
  let frozen := match s.ckpt.frozen with | some (v, _) => both v | none => []
  let read := s.steps.opened.flatMap (fun r => both r.reads) ++ (if s.steps.replays.isEmpty then [] else both s.nextReads)
  let open_ :=
    if s.stepOpen then
      (s.steps.opened.flatMap fun r => both r.reads ++ both r.writes) ++
        (if s.steps.sealedLetter = 3 then [] else both s.steps.sealedLetter) ++
        s.programs.map (fun e => (e.2.base, e.2.length)) ++ [s.checkStore]
    else []
  slots ++ frozen ++ read ++ open_

/-- A write of `n` bytes at `a` by command meets one of them. -/
def State.protectedWrite (s : State) (a n : Nat) : Bool := s.protectedAreas.any (areasMeet (a, n))

/-- Memory operations that run on the engines of the Carcass (R433). -/
def State.memoryOps (s : State) : Nat :=
  (s.longOps.filter fun o => match o.2 with
    | .memFill _ _ _ => true
    | .memCopy _ _ _ => true
    | .memDigest _ _ => true
    | _ => false).length

/-- Refusals of a memory command by the classes of R561: addresses it reads, and addresses it writes. -/
def State.memoryRefusal (s : State) (reads writes : List (Nat × Nat)) : Option Status :=
  let sts := (reads ++ writes).map fun x => s.accessStatus x.1 x.2
  if sts.contains .badParam then some .badParam
  else if sts.contains .clamped then some .clamped
  else if sts.contains .busy || writes.any (fun x => s.protectedWrite x.1 x.2) then some .busy
  else none

/-- MEM_READ: `errs` are bit errors met in the granules read. -/
def doMemRead (errs : BitErrors) (c : OpenCmd) (s : State) : Result :=
  let a := uAt c.params 0 8
  let n := uAt c.params 8 4
  match s.memoryRefusal [(a, n)] [] with
  | some st => refuse s st
  | none =>
    let s := (s.hit errs).fetch .bench a n
    match s.firstPoison a n with
    | some g => refuseWith s.unhit .poison (le 8 g)
    | none => done s.unhit (s.bytesAt a n)

/-- MEM_WRITE. -/
def doMemWrite (c : OpenCmd) (s : State) : Result :=
  let a := uAt c.params 0 8
  let n := uAt c.params 8 4
  match s.memoryRefusal [] [(a, n)] with
  | some st => refuse s st
  | none => done (s.store .bench a (slice c.params 16 n)) []

/-- Start an operation on a memory engine, of which four run at a time. -/
def State.beginMemory (s : State) (reads writes : List (Nat × Nat)) (op : LongOp) : Result :=
  match s.memoryRefusal reads writes with
  | some st => refuse s st
  | none => if 4 ≤ s.memoryOps then refuse s .noResource else began s op

/-- MEM_FILL. -/
def doMemFill (c : OpenCmd) (s : State) : Result :=
  let a := uAt c.params 0 8
  let n := uAt c.params 8 8
  s.beginMemory [] [(a, n)] (.memFill a n (slice c.params 16 16))

/-- MEM_COPY. -/
def doMemCopy (c : OpenCmd) (s : State) : Result :=
  let d := uAt c.params 0 8
  let a := uAt c.params 8 8
  let n := uAt c.params 16 8
  s.beginMemory [(a, n)] [(d, n)] (.memCopy d a n)

/-- MEM_DIGEST. -/
def doMemDigest (c : OpenCmd) (s : State) : Result :=
  let a := uAt c.params 0 8
  let n := uAt c.params 8 8
  s.beginMemory [(a, n)] [] (.memDigest a n)

/-- A clamp has taken the memory an operation in flight reaches (R23). -/
def State.clampedUnder (s : State) (l : List (Nat × Nat)) : Bool := l.any fun x => s.accessStatus x.1 x.2 == .clamped

/-- The end of a memory operation: what it moves is moved here. One that a clamp or poison ends has moved nothing
(DEDUCED, assumption log 39). The copy reads its whole source first, so overlapping ranges copy as they stood. -/
def State.memoryEnd (s : State) (jseq : Nat) (op : LongOp) : State :=
  match op with
  | .memFill a n pattern =>
    if s.clampedUnder [(a, n)] then s.closeCmd jseq .clamped []
    else (s.store .carcass a ((List.range (n / 16)).flatMap fun _ => pattern)).closeCmd jseq .ok []
  | .memCopy d a n =>
    if s.clampedUnder [(a, n), (d, n)] then s.closeCmd jseq .clamped []
    else
      let s := s.fetch .carcass a n
      match s.firstPoison a n with
      | some g => s.closeCmd jseq .poison (le 8 g)
      | none => (s.store .carcass d (s.bytesAt a n)).closeCmd jseq .ok []
  | .memDigest a n =>
    if s.clampedUnder [(a, n)] then s.closeCmd jseq .clamped []
    else
      let s := s.fetch .carcass a n
      match s.firstPoison a n with
      | some g => s.closeCmd jseq .poison (le 8 g)
      | none => s.closeCmd jseq .ok (exactly 32 (Config.shake256 (s.bytesAt a n) 32))
  | _ => s

/-! ### Partition (R293 to R296) -/

/-- An axis of a partition descriptor. -/
def parseAxis (v : Nat) : Axis := { low := bits v 0 8, length := bits v 8 8 + 1, wrap := bits v 16 1 == 1 }

/-- A partition descriptor of 48 bytes. -/
def parsePartition (b : List Byte) : Partition :=
  { tag := uAt b 0 2, generation := uAt b 4 4, axes := (List.range 4).map fun a => parseAxis (uAt b (8 + 4 * a) 4),
    twin := uAt b 0x18 4, coordinator := uAt b 0x1C 4 }

/-- The bytes of a partition descriptor. -/
def Partition.bytes (p : Partition) : List Byte :=
  le 2 p.tag ++ zeros 2 ++ le 4 p.generation ++
    (p.axes.flatMap fun x => le 4 (x.low + place (x.length - 1) 8 8 + placeB x.wrap 16)) ++ le 4 p.twin ++
    le 4 p.coordinator ++ zeros 16

/-- `s` under another descriptor. -/
def State.under (s : State) (p : Partition) : State := { s with fabric := { s.fabric with partition := p } }

/-- What R295 refuses with BAD_PARAM. The descriptor of tag 0x000 is all zeros and names no line to lie in; a low
coordinate lies in its ring (DEDUCED, assumption log 38). -/
def State.partitionBad (s : State) (b : List Byte) : Bool :=
  let p := parsePartition b
  let old := s.fabric.partition
  let reserved := uAt b 2 2 != 0 || (List.range 4).any (fun a => bits (uAt b (8 + 4 * a) 4) 17 15 != 0) ||
    decide (2 ^ 17 ≤ p.twin) || decide (2 ^ 17 ≤ p.coordinator) || !zeroFrom b 0x20 0x30
  let stale := p.tag == old.tag && decide (p.generation ≤ old.generation)
  if p.tag = 0 then !zeroFrom b 0 48 || stale
  else
    let axisBad (a : Nat) : Bool :=
      let x := nth ⟨0, 1, false⟩ p.axes a
      let n := s.ringLen a
      decide (n < x.length) || decide (n ≤ x.low) || (x.wrap && (x.length != n || x.low != 0))
    let t := s.under p
    reserved || decide (0xFFF ≤ p.tag) || (List.range 4).any axisBad || stale || !t.inLine s.chip || !t.inLine p.twin ||
      !t.inLine p.coordinator

/-- What R295 refuses with BUSY. -/
def State.partitionBusy (s : State) : Bool :=
  s.stepOpen || s.fabric.contexts.any (fun e => e.2.busy) || s.fabric.queues.any (fun e => e.2.running != 0)

/-- The twin relation under a new descriptor (R378, R380): a module that is receiving or has adopted stays so. -/
def Twin.under (t : Twin) (p : Partition) (chip : Nat) : Twin :=
  let paired := p.tag != 0 && p.twin != chip
  let same := paired && t.role == 1 && t.peer == p.twin
  if t.role = 2 ∨ t.role = 3 ∨ same then t
  else if paired then { t with role := 1, peer := p.twin, mirrorValid := false, newPairing := true }
  else { t with role := 0, peer := 0, mirrorValid := false, newPairing := false }

/-- PARTITION_SET (R295). -/
def doPartitionSet (c : OpenCmd) (s : State) : Result :=
  let p := parsePartition c.params
  if s.partitionBad c.params then refuse s .badParam
  else if s.partitionBusy then refuse s .busy
  else done { s.under p with twin := s.twin.under p s.chip } []

/-- PARTITION_GET. -/
def doPartitionGet (_ : OpenCmd) (s : State) : Result := done s s.fabric.partition.bytes

/-! ### Queue pairs and the destination table (R435) -/

/-- Lowest number of a port that no queue pair has (R225: 4,096 per port; DESIGN CHOICE, assumption log 40). -/
def EthPort.freeQp (p : EthPort) : Option Nat := firstBelow 4096 fun q => !(p.qps.any (·.1 == q))

/-- A new queue pair from the parameters of QP_CREATE. -/
def newQp (b : List Byte) (now : Nat) : QueuePair :=
  { remoteQpn := uAt b 4 4, remoteIp := slice b 8 16, selective := bits (uAt b 1 1) 0 1 == 1, dscp := uAt b 0x20 1,
    sendPsn := BitVec.ofNat 24 (uAt b 0x18 4), recvPsn := BitVec.ofNat 24 (uAt b 0x1C 4), windowBase := uAt b 0x28 8,
    windowLength := uAt b 0x30 8, error := false, rate := lineRate, notifiedAt := now, notifySentAt := none, retained := [],
    responses := [], reads := [], selectiveFrom := none, expiries := 0, progressAt := now, placed := [], delivered := [],
    completions := [] }

/-- QP_CREATE: a window of no bytes lies anywhere. -/
def doQpCreate (c : OpenCmd) (s : State) : Result :=
  let n := uAt c.params 0 1
  let x := newQp c.params s.now
  if x.windowLength ≠ 0 ∧ !inStore x.windowBase x.windowLength then refuse s .badParam
  else
    match (s.eth n).freeQp with
    | none => refuse s .noResource
    | some q => done (s.setEth n { s.eth n with qps := tabPut (s.eth n).qps q x }) (le 4 q)

/-- An enabled bridge or storage target names a queue pair. -/
def State.qpNamed (s : State) (n q : Nat) : Bool :=
  (List.range 8).any (fun d => s.bridged d && s.bridgeQp d == (n, q)) ||
    (List.range 16).any (fun i => s.rbit (.ckptTarget i) 0 && s.rf (.ckptTarget i) 1 1 + 4 == n &&
      s.rf (.ckptTarget i) 2 12 == q)

/-- QP_DESTROY: the outstanding operations end with TIMEOUT (R435). -/
def doQpDestroy (c : OpenCmd) (s : State) : Result :=
  let n := uAt c.params 0 1
  let q := uAt c.params 4 4
  if s.qpNamed n q then refuse s .busy
  else if (s.qp n q).isNone then refuse s .badParam
  else
    let gone := match s.qp n q with | some x => x.endedAs q | none => []
    done (s.setEth n { s.eth n with qps := tabDel (s.eth n).qps q, ended := gone ++ (s.eth n).ended }) []

/-- DEST_TABLE_LOAD (R286, R328, R435). -/
def doDestTableLoad (c : OpenCmd) (s : State) : Result :=
  let first := uAt c.params 0 4
  let count := uAt c.params 4 4
  let value (i : Nat) : Word := word (uAt c.params (8 + 8 * i) 8)
  if 131072 < first + count ∨ (List.range count).any (fun i => (value i &&& ~~~(Reg.destEntry 0).writable) != 0) then
    refuse s .badParam
  else done ((List.range count).foldl (fun t i => t.setReg (.destEntry (first + i)) (value i)) s) []

/-! ### Rows -/

/-- MEM_READ. -/
def execMemRead (errs : BitErrors) (s : State) : Host.Outcome State Fault Refusal := s.runSettle 0x0300 (doMemRead errs)
/-- MEM_WRITE. -/
def execMemWrite (s : State) : Host.Outcome State Fault Refusal := s.runSettle 0x0301 doMemWrite
/-- MEM_FILL. -/
def execMemFill (s : State) : Host.Outcome State Fault Refusal := .next (s.run 0x0302 doMemFill)
/-- MEM_COPY. -/
def execMemCopy (s : State) : Host.Outcome State Fault Refusal := .next (s.run 0x0303 doMemCopy)
/-- MEM_DIGEST. -/
def execMemDigest (s : State) : Host.Outcome State Fault Refusal := .next (s.run 0x0304 doMemDigest)
/-- PARTITION_SET. -/
def execPartitionSet (s : State) : Host.Outcome State Fault Refusal := s.runSettle 0x0400 doPartitionSet
/-- PARTITION_GET. -/
def execPartitionGet (s : State) : Host.Outcome State Fault Refusal := .next (s.run 0x0401 doPartitionGet)
/-- QP_CREATE. -/
def execQpCreate (s : State) : Host.Outcome State Fault Refusal := .next (s.run 0x0402 doQpCreate)
/-- QP_DESTROY. -/
def execQpDestroy (s : State) : Host.Outcome State Fault Refusal := .next (s.run 0x0403 doQpDestroy)
/-- DEST_TABLE_LOAD. -/
def execDestTableLoad (s : State) : Host.Outcome State Fault Refusal := s.runSettle 0x0404 doDestTableLoad

end Sys2Proof.Machine
end

