-- ==== Sys2Proof/Machine/Images.lean ====
section
/-! DEFINITION. Rows of the twin, of checkpoint images and of restores (R378 to R399); what they do is said in
Machine/Retention.lean. -/

namespace Sys2Proof.Machine

/-- TWIN_SEND. -/
def execTwinSend (s : State) : Host.Outcome State Fault Refusal := s.runSettle 0x0700 doTwinSend
/-- TWIN_RECEIVE. -/
def execTwinReceive (s : State) : Host.Outcome State Fault Refusal := s.runSettle 0x0701 doTwinReceive
/-- TWIN_ADOPT. -/
def execTwinAdopt (s : State) : Host.Outcome State Fault Refusal := s.runSettle 0x0702 doTwinAdopt
/-- CKPT_CUT. -/
def execCkptCut (s : State) : Host.Outcome State Fault Refusal := s.runSettle 0x0703 doCkptCut
/-- CHECKPOINT_RELEASE. -/
def execCheckpointRelease (s : State) : Host.Outcome State Fault Refusal := s.runSettle 0x0704 doCheckpointRelease
/-- CKPT_RETRY. -/
def execCkptRetry (s : State) : Host.Outcome State Fault Refusal := s.runSettle 0x0705 doCkptRetry
/-- RESTORE. -/
def execRestore (s : State) : Host.Outcome State Fault Refusal := s.runSettle 0x0706 doRestore
/-- GLUE_UP_WRITE_END. -/
def execGlueUpWriteEnd (s : State) : Host.Outcome State Fault Refusal := .next s.imageWritten.settle
/-- OBJECT_WRITE_FAIL. -/
def execObjectWriteFail (shard : Nat) (cause : Sys2Proof.ObjectFault) (s : State) : Host.Outcome State Fault Refusal :=
  .next (s.objectFailed shard cause).settle
/-- TWIN_TRANSFER_END. -/
def execTwinTransferEnd (s : State) : Host.Outcome State Fault Refusal := .next s.transferEnd.settle
/-- TWIN_DIGEST_END. -/
def execTwinDigestEnd (s : State) : Host.Outcome State Fault Refusal := .next s.transferDigested.settle
/-- RESTORE_HEADER_PASS_END. -/
def execRestoreHeaderPassEnd (headers : List (Option (List Byte))) (s : State) : Host.Outcome State Fault Refusal :=
  .next (s.headerPass headers).settle
/-- RESTORE_PAYLOAD_PASS_END. -/
def execRestorePayloadPassEnd (payloads : List (Option (List Byte))) (s : State) : Host.Outcome State Fault Refusal :=
  .next (s.payloadPass payloads).settle

end Sys2Proof.Machine
end

