-- ==== Sys2Proof/Machine/Resets.lean ====
section
/-! DEFINITION. Reset domains (R462 to R473, R488, R489): fence, drain, assert, release; the Carcass router's own
sequence; a Bench reset; the module cold reset (R483). -/

namespace Sys2Proof.Machine

/-! ### What runs (R463, R467) -/

/-- A domain holds another instance or is it (R463). -/
def contains_ (d : DomainCode) (i : Nat) (e : DomainCode) (j : Nat) : Bool :=
  match d, e with
  | .core, .core => i == j
  | .cluster, .core => i == clusterOf j
  | .cluster, .cluster => i == j
  | .die, .core => i == dieOf j
  | .die, .cluster => i == j / 4
  | .die, .die => i == j
  | .cold, _ => true
  | x, y => x == y

/-- The reset of an instance is under way (R465): ports of a released router still train. -/
def State.underReset (s : State) (d : DomainCode) (i : Nat) : Bool := s.resets.any fun r => contains_ r.domain r.inst d i

/-- The reset run of an instance itself. -/
def State.resetRun (s : State) (d : DomainCode) (i : Nat) : Option ResetRun := s.resets.find? fun r => r.domain == d && r.inst == i

/-- Instances of a domain (R462). -/
def instances : DomainCode → Nat
  | .core => 384 | .cluster => 96 | .die => 24 | _ => 1

/-- Drain window in ticks (R466, R489). -/
def State.drainTicks (s : State) : DomainCode → Nat
  | .core => ticksUs (max 10 (s.rf .resetCtrl 0 16))
  | .cluster => ticksUs (max 10 (s.rf .resetCtrl 16 16))
  | .die => ticksUs (max 10 (s.rf .resetCtrl 32 16))
  | .memory => ticksUs (max 10 (s.rf .resetCtrl 48 16))
  | .bench => ticksMs 20
  | .router => ticksUs 150
  | .cold => 0

/-- Replace the run of an instance. -/
def State.setRun (s : State) (r : ResetRun) : State :=
  { s with resets := s.resets.map fun x => if x.domain = r.domain ∧ x.inst = r.inst then r else x }

/-! ### Generation tags (R464) -/

/-- The tag of an instance and of every instance it contains goes up. -/
def Tags.bump (t : Tags) (d : DomainCode) (i : Nat) : Tags :=
  let up (l : List (Nat × BitVec 8)) (ks : List Nat) := ks.foldl (fun m k => tabMod 0 m k (· + 1)) l
  match d with
  | .core => { t with core := up t.core [i] }
  | .cluster => { t with core := up t.core (upFrom (4 * i) 4), cluster := up t.cluster [i] }
  | .die => { t with core := up t.core (upFrom (16 * i) 16), cluster := up t.cluster (upFrom (4 * i) 4), die := up t.die [i] }
  | .router => { t with router := t.router + 1 }
  | .memory => { t with memory := t.memory + 1 }
  | .bench => { t with bench := t.bench + 1 }
  | .cold =>
    { t with
      core := up t.core (List.range 384), cluster := up t.cluster (List.range 96), die := up t.die (List.range 24)
      router := t.router + 1, memory := t.memory + 1, bench := t.bench + 1 }

/-- Reply data of RESET_STATUS (R488). -/
def Tags.bytes (t : Tags) : List Byte :=
  ((List.range 384).map (tabGet 0 t.core)) ++ ((List.range 96).map (tabGet 0 t.cluster)) ++
    ((List.range 24).map (tabGet 0 t.die)) ++ [t.router, t.memory, t.bench, t.boots] ++ zeros 4

/-! ### Cores, clusters, dies (R466, R468) -/

/-- A core's reset asserts: its work ends as for a clamp, the Tray reads zero, its registers return. While the Bench is
fenced or in reset no core moves and nothing runs again (R473). Tiles retired before the reset stay counted towards
R476. -/
def State.assertCore (s : State) (c : Nat) : State :=
  let s :=
    if s.inReset .bench 0 then
      let t := s.abortItem c .clamped
      let t := (t.core c).restarts.foldl (fun u it => u.itemRecord c it .clamped) t
      let x := t.core c
      { t.setCore c { x with restarts := [], acc := none } with mem := t.mem.clear (trayOf c) (trayOf (c + 1)) }
    else s.loseCore c
  let x := s.core c
  let n := x.tilesRetired.toNat
  let y := s.cluster (clusterOf c)
  let s := s.setCore c { x with tilesRetired := 0, hangMark := x.hangMark.map (· + n), progressAt := s.now }
  let s := s.setCluster (clusterOf c) { y with hangMark := y.hangMark.map (· + n) }
  ({ s with mem := { s.mem with bankFresh := s.mem.bankFresh.filter fun e => !(decide (64 * c ≤ e.1) && decide (e.1 < 64 * c + 64)) } } : State).dropRegs
    fun r => r == .coreTiles c || r == .coreNumFlags c

/-- A cluster's reset asserts. -/
def State.assertCluster (s : State) (k : Nat) : State :=
  let s := (upFrom (4 * k) 4).foldl State.assertCore s
  let s := s.loseSlots k
  s.setCluster k { s.cluster k with rowPointer := 0 }

/-- A compute die's reset asserts: its Inlay reads as zero (R171), its windows end (R193), and every step that is open
or unsealed fails (R468). -/
def State.assertDie (s : State) (d : Nat) : State :=
  let s := (upFrom (4 * d) 4).foldl State.assertCluster (s.cutOps d)
  let m := s.mem.clear (d * 2 ^ 32) ((d + 1) * 2 ^ 32)
  let s : State := { s with mem := { m with windows := m.windows.filter fun w => !(w.1 == .inlay && w.2.1 == d) } }
  (s.steps.opened.foldl (fun t r => t.failStep (some r.id) 4) s).dropRegs fun r => r == .cdId d

/-! ### Carcass memory (R175, R178, R469) -/

/-- The device address of a device-local LPDDR6 address under H: the inverse of R176. -/
def lpddr6Back (h m l : Nat) : Nat :=
  if l < (24 - h) * 2 ^ 30 then
    let r := l >>> 12
    let f := r ^^^ (r >>> 6) ^^^ (r >>> 12) ^^^ (r >>> 18)
    lpddr6Base + (24 * r + (m + 24 - f % 24) % 24) * 2 ^ 12 + l % 2 ^ 12
  else lpddr6Base + 24 * (24 - h) * 2 ^ 30 + m * (h * 2 ^ 30) + (l - (24 - h) * 2 ^ 30)

/-- Device address that a stored byte has once H has changed: devices keep their contents (R178). -/
def movedBy (h g a : Nat) : Nat :=
  if regionOf a = .lpddr6 then lpddr6Back g (lpddr6Map h a).1 (lpddr6Map h a).2 else a

/-- HOME_GIB takes a new value. -/
def Memory.remap (m : Memory) (g : Nat) : Memory :=
  if m.homeGib = g then m
  else
    let n : Memory := { m with bytes := [], errors := [], homeGib := g }
    let n := m.bytes.foldl (fun t c => t.setByte (movedBy m.homeGib g c.1) c.2) n
    m.errors.foldl (fun t e => t.setDiff (movedBy m.homeGib g e.1) e.2) n

/-- Dirty Drawer lines: slice and device-local address of each. -/
def Memory.dirtyLines (m : Memory) : List (Nat × Nat) :=
  m.drawers.flatMap fun e => (e.2.lines.filter (·.2)).map fun l => (e.1 / 8192, l.1 * 256)

/-- The slices write their dirty lines back within a window (R175). How many are left when it ends is a free value; with
any left, what the devices hold of all of them is. -/
def State.writeBack (s : State) (us : Nat) : State :=
  let dirty := s.mem.dirtyLines
  let lost := Config.linesLost dirty.length us
  let s := dirty.foldl (fun t e => t.count (1089 + 2 * e.1) 256) s
  let s := { s with mem := { s.mem with drawers := [] } }
  if lost = 0 ∨ dirty.isEmpty then s
  else
    let m := dirty.foldl (fun t e =>
      let a := lpddr6Back t.homeGib e.1 e.2
      t.setBytes a ((upFrom a 256).map fun b => Config.lostByte s.freeDraws b)) s.mem
    ({ s with mem := { m with lpddr6Invalid := true }, freeDraws := s.freeDraws + 1 }).fault 0x000C .module .deadline lost 0

/-- The reset of the Carcass memory asserts (R466, R469). -/
def State.assertMemory (s : State) : State :=
  let s := s.writeBack (max 10 (s.rf .resetCtrl 48 16))
  let s := s.longOps.foldl (fun t e => match e.2 with
    | .memFill .. | .memCopy .. | .memDigest .. => t.closeCmd e.1 .deadline []
    | _ => t) s
  let m := s.mem.remap (s.rf .memMap 0 5)
  ({ s with
      digests := { s.digests with running := s.digests.running.map fun x => (x.1, x.2.1, true) }
      mem := { m with
        windows := m.windows.filter fun w => w.1 != .lpddr6
        carveBusy := false, corrected := 0, uncorrectable := 0, poisonMedium := 0, poisonAddr := 0, failUnit := 0,
        failChannel := 0 } } : State).dropRegs
    fun r => r.domain == .memory

/-! ### Carcass router (R470, R471) -/

/-- LINK_DARK on every admitted port: dark FT and reason (R276, R470). -/
def State.sendDark (s : State) (darkFt : Word) (reason : Nat) : State :=
  (List.range 16).foldl (fun t n =>
    if (t.port n).state = .admitted then t.putCell n (t.linkCell n 7 6 (padTo 48 (le 8 darkFt.toNat ++ le 1 reason))).bytes
    else t) s

/-- A tensor port once its router's reset asserts: what its fibres carry stays. -/
def TensorPort.afterReset (p : TensorPort) : TensorPort := { tensorPortReset with signal := p.signal }

/-- The reset of the Carcass router asserts: cells discarded, stream halves, collectives and twin transfers end with
DEADLINE, WAITC too; queue pairs are destroyed; NET_CHIP, NET_GEOMETRY, the partition, the destination table, NET_BRIDGE
and PORT_Tn_ADMIT keep their values (R466, R470, R471). -/
def State.assertRouter (s : State) : State :=
  let s := (s.failTransfer .deadline).endStreams (fun _ => true) .deadline
  let s := (List.range 384).foldl (fun t c =>
    match (t.core c).item with
    | some it => (match it.wait with | .counter .. => t.failItem c it .deadline | _ => t)
    | none => t) s
  let lostSource := s.time.source != TimeSource.none
  let s := { s with
    fabric := { fabricReset with partition := s.fabric.partition, bridgeDown := (List.range 8).filter s.bridged }
    ports := (List.range 16).foldl (fun t n => tabSet tensorPortReset t n (s.port n).afterReset) []
    eths := (List.range 6).foldl (fun t n => tabSet ethPortReset t n (s.eth n).afterReset) []
    time := { s.time with ptpSync := none, ptp := none }
    steps := { s.steps with
      copies := [], forwarded := [],
      opened := s.steps.opened.map (fun (r : StepRec) =>
        { r with own := none, children := [], combinedSent := false, verdictSent := none }) } }
  let s : State := s.dropRegs fun r => r.domain == .router
  if lostSource then s.sourceLost else s

/-! ### Bench (R472) -/

/-- The fence of a Bench reset: sessions close, no core takes work, and the own verdict of every unsealed step is FAIL
with OP_FAILED. -/
def State.fenceBench (s : State) : State :=
  let s := s.forgetWrapped
  let s := { s with cmds := { s.cmds with sessions := [], owner := none } }
  s.steps.opened.foldl (fun t r =>
    match t.step? r.id with
    | some x => t.setStep { x with own := some 4, reasons := if x.reasons.contains 4 then x.reasons else x.reasons ++ [4] }
    | none => t) s

/-- The reset of the Bench asserts: the ops and items still open end with DEADLINE, records without room are lost, and
what the Bench domain holds is gone, and with the programs the slots they bind (R70). What the fault-notice unit, the journal and the other domains hold stays. -/
def State.assertBench (s : State) : State :=
  let s := (List.range 384).foldl (fun t c =>
    let t := t.abortItem c .deadline
    let x := t.core c
    let t := x.restarts.foldl (fun u it => u.itemRecord c it .deadline) t
    t.setCore c { t.core c with restarts := [], checks := [], testing := false }) s
  let s := s.dropRegs fun r => r.domain == .bench
  { s with
      crings := [], ringHeads := [], table := timetableReset, programs := [], hosts := [], noHost := []
      clusters := (s.clusters.map fun e => (e.1, { e.2 with slots := [], lost := [] })).filter fun e => e.2 != clusterReset
      square := { squareReset with ledger := s.square.ledger, ledgerAge := s.square.ledgerAge }
      steps := { s.steps with evalSlot := none }
      digests := { digestsReset with running := s.digests.running }
      time := { fabricTimeReset with state := .free }
      speas := []
      cmds := { s.cmds with tieNext := false, malformed := 0, badTag := 0, authFailures := [], authTotal := 0 }
      journal := { s.journal with
        compacting := none
        waiting := s.journal.waiting.filter fun (e : Event) =>
          s.cmds.opened.any fun (c : OpenCmd) => c.jseq == e.concerns && survivesBench c }
      security := { s.security with keys := [], active := none }
      obs := { s.obs with waitingReads := [] }
      power := { s.power with
        clock := 0, capped := false, thermal := false, moduleDuty := 64, inputW := 0, hottest := 0, evaluatedFt := 0, feedsReg := 0
        records := [], dieDuty := [], cappedDies := [], thermalDies := [] }
      boot := { s.boot with
        commandReady := false, stage := 0, startedAt := s.now, readyAt := 0, cmdReadyMs := 0, trainReadyMs := 0
        stopped := s.boot.stopped && s.boot.stopStatus == .badParam, stopAfter := none
        stopStatus := if s.boot.stopStatus = .badTag then .ok else s.boot.stopStatus
        watchdogArmed := false } }

/-- On the Bench's return, as its boot begins: next Veneers are discarded and the stash freed (orders 5 and 6 of R356), and
the module holds. The master takes the fabric time of the router's replica and enters ACQUIRING. -/
def State.benchReturns (s : State) : State :=
  { s with
      steps := { s.steps with
        opened := [], replays := [], next := none, params := [], sealedParams := none, halted := true, inlayUsed := [],
        spillUsed := 0, inlayMax := 0, spillMax := 0, reserve := none, stashDryfit := none, stashExhausted := none, overdue := [], latest := none
        attempts := s.steps.opened.foldl (fun (t : List (Nat × Nat)) (x : StepRec) => tabPut t x.id (x.attempt + 1)) s.steps.attempts }
      fabric := { s.fabric with counters := [] }
      tags := { s.tags with boots := s.tags.boots + 1 }
      time := { s.time with state := .acquiring } }.rewindQueues

/-! ### Module cold reset (R463, R483) -/

/-- The module as boot stage 0 begins, by cause and whether power held. MRAM and NOR keep their contents (R447, R483,
R494 to R500), and LPDDR6 and the pattern ledger keep theirs while power holds (R483); there is no window in which the
Drawers could write back (R175, R466). -/
def State.coldReset (s : State) (cause : Nat) (powerHeld : Bool) : State :=
  let z := State.reset
  let s := if powerHeld then s.writeBack 0 else s
  let m := s.mem.remap 0
  let keep (a : Nat) : Bool := powerHeld && regionOf a == .lpddr6
  { z with
      pending := s.pending, outbox := s.outbox, now := s.now, freeDraws := s.freeDraws
      journal := { s.journal with compacting := none, waiting := [] }
      cmds := { z.cmds with lastSession := s.cmds.lastSession, principals := s.cmds.principals, opened := s.cmds.opened }
      longOps := s.longOps
      square := { z.square with
        ledger := if powerHeld then s.square.ledger else s.square.ledger.map fun (e : Nat × LedgerEntry) => (e.1, { e.2 with bytes := [] })
        ledgerAge := s.square.ledgerAge }
      ckpt := { z.ckpt with imageNumber := s.ckpt.imageNumber, underKey := s.ckpt.underKey }
      mem := { z.mem with bytes := m.bytes.filter (fun c => keep c.1), errors := m.errors.filter (fun c => keep c.1) }
      ports := (List.range 16).foldl (fun t n => tabSet tensorPortReset t n (s.port n).afterReset) []
      tags := { (if powerHeld then s.tags.bump .cold 0 else z.tags) with boots := s.tags.boots + 1 }
      boot := { z.boot with cause := cause, coldCause := cause, startedAt := s.now, failDeclared := s.boot.failDeclared }
      power := { z.power with
        rails := s.power.rails, inRange0 := s.power.inRange0, inRange1 := s.power.inRange1
        qualified0 := s.power.qualified0, qualified1 := s.power.qualified1, aux := s.power.aux
        feedLost0 := s.power.feedLost0, feedLost1 := s.power.feedLost1, bothLostAt := s.power.bothLostAt
        coldResetHeld := s.power.coldResetHeld, tripped := s.power.tripped, svcEn := s.power.svcEn }
      security := { s.security with
        keys := [], active := none, noticeKey := none, measured := [], service := s.security.service } }

/-! ### Starting and moving on (R465, R470) -/

/-- A reset of an instance begins with its fence (R465, R470, R472). -/
def State.startReset (s : State) (d : DomainCode) (i : Nat) (cmd : Option Nat) (hang : Bool) : State :=
  let s := { s with resets := s.resets ++ [{ domain := d, inst := i, phase := .fenced s.now, cmd := cmd, hang := hang }] }
  match d with
  | .router => s.sendDark (s.ft + word (ticksUs 100)) 0
  | .bench => s.fenceBench
  | _ => s

/-- A domain's reset asserts (R465, order 4): runs of instances it contains are absorbed (R473). -/
def State.assertReset (s : State) (r : ResetRun) : State :=
  let s := s.setRun { r with phase := .asserted s.now }
  let s := { s with
    resets := s.resets.map fun x =>
      if contains_ r.domain r.inst x.domain x.inst then { x with phase := .asserted s.now } else x
    tags := s.tags.bump r.domain r.inst }
  match r.domain with
  | .core => s.assertCore r.inst
  | .cluster => s.assertCluster r.inst
  | .die => s.assertDie r.inst
  | .router => s.assertRouter
  | .memory => s.assertMemory
  | .bench => s.assertBench
  | .cold => s

/-- A drain window has ended (R465, orders 3 and 4). -/
def State.drainEnds (s : State) (d : DomainCode) (i : Nat) : State :=
  match s.resetRun d i with
  | some r =>
    match r.phase with
    | .fenced since => if d = .router ∨ s.now < since + s.drainTicks d then s else s.assertReset r
    | _ => s
  | none => s

/-- The run of an instance is over: its command closes (R444). -/
def State.endRun (s : State) (r : ResetRun) (st : Status) : State :=
  let s := { s with resets := s.resets.filter fun x => !(x.domain == r.domain && x.inst == r.inst) }
  match r.cmd with
  | some j => s.closeCmd j st []
  | none => s

/-- A core, cluster or die that has come back hosts nothing of its own until the next PROGRAM_LOAD of program 0
(R468). -/
def State.coresReturn (s : State) (cs : List Nat) : State :=
  cs.foldl (fun t c => t.setCore c { t.core c with returned := true, progressAt := t.now }) s

/-- A core, cluster or die is released (R465, R475): a failing self-test clamps it (R482; reasons of R38, R68, R70). -/
def State.releaseUnit (s : State) (r : ResetRun) (passed : Bool) : State :=
  let s := s.endRun r (if passed then .ok else .clamped)
  match r.domain with
  | .core =>
    let s := s.coresReturn [r.inst]
    if !passed then s.clampCore r.inst 3 false
    else if r.hang then
      (s.setCore r.inst { s.core r.inst with hangMark := some 0 }).faultRecovered 0x0001 (.core r.inst) .deadline 0 0
    else s
  | .cluster =>
    let s := s.coresReturn (upFrom (4 * r.inst) 4)
    if !passed then s.clampCluster r.inst 2 false
    else if r.hang then
      (s.setCluster r.inst { s.cluster r.inst with hangMark := some 0 }).faultRecovered 0x0002 (.cluster r.inst) .deadline 0 0
    else s
  | .die =>
    let s := s.coresReturn (upFrom (16 * r.inst) 16)
    let s := { s with mem := { s.mem with
      windowAt := (List.range 32).foldl (fun t k => tabPut t (calKey .inlay r.inst k) s.now) s.mem.windowAt } }
    if !passed then s.clampDie r.inst 2 false else s
  | .memory =>
    { s with mem := { s.mem with
      windowAt := (List.range 192).foldl (fun t k => tabPut t (calKey .lpddr6 (k / 8) (k % 8)) s.now) s.mem.windowAt } }
  | _ => s

/-- Some port of the router still trains. -/
def State.portsTrain (s : State) : Bool :=
  (List.range 16).any fun n => (s.port n).state == .training || (s.port n).state == .discovered

/-- A domain is released after at least 1 ms (R464), the router 5 ms after its assert; the router is back in service
once its ports have been admitted, at most 20 ms later (R466, R470). -/
def State.release (s : State) (d : DomainCode) (i : Nat) (passed : Bool) : State :=
  match s.resetRun d i with
  | none => s
  | some r =>
    match r.phase with
    | .asserted since =>
      if s.resets.any (fun x => (x.domain != d || x.inst != i) && contains_ x.domain x.inst d i) then s
      else if d = .router then
        (if s.now < since + ticksMs 5 then s
         else (List.range 16).foldl (fun t n => t.bringUp n) (s.setRun { r with phase := .returning s.now }))
      else if s.now < since + ticksMs 1 then s
      else if d = .bench then ({ s with resets := s.resets.filter fun (x : ResetRun) => x.domain != .bench } : State).benchReturns
      else s.releaseUnit r passed
    | .returning since => if s.portsTrain ∧ s.now < since + ticksMs 20 then s else s.endRun r .ok
    | _ => s

/-- A reset of the Bench by hardware or by command: the sequence begins (R472), with the boot cause of R487. One by command sends
no FAULT (R482). -/
def State.resetBench (s : State) (cause : Nat) (byCommand : Bool) : State :=
  let s := { s with boot := { s.boot with cause := cause } }
  let s := if byCommand then s
    else s.fault 0x0004 .module .ok cause (match s.steps.opened.head? with | some r => r.id | none => 2 ^ 64 - 1)
  s.startReset .bench 0 none false

/-! ### Commands (R443, R444, R467) -/

/-- What R467 answers BUSY for. -/
def State.resetBusy (s : State) (d : DomainCode) (i : Nat) : Bool :=
  s.underReset d i ||
  match d with
  | .router => s.stepUnsealed || s.fabric.contexts.any (fun c => c.2.busy) || s.longOps.any (fun e =>
      match e.2 with
      | .twinSend | .twinReceive | .ckptCut | .ckptRetry | .restore => true
      | .done .. => (match s.openCmd e.1 with | some c => c.opcode / 256 == 7 | none => false)
      | _ => false)
  | .memory => s.stepUnsealed || s.ckpt.writing.isSome || s.ckpt.restore.isSome || s.longOps.any fun e =>
      match s.openCmd e.1 with
      | some c => c.opcode / 256 == 3 || c.opcode / 256 == 7
      | none => false
  | .die =>
    let here (x : Nat × Nat) : Bool := overlaps x.1 x.2 (i * 2 ^ 32) (2 ^ 32)
    s.programs.any (fun p => here (p.2.base, p.2.length)) ||
      s.setRings.any (fun r => s.rbit (wctrl r) 28 && here (s.wringBase r, 64 * s.wringSize r)) ||
      (List.range 16384).any (fun n => s.rbit (.cringCtrl n) 5 && here (s.cringBase n, 32 * s.cringSize n)) ||
      (List.range 16).any (fun q => s.rbit (.netSqCtrl q) 5 && here (s.rf (.netSqBase q) 6 42 * 64, 64 * 2 ^ s.rf (.netSqCtrl q) 0 5)) ||
      here s.checkStore ||
      s.eths.any fun e => e.2.qps.any fun q => here (q.2.windowBase, q.2.windowLength)
  | _ => false

/-- The clamp that RESET_DOMAIN answers CLAMPED for. -/
def State.resetClamped (s : State) (d : DomainCode) (i : Nat) : Bool :=
  match d with
  | .core => s.coreClamped i
  | .cluster => s.clusterClamped i
  | .die => s.dieClamped i
  | _ => false

/-- RESET_DOMAIN of a domain. -/
def doReset (d : DomainCode) (c : OpenCmd) (s : State) : Result :=
  let i := uAt c.params 2 2
  if instances d ≤ i then refuse s .badParam
  else if s.resetClamped d i then refuse s .clamped
  else if s.resetBusy d i then refuse s .busy
  else if d = .bench then { verdict := .direct .ok [], state := s, post := fun t => t.resetBench 2 true }
  else { verdict := .start (.resetDomain d i), state := s, post := fun t => t.startReset d i (some c.jseq) false }

/-- RESET_DOMAIN of a code that is none of R467: no domain takes it. -/
def doResetNone (_ : OpenCmd) (s : State) : Result := refuse s .badParam

/-- COLD_RESET: the confirmation has been checked with the layout; the reset follows the reply. Every admitted port
says so first (R276; DEDUCED, assumption log 41). -/
def doColdReset (_ : OpenCmd) (s : State) : Result :=
  { verdict := .direct .ok [], state := s, post := fun t => (t.sendDark t.ft 1).coldReset 1 true }

/-- RESET_STATUS (R488). -/
def doResetStatus (_ : OpenCmd) (s : State) : Result := done s s.tags.bytes

/-- Run a RESET_DOMAIN whose domain code is `n`. -/
def State.runReset (s : State) (n : Nat) (f : OpenCmd → State → Result) : Host.Outcome State Fault Refusal :=
  .next (s.runFront 0x0B00 (fun c => uAt c.params 0 1 == n) f).settle

/-! ### Rows -/

/-- RESET_CORE; a RESET_DOMAIN whose code is above 5 is refused by this row too. -/
def execResetCore (s : State) : Host.Outcome State Fault Refusal :=
  .next (s.runFront 0x0B00 (fun c => uAt c.params 0 1 == 0 || decide (5 < uAt c.params 0 1))
    (fun c t => if uAt c.params 0 1 = 0 then doReset .core c t else doResetNone c t)).settle
/-- RESET_CLUSTER. -/
def execResetCluster (s : State) : Host.Outcome State Fault Refusal := s.runReset 1 (doReset .cluster)
/-- RESET_COMPUTE_DIE. -/
def execResetComputeDie (s : State) : Host.Outcome State Fault Refusal := s.runReset 2 (doReset .die)
/-- RESET_CARCASS_ROUTER. -/
def execResetCarcassRouter (s : State) : Host.Outcome State Fault Refusal := s.runReset 3 (doReset .router)
/-- RESET_CARCASS_MEMORY. -/
def execResetCarcassMemory (s : State) : Host.Outcome State Fault Refusal := s.runReset 4 (doReset .memory)
/-- RESET_BENCH. -/
def execResetBench (s : State) : Host.Outcome State Fault Refusal := s.runReset 5 (doReset .bench)
/-- COLD_RESET. -/
def execColdReset (s : State) : Host.Outcome State Fault Refusal := .next (s.run 0x0B01 doColdReset).settle
/-- RESET_STATUS. -/
def execResetStatus (s : State) : Host.Outcome State Fault Refusal := .next (s.run 0x0B04 doResetStatus)

/-- DRAIN_WINDOW_END. -/
def execDrainWindowEnd (d : DomainCode) (i : Nat) (s : State) : Host.Outcome State Fault Refusal :=
  onUnit i (instances d) (s.drainEnds d i).settle
/-- ROUTER_INGRESS_CLOSE: 100 µs after the fence (R470). -/
def execRouterIngressClose (s : State) : Host.Outcome State Fault Refusal :=
  .next (match s.resetRun .router 0 with
    | some r =>
      (match r.phase with
       | .fenced since => if s.now < since + ticksUs 100 then s else s.setRun { r with phase := .ingressClosed since }
       | _ => s)
    | none => s).settle
/-- ROUTER_ASSERT: 150 µs after the fence (R470). -/
def execRouterAssert (s : State) : Host.Outcome State Fault Refusal :=
  .next (match s.resetRun .router 0 with
    | some r =>
      (match r.phase with
       | .ingressClosed since => if s.now < since + ticksUs 150 then s else s.assertReset r
       | _ => s)
    | none => s).settle
/-- RESET_RELEASE. -/
def execResetRelease (d : DomainCode) (i : Nat) (passed : Bool) (s : State) : Host.Outcome State Fault Refusal :=
  onUnit i (instances d) (s.release d i passed).settle

end Sys2Proof.Machine
end

