-- ==== Sys2Proof/Machine/Hangs.lean ====
section
/-! DEFINITION. Hang detection (R474 to R478, R490): the windows, what expires, and what follows. -/

namespace Sys2Proof.Machine

/-- Freeze rings for a hang (R527). -/
def State.freezeFor (s : State) (rings : List Nat) : State :=
  if s.rbit .trcCtrl 0 then rings.foldl (fun t k => t.freezeRing k) s else s

/-- Rings of a core: its own and those of its four engines (R524). -/
def coreRings (c : Nat) : List Nat := c :: upFrom (384 + 4 * c) 4

/-! ### Cores and clusters (R475, R476) -/

/-- Window of a core in ticks. -/
def State.coreWindow (s : State) : Nat := ticksMs (max 1 (s.rf .hangCtrl 0 8))

/-- The window of a core has expired: an op of its own is in flight and none has made progress (R474). -/
def State.coreExpired (s : State) (c : Nat) : Bool :=
  let x := s.core c
  s.rbit .hangCtrl 32 && !s.underReset .core c && !s.coreClamped c &&
    (match x.item with | some it => !it.ops.isEmpty | none => false) && decide (x.progressAt + s.coreWindow ≤ s.now)

/-- Cores of a cluster that have expired within one window: now, or shortly before (R475). -/
def State.hungCores (s : State) (k : Nat) : List Nat :=
  (upFrom (4 * k) 4).filter fun c => s.coreExpired c ||
    match s.resetRun .core c with
    | some r => (match r.phase with | .fenced since => r.hang && decide (s.now < since + s.coreWindow) | _ => false)
    | none => false

/-- A core has hung again before it has retired 4,096 tiles since its return (R476). -/
def State.coreHungAgain (s : State) (c : Nat) : Bool :=
  match (s.core c).hangMark with
  | some m => decide (m + (s.core c).tilesRetired.toNat < 4096)
  | none => false

/-- As `coreHungAgain`, for a cluster: its cores' tiles in all. -/
def State.clusterHungAgain (s : State) (k : Nat) : Bool :=
  match (s.cluster k).hangMark with
  | some m => decide (m + ((upFrom (4 * k) 4).map fun c => (s.core c).tilesRetired.toNat).sum < 4096)
  | none => false

/-- The hung-core sequence (R475): three or more cores of one cluster make it the cluster's, which the Bench resets; without the
Bench each core is reset by itself (R473). -/
def State.coreHang (s : State) (c : Nat) : State :=
  let s := s.freezeFor (coreRings c)
  let k := clusterOf c
  let hung := s.hungCores k
  if 3 ≤ hung.length ∧ !s.inReset .bench 0 then
    let s := s.freezeFor ((upFrom (4 * k) 4).flatMap coreRings)
    let s := s.fault 0x0002 (.cluster k) .deadline ((hung.map fun j => 2 ^ (j - 4 * k)).sum) 0
    if s.clusterHungAgain k then s.clampCluster k 3 false else s.startReset .cluster k none true
  else
    let tag := match (s.core c).item with | some it => it.tag.toNat | none => 0
    let s := s.fault 0x0001 (.core c) .deadline (s.core c).tilesRetired.toNat tag
    if s.coreHungAgain c then s.clampCore c 5 false else s.startReset .core c none true

/-! ### Collective engines (R477) -/

/-- Collective engine of a stream queue (R305). -/
def engineOfQueue (q : Nat) : Nat := q / 4

/-- A transmit half that an engine serves. -/
def StreamTx.onEngine (t : StreamTx) (e : Nat) : Bool :=
  match t.queue with | some q => engineOfQueue q == e | none => false

/-- Transmit halves open on an engine, by context. -/
def State.engineTx (s : State) (e : Nat) : List (Nat × StreamTx) :=
  s.fabric.contexts.filterMap fun c => match c.2.tx with | some t => if t.onEngine e then some (c.1, t) else none | none => none

/-- Collectives open on an engine, by base stream. -/
def State.engineColls (s : State) (e : Nat) : List (Nat × Collective) :=
  s.fabric.collectives.filter fun c => engineOfQueue c.2.queue == e

/-- The last progress of an engine: cells it injected, and ring steps that came in for its collectives. -/
def State.engineProgress (s : State) (e : Nat) : Nat :=
  let sent := ((s.engineTx e).map fun c => c.2.progressAt).foldl max 0
  s.fabric.contexts.foldl (fun m c =>
    match c.2.rx with
    | some r =>
      if r.ring && (match s.collOf c.1 with | some b => (s.engineColls e).any (·.1 == b) | none => false) then max m r.lastAt
      else m
    | none => m) sent

/-- The window of an engine with work has expired (R474). -/
def State.engineExpired (s : State) (e : Nat) : Bool :=
  s.rbit .hangCtrl 33 && !s.underReset .router 0 && !((s.engineTx e).isEmpty && (s.engineColls e).isEmpty) &&
    decide (s.engineProgress e + ticksMs (max 1 (s.rf .hangCtrl 8 8)) ≤ s.now)

/-- A second expiry of any engine within 1 s (R477). -/
def State.stalledBefore (s : State) : Bool := s.fabric.stallAt.any fun x => decide (s.now ≤ x.2 + ticksS 1)

/-- The window of an engine has expired: what it has open ends with TIMEOUT, or the router resets as well. -/
def State.engineStall (s : State) (e : Nat) : State :=
  let txs := (s.engineTx e).filter fun c => c.2.coll.isNone
  let colls := s.engineColls e
  let again := s.stalledBefore
  let s := s.fault 0x0005 (.engine e) .timeout (txs.length + colls.length) (if again then 1 else 0)
  let s := { s with fabric := { s.fabric with stallAt := tabPut s.fabric.stallAt e s.now } }
  let s := (s.engineTx e).foldl (fun t c => if c.2.coll.isSome then t.setTx c.1 none else t) s
  let s := txs.foldl (fun t c => t.endTx c.1 c.2 .timeout) s
  let s := colls.foldl (fun t c => t.endColl c.1 c.2 .timeout) s
  if again then (s.fault 0x0018 .module .ok 0 0).startReset .router 0 none true else s

/-! ### Tensor ports (R474) -/

/-- A port holds cells and has sent none within its window. -/
def State.portExpired (s : State) (n : Nat) : Bool :=
  let p := s.port n
  s.rbit .hangCtrl 34 && !s.underReset .router 0 && p.state == .admitted &&
    match p.egress with
    | [] => false
    | x :: xs =>
      let oldest := xs.foldl (fun m c => min m c.queuedAt) x.queuedAt
      decide (max p.sentAt oldest + ticksMs (max 1 (s.rf .hangCtrl 16 8)) ≤ s.now)

/-! ### Bench (R478) -/

/-- A heartbeat of the Bench has lapsed: the third hang in an hour starts a cold reset. -/
def State.benchHang (s : State) (lapsed : BitVec 4) : State :=
  let s := s.freezeFor [benchRing]
  let hangs := s.now :: s.boot.benchHangs.filter fun t => decide (s.now < t + ticksS 3600)
  let s := { s with boot := { s.boot with benchHangs := hangs } }
  let s := s.fault 0x0003 .module .deadline lapsed.toNat hangs.length
  if 3 ≤ hangs.length then (s.sendDark s.ft 1).coldReset 4 true else s.resetBench 3 false

/-! ### Rows -/

/-- CORE_HANG. -/
def execCoreHang (c : Nat) (s : State) : Host.Outcome State Fault Refusal :=
  onUnit c 384 (if s.power.rails == .on && s.coreExpired c then s.coreHang c else s).settle
/-- STREAM_STALL. -/
def execStreamStall (e : Nat) (s : State) : Host.Outcome State Fault Refusal :=
  onUnit e 4 (if s.power.rails == .on && s.engineExpired e then s.engineStall e else s).settle
/-- PORT_STALL: down, and a bring-up as with RETRAIN; the queued cells return to routing (R287). -/
def execPortStall (n : Nat) (s : State) : Host.Outcome State Fault Refusal :=
  onUnit n 16 (if s.power.rails == .on && s.portExpired n then
    ((s.freezeFor [1920 + n]).fault 0x0006 (.port n) .deadline (s.port n).egress.length 0).retrainPort n else s).settle
/-- BENCH_HANG. -/
def execBenchHang (lapsed : BitVec 4) (s : State) : Host.Outcome State Fault Refusal :=
  .next (if s.power.rails == .on && s.boot.watchdogArmed && !s.underReset .bench 0 && lapsed != 0 then s.benchHang lapsed
    else s).settle
/-- ROM_TIMER: stage 1 has not started within 5 s of the start of the boot. The boot that follows keeps the cause of the
one it ends (DEDUCED, assumption log 42). -/
def execRomTimer (s : State) : Host.Outcome State Fault Refusal :=
  .next (if s.power.rails == .on && !s.boot.watchdogArmed && !s.underReset .bench 0 && s.boot.stage == 0 &&
      decide (s.boot.startedAt + ticksS 5 ≤ s.now) then s.resetBench s.boot.cause false else s).settle

end Sys2Proof.Machine
end

