-- ==== Sys2Proof/Machine/RegisterRead.lean ====
section
/-! DEFINITION. What every register reads as: the bits software wrote (Machine/Registers.lean) beside those that
hardware keeps (R35 to R41, R67 to R70, R93, R119 to R125, R160 to R166, R195 to R201, R236 to R244, R264 to R269, R317 to
R329, R362 to R371, R404 to R415, R457 to R461, R489 to R493, R516 to R519, R533 to R540, R560), and REG_READ (R431,
R432). -/

namespace Sys2Proof.Machine

/-! ### Chapters 1 and 2 -/

/-- BENCH_DIE_STATUS (R37). -/
def State.dieStatus (s : State) : Word :=
  word (((List.range 24).map fun d => placeB (s.die d).present d + placeB (s.dieClamped d) (24 + d)).sum + placeB s.noCompute 48)

/-- Reason codes of `n` dies from `lo` (R38). -/
def State.dieReasons (s : State) (lo n : Nat) : Word :=
  word ((upFrom lo n).map fun d => place (s.die d).clampReason (4 * (d - lo)) 4).sum

/-- BENCH_PAIRING (R39). -/
def State.pairingReg (s : State) : Word :=
  word (place s.boot.timingSet 0 4 + place s.boot.entries 8 5 + place s.boot.tableVersion 16 16 + placeB s.boot.mixed 32)

/-- ENG_STATUS (R67). -/
def State.engStatus (s : State) (e : Nat) : Word :=
  let x := s.engine e
  let m := x.manufacturing ||| x.boot
  word (place x.width 0 6 + place (ones x.manufacturing) 8 4 + place (ones m - ones x.manufacturing) 12 4 + place m.toNat 32 32)

/-- CORE_STATUS (R68). -/
def State.coreStatus (s : State) (c : Nat) : Word :=
  let x := s.core c
  let (strict, busy) : Bool × Bool := match x.item with
    | some it => ((match s.itemProgram it with | some p => p.strict | none => false), it.ops.any (·.kind == .tile))
    | none => (false, false)
  let clamped := s.coreClamped c
  word (placeB clamped 0 + place (if clamped then x.shownReason else 0) 4 4 + place (s.tileWidth c) 8 6 + placeB strict 14 + placeB busy 15 +
    place (tabGet 0 s.tags.core c).toNat 16 8)

/-- CL_STATUS (R70). -/
def State.clStatus (s : State) (k : Nat) : Word :=
  let x := s.cluster k
  let clamped := s.clusterClamped k
  word (placeB clamped 0 + place (if clamped then x.shownReason else 0) 4 4 + place x.slots.length 8 5 +
    ((List.range 4).map fun j => placeB (s.coreClamped (4 * k + j)) (16 + j)).sum)

/-- CORE_SQ_STATE and CL_SQ_STATE (R371). -/
def sqState (strikes : Nat) (watch : Bool) (left total : Nat) : Word :=
  word (place strikes 0 2 + placeB watch 2 + place left 16 13 + place total 32 16)

/-! ### Chapters 5 to 9 -/

/-- CORE_REMAP (R163). -/
def State.remapReg (s : State) (l : Nat) : Word :=
  let host := s.hostOf l
  let moved := match host, s.placement l with | some h, some p => h != p.primary | _, _ => false
  word (place (host.getD 0) 0 9 + placeB moved 9 + placeB (s.noHost.contains l) 10)

/-- A trained shim lane is available to the transmitter (R236). -/
def TensorPort.shimOk (p : TensorPort) : Bool :=
  p.txShim != 7 && (match p.txRot with | some (_, _, .trainSent, _) | some (_, _, .retrain, _) => false | _ => true)

/-- PORT_Tn_STATUS (R236). -/
def State.portStatus (s : State) (n : Nat) : Word :=
  let p := s.port n
  word (place p.state.code 0 3 + placeB p.threeLane 3 + placeB p.shimOk 4 + place (p.txFailed ||| p.rxFailed).toNat 5 5 +
    placeB (p.peerValid && field p.peer 32 4 == n ^^^ 2) 10 + placeB p.peerMismatch 11 + placeB p.rotating 12)

/-- Logical lanes of a direction as PORT_Tn_LANE_MAP shows them: in three-lane mode the remaining lanes are renumbered 0
to 2 (R221, R237). -/
def laneField (l : List Nat) : Nat :=
  let k := l.filter (· != 7)
  ((List.range 4).map fun i => place (nth 7 k i) (3 * i) 3).sum

/-- PORT_Tn_LANE_MAP (R237). -/
def State.laneMap (s : State) (n : Nat) : Word :=
  let p := s.port n
  word (laneField p.txData + place p.txShim 12 3 + laneField p.rxData * 2 ^ 16 + place p.rxShim 28 3 + place p.nextLogical 32 2)

/-- PORT_En_STATUS (R242): the long-haul buffer is in use while it is enabled and the link is up (DEDUCED, assumption log 125). -/
def State.ethStatus (s : State) (n : Nat) : Word :=
  let p := s.eth n
  word (placeB p.linkUp 0 + placeB p.pcsLock 1 + placeB (s.longHaul n && p.linkUp) 2 + place p.qps.length 8 13 +
    place (s.retainedBytes n / 1024) 32 17)

/-- SPEAS_STATUS (R244). -/
def State.speasStatus (s : State) (i : Nat) : Word :=
  let p := s.sp i
  word (placeB p.linkUp 0 + place p.active.toNat 3 3 + place p.failed.toNat 6 3 +
    placeB (p.linkUp && p.waves.length == 1) 9 + place p.retransmits.toNat 16 16 + place p.rotations.toNat 32 16)

/-- Code of a fabric-time state (R251). -/
def FtState.code : FtState → Nat
  | .free => 0 | .acquiring => 1 | .locked => 2 | .holdover => 3

/-- FT_STATUS but for ALARM (R265). -/
def State.ftStatus (s : State) : Word :=
  let t := s.time
  let (kind, port) : Nat × Nat := match t.source with | .cells n => (1, n) | .ptp n => (0, n) | .none => (0, 0)
  word (place t.state.code 0 3 + place kind 3 1 + place port 4 4 + place t.hops 8 4 + place (satInt t.offset 2) 16 16)

/-- TT_STATUS (R269). -/
def State.ttStatus (s : State) : Word :=
  word (place s.table.slots.length 0 13 + place (match s.nextDue with | some x => x.2.2 | none => 0) 16 12 +
    place s.table.missed.toNat 32 16 + place s.table.skipped.toNat 48 16)

/-- NET_AXIS (R320). -/
def State.axisReg (s : State) : Word :=
  word ((List.range 4).map fun a => place (s.axis a).low (16 * a) 8 + place ((s.axis a).length - 1) (16 * a + 8) 8).sum

/-- NET_PARTITION (R319). -/
def State.partitionReg (s : State) : Word :=
  let p := s.fabric.partition
  word (place p.tag 0 12 + ((List.range 4).map fun a => placeB (s.axis a).wrap (12 + a)).sum + place p.generation 16 32)

/-! ### Chapters 10 to 16 -/

/-- SQ_STATUS (R365). -/
def State.sqStatus (s : State) : Word :=
  let q := s.square
  word (place q.sampled.toNat 0 16 + place q.skipped.toNat 16 16 + place q.disagreed.toNat 32 8 + place q.wrong.toNat 40 8 +
    place q.reason.toNat 48 8 + placeB q.sent 56 + placeB q.sentFail 57)

/-- SQ_SEAL_STATUS (R367). -/
def State.sealStatus (s : State) : Word :=
  let own := placeB (!s.steps.overdue.isEmpty) 50 + placeB s.isCoordinator 51
  match s.steps.latest with
  | some o => word (place o.step 0 48 + placeB o.isRecall 48 + placeB o.halt 49 + own + place o.attempt 56 8)
  | none => word own

/-- SQ_DIGEST_STATUS (R369). -/
def State.digestStatus (s : State) : Word :=
  let g := s.digests
  word (place g.step 0 48 + placeB g.valid 48 + placeB g.mismatch 49 + placeB g.selfOdd 50 + placeB g.noMajority 51 + placeB g.missing 52)

/-- STEP_STASH_STATUS (R124). -/
def State.stashStatus (s : State) : Word :=
  let t := s.steps
  word (placeB t.stashDryfit.isSome 0 + placeB t.stashExhausted.isSome 1 + place (t.stashDryfit.getD 0) 16 16 +
    place (t.stashExhausted.getD 0) 32 16)

/-- STEP_RETAIN_STATUS (R407). -/
def State.retainStatus (s : State) : Word :=
  word (place s.steps.sealedLetter 0 2 + place s.steps.opened.length 4 2 + placeB s.steps.restoreFailed 6 + place s.steps.sealedStep 16 48)

/-- TWIN_STATUS (R409): the peer of a transfer is its sender. -/
def State.twinStatus (s : State) : Word :=
  word (place s.twin.role 0 2 + placeB s.twin.mirrorValid 2 + placeB s.twin.transfer.isSome 3 + place s.twin.peer 8 17)

/-- CKPT_STATUS (R413). -/
def State.ckptStatus (s : State) : Word :=
  let k := s.ckpt
  word (place k.state 0 3 + placeB k.frozen.isSome 3 + place (match k.frozen with | some f => f.1 | none => 0) 4 2 +
    placeB k.latestPhase 6 + place k.latestStep 16 48)

/-- CMD_STATUS (R457). -/
def State.cmdStatus (s : State) : Word :=
  let held := s.cmds.opened.filter fun c => match c.phase with | .held _ => true | _ => false
  word (place s.openSessions.length 0 4 + placeB s.cmds.owner.isSome 4 + placeB s.cmds.tieNext 5 + place held.length 16 16 +
    place (s.cmds.owner.getD 0) 32 32)

/-- JNL_STATUS (R461). -/
def State.jnlStatus (s : State) : Word :=
  let j := s.journal
  word (place (100 * j.occupancy / ringSize) 0 7 + placeB j.compacting.isSome 7 + placeB j.activeB 8 + placeB j.ringFull 9 +
    place s.cmds.opened.length 16 11 + place j.active.generation 32 32)

/-- BENCH_BOOT_STATUS (R493). -/
def State.bootStatus (s : State) : Word :=
  let b := s.boot
  word (place b.stage 0 4 + place b.cause 4 4 + placeB b.stopped 8 + place b.cmdReadyMs.toNat 16 16 + place b.trainReadyMs.toNat 32 16)

/-- SEC_STATUS (R516). -/
def State.secStatus (s : State) : Word :=
  let x := s.security
  word (place x.level 0 2 + placeB x.wipeDone 2 + placeB x.noIdentity 3 + place x.sources.toNat 4 7 +
    (x.keys.map fun k => 2 ^ (16 + k.1)).sum + placeB x.active.isSome 20 + placeB x.noticeKey.isSome 21 + place x.highestKey 32 32)

/-- SEC_ROLLBACK (R519). -/
def State.rollbackReg (s : State) : Word :=
  let x := s.security
  word (place x.rollback.1.toNat 0 16 + place x.rollback.2.1.toNat 16 16 + place x.rollback.2.2.toNat 32 16 +
    place x.revoked.toNat 48 4 + placeB x.recordValid 52)

/-- TRC_RING_k (R536). -/
def State.ringReg (s : State) (k : Nat) : Word :=
  let r := tabGet traceRingReset s.obs.rings k
  word (place r.state 0 2 + place r.entries.length 2 11 + place r.written.toNat 32 32)

/-- Bench hangs within the last hour (R490). -/
def State.recentHangs (s : State) : Nat := (s.boot.benchHangs.filter fun t => decide (s.now < t + ticksS 3600)).length

/-! ### All registers -/

/-- The bits of a register that hardware keeps. -/
def State.hardware (s : State) : Reg → Word
  | .moduleId => word (0x2418 + 0x01 <<< 16 + place s.boot.benchStepping.toNat 24 8 + place s.boot.carcassStepping.toNat 32 8 +
      place s.security.config.substrateRev.toNat 40 8)
  | .serial => s.security.config.serial
  | .dieStatus => s.dieStatus
  | .reasonLo => s.dieReasons 0 16
  | .reasonHi => s.dieReasons 16 8
  | .pairing => s.pairingReg
  | .features => s.boot.features
  | .hangCtrl => word (50 <<< 24 + place s.recentHangs 35 5)
  | .noticeCtrl => word (place s.notices.held.length 32 8 + place s.notices.dropped.toNat 40 8)
  | .bootStatus => s.bootStatus
  | .cmdStatus => s.cmdStatus
  | .cmdDiscards => word (s.cmds.malformed.toNat + place s.cmds.badTag.toNat 32 32)
  | .jnlAccepted => word s.journal.lastAccepted
  | .jnlCompleted => word s.journal.lastCompleted
  | .jnlStatus => s.jnlStatus
  | .secStatus => s.secStatus
  | .secAlarmMap => word s.security.config.alarmMap.toNat
  | .secAuthFail => word (place (min s.recentFailures 0xFFFF) 0 16 + place s.cmds.authTotal.toNat 16 32)
  | .secRollback => s.rollbackReg
  | .pwrStatus => s.pwrStatus
  | .pwrFeeds => s.power.feedsReg
  | .pwrCapDie d => word (place (s.die d).duty 8 7)
  | .ftNow => s.ft
  | .ftStatus => s.ftStatus
  | .ttStatus => s.ttStatus
  | .netPartition => s.partitionReg
  | .netAxis => s.axisReg
  | .netRouteCtrl => word (64 <<< 14)
  | .netStreamCtrl => word (place (s.fabric.contexts.filter fun c => c.2.busy).length 32 14)
  | .netSqCtrl q => word (placeB (s.sq q).waiting 7)
  | .netSqPtr q => word (s.sq q).head.toNat
  | .cringCtrl n => word (placeB (!(s.cring n).held.isEmpty) 6)
  | .cringPtr n => word (s.cring n).tail.toNat
  | .portStatus n => s.portStatus n
  | .portLaneMap n => s.laneMap n
  | .portJig n => word (place (s.port n).done.toNat 40 16 + place (s.port n).aborted.toNat 56 8)
  | .portPeer n => ((s.port n).peer &&& peerMask) ||| word (placeB (s.port n).peerValid 37)
  | .portFec n => word ((s.port n).fecCorrected.toNat + place (s.port n).fecUncorrectable.toNat 32 32)
  | .portDiscard n =>
    let p := s.port n
    word (p.discardFec.toNat + place p.discardCrc.toNat 16 16 + place p.discardPartition.toNat 32 16 +
      place p.discardUnroutable.toNat 48 16)
  | .ethStatus n => s.ethStatus n
  | .speasStatus i => s.speasStatus i
  | .memMap => word (place s.mem.homeGib 8 5)
  | .memDrwCarve => word (place s.cacheWays 16 5 + placeB s.mem.carveBusy 24)
  | .memPoisonLog => word (place s.mem.poisonMedium 0 4 + place s.mem.poisonAddr 4 44)
  | .memErrCount => word (s.mem.corrected.toNat + place s.mem.uncorrectable.toNat 32 32)
  | .memCalStatus => word (place s.mem.failUnit 8 5 + place s.mem.failChannel 16 5)
  | .cdId d => if (s.die d).present then word (place (s.die d).stepping.toNat 0 8 + place (siteOf d) 8 5 + place d 16 5) else 0
  | .clStatus k => s.clStatus k
  | .clSqState k =>
    let x := s.cluster k
    sqState x.strikes x.watch x.watchLeft x.strikeTotal
  | .coreStatus c => s.coreStatus c
  | .coreTiles c => (s.core c).tilesRetired
  | .coreRemap l => s.remapReg l
  | .coreSqState c =>
    let x := s.core c
    sqState x.strikes x.watch x.watchLeft x.strikeTotal
  | .wringPtr c j => word (s.wringHead (128 * c + j)).toNat
  | .engStatus e => s.engStatus e
  | .sqStatus => s.sqStatus
  | .sqSealStatus => s.sealStatus
  | .sqDigestStatus => s.digestStatus
  | .stashStatus => s.stashStatus
  | .stashUse => word (place s.steps.spillMax 0 28 + place s.steps.inlayMax 32 21)
  | .retainStatus => s.retainStatus
  | .twinStatus => s.twinStatus
  | .ckptStatus => s.ckptStatus
  | .ckptCount => word (s.ckpt.imageNumber.toNat + place s.ckpt.underKey.toNat 32 23)
  | .trcCtrl =>
    word (place (s.obs.rings.filter fun r => r.2.state == 1).length 16 16 + place (s.obs.rings.filter fun r => r.2.state == 2).length 32 16)
  | .trcRing k => s.ringReg k
  | .cntSnapDir i =>
    match tabFind s.obs.snapshots i with
    | some x => word (x.tag.toNat + 2 ^ 32)
    | none => 0
  | .cntValue i => s.counterNow 0 i
  | .resetCtrl | .noticeAddr _ | .cmdCtrl | .pwrCapModule | .pwrThermal | .ftCtrl | .ftEpoch | .ttCtrl | .netChip | .netGeometry
  | .netThrottle | .netBridge _ | .netSqBase _ | .cringBase _ | .destEntry _ | .portAdmit _ | .ethRdma _ | .memCalCtrl
  | .memScrubCtrl | .coreNumFlags _ | .wringBase _ _ | .wringCtrl _ _ | .sqCtrl | .sqStoreBase | .sqStoreLimit | .sqSealCtrl
  | .sqDigestCtrl | .sqDigestGroup _ | .stashInlayLimit | .stashSpillBase | .stashSpillLimit | .stashReserve | .stashCtrl
  | .veneerBase _ | .veneerSize | .retainCtrl | .inputBase _ | .twinMirrorSize | .twinMirrorBase _ | .ckptCtrl | .ckptTarget _ => 0

/-- What a register reads as: reserved bits and write-only bits are zero (R10, R12). -/
def State.readReg (s : State) (r : Reg) : Word := (s.reg r &&& (r.writable ||| r.w1c)) ||| s.hardware r

/-- REG_READ: an invalid address makes it BAD_PARAM with no reads. -/
def doRegRead (c : OpenCmd) (s : State) : Result :=
  let as := (List.range (uAt c.params 0 4)).map fun i => Reg.ofAddr (uAt c.params (8 + 8 * i) 8)
  if as.any (·.isNone) then refuse s .badParam
  else done s (as.flatMap fun r => match r with | some x => le 8 (s.readReg x).toNat | none => [])

/-- REG_READ. -/
def execRegRead (s : State) : Host.Outcome State Fault Refusal := .next (s.run 0x0200 doRegRead)

end Sys2Proof.Machine
end

