-- ==== Sys2Proof/Machine/RegisterWrite.lean ====
section
/-! DEFINITION. REG_WRITE and REG_WRITE_MASKED (R10, R431, R432): the refusal rules of single registers (R136, R160, R164,
R174, R257, R317, R318, R322, R327, R376, R531), what a write does besides setting bits, the rows of registers that have
one of their own, and patrol scrub (R190). -/

namespace Sys2Proof.Machine

/-! ### One pair -/

/-- RW1C bits of a register that hardware sets in the cycle of the write (R11). -/
def State.setNow (s : State) (r : Reg) : Word := ((tabFind s.colliding r.addr).getD 0) &&& r.w1c

/-- The bank bits of a register after a write that reaches the bits of `mask` (R10). A bit that hardware sets in the same cycle
stays set (R11). -/
def State.written (s : State) (r : Reg) (mask value : Word) : Word :=
  let old := s.reg r
  let kept := (old &&& ~~~(value &&& mask &&& r.w1c)) ||| s.setNow r
  r.norm (blend (r.writable &&& mask) value kept)

/-- A ring of `n`-byte entries lies where R160 and R164 want it. -/
def ringFits (base size n : Nat) : Bool := inStore base (n * 2 ^ size)

/-- NET_GEOMETRY that R318 refuses. -/
def geometryBad (w : Word) : Bool :=
  let width (a : Nat) := field w (32 + 4 * a) 4
  decide (17 < ((List.range 4).map width).sum) ||
    (List.range 4).any fun a => decide (8 < width a) || decide (2 ^ width a < field w (8 * a) 8 + 1)

/-- A pair that BAD_PARAM refuses: what its register would hold after it. -/
def State.pairBad (s : State) (r : Reg) (new : Word) : Bool :=
  match r with
  | .wringBase c j => !ringFits (field new 6 42 * 64) (s.rf (.wringCtrl c j) 0 5) 64
  | .wringCtrl c j => !ringFits (s.rf (.wringBase c j) 6 42 * 64) (field new 0 5) 64
  | .cringBase n => !ringFits (field new 5 43 * 32) (s.rf (.cringCtrl n) 0 5) 32
  | .cringCtrl n => !ringFits (s.rf (.cringBase n) 5 43 * 32) (field new 0 5) 32
  | .netGeometry => geometryBad new
  | .netThrottle => !(decide (field new 0 8 < field new 8 8) && decide (field new 8 8 < field new 16 8))
  | .pwrCapModule => !capOk false (field new 0 16)
  | .pwrCapDie _ => !capOk true (field new 0 8)
  | _ => false

/-- A change of MEM_DRW_CARVE that R174 refuses. -/
def State.carveBad (s : State) (new : Word) : Bool :=
  let old := s.reg .memDrwCarve
  new != old && (s.mem.carveBusy || (field new 8 3 != field old 8 3 && s.fabric.contexts.any fun c => c.2.busy) ||
    (List.range 6).any fun n => field old n 1 == 1 && field new n 1 == 0 && (s.eth n).linkUp)

/-- A write of NET_BRIDGE that R327 refuses while a partition is set: it changes EN, or names a queue pair that is not
open on its port. -/
def State.bridgeBad (s : State) (d : Nat) (new : Word) : Bool :=
  s.fabric.partition.tag != 0 &&
    (field new 0 1 != field (s.reg (.netBridge d)) 0 1 || (s.qp (field new 1 2) (field new 3 12)).isNone)

/-- A pair that BUSY refuses. -/
def State.pairBusy (s : State) (r : Reg) (mask new : Word) : Bool :=
  (mask &&& r.rwl != 0 && s.stepOpen) ||
  match r with
  | .ttCtrl => field new 0 1 == 1 && !s.armed && (s.time.state == .free || s.time.state == .acquiring)
  | .memDrwCarve => s.carveBad new
  | .netChip | .netGeometry => s.fabric.partition.tag != 0
  | .netBridge d => s.bridgeBad d new
  | .retainCtrl => field new 0 2 != s.rf .retainCtrl 0 2 && (s.stepUnsealed || s.ckpt.frozen.isSome)
  | _ => false

/-- Why a pair refuses: its address (R9), its own conditions, or work in progress, in the order of R561. Every pair is
checked against the registers as they stand (DEDUCED, assumption log 44). -/
def State.pairRefusal (s : State) (a : Nat) (mask value : Word) : Option Status :=
  match Reg.ofAddr a with
  | none => some .badParam
  | some r =>
    let new := s.written r mask value
    if s.pairBad r new then some .badParam else if s.pairBusy r mask new then some .busy else none

/-! ### What a write does -/

/-- TAIL of a work ring (R136): a POST ring takes none; one that overfills is ignored. Either sets ERROR. -/
def State.writeTail (s : State) (c j : Nat) (mask value : Word) : State :=
  let r := 128 * c + j
  if field mask 32 32 = 0 then s
  else
    let t := BitVec.ofNat 32 (field (s.written (.wringPtr c j) mask value) 32 32)
    if s.rbit (.wringCtrl c j) 27 ∨ s.wringSize r < (t - s.wringHead r).toNat then s.wringError r else s.setWringTail r t

/-- TAIL of a stream queue (R305, R325): one that overfills is ignored and sets ERROR, as for a work ring (DEDUCED,
assumption log 45). -/
def State.writeQueueTail (s : State) (q : Nat) (new : Word) : State :=
  let t := BitVec.ofNat 32 (field new 32 32)
  if 2 ^ s.rf (.netSqCtrl q) 0 5 < (t - (s.sq q).head).toNat then s.setBits (.netSqCtrl q) (word (2 ^ 8)) else s.setReg (.netSqPtr q) new

/-- HEAD of a completion ring (R166): one beyond TAIL is ignored; held records are written where it makes room (R154). -/
def State.writeHead (s : State) (n : Nat) (new : Word) : State :=
  let h := BitVec.ofNat 32 (field new 32 32)
  let old := s.cringHead n
  if ((s.cring n).tail - old).toNat < (h - old).toNat then s else ((s.setReg (.cringPtr n) new).releaseCring n).lateAcks

/-- A new way assignment (R174): lines of ways that leave cache service are written back and dropped. -/
def State.carve (s : State) (new : Word) : State :=
  if new = s.reg .memDrwCarve then s
  else
    let s := s.setReg .memDrwCarve new
    let ways := s.cacheWays
    let s := s.mem.drawers.foldl (fun t e =>
      ((e.2.lines.drop ways).filter (·.2)).foldl (fun u _ => u.count (1089 + 2 * (e.1 / 8192)) 256) t) s
    { s with mem := { s.mem with carveBusy := true, drawers := s.mem.drawers.map fun e => (e.1, ⟨e.2.lines.take ways⟩) } }

/-- TT_CTRL: occurrences that fell while ARM was 0 pass without effect (R257; DEDUCED, assumption log 31). -/
def State.writeArm (s : State) (new : Word) : State :=
  let s := if field new 0 1 = 1 ∧ !s.armed then
    { s with table := { s.table with slots := s.table.slots.map fun e => (e.1, s.standing e.2) } } else s
  s.setReg .ttCtrl new

/-- One pair takes effect. -/
def State.writePair (s : State) (r : Reg) (mask value : Word) : State :=
  let new := s.written r mask value
  match r with
  | .ftEpoch => if s.time.state = .free ∨ s.time.state = .acquiring then s.setReg r new else s
  | .ttCtrl => s.writeArm new
  | .ftCtrl => (s.setReg r new).recheckPtp
  | .portAdmit n =>
    let s := s.setReg r new
    if field (value &&& mask) 23 1 = 1 then s.retrainPort n else s.admitTest n true
  | .wringPtr c j => s.writeTail c j mask value
  | .netSqPtr q => s.writeQueueTail q new
  | .cringPtr n => s.writeHead n new
  | .memDrwCarve => s.carve new
  | .netBridge d =>
    { s.setReg r new with fabric := { s.fabric with bridgeDown := s.fabric.bridgeDown.filter (· != d) } }
  | .noticeCtrl => (s.setReg r new).releaseHeld
  | _ => s.setReg r new

/-- Every pair, in list order (R432). -/
def State.writePairs (s : State) (ps : List (Nat × Word × Word)) : State :=
  ps.foldl (fun t p => match Reg.ofAddr p.1 with | some r => t.writePair r p.2.1 p.2.2 | none => t) s

/-! ### The commands -/

/-- Pairs of a register write: address, mask, value. -/
def writeTriples (opcode : Nat) (p : List Byte) : List (Nat × Word × Word) :=
  (List.range (uAt p 0 4)).map fun i =>
    if opcode = 0x0202 then (uAt p (8 + 24 * i) 8, word (uAt p (16 + 24 * i) 8), word (uAt p (24 + 24 * i) 8))
    else (uAt p (8 + 16 * i) 8, ~~~0, word (uAt p (16 + 16 * i) 8))

/-- REG_WRITE and REG_WRITE_MASKED: the first pair that refuses is named, and nothing is written. -/
def doRegWrite (c : OpenCmd) (s : State) : Result :=
  let ps := writeTriples c.opcode c.params
  match (ps.zipIdx.filterMap fun e => (s.pairRefusal e.1.1 e.1.2.1 e.1.2.2).map fun st => (st, e.2)).head? with
  | some (st, i) => refuseWith s st (le 4 i)
  | none => done (s.writePairs ps) (le 4 0xFFFFFFFF)

/-- The register write is over. -/
def State.uncollide (s : State) : State := { s with colliding := [] }

/-- Run a register write, masked or not, whose pairs `p` accepts. -/
def State.runWrite (s : State) (p : Reg → Word → Bool) : Host.Outcome State Fault Refusal :=
  let some_ (c : OpenCmd) : Bool := (writeTriples c.opcode c.params).any fun x =>
    match Reg.ofAddr x.1 with | some r => p r (x.2.1 &&& x.2.2) | none => false
  .next ((match s.front with
    | some c => if c.opcode = 0x0202 then s.runFront 0x0202 some_ doRegWrite else s.runFront 0x0201 some_ doRegWrite
    | none => s).settle)

/-! ### Scrub and carve -/

/-- A Veneer that holds the sealed state, own or mirror, meets a granule. -/
def State.inSealed (s : State) (g : Nat) : Bool :=
  let v := s.steps.sealedLetter
  v != 3 && (overlaps g 16 (s.ownVeneer v).1 (s.ownVeneer v).2 ||
    (s.mirrorInUse && overlaps g 16 (s.mirrorVeneer v).1 (s.mirrorVeneer v).2))

/-- The channel that a scrub request reaches: its kind, unit and number. -/
def State.scrubChannel (s : State) (a : Nat) : CalKind × Nat × Nat :=
  if regionOf a = .inlay then (.inlay, inlayDie a, inlayChannel a)
  else
    let res := lpddr6Map s.mem.homeGib a
    let m := res.1
    let l := res.2
    (.lpddr6, m, lpddr6SubChannel l)

/-- Scrub may read the 64 bytes at an address now. -/
def State.scrubMay (s : State) (a : Nat) : Bool :=
  let res := s.scrubChannel a
  let k := res.1
  let unit := res.2.1
  let ch := res.2.2
  s.power.rails == .on && s.boot.trainingReady && s.rbit .memScrubCtrl 0 && a % 64 == 0 && s.calServes k unit &&
    (regionOf a == .inlay || regionOf a == .lpddr6) && !(s.mem.windows.any fun w => w.1 == k && w.2.1 == unit && w.2.2.1 == ch)

/-- One scrub request: 64 bytes are read and checked. A poisoned granule that it finds in a sealed Veneer is reported
at once (DEDUCED, assumption log 43: as data that a replay reads). -/
def State.scrub (s : State) (a : Nat) (errs : BitErrors) : State :=
  let s := s.hit errs
  let res := s.scrubChannel a
  let k := res.1
  let unit := res.2.1
  let s := s.count (match k with | .inlay => 772 + 2 * unit | .lpddr6 => 1088 + 2 * unit) 64
  match (granulesOf a 64).find? fun g => s.mem.isPoisoned g && s.inSealed g with
  | some g => ((s.checkRange a 64).fault 0x000D .module .poison g s.steps.sealedStep).unhit
  | none => (s.checkRange a 64).unhit

/-! ### Rows -/

/-- REG_WRITE. -/
def execRegWrite (sets : List (Nat × Word)) (s : State) : Host.Outcome State Fault Refusal :=
  .next (({ s with colliding := sets }.run 0x0201 doRegWrite).uncollide).settle
/-- REG_WRITE_MASKED. -/
def execRegWriteMasked (sets : List (Nat × Word)) (s : State) : Host.Outcome State Fault Refusal :=
  .next (({ s with colliding := sets }.run 0x0202 doRegWrite).uncollide).settle
/-- PORT_TN_ADMIT. -/
def execPortTnAdmit (s : State) : Host.Outcome State Fault Refusal :=
  s.runWrite fun r _ => match r with | .portAdmit _ => true | _ => false
/-- RETRAIN. -/
def execRetrain (s : State) : Host.Outcome State Fault Refusal :=
  s.runWrite fun r v => match r with | .portAdmit _ => field v 23 1 == 1 | _ => false
/-- FT_EPOCH. -/
def execFtEpoch (s : State) : Host.Outcome State Fault Refusal := s.runWrite fun r _ => r == .ftEpoch
/-- TT_CTRL. -/
def execTtCtrl (s : State) : Host.Outcome State Fault Refusal := s.runWrite fun r _ => r == .ttCtrl
/-- MEM_DRW_CARVE. -/
def execMemDrwCarve (s : State) : Host.Outcome State Fault Refusal := s.runWrite fun r _ => r == .memDrwCarve
/-- CORE_WRING_BASE. -/
def execCoreWringBase (s : State) : Host.Outcome State Fault Refusal :=
  s.runWrite fun r _ => match r with | .wringBase _ _ => true | _ => false
/-- CORE_WRING_CTRL. -/
def execCoreWringCtrl (s : State) : Host.Outcome State Fault Refusal :=
  s.runWrite fun r _ => match r with | .wringCtrl _ _ => true | _ => false
/-- CORE_WRING_PTR. -/
def execCoreWringPtr (s : State) : Host.Outcome State Fault Refusal :=
  s.runWrite fun r _ => match r with | .wringPtr _ _ => true | _ => false
/-- NET_CRING_BASE. -/
def execNetCringBase (s : State) : Host.Outcome State Fault Refusal :=
  s.runWrite fun r _ => match r with | .cringBase _ => true | _ => false
/-- NET_CRING_CTRL. -/
def execNetCringCtrl (s : State) : Host.Outcome State Fault Refusal :=
  s.runWrite fun r _ => match r with | .cringCtrl _ => true | _ => false
/-- NET_CRING_PTR. -/
def execNetCringPtr (s : State) : Host.Outcome State Fault Refusal :=
  s.runWrite fun r _ => match r with | .cringPtr _ => true | _ => false
/-- NET_SQ_PTR. -/
def execNetSqPtr (s : State) : Host.Outcome State Fault Refusal :=
  s.runWrite fun r _ => match r with | .netSqPtr _ => true | _ => false
/-- NET_CHIP. -/
def execNetChip (s : State) : Host.Outcome State Fault Refusal := s.runWrite fun r _ => r == .netChip
/-- NET_GEOMETRY. -/
def execNetGeometry (s : State) : Host.Outcome State Fault Refusal := s.runWrite fun r _ => r == .netGeometry
/-- NET_THROTTLE. -/
def execNetThrottle (s : State) : Host.Outcome State Fault Refusal := s.runWrite fun r _ => r == .netThrottle
/-- NET_BRIDGE. -/
def execNetBridge (s : State) : Host.Outcome State Fault Refusal :=
  s.runWrite fun r _ => match r with | .netBridge _ => true | _ => false
/-- STEP_RETAIN_CTRL. -/
def execStepRetainCtrl (s : State) : Host.Outcome State Fault Refusal := s.runWrite fun r _ => r == .retainCtrl
/-- DRAWER_CARVE_DONE. -/
def execDrawerCarveDone (s : State) : Host.Outcome State Fault Refusal :=
  .next { s with mem := { s.mem with carveBusy := false } }
/-- SCRUB_REQUEST. -/
def execScrubRequest (a : Nat) (errs : BitErrors) (s : State) : Host.Outcome State Fault Refusal :=
  .next (if s.scrubMay a then s.scrub a errs else s).settle

end Sys2Proof.Machine
end

