-- ==== Sys2Proof/Machine/Security.lean ====
section
/-! DEFINITION. The security block (chapter 14): identity and attestation, image updates, job keys, the alarm. -/

namespace Sys2Proof.Machine

/-! ### Images in the NOR (R497, R498) -/

/-- Write bytes of the NOR from `a` up. -/
def norWrite : List Host.Cell → Nat → List Byte → List Host.Cell
  | t, _, [] => t
  | t, a, b :: bs => norWrite (tabSet 0 t a b) (a + 1) bs

/-- The header of the image in a region (R498). -/
def State.imageHeader (s : State) (r : Nat) : List Byte := s.norBytes (norRegion r).1 0x2000

/-- The payload of the image in a region (R498). -/
def State.imagePayload (s : State) (r : Nat) : List Byte :=
  s.norBytes ((norRegion r).1 + 0x2000) (uAt (s.norBytes (norRegion r).1 0x10) 0xC 4)

/-- Regions of the running copies (R499). -/
def State.runningRegions (s : State) : List Nat := [s.security.running.1, s.security.running.2.1, s.security.running.2.2]

/-- Recorded security version of the image kind of a region (R500). -/
def State.recordedVersion (s : State) (r : Nat) : BitVec 32 :=
  if r / 2 = 0 then s.security.rollback.1 else if r / 2 = 1 then s.security.rollback.2.1 else s.security.rollback.2.2

/-- Length of a DER value: the certificate is X.509 (R495), whose outer SEQUENCE says its length (PRESUMED, assumption
log 49). No certificate has length 0. -/
def derLength (b : List Byte) : Nat :=
  if uAt b 0 1 ≠ 0x30 then 0
  else
    let n := uAt b 1 1
    if n < 0x80 then 2 + n
    else 2 + (n - 0x80) + (slice b 2 (n - 0x80)).foldl (fun v x => 256 * v + x.toNat) 0

/-- Length of the device certificate in region 6. -/
def State.certLength (s : State) : Nat := min (derLength (s.norBytes (norRegion 6).1 8)) (norRegion 6).2

/-! ### Identity and attestation (R430, R511) -/

/-- IDENTITY. -/
def doIdentity (_ : OpenCmd) (s : State) : Result :=
  done s (le 8 (s.readReg .moduleId).toNat ++ le 8 (s.readReg .serial).toNat ++ s.keyDigest ++ le 4 s.certLength)

/-- CERT_READ; bytes beyond the certificate are none (DESIGN CHOICE, assumption log 49). -/
def doCertRead (c : OpenCmd) (s : State) : Result :=
  let a := uAt c.params 0 4
  let n := uAt c.params 4 4
  if s.certLength < a + n then refuse s .badParam else done s (s.norBytes ((norRegion 6).1 + a) n)

/-- One measurement entry (R511). -/
def measureEntry (kind number : Nat) (version : BitVec 32) (ft : Word) (digest : List Byte) : List Byte :=
  le 1 kind ++ le 1 number ++ zeros 2 ++ le 4 version.toNat ++ le 8 ft.toNat ++ exactly 32 digest

/-- The measurement log before its signature (R511). -/
def State.measurementLog (s : State) (nonce : List Byte) : List Byte :=
  le 4 0x5A415454 ++ le 2 1 ++ le 2 (s.security.measured.length + s.programs.length) ++ exactly 32 nonce ++ s.keyDigest ++
    le 8 s.ft.toNat ++ le 8 s.boot.features.toNat ++ le 1 s.security.level ++ le 1 s.tags.boots.toNat ++ zeros 6 ++
    s.security.measured.flatMap (fun m => measureEntry m.1 m.2.1 m.2.2.1 m.2.2.2.1 m.2.2.2.2) ++
    s.programs.flatMap fun p => measureEntry 4 p.1 0 p.2.measuredFt p.2.digest

/-- ATTEST. -/
def doAttest (c : OpenCmd) (s : State) : Result :=
  let l := s.measurementLog (slice c.params 0 32)
  done s (l ++ s.deviceSign l (ascii "ZW24-ATTEST"))

/-! ### The pairing table (R29 to R32) -/

/-- Entries of a pairing table by count: kind, stepping, timing set, feature bitmap. -/
def pairingEntries (b : List Byte) : List (Nat × Nat × Nat × Nat) :=
  (List.range (uAt b 2 1)).map fun i => (uAt b (8 + 16 * i) 1, uAt b (9 + 16 * i) 1, uAt b (10 + 16 * i) 1, uAt b (16 + 16 * i) 8)

/-- No two entries share kind and stepping. -/
def pairsDiffer : List (Nat × Nat × Nat × Nat) → Bool
  | [] => true
  | e :: es => !(es.any fun f => f.1 == e.1 && f.2.1 == e.2.1) && pairsDiffer es

/-- A pairing table is valid (R30). Reserved bits of a feature bitmap (R31) are no reserved field of the table (DESIGN
CHOICE, assumption log 105). -/
def pairingOk (b : List Byte) : Bool :=
  within (uAt b 2 1) 1 16 && zeroFrom b 3 8 && pairsDiffer (pairingEntries b) &&
    (pairingEntries b).all (fun e => decide (e.1 ≤ 2) && decide (e.2.2.1 ≤ 15)) &&
    (List.range (uAt b 2 1)).all fun i => zeroFrom b (11 + 16 * i) (16 + 16 * i)

/-- Timing set and feature bitmap of a die kind and stepping. -/
def pairingOf (b : List Byte) (kind stepping : Nat) : Option (Nat × Nat) :=
  ((pairingEntries b).find? fun e => e.1 == kind && e.2.1 == stepping).map fun e => (e.2.2.1, e.2.2.2)

/-! ### Image updates (R497 to R501) -/

/-- IMAGE_WRITE. -/
def doImageWrite (c : OpenCmd) (s : State) : Result :=
  let r := uAt c.params 0 1
  let o := uAt c.params 4 4
  let n := uAt c.params 8 4
  if 6 ≤ r ∨ (norRegion r).2 < o + n then refuse s .badParam
  else if s.runningRegions.contains r then refuse s .busy
  else done { s with security := { s.security with nor := norWrite s.security.nor ((norRegion r).1 + o) (slice c.params 16 n) } } []

/-- IMAGE_COMMIT: the verification runs as the long operation; `pairing` is the table that a configuration image carries. -/
def doImageCommit (pairing : List Byte) (c : OpenCmd) (s : State) : Result :=
  let r := uAt c.params 0 1
  if 6 ≤ r then refuse s .badParam else began s (.imageCommit r pairing)

/-- The root public key of an image hashes to the ROM hash at its index, which is not revoked (R499). -/
def State.rootOk (s : State) (h : List Byte) : Bool :=
  let i := uAt h 5 1
  decide (i < 4) && !s.security.revoked.getLsbD i &&
    exactly 32 (Config.shake256 (slice h 0x40 1952) 32) == exactly 32 (Config.rootKeyHash i)

/-- The signature of an image is valid under the root public key of its header (R498, R499). -/
def signatureOk (h : List Byte) : Bool :=
  Config.dsaVerify (slice h 0x40 1952) (h.take 0x7E0) (ascii "ZW24-IMAGE") (slice h 0x7E0 3309)

/-- The payload of the image in a region fits there and has the digest of the header (R498, R499). -/
def State.digestOk (s : State) (r : Nat) : Bool :=
  let h := s.imageHeader r
  decide (0x2000 + uAt h 0xC 4 ≤ (norRegion r).2) && exactly 32 (Config.shake256 (s.imagePayload r) 32) == slice h 0x18 32

/-- What R499 finds of an image in a region: a failed signature or digest gives BAD_TAG, anything else BAD_PARAM (R501).
An invalid pairing table counts as a failed signature (R30). -/
def State.imageStatus (s : State) (r : Nat) (pairing : List Byte) : Status :=
  let h := s.imageHeader r
  if !signatureOk h || !s.digestOk r || (r / 2 == 2 && !pairingOk pairing) then .badTag
  else if uAt h 0 4 = 0x5A534947 ∧ uAt h 4 1 = r / 2 + 1 ∧ zeroFrom h 6 8 ∧ zeroFrom h 0x39 0x40 ∧ zeroFrom h 0x14CD 0x2000 ∧
      s.rootOk h ∧ (s.recordedVersion r).toNat ≤ uAt h 8 4 then .ok
  else .badParam

/-! ### Job keys (R507, R508) -/

/-- The notice key's ID. -/
def noticeKeyId : Nat := 0xFFFFFFFF

/-- Check value of a job key: its KMAC256 under JOBKEY-CHECK (R494, R508). -/
def State.jobKeyCheck (s : State) (key : List Byte) : List Byte :=
  exactly 32 (Config.kmac256 (s.grainKey "JOBKEY-CHECK") key [])

/-- Lowest free slot of the key store. -/
def State.freeSlot (s : State) : Option Nat := firstBelow 4 fun i => (tabFind s.security.keys i).isNone

/-- A wrapped key or a check value that does not fit (R507, R508, R512). -/
def keyFails (s : State) : Result := refuse s.authFail .badTag

/-- Put a job key into the store. -/
def State.storeKey (s : State) (slot id : Nat) (key : List Byte) (restoreOnly : Bool) : State :=
  { s with security := { s.security with
      keys := tabPut s.security.keys slot { id := id, key := key, restoreOnly := restoreOnly } } }

/-- A stored key becomes active. -/
def State.activateKey (s : State) (slot : Nat) : State := { s with security := { s.security with active := some slot } }

/-- JOB_KEY_INSTALL: the first row of R508 that applies. -/
def doJobKeyInstall (c : OpenCmd) (s : State) : Result :=
  let id := uAt c.params 0 4
  let key := exactly 32 c.facts.key
  if !zeroFrom c.params 68 72 then refuse s .badParam
  else if id = noticeKeyId then
    (if c.facts.unwrapOk then
      { verdict := .reply .ok [], state := { s with security := { s.security with noticeKey := some key } }, post := State.releaseHeld }
    else keyFails s)
  else if s.security.keys.any (fun k => k.2.id == id) then refuse s .badParam
  else
    match s.freeSlot with
    | none => refuse s .noResource
    | some slot =>
      if !c.facts.unwrapOk then keyFails s
      else if s.security.highestKey < id then
        let s := (s.storeKey slot id key false).activateKey slot
        done { s with
          security := { s.security with highestKey := id, highestCheck := s.jobKeyCheck key }
          ckpt := { s.ckpt with underKey := 0 } } []
      else if id = s.security.highestKey then
        (if s.security.highestCheck = s.jobKeyCheck key then done ((s.storeKey slot id key false).activateKey slot) []
         else keyFails s)
      else done (s.storeKey slot id key true) []

/-- JOB_KEY_ERASE: an ID that is not installed is none (DEDUCED, assumption log 50). -/
def doJobKeyErase (c : OpenCmd) (s : State) : Result :=
  let id := uAt c.params 0 4
  let x := s.security
  if id = noticeKeyId then
    (if x.noticeKey.isSome then done { s with security := { x with noticeKey := none } } [] else refuse s .badParam)
  else
    match x.keys.find? (fun k => k.2.id == id) with
    | none => refuse s .badParam
    | some k =>
      done { s with security := { x with
        keys := tabDel x.keys k.1, active := if x.active = some k.1 then none else x.active } } []

/-! ### The alarm (R512 to R515) -/

/-- The alarm record (R515). -/
def State.alarmRecord (s : State) : List Byte :=
  let x := s.security
  le 1 x.level ++ le 1 x.eventLevel ++ le 2 x.sources.toNat ++ le 4 s.recentFailures ++ le 8 x.firstFt.toNat ++
    le 8 x.wipeFt.toNat ++ le 2 x.sensor.toNat ++ le 2 x.reading.toNat ++ zeros 4

/-- ALARM_STATUS. -/
def doAlarmStatus (_ : OpenCmd) (s : State) : Result := done s s.alarmRecord

/-- ALARM_CLEAR: level 1 or 2 is named; level 2 clears once the wipe has ended (DEDUCED for the levels named and what
clears, assumption log 51). -/
def doAlarmClear (c : OpenCmd) (s : State) : Result :=
  let n := uAt c.params 0 1
  let x := s.security
  if !within n 1 2 ∨ n < x.level then refuse s .badParam
  else if x.level = 2 ∧ !x.wipeDone then refuse s .busy
  else
    done { s with
      security := { x with level := 0, eventLevel := 0, sources := 0, firstFt := 0, wipeFt := 0, wipeDone := false, sensor := 0, reading := 0 }
      cmds := { s.cmds with authFailures := [] } } []

/-- Level of an alarm source (R512, R517). -/
def State.sourceLevel (s : State) (i : Nat) : Nat := bits s.security.config.alarmMap.toNat (2 * i) 2

/-- The sources of a trigger that are watched; authentication counts from 64 failures within a second (R512). -/
def State.watched (s : State) (src : BitVec 7) : BitVec 7 :=
  BitVec.ofNat 7 ((List.range 7).map fun i =>
    placeB (src.getLsbD i && s.sourceLevel i != 0 && (i != 5 || decide (64 ≤ s.recentFailures))) i).sum

/-- Highest level of a set of sources. -/
def State.levelOf (s : State) (src : BitVec 7) : Nat :=
  (List.range 7).foldl (fun m i => if src.getLsbD i then max m (s.sourceLevel i) else m) 0

/-- The standby domain is powered: the tamper watch runs (R512, R544). -/
def State.standby (s : State) : Bool := s.power.qualified0 || s.power.qualified1 || s.power.aux

/-- Send the ALARM event of level 3 (R514): once, on every Speas port, with session 0 and a zero tag; the notice by UDP
goes out as always. -/
def State.alarmUntagged (s : State) (e : Event) : State :=
  s.withComms <|
  let fits := s.benchUp && s.journal.fits e.body.length
  let jseq := if fits then s.journal.nextSeq else 0
  let s1 := if fits then s.journalWrite (eventRec e) else s
  let bs := eventBytes 0 jseq s.ft e ++ zeros 32
  let s1 := (s1.sendPacket 0 bs).sendPacket 1 bs
  if s1.udpPath then s1.sendUdp jseq s.ft e else s1

/-- Overwrite the Grain helper data (R513). -/
def State.burnHelper (s : State) : State :=
  let r := norRegion 7
  let fresh := (List.range r.2).filterMap fun i =>
    let b := Config.randomByte s.freeDraws i
    if b = 0 then none else some (r.1 + i, b)
  { s with
      security := { s.security with
        nor := s.security.nor.filter (fun c => decide (c.1 < r.1)) ++ fresh ++ s.security.nor.filter (fun c => decide (r.1 + r.2 ≤ c.1))
        noIdentity := true }
      freeDraws := s.freeDraws + 1 }

/-- Every key is erased, the copies in the Carcass engine with them (R510, R513). -/
def State.eraseKeys (s : State) : State :=
  { s.forgetWrapped with
      security := { s.security with keys := [], active := none, noticeKey := none }
      ckpt := { s.ckpt with engineKeys := [] } }

/-- Every session closes once its keys are gone: SESSION is journaled and finds no recipient (R424, R513). -/
def State.dropSessions (s : State) : State :=
  let gone := s.openSessions
  gone.foldl (fun t x => t.emit (sessionEvent x.id 1)) { s with cmds := { s.cmds with sessions := [], owner := none } }

/-- Work on every core ends RECALLED. -/
def State.recallCores (s : State) : State :=
  (List.range 384).foldl (fun t c =>
    let t := t.abortItem c .recalled
    let t := (t.core c).restarts.foldl (fun u it => u.itemRecord c it .recalled) t
    t.setCore c { t.core c with restarts := [] }) s

/-- Queue pairs end: their outstanding operations with ALARM (R513). -/
def State.endQueuePairs (s : State) (st : Status) : State :=
  { s with eths := s.eths.map fun (e : Nat × EthPort) => (e.1, { e.2 with qps := e.2.qps.map fun (q : Nat × QueuePair) =>
      (q.1, { q.2 with retained := [], responses := [], reads := [], error := true
                       completions := q.2.retained.reverse.map (fun p => (p.psn, st)) ++ q.2.completions }) }) }

/-- Image write, restore and field tests end with ALARM, each with its own record (R513). -/
def State.endJobs (s : State) (st : Status) : State :=
  let s := match s.ckpt.writing with
    | some w =>
      let s := { s with ckpt := { s.ckpt with state := 3, writing := none, last := some w, engineKeys := [] } }
      ((s.ckptDone w st 0xFFFFFFFF []).holdImageEnded w).cutEnded w
    | none => s
  let s := match s.ckpt.restore with | some x => s.endRestore x st [] | none => s
  s.longOps.foldl (fun t e =>
    match e.2 with
    | .fieldTest i k _ =>
      (t.setCore k { t.core k with testing := false, progressAt := t.now }).closeWith e.1 0x0011 .integrity st
        (le 2 i ++ le 2 k ++ zeros 6)
    | _ => t) s

/-- The actions of level 2 after its event, in order (R513); the wipe itself ends with WIPE_END. -/
def State.alarmActions (s : State) : State :=
  let s := s.eraseKeys.dropSessions
  let s := if s.steps.opened.isEmpty then { s with steps := { s.steps with halted := true, replays := [] } } else s.haltSteps
  let s := (s.recallCores.setReg .ttCtrl (s.reg .ttCtrl &&& ~~~1))
  let s : State := { s with
    programs := [], hosts := [], noHost := [], steps := { s.steps with evalSlot := none }
    clusters := (s.clusters.map fun e => (e.1, { e.2 with slots := [], lost := [] })).filter fun e => e.2 != clusterReset }
  let s := (s.failTransfer .alarm).endStreams (fun _ => true) .alarm
  (s.endQueuePairs .alarm).endJobs .alarm

/-- Latch a level (R513, R515). -/
def State.latchAlarm (s : State) (src : BitVec 7) (level : Nat) (sensor reading : BitVec 16) : State :=
  let x := s.security
  let hot := src.getLsbD 4
  { s with security := { x with
      level := level, eventLevel := level, sources := x.sources ||| src, firstFt := s.ft, wipeFt := 0, wipeDone := false
      sensor := if hot then sensor else x.sensor, reading := if hot then reading else x.reading } }

/-- A trigger of alarm sources (R513, R514): nothing unless their level exceeds the latched one. Without its rails the
module only latches; the erasures follow at the next boot. -/
def State.raiseAlarm (s : State) (src : BitVec 7) (sensor reading : BitVec 16) : State :=
  let src := s.watched src
  let level := s.levelOf src
  if level ≤ s.security.level then s
  else
    let s := s.latchAlarm src level sensor reading
    if (match s.power.rails with | .on | .failing _ => true | _ => false) then
      let e := event 0x0004 .fault .alarm s.alarmRecord
      let s := if level = 3 then s.alarmUntagged e else s.emit e
      let s := if 2 ≤ level then s.alarmActions else s
      if level = 3 then s.burnHelper else s
    else s

/-- Every granule reads as zero with valid check bits, the reserved area included (R513), and the pattern ledger is cleared
(R344). -/
def State.wipe (s : State) : State :=
  { s with
      mem := { s.mem with bytes := [], errors := [], drawers := [] }
      square := { s.square with ledger := [] }
      security := { s.security with wipeDone := true, wipeFt := s.ft } }

/-- A wipe of the latched level is still to be done. -/
def State.wipePending (s : State) : Bool := decide (2 ≤ s.security.level) && !s.security.wipeDone

/-! ### Rows -/

/-- IDENTITY. -/
def execIdentity (s : State) : Host.Outcome State Fault Refusal := .next (s.run 0x0100 doIdentity)
/-- CERT_READ. -/
def execCertRead (s : State) : Host.Outcome State Fault Refusal := .next (s.run 0x0101 doCertRead)
/-- ATTEST. -/
def execAttest (s : State) : Host.Outcome State Fault Refusal := .next (s.run 0x0102 doAttest)
/-- IMAGE_WRITE. -/
def execImageWrite (s : State) : Host.Outcome State Fault Refusal := .next (s.run 0x0B02 doImageWrite)
/-- IMAGE_COMMIT. -/
def execImageCommit (pairing : List Byte) (s : State) : Host.Outcome State Fault Refusal :=
  .next (s.run 0x0B03 (doImageCommit pairing))
/-- JOB_KEY_INSTALL. -/
def execJobKeyInstall (s : State) : Host.Outcome State Fault Refusal := .next (s.run 0x0F00 doJobKeyInstall)
/-- JOB_KEY_ERASE. -/
def execJobKeyErase (s : State) : Host.Outcome State Fault Refusal := .next (s.run 0x0F01 doJobKeyErase)
/-- ALARM_STATUS. -/
def execAlarmStatus (s : State) : Host.Outcome State Fault Refusal := .next (s.run 0x0F02 doAlarmStatus)
/-- ALARM_CLEAR. -/
def execAlarmClear (s : State) : Host.Outcome State Fault Refusal := .next (s.run 0x0F03 doAlarmClear)
/-- ALARM_TRIGGER. -/
def execAlarmTrigger (src : BitVec 7) (sensor reading : BitVec 16) (s : State) : Host.Outcome State Fault Refusal :=
  .next (if s.standby then (s.raiseAlarm src sensor reading).settle else s)
/-- WIPE_END. -/
def execWipeEnd (s : State) : Host.Outcome State Fault Refusal :=
  .next (if s.wipePending && s.power.rails == .on then s.wipe else s)
/-- NOTICE_UDP_REPEAT: the second copy, 10 µs after the first (R480). -/
def execNoticeUdpRepeat (s : State) : Host.Outcome State Fault Refusal :=
  .next (match s.notices.repeats with
    | (o, at_) :: rest =>
      if s.now < at_ + ticksUs 10 then s
      else
        let s := { s with notices := { s.notices with repeats := rest } }
        if (s.eth 0).linkUp then s.putNotice o else s
    | [] => s)

end Sys2Proof.Machine
end

