-- ==== Sys2Proof/Machine/Boot.lean ====
section
/-! DEFINITION. Boot (R28 to R33, R483 to R487, R500): what the end of each stage does, boot failures, and the BOOT
events. -/

namespace Sys2Proof.Machine

/-! ### BOOT events (R487) -/

/-- Milliseconds since power-good or assert. -/
def State.bootMs (s : State) (at_ : Nat) : Nat := (at_ - s.boot.startedAt) / ticksMs 1

/-- The boot record. -/
def State.bootRecord (s : State) (trainMs : Nat) : List Byte :=
  let b := s.boot
  le 1 b.cause ++ le 1 b.stage ++ le 1 (placeB b.journalEmpty 0 + placeB b.stopped 1 + placeB b.mixed 2) ++ zeros 1 ++
    le 2 ((List.range 384).filter s.coreClamped).length ++ le 2 b.bootBypass ++ le 8 s.dieStatus.toNat ++
    le 8 (s.dieReasons 0 16).toNat ++ le 8 (s.dieReasons 16 8).toNat ++ le 8 b.features.toNat ++ le 4 (s.bootMs b.readyAt) ++
    le 4 trainMs ++ le 4 b.closedAtRecovery ++ zeros 4

/-- Send a BOOT event. -/
def State.bootEvent (s : State) (st : Status) (trainMs : Nat) : State := s.emit (event 0x0003 .fault st (s.bootRecord trainMs))

/-! ### Moving on -/

/-- Erasures of a latched level are completed before stage 4 (R514). -/
def State.completeWipe (s : State) : State :=
  if s.wipePending then
    let s := s.eraseKeys.wipe
    if s.security.level = 3 then s.burnHelper else s
  else s

/-- A stage's work has been done, and is not done again before a module cold reset (R33, R484). -/
def State.workDone (s : State) (stage : Nat) : State :=
  { s with boot := { s.boot with frontier := max s.boot.frontier (stage + 1) } }

/-- The stage in progress has ended: boot stops here (R486), or the next one begins. -/
def State.nextStage (s : State) (next : Nat) : State :=
  let s := s.workDone s.boot.stage
  let stop := s.boot.stopAfter == some s.boot.stage
  let s := if stop || next == 4 then s.completeWipe else s
  if stop then { s with boot := { s.boot with stopped := true } } else { s with boot := { s.boot with stage := next } }

/-- Boot will stop after a stage (R486). -/
def State.stopAt (s : State) (stage : Nat) (st : Status) : State :=
  { s with boot := { s.boot with stopAfter := some stage, stopStatus := st } }

/-! ### Stages 0 to 3 -/

/-- Stage 0: the identity and the stage-1 image (R486, R496). A level 3 alarm has overwritten the helper data. -/
def State.romEnds (s : State) (grainOk stage1Ok : Bool) : State :=
  let s := { s with security := { s.security with noIdentity := !grainOk || s.security.level == 3 } }
  if stage1Ok then s.nextStage 1 else s

/-- What stage 1 loads at a module cold reset: the running copies and what the configuration image carries (R499, R511). Of
one that fails its checks only the principal table is used, or no session could replace it (DEDUCED, assumption log 52). -/
def State.loadImages (s : State) (configOk : Bool) (running : Nat × Nat × Nat) (versions : BitVec 32 × BitVec 32 × BitVec 32)
    (revoke : BitVec 4) (keys : Nat × Nat × Nat) (config : ConfigImage) : State :=
  let digest (r : Nat) : List Byte := exactly 32 (Config.shake256 (s.imagePayload r) 32)
  { s with security := { s.security with
      running := running, runningVersions := versions, runningRevoke := revoke, runningKeys := [keys.1, keys.2.1, keys.2.2]
      measured := [(1, running.1, versions.1, s.ft, digest running.1), (2, running.2.1, versions.2.1, s.ft, digest running.2.1),
                   (3, running.2.2, versions.2.2, s.ft, digest running.2.2)]
      config := if configOk then config else { configImageReset with principals := config.principals } } }

/-- Stage 1: the watchdog is armed, the stage-2 and configuration images and the anti-rollback record are checked (R486,
R496, R500). A boot after a Bench reset runs the copies that the module cold reset loaded (R501). -/
def State.imagesEnd (s : State) (stage2Ok configOk rollbackOk : Bool) (running : Nat × Nat × Nat)
    (versions : BitVec 32 × BitVec 32 × BitVec 32) (revoke : BitVec 4) (keys : Nat × Nat × Nat) (config : ConfigImage) : State :=
  let s : State := { s with boot := { s.boot with watchdogArmed := true } }
  if !stage2Ok then s
  else
    let table := if 1 < s.boot.frontier then s.security.config.pairing else config.pairing
    let configOk := configOk && pairingOk table
    let s := if 1 < s.boot.frontier then s else s.loadImages configOk running versions revoke keys config
    let s : State := { s with security := { s.security with recordValid := rollbackOk && !s.security.noIdentity } }
    let s := if configOk && s.security.recordValid then s else s.stopAt 2 .badTag
    let s := if rollbackOk || s.security.noIdentity then s else s.raiseAlarm 64 0 0
    s.nextStage 2

/-- Stage 2: the journal is recovered (R453); in the boot that follows a loss of power no ledger entry
stays valid (R344, R402);
notices and closing events that waited go out, and pending commands settle where the counter is LOCKED already (R255). After a
Bench reset stage 4 follows, unless the dies have not been evaluated yet (R484; DEDUCED, assumption log 46). -/
def State.journalEnds (s : State) : State :=
  let s := s.recoverJournal (decide (2 < s.boot.frontier))
  let s : State :=
    if (s.boot.coldCause = 0 ∨ s.boot.coldCause = 5) ∧ s.boot.frontier ≤ 2 then
      { s with square := { s.square with ledger := s.square.ledger.map fun (e : Nat × LedgerEntry) =>
          (e.1, { e.2 with state := if e.2.state = 1 then 2 else e.2.state }) } }
    else s
  let s := s.journalNotices.emitWaiting
  let s := if s.time.lockedOnce then s.settleHeld false else s
  s.nextStage (if 3 < s.boot.frontier then 4 else 3)

/-- The compute dies that the pairing evaluation counts: stepping, timing set and feature bitmap (R32). -/
def State.countedDies (s : State) (steppings : List (BitVec 8)) : List (BitVec 8 × Nat × Nat) :=
  (steppings.take 24).filterMap fun v =>
    if v = 0 then none else (pairingOf s.security.config.pairing 0 v.toNat).map fun e => (v, e)

/-- What BENCH_PAIRING shows of the table that is evaluated and of the dies counted (R39). -/
def State.pairTable (s : State) (steppings : List (BitVec 8)) : State :=
  { s with boot := { s.boot with
      entries := uAt s.security.config.pairing 2 1, tableVersion := uAt s.security.config.pairing 0 2
      mixed := match s.countedDies steppings with | [] => false | d :: ds => ds.any fun e => e.1 != d.1 } }

/-- The package timing set and feature bitmap: over the Carcass, the Bench and the dies counted (R32). -/
def State.pairDies (s : State) (steppings : List (BitVec 8)) (carcass bench : Nat × Nat) : State :=
  let dies := s.countedDies steppings
  { s with boot := { s.boot with
      timingSet := dies.foldl (fun m d => max m d.2.1) (max carcass.1 bench.1)
      features := dies.foldl (fun m d => m &&& word d.2.2) (word carcass.2 &&& word bench.2) } }

/-- Stage 3: stepping codes, the pairing evaluation, then the Dovetail and mesh tests (R28, R32, R33, R39, R486). Without an
entry for the Carcass or the Bench neither test runs (DESIGN CHOICE, assumption log 106). -/
def State.diesEnd (s : State) (steppings : List (BitVec 8)) (carcass bench : BitVec 8)
    (laneFail spareFail meshFail : BitVec 24) : State :=
  let t := s.security.config.pairing
  let code (d : Nat) : BitVec 8 := nth 0 steppings d
  let s : State := { s with boot := { s.boot with carcassStepping := carcass, benchStepping := bench } }
  let s := (List.range 24).foldl (fun u d =>
    let u := u.setDie d { u.die d with stepping := code d, present := code d != 0 }
    if code d = 0 then u.clampDie d 5 false
    else if (pairingOf t 0 (code d).toNat).isNone then u.clampDie d 1 false else u) s
  let s := s.pairTable steppings
  match pairingOf t 1 carcass.toNat, pairingOf t 2 bench.toNat with
  | some c, some b =>
    let s := s.pairDies steppings c b
    let spare := s.boot.features.getLsbD 2
    let s := (List.range 24).foldl (fun u d =>
      if (laneFail.getLsbD d && (!spare || spareFail.getLsbD d)) || meshFail.getLsbD d then u.clampDie d 2 false else u) s
    s.nextStage 4
  | _, _ => (s.stopAt 3 .badParam).nextStage 4

/-! ### Stage 4: command-ready -/

/-- The anti-rollback record rises at command-ready (R500). A configuration image that failed its checks does not run. -/
def State.raiseRecord (s : State) : State :=
  let x := s.security
  let up (a b : BitVec 32) : BitVec 32 := if a.toNat < b.toNat then b else a
  if !x.recordValid then s
  else
    let keep : BitVec 4 := x.runningKeys.foldl (fun m k => m &&& ~~~((1 : BitVec 4) <<< k)) 15
    let r := x.revoked ||| (x.runningRevoke &&& keep)
    { s with security := { x with
        rollback := (up x.rollback.1 x.runningVersions.1, up x.rollback.2.1 x.runningVersions.2.1,
          if s.boot.stopStatus = .badTag then x.rollback.2.2 else up x.rollback.2.2 x.runningVersions.2.2)
        revoked := if r = 15 then x.revoked else r } }

/-- Stage 4 (R26, R483, R484, R487): at a module cold reset the router is released and its ports come up; BOOT. A Bench reset
leaves the router as it runs, and what it cut short of the boot goes on (DEDUCED, assumption log 46). -/
def State.commandReadyEnds (s : State) : State :=
  let s : State := { s with boot := { s.boot with
    commandReady := true, readyAt := s.now, cmdReadyMs := BitVec.ofNat 16 (min 65535 (s.bootMs s.now)) } }
  let s := s.raiseRecord
  let s := if s.boot.released then s else (List.range 16).foldl (fun t n => t.bringUp n) s
  let s : State := { s with boot := { s.boot with released := true } }
  let s := s.bootEvent (if s.boot.stopped then s.boot.stopStatus else .ok) 0
  if s.boot.stopped || decide (7 < s.boot.frontier) then s else s.nextStage (max 5 s.boot.frontier)

/-! ### Stages 5 to 7 -/

/-- Local tick of the last calibration for every channel: bring-up calibrates each (R193). -/
def State.calibrated (s : State) : State :=
  { s with mem := { s.mem with windowAt :=
      ((List.range 192).map fun k => (calKey .lpddr6 (k / 8) (k % 8), s.now)) ++
      ((List.range 768).map fun k => (calKey .inlay (k / 32) (k % 32), s.now)) } }

/-- Boot ends without its memory: every compute die is clamped, and the module runs transit-only (R25, R486). -/
def State.lpddr6Fails (s : State) (failing : List (Nat × BitVec 8)) : State :=
  let s := (List.range 24).foldl (fun t d => t.clampDie d 2 false) s
  let s := failing.foldl (fun t e => t.fault 0x0019 (.lpDevice e.1) .clamped e.2.toNat 0) s
  ({ s with boot := { s.boot with stopStatus := .clamped, frontier := 8 } } : State).bootEvent .clamped 0

/-- Stage 5: LPDDR6 is trained and after a power-on cleared, every Inlay trained and cleared, the Drawers initialised
(R483, R486). -/
def State.memoryEnds (s : State) (lpFail : List (Nat × BitVec 8)) (inlayFail : BitVec 24) : State :=
  let m := if s.boot.coldCause = 0 ∨ s.boot.coldCause = 5 then s.mem.clear lpddr6Base lpddr6End else s.mem
  let s : State := { s with mem := { m.clear 0 lpddr6Base with drawers := [] } }
  let s := s.calibrated
  let s := (List.range 24).foldl (fun t d => if inlayFail.getLsbD d then t.clampDie d 2 false else t) s
  let failing := lpFail.filter fun e => e.2 != 0 && decide (e.1 < 24)
  if failing.isEmpty then s.nextStage 6 else s.lpddr6Fails failing

/-- Columns of an engine in a list; none where it is not listed. -/
def columnsOf (l : List (Nat × BitVec 32)) (e : Nat) : BitVec 32 := (tabFind l e).getD 0

/-- Stage 6: boot self-test and column bypass, with clamps (R52, R53, R67, R68, R70). -/
def State.computeEnds (s : State) (columns : List (Nat × BitVec 32)) (rowPath clusters : List Nat) : State :=
  let map (e : Nat) : EngineState :=
    let m := columnsOf s.security.config.bypass e
    { manufacturing := m, boot := columnsOf columns e &&& ~~~m }
  let s : State := { s with engines := (List.range 1536).foldr (fun e t =>
    if map e = engineReset then t else (e, map e) :: t) [] }
  let s : State := { s with boot := { s.boot with bootBypass := (s.engines.filter fun e => e.2.boot != 0).length } }
  let bad (c : Nat) : Bool := (upFrom (4 * c) 4).any fun e => decide ((s.engine e).width < 28) || rowPath.contains e
  let s := ((List.range 384).filter bad).foldl (fun t c => t.clampCore c 3 false) s
  let s := ((List.range 96).filter clusters.contains).foldl (fun t k => t.clampCluster k 2 false) s
  s.nextStage 7

/-- Stage 7: training-ready, and the second BOOT (R487); the first step window begins (R189). -/
def State.trainingReadyEnds (s : State) : State :=
  let ms := s.bootMs s.now
  let s : State := { s with
    boot := { s.boot with trainingReady := true, frontier := 8, trainReadyMs := BitVec.ofNat 16 (min 65535 ms) }
    mem := { s.mem with bankFresh := [] } }
  s.bootEvent .ok ms

/-- Boot has stopped at the end of its stage (R486). -/
def State.bootHalted (s : State) : Bool := s.boot.stopped && s.boot.stopAfter == some s.boot.stage

/-- One of the stages 0 to 3 is in progress. -/
def State.inStage (s : State) (k : Nat) : Bool := s.boot.stage == k && !s.boot.commandReady && !s.bootHalted

/-- The end of the stage in progress. An outcome of another stage has nothing to end. -/
def State.stageEnds (s : State) (o : Sys2Proof.StageOutcome) : State :=
  match o with
  | .rom g i => if s.inStage 0 then s.romEnds g i else s
  | .images a c r running versions revoke keys config =>
    if s.inStage 1 then s.imagesEnd a c r running versions revoke keys config else s
  | .journal => if s.inStage 2 then s.journalEnds else s
  | .dies st c bn l sp m => if s.inStage 3 then s.diesEnd st c bn l sp m else s
  | .commandReady => if !s.boot.commandReady && (s.boot.stage == 4 || s.bootHalted) then s.commandReadyEnds else s
  | .memory lp i => if s.boot.stage == 5 && s.boot.stopStatus != .clamped then s.memoryEnds lp i else s
  | .compute c r k => if s.boot.stage == 6 then s.computeEnds c r k else s
  | .trainingReady => if s.boot.stage == 7 && !s.boot.trainingReady then s.trainingReadyEnds else s

/-- BOOT_STAGE_END. -/
def execBootStageEnd (o : Sys2Proof.StageOutcome) (s : State) : Host.Outcome State Fault Refusal :=
  .next (if s.benchUp then (s.stageEnds o).settle else s)

end Sys2Proof.Machine
end

