-- ==== Sys2Proof/Machine/Power.lean ====
section
/-! DEFINITION. The inputs and rails (R400, R542 to R548, R552, R553) and the power manager (R529 to R531). -/

namespace Sys2Proof.Machine

/-! ### Pins (R552) -/

/-- PWR_GOOD is released. -/
def State.pwrGood (s : State) : Bool := s.power.rails == .on

/-- ALERT_N is low: an alarm level is latched, or the power-fail sequence runs. -/
def State.alertLow (s : State) : Bool :=
  decide (1 ≤ s.security.level) || (match s.power.rails with | .failing _ => true | _ => false)

/-- PPS_OUT is high: for 10 µs from each FT that is a multiple of 1,250,000,000. -/
def State.ppsOut (s : State) : Bool := decide (s.ft.toNat % 1250000000 < ticksUs 10)

/-! ### Rails -/

/-- A feed is qualified. -/
def Power.fed (p : Power) : Bool := p.qualified0 || p.qualified1

/-- The rails may come up (R545 to R548; SVC_EN holds them while it is asserted: DEDUCED, assumption log 48). -/
def Power.mayRise (p : Power) : Bool := p.fed && !p.coldResetHeld && !p.tripped && !p.svcEn

/-- The NOR is on the service contacts: SVC_EN with both feeds unqualified and the auxiliary input present (R553). -/
def State.serviceLine (s : State) : State :=
  { s with security := { s.security with service := s.power.svcEn && !s.power.fed && s.power.aux } }

/-- The power-up sequence starts where the rails are off and may come up (R545). -/
def State.powerUp (s : State) : State :=
  (if s.power.rails == .off && s.power.mayRise then { s with power := { s.power with rails := .rising s.now } } else s).serviceLine

/-- The rails go off: what MRAM and NOR do not hold is lost (R401). -/
def State.railsOff (s : State) : State :=
  let boots := s.tags.boots
  let s := s.coldReset s.boot.cause false
  ({ s with
      tags := { s.tags with boots := boots }
      power := { s.power with rails := .off } } : State).powerUp

/-- Power fail is declared (R400, 20 µs): nothing more is journaled or issued, and no reset under way completes (R473). -/
def State.declareFail (s : State) : State :=
  { s with
      resets := []
      power := { s.power with rails := .failing s.now, noticed := false, dark := false }
      boot := { s.boot with failDeclared := true } }

/-- Rails that stand fail; rails that are coming up go off at once (R546). -/
def State.failOrOff (s : State) : State :=
  match s.power.rails with
  | .on => s.declareFail
  | .rising _ => ({ s with power := { s.power with rails := .off }, boot := { s.boot with failDeclared := true } } : State)
  | _ => s

/-! ### Feeds (R542, R543, R546) -/

/-- A feed's state: in range and qualified. A feed becomes in range for this model as it qualifies (assumption log 47). -/
def Power.setFeed (p : Power) (feed : Nat) (on : Bool) : Power :=
  if feed = 0 then { p with inRange0 := on, qualified0 := on } else { p with inRange1 := on, qualified1 := on }

/-- FEED_LOST is outstanding for a feed. -/
def Power.feedLost (p : Power) (feed : Nat) : Bool := if feed = 0 then p.feedLost0 else p.feedLost1

/-- Note or clear it. -/
def Power.setLost (p : Power) (feed : Nat) (lost : Bool) : Power :=
  if feed = 0 then { p with feedLost0 := lost } else { p with feedLost1 := lost }

/-- A feed is qualified. -/
def Power.qualified (p : Power) (feed : Nat) : Bool := if feed = 0 then p.qualified0 else p.qualified1

/-- A feed qualifies (R542, R543, R545). -/
def State.feedIn (s : State) (feed : Nat) : State :=
  if s.power.qualified feed then s
  else
    let s : State := { s with power := { s.power.setFeed feed true with bothLostAt := none } }
    let s :=
      if s.power.feedLost feed && s.power.rails == .on then
        ({ s with power := s.power.setLost feed false } : State).faultRecovered 0x0016 .module .ok feed 0
      else s
    s.powerUp

/-- A feed leaves range (R543, R546). -/
def State.feedOut (s : State) (feed : Nat) : State :=
  if !s.power.qualified feed then s
  else
    let s : State := { s with power := s.power.setFeed feed false }
    if s.power.fed then
      (if s.power.rails == .on then
        (({ s with power := s.power.setLost feed true } : State).fault 0x0016 .module .ok feed 0) else s)
    else
      let s : State := { s with power := { s.power with bothLostAt := some s.now } }
      match s.power.rails with
      | .rising _ => ({ s with power := { s.power with rails := .off } } : State).serviceLine
      | _ => s.serviceLine

/-! ### The power-fail sequence (R400) -/

/-- Time since power fail was declared has reached `us`. -/
def State.failedFor (s : State) (us : Nat) : Bool :=
  match s.power.rails with | .failing t => decide (t + ticksUs us ≤ s.now) | _ => false

/-- 40 µs: the fault notice and LINK_DARK. -/
def State.failNotice (s : State) : State :=
  let s : State := { s with power := { s.power with noticed := true } }
  (s.fault 0x0017 .module .ok 0 0).sendDark (s.ft + word (ticksUs 100)) 2

/-- 140 µs: the ports go dark and their queued cells are discarded. -/
def State.goDark (s : State) : State :=
  let s : State := { s with power := { s.power with dark := true } }
  (List.range 16).foldl (fun t n =>
    let t := t.setPort n { t.port n with egress := [] }
    if (t.port n).state == .down then t else t.portTo n .dark) { s with fabric := { s.fabric with waiting := [], bridges := [] } }

/-! ### The power manager (R530) -/

/-- One application of the rule: `p` over the cap lowers the duty, below 97 % of it raises it. -/
def dutyStep (p cap low duty : Nat) : Nat :=
  if cap < p then max (duty - (64 * (p - cap) + p - 1) / p) low
  else if 100 * p < 97 * cap then min (duty + 1) 64
  else duty

/-- A temperature as the rule takes it, in 0.1 °C: none is below zero. -/
def heat (t : BitVec 16) : Nat := t.toInt.toNat

/-- The greater of two signed readings. -/
def hotter (a b : BitVec 16) : BitVec 16 := if a.toInt < b.toInt then b else a

/-- Duty under the die cap and under the thermal limit of a die, as they stand. -/
def State.dutiesOf (s : State) (d : Nat) : Nat × Nat := (tabFind s.power.dieDuty d).getD (64, 64)

/-- New duties of a die under its cap and the thermal limit. -/
def State.nextDuties (s : State) (t : Sys2Proof.Telemetry) (d : Nat) : Nat × Nat :=
  let r := nth ⟨0, 0, 0, 0⟩ t.records d
  let cap := s.rf (.pwrCapDie d) 0 8
  let low := s.rf .pwrThermal 8 7
  let x := s.dutiesOf d
  (if cap = 0 then 64 else dutyStep r.railDw.toNat (10 * cap) low x.1,
   dutyStep (heat r.hottest) (10 * s.rf .pwrThermal 0 8) low x.2)

/-- The evaluation of the power manager (R530, R537, R540, R541, R560). -/
def State.evaluate (s : State) (t : Sys2Proof.Telemetry) : State :=
  let low := s.rf .pwrThermal 8 7
  let m := dutyStep t.inputW.toNat (s.rf .pwrCapModule 0 16) low s.power.moduleDuty
  let ds := (List.range 24).map fun d => (d, s.nextDuties t d)
  let duty (x : Nat × Nat) : Nat := max (min m (min x.1 x.2)) low
  let hot (x : Nat × Nat) : Bool := decide (x.2 < min m x.1)
  let slow := ds.filter fun e => decide (duty e.2 < 64)
  let thermal := slow.filter fun e => hot e.2
  let capped := slow.filter fun e => !hot e.2
  let s := ds.foldl (fun u e => u.setDie e.1 { u.die e.1 with duty := duty e.2 }) s
  { s with power := { s.power with
      capped := !capped.isEmpty, thermal := !thermal.isEmpty, moduleDuty := m, inputW := t.inputW
      hottest := match t.records with | [] => 0 | r :: rs => rs.foldl (fun h x => hotter h x.hottest) r.hottest
      evaluatedFt := s.ft
      feedsReg := word (place t.feed0Dv.toNat 0 10 + place t.feed1Dv.toNat 10 10 + place t.auxMv.toNat 20 12 +
        place t.feed0Da.toNat 32 12 + place t.feed1Da.toNat 44 12)
      records := t.records, dieDuty := ds, cappedDies := capped.map (·.1), thermalDies := thermal.map (·.1) } }

/-! ### Rows -/

/-- FEED_QUALIFIED. -/
def execFeedQualified (feed : Nat) (s : State) : Host.Outcome State Fault Refusal := onUnit feed 2 (s.feedIn feed)
/-- FEED_LEAVES_RANGE. -/
def execFeedLeavesRange (feed : Nat) (s : State) : Host.Outcome State Fault Refusal := onUnit feed 2 (s.feedOut feed)
/-- POWER_GOOD: the sequence of R545 ends 16 ms after the feed qualified; boot cause 5 follows a declared power fail
(R402, R483). -/
def execPowerGood (s : State) : Host.Outcome State Fault Refusal :=
  .next (match s.power.rails with
    | .rising t =>
      if s.now < t + ticksMs 16 then s
      else
        let s := s.coldReset (if s.boot.failDeclared then 5 else 0) false
        { s with power := { s.power with rails := .on }, boot := { s.boot with failDeclared := false } }
    | _ => s)
/-- POWER_FAIL: both feeds below range for 20 µs (R400, R546). -/
def execPowerFail (s : State) : Host.Outcome State Fault Refusal :=
  .next (match s.power.bothLostAt with
    | some t => if s.power.rails == .on && decide (t + ticksUs 20 ≤ s.now) then s.declareFail.serviceLine else s
    | none => s)
/-- POWER_FAIL_NOTICE: 20 µs after the declaration. -/
def execPowerFailNotice (s : State) : Host.Outcome State Fault Refusal :=
  .next (if s.failedFor 20 && !s.power.noticed then s.failNotice else s)
/-- DARK_FT_REACHED: 120 µs after the declaration. -/
def execDarkFtReached (s : State) : Host.Outcome State Fault Refusal :=
  .next (if s.failedFor 120 && !s.power.dark then s.goDark else s)
/-- POWER_FAIL_RAILS_OFF: 180 µs after the declaration; the module powers up again where it may (R546 to R548). -/
def execPowerFailRailsOff (s : State) : Host.Outcome State Fault Refusal := .next (if s.failedFor 180 then s.railsOff else s)
/-- COLD_RESET_N (R546, R547): `widthNs` is how long the contact has been low. A pulse of 1 to 10 µs acts or not as the
free value says. -/
def execColdResetN (level : Bool) (widthNs : Nat) (s : State) : Host.Outcome State Fault Refusal :=
  .next (
    if level then ({ s with power := { s.power with coldResetHeld := false } } : State).powerUp
    else if (match s.power.rails with | .failing _ => true | _ => false) then s
    else if 10000 ≤ widthNs ∨ (1000 ≤ widthNs ∧ Config.shortResetActs widthNs = true) then
      ({ s with power := { s.power with coldResetHeld := true } } : State).failOrOff.serviceLine
    else s)
/-- THERMAL_TRIP (R548). -/
def execThermalTrip (die : Nat) (s : State) : Host.Outcome State Fault Refusal :=
  onUnit die 26 (if s.power.rails == .off then s else ({ s with power := { s.power with tripped := true } } : State).failOrOff)
/-- THERMAL_TRIP_CLEAR (R548): every sensor reads below 85 °C. -/
def execThermalTripClear (s : State) : Host.Outcome State Fault Refusal :=
  .next ({ s with power := { s.power with tripped := false } } : State).powerUp
/-- SVC_EN (R546, R553). -/
def execSvcEn (level : Bool) (s : State) : Host.Outcome State Fault Refusal :=
  .next ({ s with power := { s.power with svcEn := level } } : State).powerUp
/-- AUXILIARY_INPUT_CHANGE (R544). -/
def execAuxiliaryInputChange (present : Bool) (s : State) : Host.Outcome State Fault Refusal :=
  .next ({ s with power := { s.power with aux := present } } : State).serviceLine
/-- POWER_EVALUATION (R530). -/
def execPowerEvaluation (t : Sys2Proof.Telemetry) (s : State) : Host.Outcome State Fault Refusal :=
  .next (if s.benchUp then s.evaluate t else s)

end Sys2Proof.Machine
end

