-- ==== Sys2Proof/Machine/Held.lean ====
section
/-! DEFINITION. Commands held for their not-before FT (R253 to R255) and the ends of long operations (R422). -/

namespace Sys2Proof.Machine

/-! ### Not-before commands -/

/-- What the opcodes of groups 0x00xx to 0x04xx do: the meanings of their rows. -/
def meaningLow (errs : BitErrors) (opcode : Nat) : OpenCmd → State → Result :=
  match opcode with
  | 0x0001 => doSessionInit | 0x0002 => doSessionConfirm | 0x0003 => doSessionClose | 0x0004 => doPing
  | 0x0005 => doOwnerClaim | 0x0006 => doOwnerRelease | 0x0007 => doSessionList
  | 0x0100 => doIdentity | 0x0101 => doCertRead | 0x0102 => doAttest
  | 0x0200 => doRegRead | 0x0201 => doRegWrite | 0x0202 => doRegWrite
  | 0x0300 => doMemRead errs | 0x0301 => doMemWrite | 0x0302 => doMemFill | 0x0303 => doMemCopy | 0x0304 => doMemDigest
  | 0x0400 => doPartitionSet | 0x0401 => doPartitionGet | 0x0402 => doQpCreate | 0x0403 => doQpDestroy
  | 0x0404 => doDestTableLoad
  | _ => fun _ s => refuse s .badOpcode

/-- STEP_CONTROL by its action. -/
def doStepControl (c : OpenCmd) (s : State) : Result :=
  match uAt c.params 0 1 with
  | 1 => doHalt c s
  | 2 => doStepSeal c s
  | 3 => doStepRecall c s
  | _ => doResume c s

/-- RESET_DOMAIN by its domain code. -/
def doResetDomain (c : OpenCmd) (s : State) : Result :=
  match domainOf (uAt c.params 0 1) with
  | some .cold => doResetNone c s
  | some d => doReset d c s
  | none => doResetNone c s

/-- What the opcodes from group 0x05xx on do. -/
def meaningHigh (failing : List (Nat × Nat × Nat)) (pairing : List Byte) (opcode : Nat) : OpenCmd → State → Result :=
  match opcode with
  | 0x0500 => doProgramLoad | 0x0501 => doProgramUnload | 0x0502 => doTtWrite | 0x0503 => doTtRemove | 0x0504 => doTtRead
  | 0x0505 => doStepParam | 0x0506 => doStepControl | 0x0507 => doStepStatus
  | 0x0600 => doClamp | 0x0601 => doUnclamp | 0x0602 => doLedgerIndex | 0x0603 => doLedgerRead | 0x0604 => doLedgerPin
  | 0x0605 => doFieldTest failing
  | 0x0700 => doTwinSend | 0x0701 => doTwinReceive | 0x0702 => doTwinAdopt | 0x0703 => doCkptCut
  | 0x0704 => doCheckpointRelease | 0x0705 => doCkptRetry | 0x0706 => doRestore
  | 0x0800 => doJournalSummary | 0x0801 => doJournalRead | 0x0802 => doJournalCompact
  | 0x0900 => doSnapshotNow | 0x0901 => doSnapshotRead | 0x0902 => doTraceCtrl | 0x0903 => doTraceRead
  | 0x0904 => doTelemetryRead | 0x0A00 => doPwrStatus | 0x0A01 => doPwrCap
  | 0x0B00 => doResetDomain | 0x0B01 => doColdReset | 0x0B02 => doImageWrite | 0x0B03 => doImageCommit pairing
  | 0x0B04 => doResetStatus | 0x0F00 => doJobKeyInstall | 0x0F01 => doJobKeyErase | 0x0F02 => doAlarmStatus
  | 0x0F03 => doAlarmClear
  | _ => fun _ s => refuse s .badOpcode

/-- What an opcode does. Operands that its row takes from outside come with NOT_BEFORE_EXECUTE. -/
def meaningOf (errs : BitErrors) (failing : List (Nat × Nat × Nat)) (pairing : List Byte) (opcode : Nat) :
    OpenCmd → State → Result :=
  if opcode < 0x0500 then meaningLow errs opcode else meaningHigh failing pairing opcode

/-- FT for which a command is held. -/
def OpenCmd.heldFt (c : OpenCmd) : Nat := (c.notBefore.getD 0).toNat

/-- The pending command that executes next: by not-before FT, ties in journal order (R254). -/
def State.nextHeld (s : State) : Option OpenCmd :=
  (s.cmds.opened.filter fun c => c.phase == .held false).foldl (fun m c =>
    match m with
    | some b => if c.heldFt < b.heldFt then some c else m
    | none => some c) none

/-- A timetable entry due by `ft` fires first (R254). -/
def State.tableFirst (s : State) (ft : Nat) : Bool :=
  s.armed && (match s.nextFiring with | some (d, _, _) => decide (d ≤ ft) | none => false)

/-- A pending command reaches its FT and executes (R253); its outcome is an event. -/
def State.executeHeld (s : State) (f : Nat → OpenCmd → State → Result) : State :=
  match s.nextHeld with
  | none => s
  | some c =>
    if s.ft.toNat < c.heldFt ∨ s.tableFirst c.heldFt ∨ !s.benchUp ∨ !s.boot.commandReady then s
    else if !s.journal.fits 0 then { s with journal := { s.journal with ringFull := true } }
    else State.conclude c true ((s.trace benchRing 0x0030 c.opcode c.jseq).attempt c (f c.opcode))

/-! ### Ends of long operations (R422) -/

/-- The end of a long operation that has no row of its own. -/
def State.longEnds (s : State) (jseq : Nat) (op : LongOp) : State :=
  match op with
  | .memFill .. | .memCopy .. | .memDigest .. => if s.inReset .memory 0 then s else s.memoryEnd jseq op
  | .fieldTest i k failing => if s.benchUp then s.fieldTestEnd jseq i k failing else s
  | .programLoad a n =>
    if !s.benchUp then s
    else
      let r := s.loadProgram a n
      r.2.closeCmd jseq r.1 []
  | .stepHalt => if s.benchUp then s.closeCmd jseq .ok [] else s
  | .stepRecall .. => if s.benchUp then s.closeCmd jseq .ok [] else s
  | .imageCommit r v => if s.benchUp then s.closeCmd jseq (s.imageStatus r v) [] else s
  | .done st data => if s.benchUp then s.closeCmd jseq st data else s
  | .twinSend | .twinReceive | .ckptCut | .ckptRetry | .restore | .compact | .resetDomain .. => s

/-! ### Rows -/

/-- NOT_BEFORE_EXECUTE. -/
def execNotBeforeExecute (errs : BitErrors) (failing : List (Nat × Nat × Nat)) (pairing : List Byte) (s : State) :
    Host.Outcome State Fault Refusal :=
  .next (s.executeHeld (meaningOf errs failing pairing)).settle
/-- NOT_BEFORE_LOCK_TIMEOUT: 60 s after the Bench returned, the counter not LOCKED since (R255). -/
def execNotBeforeLockTimeout (s : State) : Host.Outcome State Fault Refusal :=
  .next (if s.benchUp && s.boot.commandReady && !s.time.lockedOnce && decide (s.boot.readyAt + ticksS 60 ≤ s.now)
    then s.settleHeld true else s)
/-- LONG_OPERATION_END. -/
def execLongOperationEnd (jseq : Nat) (errs : BitErrors) (s : State) : Host.Outcome State Fault Refusal :=
  .next (match s.openCmd jseq, tabFind s.longOps jseq with
    | some c, some op =>
      if c.phase == .running && s.power.rails == .on then ((s.hit errs).longEnds jseq op).unhit.settle else s
    | _, _ => s)

end Sys2Proof.Machine
end

