-- ==== Sys2Proof/Machine/Dispatch.lean ====
section
/-! DEFINITION. The one place that says which meaning each command has. -/

namespace Sys2Proof.Machine

/-- The effect of a command on everything but the queue. -/
def exec (i : Instr) (s : State) : Host.Outcome State Fault Refusal :=
  match i with
  | .speasFrame port wave frame => Sys2Proof.Machine.execSpeasFrame port wave frame s
  | .speasRetransmitTimeout port => Sys2Proof.Machine.execSpeasRetransmitTimeout port s
  | .speasRotation port => Sys2Proof.Machine.execSpeasRotation port s
  | .sessionInit => Sys2Proof.Machine.execSessionInit s
  | .sessionConfirm => Sys2Proof.Machine.execSessionConfirm s
  | .sessionHalfOpenExpiry session => Sys2Proof.Machine.execSessionHalfOpenExpiry session s
  | .sessionIdleExpiry session => Sys2Proof.Machine.execSessionIdleExpiry session s
  | .sessionClose => Sys2Proof.Machine.execSessionClose s
  | .ping => Sys2Proof.Machine.execPing s
  | .ownerClaim => Sys2Proof.Machine.execOwnerClaim s
  | .ownerRelease => Sys2Proof.Machine.execOwnerRelease s
  | .sessionList => Sys2Proof.Machine.execSessionList s
  | .identity => Sys2Proof.Machine.execIdentity s
  | .certRead => Sys2Proof.Machine.execCertRead s
  | .attest => Sys2Proof.Machine.execAttest s
  | .regRead => Sys2Proof.Machine.execRegRead s
  | .regWrite sets => Sys2Proof.Machine.execRegWrite sets s
  | .regWriteMasked sets => Sys2Proof.Machine.execRegWriteMasked sets s
  | .memRead errs => Sys2Proof.Machine.execMemRead errs s
  | .memWrite => Sys2Proof.Machine.execMemWrite s
  | .memFill => Sys2Proof.Machine.execMemFill s
  | .memCopy => Sys2Proof.Machine.execMemCopy s
  | .memDigest => Sys2Proof.Machine.execMemDigest s
  | .partitionSet => Sys2Proof.Machine.execPartitionSet s
  | .partitionGet => Sys2Proof.Machine.execPartitionGet s
  | .qpCreate => Sys2Proof.Machine.execQpCreate s
  | .qpDestroy => Sys2Proof.Machine.execQpDestroy s
  | .destTableLoad => Sys2Proof.Machine.execDestTableLoad s
  | .programLoad => Sys2Proof.Machine.execProgramLoad s
  | .programUnload => Sys2Proof.Machine.execProgramUnload s
  | .ttWrite => Sys2Proof.Machine.execTtWrite s
  | .ttRemove => Sys2Proof.Machine.execTtRemove s
  | .ttRead => Sys2Proof.Machine.execTtRead s
  | .stepParam => Sys2Proof.Machine.execStepParam s
  | .stepControlResume => Sys2Proof.Machine.execStepControlResume s
  | .stepControlHalt => Sys2Proof.Machine.execStepControlHalt s
  | .stepControlSeal => Sys2Proof.Machine.execStepControlSeal s
  | .stepControlRecall => Sys2Proof.Machine.execStepControlRecall s
  | .stepStatus => Sys2Proof.Machine.execStepStatus s
  | .clamp => Sys2Proof.Machine.execClamp s
  | .unclamp => Sys2Proof.Machine.execUnclamp s
  | .ledgerIndex => Sys2Proof.Machine.execLedgerIndex s
  | .ledgerRead => Sys2Proof.Machine.execLedgerRead s
  | .ledgerPin => Sys2Proof.Machine.execLedgerPin s
  | .fieldTest failing => Sys2Proof.Machine.execFieldTest failing s
  | .twinSend => Sys2Proof.Machine.execTwinSend s
  | .twinReceive => Sys2Proof.Machine.execTwinReceive s
  | .twinAdopt => Sys2Proof.Machine.execTwinAdopt s
  | .ckptCut => Sys2Proof.Machine.execCkptCut s
  | .checkpointRelease => Sys2Proof.Machine.execCheckpointRelease s
  | .ckptRetry => Sys2Proof.Machine.execCkptRetry s
  | .restoreImage => Sys2Proof.Machine.execRestore s
  | .journalSummary => Sys2Proof.Machine.execJournalSummary s
  | .journalRead => Sys2Proof.Machine.execJournalRead s
  | .journalCompact => Sys2Proof.Machine.execJournalCompact s
  | .journalCompactionEnd => Sys2Proof.Machine.execJournalCompactionEnd s
  | .snapshotNow => Sys2Proof.Machine.execSnapshotNow s
  | .snapshotRead => Sys2Proof.Machine.execSnapshotRead s
  | .traceOff => Sys2Proof.Machine.execTraceOff s
  | .traceOn => Sys2Proof.Machine.execTraceOn s
  | .traceFreeze => Sys2Proof.Machine.execTraceFreeze s
  | .traceClear => Sys2Proof.Machine.execTraceClear s
  | .traceRead => Sys2Proof.Machine.execTraceRead s
  | .telemetryRead => Sys2Proof.Machine.execTelemetryRead s
  | .pwrStatus => Sys2Proof.Machine.execPwrStatus s
  | .pwrCap => Sys2Proof.Machine.execPwrCap s
  | .resetCore => Sys2Proof.Machine.execResetCore s
  | .resetCluster => Sys2Proof.Machine.execResetCluster s
  | .resetComputeDie => Sys2Proof.Machine.execResetComputeDie s
  | .resetCarcassRouter => Sys2Proof.Machine.execResetCarcassRouter s
  | .resetCarcassMemory => Sys2Proof.Machine.execResetCarcassMemory s
  | .resetBench => Sys2Proof.Machine.execResetBench s
  | .coldReset => Sys2Proof.Machine.execColdReset s
  | .imageWrite => Sys2Proof.Machine.execImageWrite s
  | .imageCommit pairing => Sys2Proof.Machine.execImageCommit pairing s
  | .resetStatus => Sys2Proof.Machine.execResetStatus s
  | .jobKeyInstall => Sys2Proof.Machine.execJobKeyInstall s
  | .jobKeyErase => Sys2Proof.Machine.execJobKeyErase s
  | .alarmStatus => Sys2Proof.Machine.execAlarmStatus s
  | .alarmClear => Sys2Proof.Machine.execAlarmClear s
  | .notBeforeExecute errs failing pairing => Sys2Proof.Machine.execNotBeforeExecute errs failing pairing s
  | .notBeforeLockTimeout => Sys2Proof.Machine.execNotBeforeLockTimeout s
  | .longOperationEnd jseq errs => Sys2Proof.Machine.execLongOperationEnd jseq errs s
  | .workItemStart core => Sys2Proof.Machine.execWorkItemStart core s
  | .nop core => Sys2Proof.Machine.execNop core s
  | .tileRun core errs wrong => Sys2Proof.Machine.execTile core errs wrong s
  | .rowOp core errs wrong => Sys2Proof.Machine.execRow core errs wrong s
  | .copyOp core errs => Sys2Proof.Machine.execCopy core errs s
  | .gatherOp core errs => Sys2Proof.Machine.execGather core errs s
  | .scatterOp core errs => Sys2Proof.Machine.execScatter core errs s
  | .bindSlot core => Sys2Proof.Machine.execBind core s
  | .closeSlot core => Sys2Proof.Machine.execClose core s
  | .waitOps core => Sys2Proof.Machine.execWait core s
  | .waitSatisfied core => Sys2Proof.Machine.execWaitSatisfied core s
  | .signalCounter core => Sys2Proof.Machine.execSignal core s
  | .waitc core => Sys2Proof.Machine.execWaitc core s
  | .waitcSatisfied core => Sys2Proof.Machine.execWaitcSatisfied core s
  | .postEntry core => Sys2Proof.Machine.execPost core s
  | .loopset core => Sys2Proof.Machine.execLoopset core s
  | .djnz core => Sys2Proof.Machine.execDjnz core s
  | .bnz core => Sys2Proof.Machine.execBnz core s
  | .jump core => Sys2Proof.Machine.execJump core s
  | .paramBlock core => Sys2Proof.Machine.execParam core s
  | .endItem core => Sys2Proof.Machine.execEnd core s
  | .tileComplete core => Sys2Proof.Machine.execTileComplete core s
  | .rowOpComplete core => Sys2Proof.Machine.execRowOpComplete core s
  | .transferComplete core => Sys2Proof.Machine.execTransferComplete core s
  | .unitFieldFault kind unit => Sys2Proof.Machine.execUnitFieldFault kind unit s
  | .captureEnd unit => Sys2Proof.Machine.execCaptureEnd unit s
  | .duplicateRun core errs wrong => Sys2Proof.Machine.execDuplicateRun core errs wrong s
  | .fingerprintCompare unit => Sys2Proof.Machine.execFingerprintCompare unit s
  | .refereeRun core errs wrong => Sys2Proof.Machine.execRefereeRun core errs wrong s
  | .streamDescriptorStart queue => Sys2Proof.Machine.execStreamDescriptorStart queue s
  | .openCell port bytes => Sys2Proof.Machine.execOpen port bytes s
  | .dataCell port bytes => Sys2Proof.Machine.execData port bytes s
  | .ackCell port bytes => Sys2Proof.Machine.execAck port bytes s
  | .verdictCell port bytes => Sys2Proof.Machine.execVerdict port bytes s
  | .sealCell port bytes => Sys2Proof.Machine.execSeal port bytes s
  | .recallCell port bytes => Sys2Proof.Machine.execRecall port bytes s
  | .timeCell port bytes => Sys2Proof.Machine.execTime port bytes s
  | .linkDarkCell port bytes => Sys2Proof.Machine.execLinkDark port bytes s
  | .creditCell port bytes => Sys2Proof.Machine.execCredit port bytes s
  | .codeword port corrected uncorrectable lockLost cells => Sys2Proof.Machine.execCodeword port corrected uncorrectable lockLost cells s
  | .cellEscape queue vc => Sys2Proof.Machine.execCellEscape queue vc s
  | .cellStallDiscard queue vc => Sys2Proof.Machine.execCellStallDiscard queue vc s
  | .creditReturn port => Sys2Proof.Machine.execCreditReturn port s
  | .throttleRecovery => Sys2Proof.Machine.execThrottleRecovery s
  | .timeCellSend port => Sys2Proof.Machine.execTimeCellSend port s
  | .streamRetryTimeout context => Sys2Proof.Machine.execStreamRetryTimeout context s
  | .streamReceiveTimeout context => Sys2Proof.Machine.execStreamReceiveTimeout context s
  | .bridgePackTimeout dir => Sys2Proof.Machine.execBridgePackTimeout dir s
  | .signalDetect port lanes => Sys2Proof.Machine.execSignalDetect port lanes s
  | .bringUpAttempt port => Sys2Proof.Machine.execBringUpAttempt port s
  | .trainingTimeout port => Sys2Proof.Machine.execTrainingTimeout port s
  | .portLock port txUsable rxUsable => Sys2Proof.Machine.execPortLock port txUsable rxUsable s
  | .discoveryWord port slot => Sys2Proof.Machine.execDiscoveryWord port slot s
  | .lossOfSignal port => Sys2Proof.Machine.execLossOfSignal port s
  | .portTnAdmit => Sys2Proof.Machine.execPortTnAdmit s
  | .retrain => Sys2Proof.Machine.execRetrain s
  | .jigRotation port => Sys2Proof.Machine.execJigRotation port s
  | .mirrorLane port slot => Sys2Proof.Machine.execMirror port slot s
  | .mirrorCompareEnd port matched => Sys2Proof.Machine.execMirrorCompareEnd port matched s
  | .steerAck port slot => Sys2Proof.Machine.execSteerAck port slot s
  | .steerNak port slot => Sys2Proof.Machine.execSteerNak port slot s
  | .steerAckTimeout port => Sys2Proof.Machine.execSteerAckTimeout port s
  | .trainLane port slot => Sys2Proof.Machine.execTrain port slot s
  | .laneTrainingEnd port pass margin => Sys2Proof.Machine.execLaneTrainingEnd port pass margin s
  | .trainPass port slot => Sys2Proof.Machine.execTrainPass port slot s
  | .trainFail port slot => Sys2Proof.Machine.execTrainFail port slot s
  | .markerLockLoss port phys => Sys2Proof.Machine.execMarkerLockLoss port phys s
  | .laneFail port slot => Sys2Proof.Machine.execLaneFail port slot s
  | .restripe3 port slot => Sys2Proof.Machine.execRestripe3 port slot s
  | .restripe4 port slot => Sys2Proof.Machine.execRestripe4 port slot s
  | .rdmaPacket port packet => Sys2Proof.Machine.execRdmaPacket port packet s
  | .rdmaRetransmitTimeout port qpn => Sys2Proof.Machine.execRdmaRetransmitTimeout port qpn s
  | .congestionNotification port qpn => Sys2Proof.Machine.execCongestionNotification port qpn s
  | .rateRecovery port qpn => Sys2Proof.Machine.execRateRecovery port qpn s
  | .priorityFlowControl port priority pause => Sys2Proof.Machine.execPriorityFlowControl port priority pause s
  | .ptpMessage port message => Sys2Proof.Machine.execPtpMessage port message s
  | .ftLock => Sys2Proof.Machine.execFtLock s
  | .ftSourceLost => Sys2Proof.Machine.execFtSourceLost s
  | .ftHoldoverExpiry => Sys2Proof.Machine.execFtHoldoverExpiry s
  | .ftEpoch => Sys2Proof.Machine.execFtEpoch s
  | .ttCtrl => Sys2Proof.Machine.execTtCtrl s
  | .stepOpen entry => Sys2Proof.Machine.execStepOpen entry s
  | .loadOpen entry => Sys2Proof.Machine.execLoadOpen entry s
  | .stepOpenWindowEnd entry => Sys2Proof.Machine.execStepOpenWindowEnd entry s
  | .holdEntry entry => Sys2Proof.Machine.execHold entry s
  | .holdEnd => Sys2Proof.Machine.execHoldEnd s
  | .checkClose entry => Sys2Proof.Machine.execCheckClose entry s
  | .clockEntry entry => Sys2Proof.Machine.execClock entry s
  | .snapshotEntry entry => Sys2Proof.Machine.execSnapshot entry s
  | .evalEntry entry => Sys2Proof.Machine.execEval entry s
  | .evalSlotOpen => Sys2Proof.Machine.execEvalSlotOpen s
  | .evalSlotClose => Sys2Proof.Machine.execEvalSlotClose s
  | .calLp entry => Sys2Proof.Machine.execCalLp entry s
  | .calInl entry => Sys2Proof.Machine.execCalInl entry s
  | .calWaitExpiry entry => Sys2Proof.Machine.execCalWaitExpiry entry s
  | .calibrationWindowEnd kind unit channel marginOk => Sys2Proof.Machine.execCalibrationWindowEnd kind unit channel marginOk s
  | .forcedWindow kind unit channel => Sys2Proof.Machine.execForcedWindow kind unit channel s
  | .markEntry entry => Sys2Proof.Machine.execMark entry s
  | .sealDeadline step => Sys2Proof.Machine.execSealDeadline step s
  | .sealCopyResend => Sys2Proof.Machine.execSealCopyResend s
  | .outcomeOverdue step => Sys2Proof.Machine.execOutcomeOverdue step s
  | .replayOpen => Sys2Proof.Machine.execReplayOpen s
  | .weightDigestEnd => Sys2Proof.Machine.execWeightDigestEnd s
  | .digestCompare => Sys2Proof.Machine.execDigestCompare s
  | .drawerCarveDone => Sys2Proof.Machine.execDrawerCarveDone s
  | .memDrwCarve => Sys2Proof.Machine.execMemDrwCarve s
  | .scrubRequest address errs => Sys2Proof.Machine.execScrubRequest address errs s
  | .coreWringBase => Sys2Proof.Machine.execCoreWringBase s
  | .coreWringCtrl => Sys2Proof.Machine.execCoreWringCtrl s
  | .coreWringPtr => Sys2Proof.Machine.execCoreWringPtr s
  | .netCringBase => Sys2Proof.Machine.execNetCringBase s
  | .netCringCtrl => Sys2Proof.Machine.execNetCringCtrl s
  | .netCringPtr => Sys2Proof.Machine.execNetCringPtr s
  | .netSqPtr => Sys2Proof.Machine.execNetSqPtr s
  | .netChip => Sys2Proof.Machine.execNetChip s
  | .netGeometry => Sys2Proof.Machine.execNetGeometry s
  | .netThrottle => Sys2Proof.Machine.execNetThrottle s
  | .netBridge => Sys2Proof.Machine.execNetBridge s
  | .stepRetainCtrl => Sys2Proof.Machine.execStepRetainCtrl s
  | .coreHang core => Sys2Proof.Machine.execCoreHang core s
  | .streamStall engine => Sys2Proof.Machine.execStreamStall engine s
  | .portStall port => Sys2Proof.Machine.execPortStall port s
  | .benchHang lapsed => Sys2Proof.Machine.execBenchHang lapsed s
  | .romTimer => Sys2Proof.Machine.execRomTimer s
  | .drainWindowEnd domain inst => Sys2Proof.Machine.execDrainWindowEnd domain inst s
  | .routerIngressClose => Sys2Proof.Machine.execRouterIngressClose s
  | .routerAssert => Sys2Proof.Machine.execRouterAssert s
  | .resetRelease domain inst passed => Sys2Proof.Machine.execResetRelease domain inst passed s
  | .bootStageEnd outcome => Sys2Proof.Machine.execBootStageEnd outcome s
  | .feedQualified feed => Sys2Proof.Machine.execFeedQualified feed s
  | .feedLeavesRange feed => Sys2Proof.Machine.execFeedLeavesRange feed s
  | .powerGood => Sys2Proof.Machine.execPowerGood s
  | .powerFail => Sys2Proof.Machine.execPowerFail s
  | .darkFtReached => Sys2Proof.Machine.execDarkFtReached s
  | .powerFailRailsOff => Sys2Proof.Machine.execPowerFailRailsOff s
  | .coldResetN level widthNs => Sys2Proof.Machine.execColdResetN level widthNs s
  | .thermalTrip die => Sys2Proof.Machine.execThermalTrip die s
  | .thermalTripClear => Sys2Proof.Machine.execThermalTripClear s
  | .svcEn level => Sys2Proof.Machine.execSvcEn level s
  | .powerEvaluation telemetry => Sys2Proof.Machine.execPowerEvaluation telemetry s
  | .alarmTrigger sources sensor reading => Sys2Proof.Machine.execAlarmTrigger sources sensor reading s
  | .wipeEnd => Sys2Proof.Machine.execWipeEnd s
  | .noticeUdpRepeat => Sys2Proof.Machine.execNoticeUdpRepeat s
  | .glueUpWriteEnd => Sys2Proof.Machine.execGlueUpWriteEnd s
  | .objectWriteFail shard cause => Sys2Proof.Machine.execObjectWriteFail shard cause s
  | .twinTransferEnd => Sys2Proof.Machine.execTwinTransferEnd s
  | .twinDigestEnd => Sys2Proof.Machine.execTwinDigestEnd s
  | .restoreHeaderPassEnd headers => Sys2Proof.Machine.execRestoreHeaderPassEnd headers s
  | .restorePayloadPassEnd payloads => Sys2Proof.Machine.execRestorePayloadPassEnd payloads s
  | .speasLinkUp port => Sys2Proof.Machine.execSpeasLinkUp port s
  | .speasWavelengthFail port wave => Sys2Proof.Machine.execSpeasWavelengthFail port wave s
  | .ethernetLinkChange port up => Sys2Proof.Machine.execEthernetLinkChange port up s
  | .auxiliaryInputChange present => Sys2Proof.Machine.execAuxiliaryInputChange present s
  | .powerFailNotice => Sys2Proof.Machine.execPowerFailNotice s
  | .snapshotComplete tag => Sys2Proof.Machine.execSnapshotComplete tag s

end Sys2Proof.Machine
end

