-- ==== Sys2Proof/Machine/Idle.lean ====
section
/-! DEFINITION. What the block does between commands: its clock goes on. -/

namespace Sys2Proof.Machine

/-- The fabric-time counter after one local tick (R246, R247): it counts while its rails are on. The servo gains or loses one tick of
an offset in 10,000, which is 100 ppm; where it gains one the counter passes through both values (log 28). -/
def State.count1 (s : State) : State :=
  let t := s.time
  if s.power.rails = .off then s
  else if t.slew ≠ 0 ∧ t.source ≠ .none ∧ t.slewAt + 10000 ≤ s.now then
    { s with ft := if 0 < t.slew then s.ft + 2 else s.ft
             time := { t with slew := if 0 < t.slew then t.slew - 1 else t.slew + 1, slewAt := s.now } }
  else { s with ft := s.ft + 1 }

/-- Cells that wait go on by themselves, as buckets fill and windows move (R292, R302). -/
def State.fabricGoesOn (s : State) : State :=
  if s.fabric.waiting.isEmpty && s.fabric.contexts.all (fun c => c.2.tx.isNone) then s else s.settleFabric

/-- One local tick: the counter counts, marker slots that are due go out (R205), waiting cells go on, and a compaction that the
Scribe started by itself is over (R452; DESIGN CHOICE, assumption log 1). -/
def State.tick (s : State) : State :=
  let s : State := ({ s with now := s.now + 1 } : State).count1.sendMarkers.fabricGoesOn
  match s.journal.compacting with
  | some (_, []) => if s.benchUp then s.compactionEnd else s
  | _ => s

end Sys2Proof.Machine
end

