-- ==== Sys2Proof/WellFormed.lean ====
section
/-! DEFINITION. Well-formed commands: every unit that a command names exists (R8, R202, R232, R299, R305, R315, R462). -/

namespace Sys2Proof

/-- Units of a kind that can be clamped (R8, R64). -/
def UnitKind.units : UnitKind → Nat
  | .core => 384 | .cluster => 96 | .die => 24

/-- Instances of a reset domain (R462). -/
def DomainCode.units : DomainCode → Nat
  | .core => 384 | .cluster => 96 | .die => 24 | _ => 1

/-- Every unit that a command names exists. Numbers of sessions, commands, entries, steps, shards, check units and channels
name things that may be absent; such a command finds nothing to act on. -/
def Instr.wellFormed : Instr → Bool
  | .speasFrame port _ _ | .speasRetransmitTimeout port | .speasRotation port | .speasLinkUp port => decide (port < 2)
  | .speasWavelengthFail port wave => decide (port < 2 ∧ wave < 3)
  | .workItemStart core | .nop core | .tileRun core _ _ | .rowOp core _ _ | .copyOp core _ | .gatherOp core _ |
  .scatterOp core _ | .bindSlot core | .closeSlot core | .waitOps core | .waitSatisfied core | .signalCounter core |
  .waitc core | .waitcSatisfied core | .postEntry core | .loopset core | .djnz core | .bnz core | .jump core |
  .paramBlock core | .endItem core | .tileComplete core | .rowOpComplete core | .transferComplete core |
  .duplicateRun core _ _ | .refereeRun core _ _ | .coreHang core => decide (core < 384)
  | .unitFieldFault kind unit => decide (unit < kind.units)
  | .streamDescriptorStart queue => decide (queue < 16)
  | .cellEscape queue _ | .cellStallDiscard queue _ => decide (queue < 41)
  | .openCell port _ | .dataCell port _ | .ackCell port _ | .verdictCell port _ | .sealCell port _ |
  .recallCell port _ | .timeCell port _ | .linkDarkCell port _ | .creditCell port _ | .codeword port _ _ _ _ |
  .creditReturn port | .timeCellSend port | .signalDetect port _ |
  .bringUpAttempt port | .trainingTimeout port | .portLock port _ _ | .discoveryWord port _ | .lossOfSignal port |
  .jigRotation port | .mirrorLane port _ | .mirrorCompareEnd port _ | .steerAck port _ | .steerNak port _ |
  .steerAckTimeout port | .trainLane port _ | .laneTrainingEnd port _ _ | .trainPass port _ | .trainFail port _ |
  .markerLockLoss port _ | .laneFail port _ | .restripe3 port _ | .restripe4 port _ |
  .portStall port => decide (port < 16)
  | .streamRetryTimeout context | .streamReceiveTimeout context => decide (context < 16384)
  | .bridgePackTimeout dir => decide (dir < 8)
  | .rdmaPacket port _ | .rdmaRetransmitTimeout port _ | .congestionNotification port _ | .rateRecovery port _ |
  .priorityFlowControl port _ _ | .ptpMessage port _ | .ethernetLinkChange port _ => decide (port < 6)
  | .streamStall engine => decide (engine < 4)
  | .drainWindowEnd domain inst | .resetRelease domain inst _ => decide (inst < domain.units)
  | .feedQualified feed | .feedLeavesRange feed => decide (feed < 2)
  | .thermalTrip die => decide (die < 26)
  | .sessionInit | .sessionConfirm | .sessionHalfOpenExpiry _ | .sessionIdleExpiry _ | .sessionClose | .ping |
  .ownerClaim | .ownerRelease | .sessionList | .identity | .certRead | .attest | .regRead | .regWrite _ |
  .regWriteMasked _ | .memRead _ | .memWrite | .memFill | .memCopy | .memDigest | .partitionSet | .partitionGet |
  .qpCreate | .qpDestroy | .destTableLoad | .programLoad | .programUnload | .ttWrite | .ttRemove | .ttRead |
  .stepParam | .stepControlResume | .stepControlHalt | .stepControlSeal | .stepControlRecall | .stepStatus | .clamp |
  .unclamp | .ledgerIndex | .ledgerRead | .ledgerPin | .fieldTest _ | .twinSend | .twinReceive | .twinAdopt |
  .ckptCut | .checkpointRelease | .ckptRetry | .restoreImage | .journalSummary | .journalRead | .journalCompact |
  .journalCompactionEnd | .snapshotNow | .snapshotRead | .traceOff | .traceOn | .traceFreeze | .traceClear |
  .traceRead | .telemetryRead | .pwrStatus | .pwrCap | .resetCore | .resetCluster | .resetComputeDie |
  .resetCarcassRouter | .resetCarcassMemory | .resetBench | .coldReset | .imageWrite | .imageCommit _ |
  .resetStatus | .jobKeyInstall | .jobKeyErase | .alarmStatus | .alarmClear | .notBeforeExecute _ _ _ |
  .notBeforeLockTimeout | .longOperationEnd _ _ | .captureEnd _ | .fingerprintCompare _ | .throttleRecovery |
  .portTnAdmit | .retrain | .ftLock | .ftSourceLost | .ftHoldoverExpiry | .ftEpoch | .ttCtrl | .stepOpen _ |
  .loadOpen _ | .stepOpenWindowEnd _ | .holdEntry _ | .holdEnd | .checkClose _ | .clockEntry _ | .snapshotEntry _ |
  .evalEntry _ | .evalSlotOpen | .evalSlotClose | .calLp _ | .calInl _ | .calWaitExpiry _ |
  .calibrationWindowEnd _ _ _ _ | .forcedWindow _ _ _ | .markEntry _ | .sealDeadline _ | .sealCopyResend |
  .outcomeOverdue _ | .replayOpen | .weightDigestEnd | .digestCompare | .drawerCarveDone | .memDrwCarve |
  .scrubRequest _ _ | .coreWringBase | .coreWringCtrl | .coreWringPtr | .netCringBase | .netCringCtrl |
  .netCringPtr | .netSqPtr | .netChip | .netGeometry | .netThrottle | .netBridge | .stepRetainCtrl | .benchHang _ |
  .romTimer | .routerIngressClose | .routerAssert | .bootStageEnd _ | .powerGood | .powerFail | .darkFtReached |
  .powerFailRailsOff | .coldResetN _ _ | .thermalTripClear | .svcEn _ | .powerEvaluation _ | .alarmTrigger _ _ _ |
  .wipeEnd | .noticeUdpRepeat | .glueUpWriteEnd | .objectWriteFail _ _ | .twinTransferEnd | .twinDigestEnd |
  .restoreHeaderPassEnd _ | .restorePayloadPassEnd _ | .auxiliaryInputChange _ | .powerFailNotice |
  .snapshotComplete _ => true

end Sys2Proof
end

