-- ==== Sys2Proof/Safety.lean ====
section
/-! DEFINITION. What counts as a safe run, and the words the statements use. -/

namespace Sys2Proof.Machine

/-- Memory in its one canonical form: addresses strictly rise and no listed byte is zero, which is what an unlisted byte
reads as; likewise the difference patterns of its granules. -/
def Memory.wf (m : Memory) : Bool := tabWf 0 m.bytes && tabWf 0 m.errors

/-- A state whose sparse stores stand in their one form: memory, and the bank of register bits. -/
def State.canonical (s : State) : Bool := s.mem.wf && keysRise s.regs

/-- A step of the block is safe if it answers a next state: the block never stops on a well-formed command. -/
def stepSafe (s : State) : Prop := ∃ t, step s = .next t

/-! ### A command that executes -/

/-- `c` is at the head of the execution order (R423) with this opcode, the Bench runs and the module is command-ready, its
outcome record finds room (R449, R451), it is in time (R421), and none of the refusals common to all opcodes meets it
(R420 order 12, R428, R441, R485, R486, R505). -/
def State.takes (s : State) (c : OpenCmd) (opcode : Nat) : Bool :=
  decide (s.front = some c) && c.opcode == opcode && s.benchUp && s.boot.commandReady && s.journal.fits 0 && !s.tooLate c &&
    (s.commonRefusal c.session opcode c.params).isNone

/-- The state in which it executes: its trace entry is written (R526). -/
def State.begun (s : State) (c : OpenCmd) : State := s.trace benchRing 0x0030 c.opcode c.jseq

/-- `c` executes with this opcode, in the state `u`. -/
def State.executes (s : State) (c : OpenCmd) (opcode : Nat) (u : State) : Prop := s.takes c opcode = true ∧ u = s.begun c

/-- `c` is a register write that executes with these pairs of address, mask and value, none of which refuses (R432). -/
def State.writes (s : State) (c : OpenCmd) (u : State) (pairs : List (Nat × Word × Word)) : Prop :=
  ∃ opcode, (opcode = 0x0201 ∨ opcode = 0x0202) ∧ s.executes c opcode u ∧ pairs = writeTriples opcode c.params ∧
    ∀ p ∈ pairs, u.pairRefusal p.1 p.2.1 p.2.2 = none

/-- Some pair of a register write names the register. -/
def names (pairs : List (Nat × Word × Word)) (r : Reg) : Prop := ∃ p ∈ pairs, Reg.ofAddr p.1 = some r

/-- The state once a command that made `t` has ended with OK and reply data, and `post` has followed its reply (R417, R422,
R426, R449). -/
def State.ended (t : State) (c : OpenCmd) (data : List Byte) (post : State → State) : State :=
  State.conclude c false (doneThen t data post)

/-- The state once a command has been refused with a status, with no effect but its record and reply (R427, R561). -/
def State.turnedAway (u : State) (c : OpenCmd) (st : Status) (data : List Byte) : State :=
  State.conclude c false (refuseWith u st data)

/-- The state once a command that made `t` has started the long operation `op`, been answered ACCEPTED, and `post` has
followed (R422). -/
def State.started (t : State) (c : OpenCmd) (op : LongOp) (post : State → State) : State :=
  State.conclude c false ⟨.start op, t, post⟩

/-! ### An occurrence that falls -/

/-- Entry `i` of the timetable has this action, and its occurrence `k`, due at the FT `d`, is the next to fire of an armed
timetable that the Bench serves (R257, R258); `x` is the entry with the occurrence behind it, `t` the state that holds it. -/
def State.fallsNow (s : State) (i action : Nat) (t : State) (x : TTSlot) (d k : Nat) : Prop :=
  ∃ y j, tabFind s.table.slots i = some y ∧ s.nextFiring = some (d, action, j) ∧ j = i ∧ s.armed = true ∧ s.benchServes = true ∧
    d ≤ s.ft.toNat ∧ k = y.next ∧ x = { y with next := y.next + 1 } ∧ t = s.setSlot i x

/-! ### An instruction that runs -/

/-- Core `c` holds the item `it`, which may issue, and its next instruction is `i`, with this opcode, neither poisoned nor
reserved (R139, R142, R185); `t` is the state once it has been fetched. -/
def State.atOp (s : State) (c op : Nat) (t : State) (it : Item) (i : Ins) : Prop :=
  c < 384 ∧ (s.core c).item = some it ∧ s.issues c it = true ∧ s.fetchStatus it.pc = .ok ∧
    (s.checkRange it.pc 16).firstPoison it.pc 16 = none ∧ i = it.parse ((s.checkRange it.pc 16).bytesAt it.pc 16) ∧
    i.bad = false ∧ i.op = op ∧ t = (s.checkRange it.pc 16).account (.core c) it.pc 16 false

end Sys2Proof.Machine
end

