-- ==== Sys2Proof/Certificates/Slice0/Obligations.lean ====
section
/-! DEFINITION. The statements for the provers. One statement names the rows of one shape; each clause says where a row
completes, or ends with a refusal that the spec describes, and what state follows. -/

open Sys2Proof
open Sys2Proof.Machine

/-- One step takes the front of the queue. The queue and the tick on an empty one are the model's choice (assumption log 1). -/
def Obligations.StepRunsTheFrontCommand : Prop :=
  (∀ (i : Instr) (s : State), step { s with pending := i :: s.pending } = exec i s) ∧
  (∀ (i : Instr) (rest : List Instr) (s : State), s.pending = i :: rest → step s = exec i { s with pending := rest }) ∧
  (∀ s : State, s.pending = [] → step s = .next s.tick)

/-- The canonical form is an invariant of the step. -/
def Obligations.StepKeepsCanonical : Prop := ∀ s t : State, s.canonical = true → step s = .next t → t.canonical = true

/-- exec leaves the queue alone. -/
def Obligations.CommandsKeepTheQueue : Prop :=
  ∀ (i : Instr) (s t : State), s.canonical = true → exec i s = .next t → t.pending = s.pending

/-- The reset state: the invariant holds in it, and the reset values of the register tables. -/
def Obligations.ResetHoldsTheSpecsValues : Prop :=
  (
    State.reset.canonical = true ∧ State.reset.pending = [] ∧ State.reset.cmds.opened = [] ∧ State.reset.cmds.sessions = [] ∧
      State.reset.cmds.owner = none ∧ State.reset.mem.bytes = [] ∧ State.reset.mem.errors = [] ∧ State.reset.steps.opened = [] ∧
      State.reset.boot.commandReady = false ∧ State.reset.boot.trainingReady = false ∧ stepSafe State.reset) ∧
  (
    (∀ p ∈ ([(.resetCtrl, 0, 16, 100), (.resetCtrl, 16, 16, 200), (.resetCtrl, 32, 16, 1000), (.resetCtrl, 48, 16, 2000),
        (.hangCtrl, 0, 8, 10), (.hangCtrl, 8, 8, 2), (.hangCtrl, 16, 8, 1), (.hangCtrl, 24, 8, 50), (.hangCtrl, 32, 3, 7), (.hangCtrl, 35, 29, 0),
        (.memCalCtrl, 0, 8, 200), (.memCalCtrl, 8, 8, 100), (.memCalCtrl, 16, 1, 1), (.memScrubCtrl, 0, 1, 1), (.memScrubCtrl, 8, 8, 1),
        (.memScrubCtrl, 16, 8, 24), (.memDrwCarve, 0, 6, 0x0F), (.memDrwCarve, 8, 3, 1), (.memDrwCarve, 24, 1, 0), (.sqCtrl, 0, 9, 4),
        (.sqSealCtrl, 0, 16, 3), (.sqSealCtrl, 16, 16, 200), (.sqSealCtrl, 32, 8, 3), (.sqSealCtrl, 40, 16, 5), (.retainCtrl, 0, 2, 1),
        (.pwrCapModule, 0, 16, 3800), (.pwrThermal, 0, 8, 100), (.pwrThermal, 8, 7, 4), (.ttCtrl, 0, 1, 0)] : List (Reg × Nat × Nat × Nat)),
      field (State.reset.readReg p.1) p.2.1 p.2.2.1 = p.2.2.2))

/-- exec is total on well-formed commands, and stops by name on the others. -/
def Obligations.WellFormedCommandsAlwaysRun : Prop :=
  ∀ (i : Instr) (s : State),
    (i.wellFormed = true → ∃ t, exec i s = .next t) ∧ (i.wellFormed = false → exec i s = .fault .noSuchUnit)

/-- Commands that only read (R429, R436, …). -/
def Obligations.QueriesChangeNothing : Prop :=
  ∀ (i : Instr) (s : State), i ∈ ([.ping, .sessionList, .identity, .certRead, .attest, .regRead, .partitionGet, .ttRead, .stepStatus,
      .ledgerIndex, .ledgerRead, .journalSummary, .journalRead, .snapshotRead, .traceRead, .telemetryRead, .pwrStatus, .resetStatus,
      .alarmStatus] : List Instr) →
    ∃ t, exec i s = .next t ∧ t = { s with
      outbox := t.outbox, journal := t.journal, notices := t.notices, cmds := t.cmds, speas := t.speas, obs := t.obs
      longOps := t.longOps }

/-- R9, whole. -/
def Obligations.UndefinedRegistersRefuse : Prop :=
  (∀ (a : Nat) (r : Reg), Reg.ofAddr a = some r → a % 8 = 0) ∧
  (∀ (s : State) (r : Reg), (s.readReg r).toNat < 2 ^ 64) ∧
  (∀ (s u : State) (c : OpenCmd) (k : Nat), s.executes c 0x0200 u → k < uAt c.params 0 4 →
    (uAt c.params (8 + 8 * k) 8 % 8 ≠ 0 ∨ Reg.ofAddr (uAt c.params (8 + 8 * k) 8) = none) →
    ∃ t, exec .regRead s = .next t ∧ t = u.turnedAway c .badParam [] ∧ t.regs = s.regs ∧ t.mem = s.mem) ∧
  (∀ (s u : State) (c : OpenCmd) (opcode k a : Nat) (mask value : Word) (before after : List (Nat × Word × Word))
      (sets : List (Nat × Word)),
    ({ s with colliding := sets } : State).executes c opcode u → (opcode = 0x0201 ∨ opcode = 0x0202) →
    writeTriples opcode c.params = before ++ (a, mask, value) :: after → k = before.length →
    (∀ p ∈ before, u.pairRefusal p.1 p.2.1 p.2.2 = none) → (a % 8 ≠ 0 ∨ Reg.ofAddr a = none) →
    ∃ t, exec (if opcode = 0x0201 then .regWrite sets else .regWriteMasked sets) s = .next t.uncollide.settle ∧
      t = u.turnedAway c .badParam (le 4 k) ∧ t.regs = s.regs ∧ t.mem = s.mem)

/-- What meets every command row before its own meaning. -/
def Obligations.CommonRefusalsHaveNoEffect : Prop :=
  ∀ (s : State) (c : OpenCmd) (opcode : Nat) (f : OpenCmd → State → Result),
    (s.front = none → s.run opcode f = s) ∧
    (s.front = some c → c.opcode ≠ opcode → s.run opcode f = s) ∧
    (s.front = some c → c.opcode = opcode → s.benchUp = true → s.boot.commandReady = true →
      (s.journal.fits 0 = false → s.run opcode f = { s with journal := { s.journal with ringFull := true } }) ∧
      (s.journal.fits 0 = true → s.tooLate c = true → ∃ t, s.run opcode f = t ∧ t = s.finish c .deadline [] ∧
        t.regs = s.regs ∧ t.mem = s.mem ∧ t.steps = s.steps ∧ t.security = s.security ∧ t.pending = s.pending) ∧
      (s.journal.fits 0 = true → s.tooLate c = false → s.halfOpenBad c.session opcode = false → s.boot.trainingReady = false →
        s.boot.stopStatus ≠ .clamped →
        (opcode / 256 ∈ [3, 5, 6, 7, 9] → ∃ t, s.run opcode f = t ∧ t = (s.begun c).turnedAway c .busy [] ∧
          t.regs = s.regs ∧ t.mem = s.mem ∧ t.steps = s.steps ∧ t.security = s.security ∧ t.pending = s.pending) ∧
        (∀ k, (opcode = 0x0201 ∨ opcode = 0x0202) → (writeAddresses opcode c.params).findIdx? gatedBlock = some k →
          ∃ t, s.run opcode f = t ∧ t = (s.begun c).turnedAway c .busy (le 4 k) ∧
          t.regs = s.regs ∧ t.mem = s.mem ∧ t.steps = s.steps ∧ t.security = s.security ∧ t.pending = s.pending)))

/-- SESSION_CLOSE, PING and SESSION_LIST complete (R424, R429). -/
def Obligations.LinkCommandsComplete : Prop :=
  ∀ (s u : State) (c : OpenCmd),
    (s.executes c 0x0003 u → exec .sessionClose s = .next (u.ended c [] fun t => t.closeSession c.session)) ∧
    (s.executes c 0x0004 u → exec .ping s = .next (u.ended c (slice c.params 0 8 ++ le 8 s.ft.toNat) id)) ∧
    (s.executes c 0x0007 u → exec .sessionList s = .next (u.ended c
      (le 4 s.openSessions.length ++ s.openSessions.flatMap fun x =>
        le 4 x.id ++ le 1 x.port ++ le 1 (if s.cmds.owner = some x.id then 1 else 0) ++ le 2 x.principal ++
          le 8 x.openedFt.toNat) id))

/-- OWNER_CLAIM in its three cases and otherwise, and OWNER_RELEASE (R425). -/
def Obligations.OwnershipChanges : Prop :=
  ∀ (s u : State) (c : OpenCmd) (x o : Session) (e : Sys2Proof.PrincipalEntry),
    (s.executes c 0x0005 u → u.session c.session = some x → u.principal c.principal = some e → e.ownerAllowed = true →
      (u.ownerSession = none →
        exec .ownerClaim s = .next (State.ended { u with cmds := { u.cmds with owner := some c.session } } c (le 4 0)
          fun t => t.emit (sessionEvent c.session 2))) ∧
      (u.ownerSession = some o → o.id = c.session →
        exec .ownerClaim s = .next (State.ended { u with cmds := { u.cmds with owner := some c.session } } c (le 4 o.id) id)) ∧
      (u.ownerSession = some o → o.id ≠ c.session → o.principal = c.principal → uAt c.params 0 1 = 1 →
        exec .ownerClaim s = .next (State.ended { u with cmds := { u.cmds with owner := some c.session } } c (le 4 o.id)
          fun t => (t.emit (sessionEvent o.id 3)).emit (sessionEvent c.session 2))) ∧
      (u.ownerSession = some o → o.id ≠ c.session → (o.principal ≠ c.principal ∨ uAt c.params 0 1 ≠ 1) →
        exec .ownerClaim s = .next (u.turnedAway c .notOwner []))) ∧
    (s.executes c 0x0006 u → u.cmds.owner = some c.session →
      exec .ownerRelease s = .next (State.ended { u with cmds := { u.cmds with owner := none } } c []
        fun t => t.emit (sessionEvent c.session 3)))

/-- OWNER_CLAIM from a principal whose OWNER_ALLOWED is 0 completes with NOT_OWNER (R506). -/
def Obligations.ClaimNeedsOwnerAllowed : Prop :=
  ∀ (s u : State) (c : OpenCmd) (e : Sys2Proof.PrincipalEntry),
    s.executes c 0x0005 u → u.principal c.principal = some e → e.ownerAllowed = false →
      exec .ownerClaim s = .next (u.turnedAway c .notOwner [])

/-- The handshake and the expiries of a session (R424, R503, R505). -/
def Obligations.SessionsOpenAndExpire : Prop :=
  ∀ (s u : State) (c : OpenCmd) (x : Session) (e : Sys2Proof.PrincipalEntry) (n : Nat),
    (s.executes c 0x0001 u → u.principal (uAt c.params 0 2) = some e → u.security.noIdentity = false →
      (u.cmds.sessions.filter (·.port == c.port)).length < 4 →
      ∃ y data, exec .sessionInit s = .next (State.ended
          { u with cmds := { u.cmds with sessions := u.cmds.sessions ++ [y], lastSession := u.cmds.lastSession + 1 } } c data id) ∧
        y.id = u.cmds.lastSession + 1 ∧ y.port = c.port ∧ y.principal = uAt c.params 0 2 ∧ y.confirmed = false ∧
        data.take 8 = le 4 y.id ++ zeros 4) ∧
    (s.executes c 0x0002 u → u.session c.session = some x → c.facts.keyOk = true → c.facts.sigOk = true →
      exec .sessionConfirm s = .next (State.ended (u.setSession { x with confirmed := true, openedFt := u.ft }) c []
        fun t => (t.emit (sessionEvent x.id 0)).releaseHeld)) ∧
    (s.executes c 0x0002 u → u.session c.session = some x → (c.facts.keyOk && c.facts.sigOk) = false →
      exec .sessionConfirm s = .next (State.conclude c false
        ⟨.reply .badTag [], u.authFail, fun t => t.closeSession x.id⟩)) ∧
    (s.session n = some x → x.confirmed = false → x.initAt + ticksS 1 ≤ s.now →
      exec (.sessionHalfOpenExpiry n) s = .next (s.closeSession n)) ∧
    (s.session n = some x → x.lastAt + ticksS (s.rf .cmdCtrl 0 16) ≤ s.now →
      exec (.sessionIdleExpiry n) s = .next (s.closeSession n))

/-- IDENTITY, CERT_READ, ATTEST, RESET_STATUS and ALARM_STATUS complete (R430, R443, R495, R511). -/
def Obligations.IdentityQueriesComplete : Prop :=
  ∀ (s u : State) (c : OpenCmd),
    (s.executes c 0x0100 u → exec .identity s = .next (u.ended c
      (le 8 (u.readReg .moduleId).toNat ++ le 8 (u.readReg .serial).toNat ++ u.keyDigest ++ le 4 u.certLength) id)) ∧
    (s.executes c 0x0101 u → uAt c.params 0 4 + uAt c.params 4 4 ≤ u.certLength →
      exec .certRead s = .next (u.ended c (u.norBytes ((norRegion 6).1 + uAt c.params 0 4) (uAt c.params 4 4)) id)) ∧
    (s.executes c 0x0102 u → exec .attest s = .next (u.ended c
      (u.measurementLog (slice c.params 0 32) ++ u.deviceSign (u.measurementLog (slice c.params 0 32)) (ascii "ZW24-ATTEST")) id)) ∧
    (s.executes c 0x0B04 u → exec .resetStatus s = .next (u.ended c u.tags.bytes id)) ∧
    (s.executes c 0x0F02 u → exec .alarmStatus s = .next (u.ended c u.alarmRecord id))

/-- IMAGE_WRITE and IMAGE_COMMIT (R497, R501). -/
def Obligations.ImageUpdates : Prop :=
  ∀ (s u : State) (c : OpenCmd) (v : List Byte),
    (s.executes c 0x0B02 u → uAt c.params 0 1 < 6 → uAt c.params 4 4 + uAt c.params 8 4 ≤ (norRegion (uAt c.params 0 1)).2 →
      (u.runningRegions.contains (uAt c.params 0 1) = false →
        exec .imageWrite s = .next (State.ended
          { u with security := { u.security with
              nor := norWrite u.security.nor ((norRegion (uAt c.params 0 1)).1 + uAt c.params 4 4)
                (slice c.params 16 (uAt c.params 8 4)) } } c [] id)) ∧
      (u.runningRegions.contains (uAt c.params 0 1) = true → exec .imageWrite s = .next (u.turnedAway c .busy []))) ∧
    (s.executes c 0x0B02 u → (6 ≤ uAt c.params 0 1 ∨ (norRegion (uAt c.params 0 1)).2 < uAt c.params 4 4 + uAt c.params 8 4) →
      exec .imageWrite s = .next (u.turnedAway c .badParam [])) ∧
    (s.executes c 0x0B03 u → uAt c.params 0 1 < 6 →
      exec (.imageCommit v) s = .next (u.started c (.imageCommit (uAt c.params 0 1) v) id))

/-- JOB_KEY_INSTALL and JOB_KEY_ERASE (R508). -/
def Obligations.KeysInstallAndErase : Prop :=
  ∀ (s u : State) (c : OpenCmd) (slot : Nat) (k : Nat × JobKey),
    (s.executes c 0x0F00 u → zeroFrom c.params 68 72 = true → uAt c.params 0 4 = noticeKeyId →
      (c.facts.unwrapOk = true →
        exec .jobKeyInstall s = .next (State.ended
          { u with security := { u.security with noticeKey := some (exactly 32 c.facts.key) } } c [] State.releaseHeld)) ∧
      (c.facts.unwrapOk = false → exec .jobKeyInstall s = .next (u.authFail.turnedAway c .badTag []))) ∧
    (s.executes c 0x0F00 u → zeroFrom c.params 68 72 = true → uAt c.params 0 4 ≠ noticeKeyId →
      u.security.keys.any (fun k => k.2.id == uAt c.params 0 4) = false → u.freeSlot = some slot →
      (c.facts.unwrapOk = true → u.security.highestKey < uAt c.params 0 4 →
        exec .jobKeyInstall s = .next (State.ended
          { u with
            security := { u.security with
              keys := tabPut u.security.keys slot { id := uAt c.params 0 4, key := exactly 32 c.facts.key, restoreOnly := false }
              active := some slot, highestKey := uAt c.params 0 4, highestCheck := u.jobKeyCheck (exactly 32 c.facts.key) }
            ckpt := { u.ckpt with underKey := 0 } } c [] id)) ∧
      (c.facts.unwrapOk = false → exec .jobKeyInstall s = .next (u.authFail.turnedAway c .badTag []))) ∧
    (s.executes c 0x0F01 u → uAt c.params 0 4 ≠ noticeKeyId →
      u.security.keys.find? (fun k => k.2.id == uAt c.params 0 4) = some k →
      exec .jobKeyErase s = .next (State.ended
        { u with security := { u.security with
            keys := tabDel u.security.keys k.1
            active := if u.security.active = some k.1 then none else u.security.active } } c [] id)) ∧
    (s.executes c 0x0F01 u → uAt c.params 0 4 = noticeKeyId → u.security.noticeKey.isSome = true →
      exec .jobKeyErase s = .next (State.ended { u with security := { u.security with noticeKey := none } } c [] id))

/-- The alarm's trigger, wipe and clearing (R512, R513, R515; what ALARM_CLEAR clears beside the level, the source bits and
the authentication count is assumption log 51). -/
def Obligations.AlarmActsAndClears : Prop :=
  ∀ (s u : State) (c : OpenCmd) (src : BitVec 7) (sensor reading : BitVec 16),
    (s.standby = true → s.levelOf (s.watched src) ≤ s.security.level →
      exec (.alarmTrigger src sensor reading) s = .next s.settle) ∧
    (s.standby = true → s.security.level < s.levelOf (s.watched src) → s.power.rails = .on →
      exec (.alarmTrigger src sensor reading) s = .next
        (let level := s.levelOf (s.watched src)
         let a := s.latchAlarm (s.watched src) level sensor reading
         let e := event 0x0004 .fault .alarm a.alarmRecord
         let b := if level = 3 then a.alarmUntagged e else a.emit e
         let d := if 2 ≤ level then b.alarmActions else b
         (if level = 3 then d.burnHelper else d)).settle) ∧
    (2 ≤ s.security.level → s.security.wipeDone = false → s.power.rails = .on →
      exec .wipeEnd s = .next { s with
        mem := { s.mem with bytes := [], errors := [], drawers := [] }
        square := { s.square with ledger := [] }
        security := { s.security with wipeDone := true, wipeFt := s.ft } }) ∧
    (s.executes c 0x0F03 u → 1 ≤ uAt c.params 0 1 → uAt c.params 0 1 ≤ 2 → u.security.level ≤ uAt c.params 0 1 →
      (u.security.level = 2 → u.security.wipeDone = true) →
      exec .alarmClear s = .next (State.ended
        { u with
          security := { u.security with level := 0, eventLevel := 0, sources := 0, firstFt := 0, wipeFt := 0
                                        wipeDone := false, sensor := 0, reading := 0 }
          cmds := { u.cmds with authFailures := [] } } c [] id)) ∧
    (s.executes c 0x0F03 u → uAt c.params 0 1 < u.security.level → exec .alarmClear s = .next (u.turnedAway c .badParam []))

/-- REG_READ, REG_WRITE and REG_WRITE_MASKED (R431, R432, R561). -/
def Obligations.RegistersReadAndWritten : Prop :=
  ∀ (s u : State) (c : OpenCmd) (rs : List Reg) (pairs : List (Nat × Word × Word)) (pre post : List (Nat × Word × Word))
      (p : Nat × Word × Word) (st : Status) (sets : List (Nat × Word)) (z : State), z = { s with colliding := sets } →
    (s.executes c 0x0200 u →
      ((List.range (uAt c.params 0 4)).map fun i => Reg.ofAddr (uAt c.params (8 + 8 * i) 8)) = rs.map some →
      exec .regRead s = .next (u.ended c (rs.flatMap fun r => le 8 (u.readReg r).toNat) id)) ∧
    (s.executes c 0x0200 u → (∃ i < uAt c.params 0 4, Reg.ofAddr (uAt c.params (8 + 8 * i) 8) = none) →
      exec .regRead s = .next (u.turnedAway c .badParam [])) ∧
    (z.writes c u pairs → c.opcode = 0x0201 →
      exec (.regWrite sets) s = .next (State.ended (u.writePairs pairs) c (le 4 0xFFFFFFFF) id).uncollide.settle) ∧
    (z.writes c u pairs → c.opcode = 0x0202 →
      exec (.regWriteMasked sets) s = .next (State.ended (u.writePairs pairs) c (le 4 0xFFFFFFFF) id).uncollide.settle) ∧
    (z.executes c c.opcode u → writeTriples c.opcode c.params = pre ++ p :: post →
      (∀ q ∈ pre, u.pairRefusal q.1 q.2.1 q.2.2 = none) → u.pairRefusal p.1 p.2.1 p.2.2 = some st →
      (c.opcode = 0x0201 → exec (.regWrite sets) s = .next (u.turnedAway c st (le 4 pre.length)).uncollide.settle) ∧
      (c.opcode = 0x0202 → exec (.regWriteMasked sets) s = .next (u.turnedAway c st (le 4 pre.length)).uncollide.settle))

/-- The rows of single registers complete (R10, R432). -/
def Obligations.RegisterRowsComplete : Prop :=
  ∀ (s u t : State) (c : OpenCmd) (pairs : List (Nat × Word × Word)),
    s.writes c u pairs → t = (State.ended (u.writePairs pairs) c (le 4 0xFFFFFFFF) id).settle →
    ((∃ n, names pairs (.portAdmit n)) → exec .portTnAdmit s = .next t) ∧
    ((∃ n, ∃ p ∈ pairs, Reg.ofAddr p.1 = some (.portAdmit n) ∧ field (p.2.1 &&& p.2.2) 23 1 = 1) → exec .retrain s = .next t) ∧
    (names pairs .ftEpoch → exec .ftEpoch s = .next t) ∧
    (names pairs .ttCtrl → exec .ttCtrl s = .next t) ∧
    (names pairs .memDrwCarve → exec .memDrwCarve s = .next t) ∧
    ((∃ core ring, names pairs (.wringBase core ring)) → exec .coreWringBase s = .next t) ∧
    ((∃ core ring, names pairs (.wringCtrl core ring)) → exec .coreWringCtrl s = .next t) ∧
    ((∃ core ring, names pairs (.wringPtr core ring)) → exec .coreWringPtr s = .next t) ∧
    ((∃ n, names pairs (.cringBase n)) → exec .netCringBase s = .next t) ∧
    ((∃ n, names pairs (.cringCtrl n)) → exec .netCringCtrl s = .next t) ∧
    ((∃ n, names pairs (.cringPtr n)) → exec .netCringPtr s = .next t) ∧
    ((∃ q, names pairs (.netSqPtr q)) → exec .netSqPtr s = .next t) ∧
    (names pairs .netChip → exec .netChip s = .next t) ∧
    (names pairs .netGeometry → exec .netGeometry s = .next t) ∧
    (names pairs .netThrottle → exec .netThrottle s = .next t) ∧
    ((∃ d, names pairs (.netBridge d)) → exec .netBridge s = .next t) ∧
    (names pairs .retainCtrl → exec .stepRetainCtrl s = .next t)

/-- One pair of a register write on a register without a write effect of its own, and what it reads as after (R10 to R12). -/
def Obligations.RegisterHoldsItsWrite : Prop :=
  ∀ (s : State) (r q : Reg) (a : Nat) (mask value : Word), s.canonical = true → Reg.ofAddr a = some r →
    (match r with
      | .ftEpoch | .ttCtrl | .portAdmit _ | .wringPtr _ _ | .netSqPtr _ | .cringPtr _ | .memDrwCarve | .netBridge _
      | .noticeCtrl | .ftCtrl => False
      | _ => True) →
    ∃ t, s.writePairs [(a, mask, value)] = t ∧
      t.reg r = r.norm ((((s.reg r &&& ~~~(value &&& mask &&& r.w1c)) ||| (((tabFind s.colliding r.addr).getD 0) &&& r.w1c)) &&&
        ~~~(r.writable &&& mask)) ||| (value &&& (r.writable &&& mask))) ∧
      (q.addr ≠ r.addr → t.reg q = s.reg q) ∧ (∀ i, t.byte i = s.byte i) ∧
      t.readReg r = ((t.reg r &&& (r.writable ||| r.w1c)) ||| t.hardware r)

/-- R534, whole. -/
def Obligations.CounterRegistersReadLive : Prop :=
  ∀ i : Nat, i < 1208 →
    Reg.ofAddr (0x020000000000 + 0x17 * 0x1000000 + 0x10000 + 8 * i) = some (.cntValue i) ∧
    Reg.writable (.cntValue i) = 0 ∧ Reg.w1c (.cntValue i) = 0 ∧ Reg.domain (.cntValue i) = .cold ∧
    State.reset.readReg (.cntValue i) = 0 ∧
    (∀ s : State, s.readReg (.cntValue i) = if i = 0 then s.ft else if i = 1 then 0 else if i = 2 then word s.fabric.partition.generation
      else if i = 3 then 0 else tabGet 0 s.obs.counters i) ∧
    (∀ (s u : State) (c : OpenCmd), s.executes c 0x0200 u → uAt c.params 0 4 = 1 →
      uAt c.params 8 8 = 0x020000000000 + 0x17 * 0x1000000 + 0x10000 + 8 * i →
      exec .regRead s = .next (u.ended c (le 8 (u.readReg (.cntValue i)).toNat) id))

/-- R67, for counts that their fields hold. -/
def Obligations.EngineStatusAgrees : Prop :=
  ∀ (s : State) (e : Nat) (x : EngineState) (w : Word), x = s.engine e → w = s.readReg (.engStatus e) →
    field w 0 6 = x.width ∧ field w 6 2 = 0 ∧ field w 16 16 = 0 ∧
    (∀ p, p < 32 → w.getLsbD (32 + p) = (x.manufacturing.getLsbD p || x.boot.getLsbD p)) ∧
    field w 0 6 + ones (x.manufacturing ||| x.boot) = 32 ∧
    (ones (x.manufacturing ||| x.boot) ≤ 15 →
      field w 8 4 = ones x.manufacturing ∧ field w 8 4 + field w 12 4 = 32 - field w 0 6)

/-- MEM_READ, MEM_FILL, MEM_COPY, MEM_DIGEST, DRAWER_CARVE_DONE and SCRUB_REQUEST (R174, R182, R184, R190, R196, R433, R561). -/
def Obligations.MemoryRowsComplete : Prop :=
  (
    ∀ (s u : State) (c : OpenCmd) (errs : Sys2Proof.BitErrors) (a b n : Nat) (st : Status),
      (s.executes c 0x0300 u → a = uAt c.params 0 8 → n = uAt c.params 8 4 → u.memoryRefusal [(a, n)] [] = none →
        ∃ v : State, v = (u.hit errs).fetch .bench a n ∧
          (∀ g, v.firstPoison a n = some g → exec (.memRead errs) s = .next (v.unhit.turnedAway c .poison (le 8 g)).settle) ∧
          (v.firstPoison a n = none → exec (.memRead errs) s = .next (State.ended v.unhit c (v.bytesAt a n) id).settle)) ∧
      (s.executes c 0x0302 u → a = uAt c.params 0 8 → n = uAt c.params 8 8 → u.memoryRefusal [] [(a, n)] = none →
        exec .memFill s = .next (if u.memoryOps < 4 then u.started c (.memFill a n (slice c.params 16 16)) id
          else u.turnedAway c .noResource [])) ∧
      (s.executes c 0x0303 u → b = uAt c.params 0 8 → a = uAt c.params 8 8 → n = uAt c.params 16 8 →
        u.memoryRefusal [(a, n)] [(b, n)] = none →
        exec .memCopy s = .next (if u.memoryOps < 4 then u.started c (.memCopy b a n) id else u.turnedAway c .noResource [])) ∧
      (s.executes c 0x0304 u → a = uAt c.params 0 8 → n = uAt c.params 8 8 → u.memoryRefusal [(a, n)] [] = none →
        exec .memDigest s = .next (if u.memoryOps < 4 then u.started c (.memDigest a n) id else u.turnedAway c .noResource [])) ∧
      (s.executes c 0x0301 u → a = uAt c.params 0 8 → n = uAt c.params 8 4 → u.memoryRefusal [] [(a, n)] = some st →
        exec .memWrite s = .next (u.turnedAway c st []).settle)) ∧
  (
    ∀ (s t : State) (a unit : Nat) (errs : BitErrors),
      (exec .drawerCarveDone s = .next { s with mem := { s.mem with carveBusy := false } }) ∧
      (s.scrubMay a = false → exec (.scrubRequest a errs) s = .next s.settle) ∧
      (s.scrubMay a = true → t = s.hit errs → unit = (t.scrubChannel a).2.1 →
        ((granulesOf a 64).find? fun g => t.mem.isPoisoned g && t.inSealed g) = none →
        ((t.scrubChannel a).1 = .inlay →
          exec (.scrubRequest a errs) s = .next (State.settle (State.unhit (State.checkRange (t.count (772 + 2 * unit) 64) a 64)))) ∧
        ((t.scrubChannel a).1 = .lpddr6 →
          exec (.scrubRequest a errs) s = .next (State.settle (State.unhit (State.checkRange (t.count (1088 + 2 * unit) 64) a 64))))))

/-- MEM_WRITE: completion, the bytes it stores, and its frame (R169, R188, R433). -/
def Obligations.MemWriteStoresItsBytes : Prop :=
  ∀ (s u : State) (c : OpenCmd) (a n : Nat), s.canonical = true → s.executes c 0x0301 u →
    a = uAt c.params 0 8 → n = uAt c.params 8 4 → n = (slice c.params 16 n).length →
    u.memoryRefusal [] [(a, n)] = none →
    ∃ t : State, exec .memWrite s = .next t.settle ∧
      (∀ i (h : i < (slice c.params 16 n).length), t.byte (a + i) = (slice c.params 16 n)[i]) ∧
      (∀ x, (x < a ∨ a + n ≤ x) → (granule x ∉ partialGranules a n ∨ s.mem.diff (granule x) = 0 ∨
        s.mem.diff (granule x) = poisonPattern) → t.byte x = s.byte x) ∧
      (∀ g, g ∈ granulesOf a n → g ∉ partialGranules a n → t.mem.diff g = 0 ∧ decodeSyndrome (syndrome (t.mem.diff g)) = .clean) ∧
      (∀ r, r.addr ≠ Reg.memPoisonLog.addr → t.reg r = s.reg r) ∧ t.pending = s.pending

/-- Correction of single-symbol errors (R180 to R182). -/
def Obligations.CodeCorrectsOneSymbol : Prop :=
  ∀ (s : State) (g i v : Nat), s.canonical = true → i < 36 → 0 < v → v < 16 → s.mem.diff g = BitVec.ofNat 144 (v <<< (4 * i)) →
    (∀ e ∈ s.mem.inflight, e.1 ≠ .transit ∨ e.2.1 ≠ g) →
    (∀ a, (s.checkGranule g).byte a = s.byte a) ∧ (s.checkGranule g).mem.diff g = 0 ∧
    (∀ h, h ≠ g → (s.checkGranule g).mem.diff h = s.mem.diff h) ∧
    (s.checkGranule g).mem.corrected = satAdd s.mem.corrected 1 ∧
    (s.checkGranule g).regs = s.regs ∧ (s.checkGranule g).outbox = s.outbox ∧ (s.checkGranule g).pending = s.pending

/-- Round to nearest even (R46, R82, R84). -/
def Obligations.RoundsToNearestEven : Prop :=
  ∀ m k : Nat,
    2 * m ≤ 2 * (roundShift .even m k * 2 ^ k) + 2 ^ k ∧ 2 * (roundShift .even m k * 2 ^ k) ≤ 2 * m + 2 ^ k ∧
    (2 * (m % 2 ^ k) = 2 ^ k → roundShift .even m k % 2 = 0) ∧ (m % 2 ^ k = 0 → roundShift .even m k * 2 ^ k = m)

/-- Integer accumulation (R48). -/
def Obligations.IntegerSumsSaturate : Prop :=
  (∀ a b : Int, (satInt32 a b).1.toInt = max (-(2 ^ 31)) (min (2 ^ 31 - 1) (a + b)) ∧
    ((satInt32 a b).2 = true ↔ (a + b < -(2 ^ 31) ∨ 2 ^ 31 - 1 < a + b))) ∧
  (∀ (acc : BitVec 32) (g : List Val) (gs : List (List Val)) (x : BitVec 32 × Bool),
    x = satInt32 acc.toInt (g.map Val.toInt).sum →
    intChain acc (g :: gs) = ((intChain x.1 gs).1, x.2 || (intChain x.1 gs).2))

/-- PARTITION_SET, PARTITION_GET, QP_CREATE, QP_DESTROY and DEST_TABLE_LOAD (R295, R427, R428, R435; the number QP_CREATE
takes is assumption log 40). -/
def Obligations.FabricCommandsComplete : Prop :=
  ∀ (s u : State) (c : OpenCmd) (x : QueuePair) (n q first count : Nat),
    (s.executes c 0x0400 u →
      (u.partitionBad c.params = false → u.partitionBusy = false →
        exec .partitionSet s = .next (State.ended
          { u with
            fabric := { u.fabric with partition := parsePartition c.params }
            twin := u.twin.under (parsePartition c.params) u.chip } c [] id).settle) ∧
      (u.partitionBad c.params = true → exec .partitionSet s = .next (u.turnedAway c .badParam []).settle) ∧
      (u.partitionBad c.params = false → u.partitionBusy = true →
        exec .partitionSet s = .next (u.turnedAway c .busy []).settle)) ∧
    (s.executes c 0x0401 u → exec .partitionGet s = .next (u.ended c u.fabric.partition.bytes id)) ∧
    (s.executes c 0x0402 u → n = uAt c.params 0 1 → x = newQp c.params u.now →
      (x.windowLength ≠ 0 → inStore x.windowBase x.windowLength = false → exec .qpCreate s = .next (u.turnedAway c .badParam [])) ∧
      ((x.windowLength = 0 ∨ inStore x.windowBase x.windowLength = true) →
        (q < 4096 → (u.eth n).qps.any (·.1 == q) = false → (∀ r < q, (u.eth n).qps.any (·.1 == r) = true) →
          exec .qpCreate s = .next (State.ended (u.setEth n { u.eth n with qps := tabPut (u.eth n).qps q x }) c (le 4 q) id)) ∧
        ((∀ r < 4096, (u.eth n).qps.any (·.1 == r) = true) → exec .qpCreate s = .next (u.turnedAway c .noResource [])))) ∧
    (s.executes c 0x0403 u → n = uAt c.params 0 1 → q = uAt c.params 4 4 →
      (u.qpNamed n q = true → exec .qpDestroy s = .next (u.turnedAway c .busy [])) ∧
      (u.qpNamed n q = false → u.qp n q = none → exec .qpDestroy s = .next (u.turnedAway c .badParam [])) ∧
      (u.qpNamed n q = false → u.qp n q = some x → exec .qpDestroy s = .next (State.ended (u.setEth n { u.eth n with
        qps := tabDel (u.eth n).qps q
        ended := ((x.retained.reverse.map fun p => (p.psn, Status.timeout)) ++ x.completions).map (fun e => (q, e)) ++ (u.eth n).ended })
        c [] id))) ∧
    (s.executes c 0x0404 u → first = uAt c.params 0 4 → count = uAt c.params 4 4 →
      (first + count ≤ 131072 → (∀ i < count, word (uAt c.params (8 + 8 * i) 8) &&& ~~~(Reg.destEntry 0).writable = 0) →
        exec .destTableLoad s = .next (State.ended
          ((List.range count).foldl (fun t i => t.setReg (.destEntry (first + i)) (word (uAt c.params (8 + 8 * i) 8))) u)
          c [] id).settle) ∧
      ((131072 < first + count ∨ ∃ i < count, word (uAt c.params (8 + 8 * i) 8) &&& ~~~(Reg.destEntry 0).writable ≠ 0) →
        exec .destTableLoad s = .next (u.turnedAway c .badParam []).settle))

/-- PROGRAM_LOAD, PROGRAM_UNLOAD, TT_WRITE, TT_REMOVE, TT_READ and STEP_PARAM (R437, R438). -/
def Obligations.JobCommandsComplete : Prop :=
  ∀ (s u : State) (c : OpenCmd) (a n first count : Nat) (p : Program),
    (s.executes c 0x0500 u → a = uAt c.params 0 8 → n = uAt c.params 8 1 → u.accessStatus a 64 = .ok → u.programBusy n = false →
      exec .programLoad s = .next (u.started c (.programLoad a n) id)) ∧
    (s.executes c 0x0501 u → n = uAt c.params 0 1 → u.programBusy n = false → u.program n = some p →
      exec .programUnload s = .next (State.ended { u with
        programs := tabDel u.programs n
        hosts := if n = 0 then [] else u.hosts
        noHost := if n = 0 then [] else u.noHost } c [] id)) ∧
    (s.executes c 0x0502 u → first = uAt c.params 0 2 → count = uAt c.params 2 2 → first + count ≤ 4096 →
      (∀ j < count,
        let raw := slice c.params (8 + 32 * j) 32
        uAt raw 0x11 1 = 0 ∧ (parseEntry raw).fieldsOk = true ∧ u.guardEnd ≤ (parseEntry raw).startFt.toNat ∧
        anchorOk (fun i => if within i first (first + count - 1) then some (parseEntry (slice c.params (8 + 32 * (i - first)) 32))
          else (tabFind u.table.slots i).map (·.entry)) (parseEntry raw) = true ∧ u.entryBusy (first + j) = false) →
      exec .ttWrite s = .next (State.ended ((List.range count).foldl (fun t j =>
        t.setSlot (first + j) (freshSlot (parseEntry (slice c.params (8 + 32 * j) 32)))) u) c (le 4 0xFFFFFFFF) id)) ∧
    (s.executes c 0x0503 u → first = uAt c.params 0 2 → count = uAt c.params 2 2 → first + count ≤ 4096 →
      (∀ j < count, u.entryBusy (first + j) = false) →
      exec .ttRemove s = .next (State.ended { u with table := { u.table with
        slots := u.table.slots.filter fun e => !(decide (first ≤ e.1) && decide (e.1 < first + count)) } } c (le 4 0xFFFFFFFF) id)) ∧
    (s.executes c 0x0504 u → first = uAt c.params 0 2 → count = uAt c.params 2 2 → first + count ≤ 4096 →
      exec .ttRead s = .next (u.ended c ((upFrom first count).flatMap fun i =>
        match tabFind u.table.slots i with | some x => x.entry.bytes | none => zeros 32) id)) ∧
    (s.executes c 0x0505 u → n = uAt c.params 0 6 → uAt c.params 6 2 = 0 →
      (u.steps.sealedLetter = 3 ∨ u.steps.sealedStep < n) → (∀ m b, u.nextStep = some (m, b) → n ≤ m + 4) →
      ((tabFind u.steps.params n).isSome = true → u.step? n = none ∧ u.steps.replays.any (·.1 == n) = false) →
      ((tabFind u.steps.params n).isNone = true → u.steps.params.length < 4) →
      exec .stepParam s = .next (State.ended { u with steps := { u.steps with params := tabPut u.steps.params n c.params } } c [] id))

/-- STEP_CONTROL and STEP_STATUS (R436, R439; assumption log 36 and 37). -/
def Obligations.StepControlCompletes : Prop :=
  ∀ (s u : State) (c : OpenCmd) (o : Outcome),
    (s.executes c 0x0506 u → uAt c.params 0 1 = 0 →
      (u.stepOpen = false → u.retentionBusy = false → u.heldByCut = false →
        exec .stepControlResume s = .next (State.ended { u with steps := { u.steps with
          halted := false, next := some (uAt c.params 8 8, uAt c.params 2 1) } } c [] id).settle) ∧
      (u.heldByCut = true → u.retentionBusy = false →
        exec .stepControlResume s = .next (State.ended { u with steps := { u.steps with
          opened := u.steps.opened.map fun r => { r with cut := none } } } c [] id).settle)) ∧
    (s.executes c 0x0506 u → uAt c.params 0 1 = 1 →
      exec .stepControlHalt s = .next (u.started c .stepHalt State.haltSteps).settle) ∧
    (s.executes c 0x0506 u → uAt c.params 0 1 = 2 → o = commandOutcome c u false →
      (u.matches_ o = true → exec .stepControlSeal s = .next (u.ended c [] fun t => t.takeOutcome o 0).settle) ∧
      (u.matches_ o = false → u.arrived o = true → exec .stepControlSeal s = .next (u.ended c [] id).settle) ∧
      (u.matches_ o = false → u.arrived o = false → exec .stepControlSeal s = .next (u.turnedAway c .badParam []).settle)) ∧
    (s.executes c 0x0506 u → uAt c.params 0 1 = 3 → o = commandOutcome c u true →
      (u.matches_ o = true → exec .stepControlRecall s = .next
        (u.started c (.stepRecall o.step o.attempt o.halt o.replayFt.toNat) fun t => t.takeOutcome o 0).settle) ∧
      (u.matches_ o = false → u.arrived o = true → exec .stepControlRecall s = .next
        (u.started c (.stepRecall o.step o.attempt o.halt o.replayFt.toNat) id).settle) ∧
      (u.matches_ o = false → u.arrived o = false → exec .stepControlRecall s = .next (u.turnedAway c .badParam []).settle)) ∧
    (s.executes c 0x0507 u → exec .stepStatus s = .next (u.ended c
      (le 8 u.steps.sealedStep ++ le 8 (u.nextStep.getD (0, 0)).1 ++
        le 1 (match u.newest with | some r => r.attempt | none => (u.nextStep.getD (0, 0)).2) ++ le 1 u.steps.sealedLetter ++
        le 1 (u.steps.opened.filter fun r => within r.phase 1 5).length ++ le 1 u.currentPhase ++
        le 1 (placeB u.steps.halted 0 + placeB u.table.hold.isSome 1 + placeB u.steps.evalSlot.isSome 2 +
          placeB u.steps.restoreFailed 3)) id))

/-- CLAMP, UNCLAMP, LEDGER_INDEX, LEDGER_READ, LEDGER_PIN and FIELD_TEST (R345, R440). -/
def Obligations.SquareCommandsComplete : Prop :=
  ∀ (s u : State) (c : OpenCmd) (k : UnitKind) (n i off len : Nat) (failing : List (Nat × Nat × Nat)),
    (s.executes c 0x0600 u → k = unitKind (uAt c.params 0 1) → n = uAt c.params 2 2 → n < UnitKind.count k →
      exec .clamp s = .next (State.ended (u.clampUnit k n (if k = .core then 7 else 4) true) c [] id).settle) ∧
    (s.executes c 0x0601 u → k = unitKind (uAt c.params 0 1) → n = uAt c.params 2 2 → n < UnitKind.count k →
      (u.stepOpen = false → (u.ownClamp k n).2 = true → u.enclosedClamp k n = false →
        exec .unclamp s = .next (State.ended (u.unclampUnit k n) c [] id).settle) ∧
      (u.stepOpen = true → exec .unclamp s = .next (u.turnedAway c .busy []).settle)) ∧
    (s.executes c 0x0602 u → exec .ledgerIndex s = .next (u.ended c
      ((List.range 512).flatMap fun i => le 8 (place (u.ledgerEntry i).state 0 2 + placeB (u.ledgerEntry i).pinned 2 +
        place (if (u.ledgerEntry i).state = 1 then (u.ledgerEntry i).step else 0) 16 48)) id)) ∧
    (s.executes c 0x0603 u → i = uAt c.params 0 2 → off = uAt c.params 4 4 → len = uAt c.params 8 4 → i < 512 →
      off + len ≤ 2 ^ 20 → exec .ledgerRead s = .next (u.ended c ((upFrom off len).map (u.ledgerEntry i).byte) id)) ∧
    (s.executes c 0x0604 u → i = uAt c.params 0 2 → i < 512 → (u.ledgerEntry i).state = 1 →
      exec .ledgerPin s = .next (State.ended { u with square := { u.square with
        ledger := tabSet ledgerEntryReset u.square.ledger i { u.ledgerEntry i with pinned := uAt c.params 2 1 == 1 } } } c [] id)) ∧
    (s.executes c 0x0605 u → i = uAt c.params 0 2 → n = uAt c.params 2 2 → (i < 512 ∨ i = 0xFFFF) → n < 384 →
      u.faultClamped n = false → u.stepOpen = false → u.steps.evalSlot = none → (u.core n).testing = false →
      u.testEntries i n ≠ [] →
      exec (.fieldTest failing) s = .next (State.started (u.setCore n { u.core n with testing := true }) c
        (.fieldTest i n (failing.filter fun f => (u.testEntries i n).contains f.1 && decide (f.2.1 < 4 ∧ f.2.2 < u.tileWidth n))) id))

/-- The control instructions (R139 to R142). -/
def Obligations.ControlInstructionsRun : Prop :=
  ∀ (s t : State) (c p : Nat) (it : Item) (i : Ins),
    (s.atOp c 0x00 t it i → exec (.nop c) s = .next (t.setItem c it.onward).settle) ∧
    (s.atOp c 0x0C t it i →
      exec (.loopset c) s = .next (t.setItem c { it.onward with loops := setNth it.loops i.a (BitVec.ofNat 32 i.b) }).settle) ∧
    (s.atOp c 0x0D t it i → ∀ v : BitVec 32, ∀ x : Item, v = nth 0 it.loops i.a - 1 → x = { it with loops := setNth it.loops i.a v } →
      exec (.djnz c) s = .next (t.setItem c (if v = 0 then x.onward else x.jump i.c)).settle) ∧
    (s.atOp c 0x0F t it i → exec (.jump c) s = .next (t.setItem c (it.jump i.c)).settle) ∧
    (s.atOp c 0x0E t it i →
      (it.ops ≠ [] → exec (.bnz c) s = .next (t.setItem c { it with wait := .bnz i.c }).settle) ∧
      (it.ops = [] → regionSpan i.c 4 = .tray → t.opAccess i.c 4 = .ok → t.translate i.c = some p →
        State.firstPoison (t.fetch (.core c) p 4) p 4 = none →
        exec (.bnz c) s = .next (State.settle (State.setItem (t.fetch (.core c) p 4) c
          (if uAt ((t.fetch (.core c) p 4).bytesAt p 4) 0 4 = 0 then { it.onward with wait := .none }
           else { it.jump (nth 0 it.args 0) with wait := .none }))))) ∧
    (s.atOp c 0x08 t it i →
      exec (.waitOps c) s = .next (t.setItem c (if it.waited (BitVec.ofNat 3 i.a) = true then it.onward
        else { it with wait := .ops (BitVec.ofNat 3 i.a) })).settle) ∧
    (s.atOp c 0x0A t it i → t.routerClosed = false →
      exec (.waitc c) s = .next (t.setItem c (if i.b ≤ (t.counter i.c).toNat then it.onward
        else { it with wait := .counter i.c (BitVec.ofNat 32 i.b) })).settle) ∧
    (s.atOp c 0x09 t it i → t.routerClosed = false →
      (it.restartable = false → exec (.signalCounter c) s = .next (State.setItem
        { t with fabric := { t.fabric with counters := tabMod 0 t.fabric.counters i.c (· + BitVec.ofNat 32 i.b) } } c it.onward).settle) ∧
      (it.restartable = true → exec (.signalCounter c) s = .next (t.setItem c
        { it.onward with deferred := it.deferred ++ [.signal i.c (BitVec.ofNat 32 i.b)] }).settle)) ∧
    (s.atOp c 0x11 t it i →
      exec (.endItem c) s = .next (State.settle (if it.ops = [] then t.finishItem c it else t.setItem c { it with wait := .ending })))

/-- Waits that are met, and POST, PARAM, BIND and CLOSE (R107, R136, R140, R141, R150). -/
def Obligations.WaitsAndTrayInstructions : Prop :=
  ∀ (s t f : State) (c p n : Nat) (it : Item) (i : Ins) (m : BitVec 3) (v : BitVec 32) (b : List Byte) (pr : Program)
      (e : SlotEntry) (x : FusedSlot) (k : ClusterState),
    (c < 384 → (s.core c).item = some it → s.coreRuns c = true →
      (it.wait = .ops m → it.waited m = true →
        exec (.waitSatisfied c) s = .next (State.setItem (s.traceWait c it) c { it.onward with wait := .none }).settle) ∧
      (it.wait = .bnz n → it.ops = [] →
        exec (.waitSatisfied c) s = .next (State.branch (s.traceWait c it) c { it with wait := .none } n).settle) ∧
      (it.wait = .ending → it.ops = [] → exec (.waitSatisfied c) s = .next (s.finishItem c it).settle) ∧
      (it.wait = .counter n v → v.toNat ≤ (s.counter n).toNat →
        exec (.waitcSatisfied c) s = .next (State.setItem (s.traceWait c it) c { it.onward with wait := .none }).settle)) ∧
    (s.atOp c 0x0B t it i → t.translate i.c = some p → t.opAccess i.c 64 = .ok → f = t.fetch (.core c) p 64 →
      f.firstPoison p 64 = none →
      (it.restartable = true → exec (.postEntry c) s = .next
        (f.setItem c { it.onward with deferred := it.deferred ++ [.post i.b (f.bytesAt p 64)] }).settle) ∧
      (it.restartable = false → f.postStatus i.b 0 = .ok → exec (.postEntry c) s = .next
        (State.setItem ((f.store (.core c) (f.wringBase i.b + (f.wringTail i.b).toNat % f.wringSize i.b * 64) (f.bytesAt p 64)).setWringTail
          i.b (f.wringTail i.b + 1)) c it.onward).settle)) ∧
    (s.atOp c 0x10 t it i → t.paramBlock it = some b → t.translate i.c = some p → regionSpan i.c 256 = .tray →
      t.opAccess i.c 256 = .ok →
      exec (.paramBlock c) s = .next ((t.store (.core c) p (exactly 256 b)).setItem c it.onward).settle) ∧
    (s.atOp c 0x06 t it i → t.itemProgram it = some pr → pr.slots[i.a]? = some e → e.logical = it.logical →
      f = t.forgetLost (fun y => y == (it.logical, e.slot)) → k = f.cluster (clusterOf c) →
      ((tabFind k.slots e.slot = none ∧ x = { owners := [e.logical], function := e.function, rows := e.rows, chunks := [] }) ∨
        (∃ y, tabFind k.slots e.slot = some y ∧ y.function = e.function ∧ y.rows = e.rows ∧ e.logical ∉ y.owners ∧
          x = { y with owners := y.owners ++ [e.logical] })) →
      exec (.bindSlot c) s = .next ((f.setCluster (clusterOf c) { k with slots := tabPut k.slots e.slot x }).setItem c it.onward).settle) ∧
    (s.atOp c 0x07 t it i → k = t.cluster (clusterOf c) → tabFind k.slots i.a = some x → b = fusedBytes x.function x.stats →
      t.translate i.c = some p → regionSpan i.c b.length = .tray → t.opAccess i.c b.length = .ok →
      f = (t.store (.core c) p b).setCluster (clusterOf c) { k with slots := tabDel k.slots i.a } →
      exec (.closeSlot c) s = .next (State.setItem (f.keepForward it (f.lastSegment it) false 0 ((upFrom p b.length).zip b))
        c it.onward).settle)

/-- WORK_ITEM_START, TILE, ROW, COPY, GATHER, SCATTER and the completions (R137, R139, R140, R153, R156). -/
def Obligations.WorkIsTakenAndIssued : Prop :=
  ∀ (s t v w : State) (c r : Nat) (run : TileRun) (it x : Item) (i : Ins) (errs : Sys2Proof.BitErrors) (wrong : List (Nat × Byte)) (raw : List Byte)
      (rest : List Item) (op : Op) (ops : List Op) (k : OpKind),
    (c < 384 → s.takesWork c = true →
      ((s.core c).restarts = it :: rest → exec (.workItemStart c) s = .next
        (State.trace ((s.setCore c { s.core c with restarts := rest }).setItem c it) c 0x0001 (it.ring % 128) it.tag.toNat).settle) ∧
      ((s.core c).restarts = [] → s.arbitrate c = some r → r ≠ checkQueue →
        exec (.workItemStart c) s = .next (s.takeEntry c r).settle)) ∧
    ((s.hit errs).atOp c 0x01 t it i →
      (it.run = some run ∨ it.run = none ∧ run = { base := i.c, count := if i.b = 0 then 65536 else i.b, next := 0, wrong := wrong }) →
      (v, x) = State.fetchTiles c 9 t { it with run := some run } →
      exec (.tileRun c errs wrong) s = .next (v.setItem c x).unhit.settle) ∧
    ((s.hit errs).atOp c 0x02 t it i → (v, x) = t.issueRow c it i.c wrong →
      exec (.rowOp c errs wrong) s = .next (v.setItem c x.onward).unhit.settle) ∧
    ((s.hit errs).atOp c 0x03 t it i → it.late = false → t.fetchBlock c it i.c 64 = (.ok, raw, v) →
      v.copyOp c it (parseOp raw) = (w, some x) →
      exec (.copyOp c errs) s = .next (w.setItem c x.onward).unhit.settle) ∧
    ((s.hit errs).atOp c 0x04 t it i → it.late = false → t.fetchBlock c it i.c 64 = (.ok, raw, v) →
      v.listOp c it (parseOp raw) none = (w, some x) →
      exec (.gatherOp c errs) s = .next (w.setItem c x.onward).unhit.settle) ∧
    ((s.hit errs).atOp c 0x05 t it i → it.late = false → (i.a ≠ 1 ∨ it.restartable = false) →
      t.fetchBlock c it i.c 64 = (.ok, raw, v) → v.listOp c it (parseOp raw) (some (i.a == 1)) = (w, some x) →
      exec (.scatterOp c errs) s = .next (w.setItem c x.onward).unhit.settle) ∧
    (c < 384 → (s.core c).item = some it → takeOp k it.ops = some (op, ops) → s.coreRuns c = true → s.capturing op.unit = false →
      (v, x) = State.closeOp (s.commit c op.writes op.poisoned) c { it with ops := ops } op op.status →
      t = State.originalEnded v op.unit op.last op.status →
      ((x.failed = none ∨ x.ops ≠ []) ∧ w = t.setItem c x ∨ (∃ f, x.failed = some f ∧ x.ops = [] ∧ w = t.endItem c x f.2)) →
      (k = .tile → exec (.tileComplete c) s = .next ((List.range 384).foldl (fun (y : State) n => y.moreTiles n) w).settle) ∧
      (k = .row → exec (.rowOpComplete c) s = .next w.settle) ∧
      (k = .transfer → exec (.transferComplete c) s = .next w.settle))

/-- UNIT_FIELD_FAULT, CAPTURE_END, DUPLICATE_RUN, FINGERPRINT_COMPARE and REFEREE_RUN (R64, R332, R336, R339, R340). -/
def Obligations.CheckUnitsRun : Prop :=
  ∀ (s t : State) (k : UnitKind) (u c : Nat) (x : CheckUnit) (wrong a b : Word) (errs : Sys2Proof.BitErrors),
    (u < UnitKind.count k → exec (.unitFieldFault k u) s = .next (s.clampUnit k u (if k = .core then 4 else 3) false).settle) ∧
    (s.unit u = some x → x.capturing = true →
      (x.checker.isSome = true ∨ (∃ y, (s.core x.original).acc = some y ∧ y.unit = some u) →
        exec (.captureEnd u) s = .next (s.setUnit u { x with capturing := false }).settle) ∧
      (x.checker = none → (∀ y, (s.core x.original).acc = some y → y.unit ≠ some u) →
        exec (.captureEnd u) s = .next
          (State.placeDuplicate (s.setUnit u { x with capturing := false }) u { x with capturing := false }).settle)) ∧
    (c < 384 → t = s.hit errs → t.takesWork c = true → (t.core c).restarts = [] → t.arbitrate c = some checkQueue →
      (t.headRun c = some (u, false) →
        exec (.duplicateRun c errs wrong) s = .next (State.runDuplicate (t.passPointer c checkQueue) c u wrong).unhit.settle) ∧
      (t.headRun c = some (u, true) →
        exec (.refereeRun c errs wrong) s = .next (State.runReferee (t.passPointer c checkQueue) c u wrong).unhit.settle)) ∧
    (s.unit u = some x → x.fpOriginal = some a → x.fpDuplicate = some b → x.referee = none → x.disagreedFt = 0 → x.originalDone = true →
      (a = b → exec (.fingerprintCompare u) s = .next (s.settleUnit u x).settle) ∧
      (a ≠ b → exec (.fingerprintCompare u) s = .next (State.placeReferee
        { s with square := { s.square with disagreed := satAdd s.square.disagreed 1 } } u
        { x with used := [], disagreedFt := s.ft }).settle))

/-- The nine rows of cells (R276, R278, R279, R287, R288, R291). -/
def Obligations.CellsReachTheirUnits : Prop :=
  ∀ (s v f : State) (n : Nat) (bs : List Byte) (c : Cell) (row : Nat → List Byte → Sys2Proof.Instr) (typ : Nat),
    n < 16 → bs.length = 64 → v = s.count (1137 + 3 * n) 64 → c = parseCell bs →
    (typ = 0 ∧ row = .openCell ∨ typ = 1 ∧ row = .dataCell ∨ typ = 2 ∧ row = .ackCell ∨ typ = 3 ∧ row = .verdictCell ∨
      typ = 4 ∧ row = .sealCell ∨ typ = 5 ∧ row = .recallCell ∨ typ = 6 ∧ row = .timeCell ∨ typ = 7 ∧ row = .linkDarkCell ∨
      typ = 8 ∧ row = .creditCell) →
    ((s.port n).state = .discovered ∨ (s.port n).state = .admitted) →
    (cellCrcOk bs = true → typeAllowed c.typ c.vc = true → c.typ = typ → f = v.checkCell bs →
      ((s.port n).state = .admitted → f.routerClosed = false → typ ≤ 5 →
        (c.ptag = f.fabric.partition.tag → f.fabric.partition.tag ≠ 0 → f.fabric.partition.tag < 0xFFF →
          (c.dest = f.chip → c.spoilt = false → exec (row n bs) s = .next (State.settle (
            let w := f.oweCredit (some n) c.vc
            if typ = 0 then w.arriveOpen c
            else if typ = 1 then w.arriveData n c
            else if typ = 2 then w.arriveAck c
            else if typ = 3 then w.takeVerdict (if c.detour = true then none else some (n / 2)) c.payload
            else w.takeOutcome (outcomeOf (typ == 5) c.payload).1 (outcomeOf (typ == 5) c.payload).2))) ∧
          (c.dest = f.chip → c.spoilt = true → exec (row n bs) s = .next (State.settle (f.oweCredit (some n) c.vc))) ∧
          (c.dest ≠ f.chip → exec (row n bs) s = .next (f.forward c (some n)).settle)) ∧
        (c.ptag ≠ f.fabric.partition.tag →
          exec (row n bs) s = .next (State.discard (f.oweCredit (some n) c.vc) n 2 5 bs).settle)) ∧
      (6 ≤ typ → c.spoilt = true → exec (row n bs) s = .next f.settle) ∧
      (typ = 6 → c.spoilt = false → exec (row n bs) s = .next (f.takeTime n c.payload).settle) ∧
      (typ = 7 → c.spoilt = false → exec (row n bs) s = .next (State.reroute (f.setPort n { f.port n with
        darkNotice := some (word (uAt c.payload 0 8)) })).settle) ∧
      (typ = 8 → c.spoilt = false → exec (row n bs) s = .next (State.flushPort (f.setPort n { f.port n with
        credits := (List.range 6).map fun vc => min (bufferCells vc) (nth 0 (f.port n).credits vc + uAt c.payload vc 1) }) n).settle)) ∧
    (cellCrcOk bs = false → exec (row n bs) s = .next (v.discard n 1 2 bs).settle)

/-- CODEWORD, CELL_ESCAPE, CELL_STALL_DISCARD, CREDIT_RETURN and THROTTLE_RECOVERY (R205, R209, R241, R279, R280, R289 to R292). -/
def Obligations.RouterTimersRun : Prop :=
  ∀ (s z : State) (n k cells vc o : Nat) (corrected : List Nat) (p : TensorPort) (q : QueuedCell) (x : Cell) (detour : Bool)
      (hop : Nat),
    (n < 16 → p = s.port n → p.state ≠ .down → p.state ≠ .dark →
      (∀ bad, bad = true ∨ 4 < corrected.sum →
        exec (.codeword n corrected bad false cells) s = .next (State.settle (State.count (s.setPort n { p.word1 [] with
          fecUncorrectable := satAdd p.fecUncorrectable 1, discardFec := satAdd p.discardFec (min 3 cells) })
          (1138 + 3 * n) (min 3 cells)))) ∧
      (corrected.sum ≤ 4 → corrected.sum ≠ 0 → (∀ i < 5, nth 0 (p.word1 corrected).laneSymbols i ≤ 64) →
        exec (.codeword n corrected false false cells) s = .next (State.settle (s.setPort n { p.word1 corrected with
          fecCorrected := satAdd p.fecCorrected 1 }))) ∧
      (p.state ≠ .training → corrected.sum ≤ 4 → exec (.codeword n corrected false true cells) s =
        .next (State.portTo (s.takeCodeword n corrected false cells) n .down).settle)) ∧
    (k < 41 → vc ≤ 3 → s.routerClosed = false → s.oldHead k vc 32 = some q → z = s.takeOut k q →
      x = { parseCell q.origin with vc := 4, dateline := false } → z.route x q.ingress true = .out o detour hop →
      z.hasCredit o (z.leaving x q.ingress o detour hop).vc = true →
      exec (.cellEscape k vc) s = .next (State.settle (z.withRouter (z.enqueue o
        { q with bytes := (z.leaving x q.ingress o detour hop).bytes, origin := x.bytes })))) ∧
    (k < 41 → s.oldHead k vc (ticksUs (s.rf .netRouteCtrl 0 10)) = some q →
      exec (.cellStallDiscard k vc) s = .next (State.settle (State.unroutable (s.takeOut k q) q))) ∧
    (n < 16 → p = s.port n → (p.state = .admitted ∨ p.state = .discovered) → p.owed.all (· == 0) = false →
      z = s.setPort n { p with owed := p.owed.map (fun k => k - min 255 k), owedSince := s.now } →
      exec (.creditReturn n) s = .next (State.settle (z.putCell n
        (z.linkCell n 8 6 ((p.owed.map fun k => min 255 k).flatMap (le 1))).bytes))) ∧
    exec .throttleRecovery s = .next ((List.range 16).foldl (fun t n =>
      let p := (t.port n).refill t.now
      if p.state = .admitted ∧ p.qPrev < t.rf .netThrottle 0 8 then
        t.setPort n { p with rate := min 256 (p.rate + t.rf .netThrottle 32 8) }
      else t) s)

/-- The stream timers, BRIDGE_PACK_TIMEOUT and STREAM_DESCRIPTOR_START (R302 to R305, R315). -/
def Obligations.StreamsTimeOutAndStart : Prop :=
  ∀ (s v w : State) (n q d base : Nat) (k : Collective) (t : StreamTx) (r : StreamRx) (b : Nat × List QueuedCell × Nat),
    (n < 16384 → (s.context n).tx = some t → s.routerClosed = false → t.progressAt + s.streamTimeout ≤ s.now →
      exec (.streamRetryTimeout n) s = .next (State.settle
        (if t.retries < s.streamRetries then s.retryTx n t else s.txEnds n t .timeout))) ∧
    (n < 16384 → (s.context n).rx = some r → r.receiving = true → s.routerClosed = false →
      r.lastAt + s.streamTimeout * (s.streamRetries + 1) ≤ s.now → v = State.setRx (s.rxRecord n r .timeout) n none →
      (s.transferContext n = true → exec (.streamReceiveTimeout n) s = .next (v.failTransfer .timeout).settle) ∧
      (s.transferContext n = false → s.digestContext n = true → exec (.streamReceiveTimeout n) s = .next v.settle) ∧
      (s.transferContext n = false → s.digestContext n = false →
        w = State.twinStreamFailed (v.streamVerdict r.step .timeout) r .timeout →
        (w.collOf n = none → exec (.streamReceiveTimeout n) s = .next w.settle) ∧
        (w.collOf n = some base → w.coll base = some k →
          exec (.streamReceiveTimeout n) s = .next (State.runColl (w.setColl base (k.fail k.issued .timeout)) base).settle))) ∧
    (d < 8 → s.fabric.bridges.find? (·.1 == d) = some b → b.2.2 + 250 ≤ s.now →
      exec (.bridgePackTimeout d) s = .next (State.settle (s.withRouter (s.flushBridge d)))) ∧
    (q < 16 → s.power.rails = .on → s.routerClosed = false → s.sqOpen q = true → s.sqCount q ≠ 0 → s.queueHeld q = false →
      State.firstPoison (s.checkRange (s.sqEntry q 0) 64) (s.sqEntry q 0) 64 = none →
      exec (.streamDescriptorStart q) s =
        .next (State.settle (State.streamDescriptorStart (s.checkRange (s.sqEntry q 0) 64) q)))

/-- SIGNAL_DETECT, BRING_UP_ATTEMPT, TRAINING_TIMEOUT, PORT_LOCK, DISCOVERY_WORD and LOSS_OF_SIGNAL (R202, R211, R212, R214,
R224, R288). -/
def Obligations.PortsComeUpAndFall : Prop :=
  ∀ (s v : State) (n lanes : Nat) (p q : TensorPort) (tx rx : BitVec 5) (w : Word) (slot : List (List Byte)), n < 16 → p = s.port n →
    ((p.state = .down ∨ p.state = .dark) → 4 ≤ lanes → v = s.setPort n { p with signal := true } →
      exec (.signalDetect n lanes) s = .next (State.settle
        (if (v.port n).signal = true ∧ v.routerClosed = false ∧ v.power.rails = .on ∧ v.power.dark = false then v.portTo n .training
          else v))) ∧
    (p.state = .down → p.signal = true → s.routerClosed = false → s.power.rails = .on → s.power.dark = false →
      exec (.bringUpAttempt n) s = .next (s.portTo n .training).settle) ∧
    (p.state = .training → p.trainingSince + ticksMs 20 ≤ s.now → exec (.trainingTimeout n) s = .next (s.portTo n .down).settle) ∧
    (p.state = .training → ((usableLanes tx).length < 3 ∨ (usableLanes rx).length < 3) →
      exec (.portLock n tx rx) s = .next (s.portTo n .down).settle) ∧
    (p.state = .training → 3 ≤ (usableLanes tx).length → 3 ≤ (usableLanes rx).length →
      exec (.portLock n tx rx) s = .next (State.portTo (s.setPort n (TensorPort.withMode { p with
        txData := (List.range 4).map fun i => (usableLanes tx).getD i 7
        txShim := (usableLanes tx).getD 4 7
        rxData := (List.range 4).map fun i => (usableLanes rx).getD i 7
        rxShim := (usableLanes rx).getD 4 7
        txFailed := ~~~tx
        rxFailed := ~~~rx })) n .discovered).settle) ∧
    (slotWord slot = some w → v = s.setPort n { p with rxWords := 0, laneSymbols := [0, 0, 0, 0, 0] } → q = v.port n →
      (q.state = .discovered ∨ q.state = .admitted) →
      exec (.discoveryWord n slot) s = .next (State.settle (State.reroute (State.admitTest
        (v.setPort n { q with peer := w &&& peerMask, peerValid := true }) n
        (!q.peerValid || field (w &&& peerMask) 0 17 != field q.peer 0 17 || field (w &&& peerMask) 32 4 != field q.peer 32 4))))) ∧
    (validBlocks slot = [] → exec (.discoveryWord n slot) s = .next s.settle) ∧
    (p.state ≠ .down → p.state ≠ .dark → v = s.setPort n { p with signal := false } →
      exec (.lossOfSignal n) s = .next (State.settle (if p.darkNotice.isSome = true then v.portTo n .dark
        else (v.fault 0x0007 (.port n) .timeout (field p.peer 0 17) 0).portTo n .down)))

/-- Lane rotation (R208, R215, R216, R218). -/
def Obligations.LanesRotate : Prop :=
  ∀ (s t : State) (n lane x : Nat) (p : TensorPort) (margin : Word) (slot : List (List Byte)), n < 16 →
    (p = s.port n → s.ft.toNat % ticksMs (max 10 (s.rf (.portJig n) 0 16)) =
        ticksMs (s.rf (.portJig n) 16 16 % max 10 (s.rf (.portJig n) 0 16)) →
      (p.state = .admitted → p.threeLane = false → p.txShim ≠ 7 → s.rbit (.portJig n) 32 = true → p.txRot = none →
        exec (.jigRotation n) s = .next (State.settle (State.sendMarker (s.setPort n { p with
          txRot := some (p.nextLogical, nth 7 p.txData p.nextLogical, .mirrorSent, false), mirrorAt := s.now }) n 1 p.nextLogical))) ∧
      ((p.state ≠ .admitted ∨ p.threeLane = true ∨ p.txShim = 7 ∨ s.rbit (.portJig n) 32 = false ∨ p.txRot.isSome = true) →
        exec (.jigRotation n) s = .next (s.setPort n p.abort).settle)) ∧
    (slotCode slot = some (1, lane) → s.markersRun n = true → t = s.gotMarker n 1 lane → p = t.port n → lane < 4 → p.rxShim ≠ 7 →
      p.rxMirror ≠ some lane → p.rxAnswer ≠ some (2, lane) → p.rxAnswer ≠ some (3, lane) →
      p.rxLaneFail.contains (nth 7 p.rxData lane) = false →
      exec (.mirrorLane n slot) s = .next (t.setPort n { p with rxMirror := some lane, rxAnswer := none }).settle) ∧
    (s.markersRun n = true → p = s.port n → p.rxMirror = some lane → p.rxShim ≠ 7 →
      exec (.mirrorCompareEnd n true) s = .next (State.settle (State.answerMarker (s.setPort n { p with
        rxData := setNth p.rxData lane p.rxShim, rxShim := 7, rxMirror := none }) n 2 lane)) ∧
      exec (.mirrorCompareEnd n false) s =
        .next (State.settle (State.answerMarker (s.setPort n { p with rxMirror := none }) n 3 lane))) ∧
    (slotCode slot = some (2, lane) → s.markersRun n = true → t = s.gotMarker n 2 lane → p = t.port n →
      p.txRot = some (lane, x, .mirrorSent, false) → p.txShim ≠ 7 →
      exec (.steerAck n slot) s = .next (State.settle (State.sendMarker (t.setPort n { p with
        txData := setNth p.txData lane p.txShim, txShim := 7, txRot := some (lane, x, .trainSent, false) }) n 4 x))) ∧
    (slotCode slot = some (3, lane) → s.markersRun n = true → t = s.gotMarker n 3 lane → p = t.port n →
      p.txRot = some (lane, x, .mirrorSent, false) → p.txShim ≠ 7 →
      exec (.steerNak n slot) s = .next (State.settle (State.sendMarker (t.setPort n { p.abort.nextLane with
        txRot := some (lane, p.txShim, .retrain, false), txShim := 7 }) n 4 p.txShim))) ∧
    (p = s.port n → p.txRot = some (lane, x, .mirrorSent, false) → p.mirrorAt + 4 * 4097 * 2 ≤ s.now →
      exec (.steerAckTimeout n) s = .next (s.setPort n p.abort.nextLane).settle) ∧
    (slotCode slot = some (4, x) → s.markersRun n = true → t = s.gotMarker n 4 x → p = t.port n → x < 5 → p.rxTraining ≠ some x →
      p.rxAnswer ≠ some (5, x) → p.rxAnswer ≠ some (6, x) → p.rxFailed.getLsbD x = false →
      exec (.trainLane n slot) s = .next (State.settle (t.setPort n { p with
        rxTraining := some x, rxAnswer := none, rxShim := if p.rxShim = x then 7 else p.rxShim }))) ∧
    (s.markersRun n = true → p = s.port n → p.rxTraining = some x →
      exec (.laneTrainingEnd n true margin) s = .next (State.settle (State.answerMarker (s.setPort n { p with
        rxTraining := none, margin := margin, rxShim := if p.rxData.contains 7 = true then 7 else x }) n 5 x)) ∧
      exec (.laneTrainingEnd n false margin) s = .next (State.settle (State.answerMarker (s.setPort n { p with
        rxTraining := none, margin := margin, rxFailed := p.rxFailed ||| laneBit x }) n 6 x))) ∧
    (slotCode slot = some (5, x) → s.markersRun n = true → t = s.gotMarker n 5 x → p = t.port n →
      p.txRot = some (lane, x, .trainSent, false) → p.txData.contains 7 = false → p.txData.length = 4 →
      exec (.trainPass n slot) s = .next (State.settle (t.setPort n { p.nextLane with done := p.done + 1, txShim := x }))) ∧
    (slotCode slot = some (6, x) → s.markersRun n = true → t = s.gotMarker n 6 x → p = t.port n →
      p.txRot = some (lane, x, .trainSent, false) →
      exec (.trainFail n slot) s = .next (State.settle (t.setPort n { p.nextLane with txFailed := p.nextLane.txFailed ||| laneBit x }))) ∧
    (slotCode slot = none → ∀ c ∈ [Instr.mirrorLane n slot, .steerAck n slot, .steerNak n slot, .trainLane n slot, .trainPass n slot,
      .trainFail n slot], exec c s = .next s.settle)

/-- MARKER_LOCK_LOSS, LANE_FAIL, RESTRIPE_3 and RESTRIPE_4 (R211, R219 to R223). -/
def Obligations.LanesFail : Prop :=
  ∀ (s t f : State) (n lane x : Nat) (p q : TensorPort) (slot : List (List Byte)), n < 16 → s.markersRun n = true →
    (p = s.port n → x < 5 → p.rxFailed.getLsbD x = false → logicalOn p.rxData x = some lane →
      f = s.fault 0x0008 (.port n) .ok x 1 →
      (p.rxMirror ≠ some lane → p.rxShim ≠ x → q = { p with rxFailed := p.rxFailed ||| laneBit x, rxLaneFail := p.rxLaneFail ++ [x] } →
        t = (f.setPort n q).sendMarker n 7 x →
        exec (.markerLockLoss n x) s = .next (State.settle (if q.absorbs < q.lost then t.portTo n .down else t))) ∧
      (p.rxMirror = some lane → p.rxShim ≠ 7 →
        exec (.markerLockLoss n x) s = .next (State.settle (State.answerMarker (f.setPort n { p with
          rxFailed := p.rxFailed ||| laneBit x, rxData := setNth p.rxData lane p.rxShim, rxShim := 7, rxMirror := none }) n 2 lane)))) ∧
    (slotCode slot = some (7, x) → t = s.gotMarker n 7 x → p = t.port n → x < 5 → p.txFailed.getLsbD x = false →
      logicalOn p.txData x = some lane → p.txRot = none → p.txData.contains 7 = false → f = t.fault 0x0008 (.port n) .ok x 0 →
      q = f.port n →
      (p.txShim ≠ 7 → exec (.laneFail n slot) s = .next (State.settle (State.sendMarker (f.setPort n { q with
        txRot := some (lane, x, .mirrorSent, true), mirrorAt := f.now }) n 1 lane))) ∧
      (p.txShim = 7 → exec (.laneFail n slot) s = .next (State.settle (State.sendMarker (f.setPort n (TensorPort.withMode { q with
        txOnce := some (8, lane), txData := setNth q.txData lane 7, txFailed := q.txFailed ||| laneBit x })) n 8 lane)))) ∧
    (slotCode slot = some (1, lane) → t = s.gotMarker n 1 lane → p = t.port n → lane < 4 → p.rxShim ≠ 7 → p.rxMirror ≠ some lane →
      p.rxAnswer ≠ some (2, lane) → p.rxAnswer ≠ some (3, lane) → p.rxLaneFail.contains (nth 7 p.rxData lane) = true →
      exec (.mirrorLane n slot) s = .next (State.settle (State.answerMarker (t.setPort n { p with
        rxData := setNth p.rxData lane p.rxShim, rxShim := 7, rxMirror := none,
        rxLaneFail := p.rxLaneFail.filter (· != nth 7 p.rxData lane) }) n 2 lane))) ∧
    (slotCode slot = some (2, lane) → t = s.gotMarker n 2 lane → p = t.port n → p.txRot = some (lane, x, .mirrorSent, true) →
      p.txShim ≠ 7 → exec (.steerAck n slot) s = .next (State.settle (t.setPort n { p with
        txData := setNth p.txData lane p.txShim, txShim := 7, txFailed := p.txFailed ||| laneBit x, txRot := none }))) ∧
    (slotCode slot = some (8, lane) → t = s.gotMarker n 8 lane → p = t.port n → lane < 4 → p.rxData.contains 7 = false →
      exec (.restripe3 n slot) s = .next (State.settle (t.setPort n (TensorPort.withMode { p with
        rxFailed := p.rxFailed ||| laneBit (nth 7 p.rxData lane), rxData := setNth p.rxData lane 7,
        rxLaneFail := p.rxLaneFail.filter (· != nth 7 p.rxData lane) })))) ∧
    (slotCode slot = some (9, x) → t = s.gotMarker n 9 x → p = t.port n → x < 5 →
      ((List.range 4).find? fun i => nth 0 p.rxData i == 7) = some lane →
      exec (.restripe4 n slot) s = .next (State.settle (t.setPort n (TensorPort.withMode { p with
        rxData := setNth p.rxData lane x }))))

/-- The rows of the Ethernet ports (R225, R228 to R231). -/
def Obligations.EthernetPortsRun : Prop :=
  ∀ (s t : State) (n q : Nat) (p : Sys2Proof.RdmaPacket) (x : QueuePair) (e : EthPort) (pause up : Bool) (prio : Nat) (bit : BitVec 8),
    n < 6 → e = s.eth n →
    (e.linkUp = true → s.routerClosed = false →
      (p.checksOk = false ∨ s.qp n p.qpn = none ∧ packetFits p [] = false) →
      exec (.rdmaPacket n p) s = .next (State.settle (State.count (s.setEth n { e with framesBad := e.framesBad + 1 }) (1186 + 3 * n) 1))) ∧
    (e.linkUp = true → s.routerClosed = false → p.checksOk = true → s.qp n p.qpn = some x → packetFits p x.remoteIp = true →
      x.error = false → p.congestion = false → p.kind = .ack →
      t = State.count (s.setEth n { e with framesIn := e.framesIn + 1 }) (1185 + 3 * n) (frameBytesOf x.remoteIp p.priority.isSome .ack) →
      t.qp n p.qpn = some x →
      exec (.rdmaPacket n p) s = .next (State.settle (State.setQp (t.setQp n p.qpn x) n p.qpn (x.acked p.psn t.now)))) ∧
    (s.qp n q = some x → x.error = false → x.retained ≠ [] → s.routerClosed = false →
      x.progressAt + ticksUs (10 * s.rf (.ethRdma n) 0 14) ≤ s.now →
      (x.expiries + 1 < s.rf (.ethRdma n) 14 3 → exec (.rdmaRetransmitTimeout n q) s = .next (State.settle
        (State.rdmaResend (s.setQp n q { x with expiries := x.expiries + 1, progressAt := s.now }) n q (s.timeoutResends n x)))) ∧
      (s.selectiveOn n x = false → s.timeoutResends n x = x.retained) ∧
      (∀ c, s.selectiveOn n x = true → x.selectiveFrom = some c → s.timeoutResends n x =
        x.retained.filter fun r => !psnFrom r.psn (c + 1) || decide (psnPast r.psn (c + 1) < 128)) ∧
      (s.rf (.ethRdma n) 14 3 ≤ x.expiries + 1 → exec (.rdmaRetransmitTimeout n q) s = .next (State.settle
        (State.reroute (s.setQp n q { x.drop with error := true }))))) ∧
    (s.qp n q = some x → e.linkUp = true → s.routerClosed = false → exec (.congestionNotification n q) s =
      .next ((s.setQp n q { x with rate := max 1 (x.rate / 2), notifiedAt := s.now }).count (1185 + 3 * n)
        (notificationBytes x.remoteIp))) ∧
    (s.qp n q = some x → x.notifiedAt + ticksUs 50 ≤ s.now → exec (.rateRecovery n q) s =
      .next (s.setQp n q { x with rate := min lineRate (x.rate + 1), notifiedAt := s.now })) ∧
    (e.linkUp = true → prio < 8 → bit = BitVec.ofNat 8 (2 ^ prio) →
      exec (.priorityFlowControl n prio pause) s = .next (State.settle ((s.setEth n { e with
        paused := if pause = true then e.paused ||| bit else e.paused &&& ~~~bit }).count (1185 + 3 * n) pauseBytes))) ∧
    (e.linkUp ≠ up → (up = true → s.routerClosed = false) → t = State.trace (s.setEth n { e with
        linkUp := up, pcsLock := up, paused := 0, held := [] }) (1936 + n) 0x0020 (if up = true then 1 else 0) 0 →
      exec (.ethernetLinkChange n up) s = .next (State.settle (if up = true then t.releaseHeld else (t.ptpLost n).reroute)))

/-- The rows of the Speas ports (R232 to R235). -/
def Obligations.SpeasPortsRun : Prop :=
  ∀ (s t : State) (port w : Nat) (p : SpeasPort) (bs : List Byte) (f : Frame) (a : BitVec 3),
    port < 2 → p = s.sp port →
    (s.benchUp = true → p.linkUp = true → w < 3 → (p.active.getLsbD w = true ∨ p.spare = some w) →
      t = s.count (1203 + 3 * port) bs.length →
      (parseFrame bs = none → exec (.speasFrame port w bs) s = .next (t.count (1204 + 3 * port) 1)) ∧
      (parseFrame bs = some f → exec (.speasFrame port w bs) s = .next (State.closeWorn (t.takeFrame port f)))) ∧
    (p.linkUp = true → p.txUnacked ≠ [] → p.progressAt + ticksUs 50 ≤ s.now →
      (p.expiries < 63 → exec (.speasRetransmitTimeout port) s =
        .next (State.resend (s.setSp port { p with expiries := p.expiries + 1, progressAt := s.now }) port)) ∧
      (63 ≤ p.expiries → exec (.speasRetransmitTimeout port) s = .next (s.speasDown port))) ∧
    (p.linkUp = true → s.ft.toNat % ticksMs 250 = ticksMs 125 * port → p.rotating = none → p.spare = some w →
      p.active.getLsbD ((w + 1) % 3) = true → t = s.control port 0x01 ((w + 1) % 3) →
      exec (.speasRotation port) s = .next (t.setSp port { t.sp port with rotating := some ((w + 1) % 3, .mirrorSent) })) ∧
    (s.benchUp = true → s.boot.commandReady = true → p.linkUp = false →
      exec (.speasLinkUp port) s = .next ((s.trace (1942 + port) 0x0020 1 0).setSp port { p with
        linkUp := true, active := 3, failed := 0, progressAt := s.now })) ∧
    (w < 3 → p.linkUp = true → p.failed.getLsbD w = false → p.active.getLsbD w = true →
      a = (match p.spare with | some sp => (p.active &&& ~~~waveBit w) ||| waveBit sp | none => p.active &&& ~~~waveBit w) →
      t = s.setSp port { p with failed := p.failed ||| waveBit w, rotating := none, active := a } →
      exec (.speasWavelengthFail port w) s = .next (if a = 0 then t.speasDown port else t))

/-- TIME_CELL_SEND, PTP_MESSAGE, FT_LOCK, FT_SOURCE_LOST and FT_HOLDOVER_EXPIRY (R245, R247 to R252; how the servo slews is
assumption log 28). -/
def Obligations.FabricTimeRuns : Prop :=
  ∀ (s t u : State) (n since : Nat) (m : Sys2Proof.PtpMessage) (o : Nat × Nat) (x : PtpExchange) (t1 t3 : Word) (off : Int),
    (n < 16 → ((s.port n).state = .discovered ∨ (s.port n).state = .admitted) → (s.port n).timeSentAt + ticksUs 16 ≤ s.now →
      exec (.timeCellSend n) s = .next (s.sendTime n).settle) ∧
    (n < 6 → s.rbit .ftCtrl 0 = true → s.rf .ftCtrl 1 3 = n → m.domain = s.rf .ftCtrl 4 8 →
      (s.eth n).linkUp = true → t = s.count (1185 + 3 * n) (ptpBytes m.kind) →
      ((m.inSync = false ∨ 125 < m.intervalMs) → exec (.ptpMessage n m) s = .next (t.ptpLost n).settle) ∧
      (m.inSync = true → m.intervalMs ≤ 125 → u = State.reconsider { t with time := { t.time with ptpSync := some n } } →
        (m.kind = .sync (some o) → exec (.ptpMessage n m) s = .next (State.settle (u.delayRequest
          { port := n, seq := m.seq, t1 := some (u.ftOf o), t2 := u.ft, t3 := none }))) ∧
        (m.kind = .sync none → exec (.ptpMessage n m) s = .next (State.settle { u with time := { u.time with
          ptp := some { port := n, seq := m.seq, t1 := none, t2 := u.ft, t3 := none } } })) ∧
        (m.kind = .followUp o → u.time.ptp = some x → x.port = n → x.seq = m.seq → x.t1 = none →
          exec (.ptpMessage n m) s = .next (State.settle (u.delayRequest { x with t1 := some (u.ftOf o) }))) ∧
        (m.kind = .delayResponse o → u.time.ptp = some x → x.port = n → x.seq = m.seq → x.t1 = some t1 → x.t3 = some t3 →
          u.time.source = .ptp n → off = ((u.ftOf o - t3).toInt - (x.t2 - t1).toInt) / 2 →
          exec (.ptpMessage n m) s = .next (State.settle (State.discipline { u with time := { u.time with ptp := none } } off))))) ∧
    (s.ftOf o = BitVec.ofInt 64 (((o.1 : Int) - (s.rf .ftEpoch 0 48 : Int)) * 1250000000 + ((o.2 * 5 / 4 : Nat) : Int))) ∧
    (t = s.takeOffset off →
      (t.time.state = .acquiring → t.time.stepped = false → t.time.lockedOnce = false →
        s.discipline off = { t with ft := t.ft + BitVec.ofInt 64 off, time := { t.time with stepped := true, slew := 0 } }) ∧
      ((t.time.state ≠ .acquiring ∨ t.time.stepped = true ∨ t.time.lockedOnce = true) →
        s.discipline off = { t with time := { t.time with stepped := true, slew := off } })) ∧
    (s.time.state = .acquiring → s.time.withinSince = some since → since + ticksS 1 ≤ s.now →
      exec .ftLock s = .next (State.settle (State.settleHeld { s with time := { s.time with
        state := .locked, lockedOnce := true } } false))) ∧
    (s.time.source = .none → exec .ftSourceLost s = .next s.settle) ∧
    (s.time.source = .ptp n → exec .ftSourceLost s = .next (State.settle (State.sourceLost { s with time := { s.time with
      ptpSync := s.time.ptpSync.filter (· != n) } }))) ∧
    (s.time.source = .cells n → exec .ftSourceLost s =
      .next (State.settle (State.sourceLost (s.setPort n { s.port n with peerFtState := 0 })))) ∧
    (s.time.state = .holdover → s.time.holdoverSince + ticksMs (s.rf .ftCtrl 20 16) ≤ s.now →
      exec .ftHoldoverExpiry s = .next (State.settle (State.ftAlarm { s with time := { s.time with state := .free, stepped := false } })))

/-- SEAL_DEADLINE, SEAL_COPY_RESEND, OUTCOME_OVERDUE, REPLAY_OPEN, WEIGHT_DIGEST_END and DIGEST_COMPARE (R349, R351, R354,
R356, R358, R360, R361). -/
def Obligations.SealsReplaysAndDigests : Prop :=
  ∀ (s t v : State) (step n m a at_ : Nat) (r : StepRec) (tc ft : Word) (rest : List (Nat × Nat × Word))
      (letter : Nat) (invalid : Bool) (cs : List Nat) (value : List Byte),
    (s.step? step = some r → r.closed = some tc → r.combinedSent = false → (s.sealDeadlineAt tc).toNat ≤ s.ft.toNat →
      s.fabric.partition.tag ≠ 0 →
      (s.missingChildren r = n :: cs → exec (.sealDeadline step) s = .next (State.settle (s.sendCombined r true 8 n))) ∧
      (s.missingChildren r = [] → s.isCoordinator = true →
        exec (.sealDeadline step) s = .next (State.settle (s.sendCombined r true 8 s.chip)))) ∧
    (t = (s.steps.copies.filter fun x => decide (x.2.2 + ticksUs 1 ≤ s.now)).foldl (fun (y : State) x => y.sendOutcome x.1 x.2.1) s →
      exec .sealCopyResend s = .next (State.settle { t with steps := { t.steps with
        copies := s.steps.copies.filterMap fun x =>
          if s.now < x.2.2 + ticksUs 1 then some x else if x.2.1 = 1 then some (x.1, 2, s.now) else none } })) ∧
    (s.step? step = some r → r.closed = some tc → tc.toNat + ticksMs (s.rf .sqSealCtrl 40 16) ≤ s.ft.toNat →
      s.steps.overdue.contains step = false →
      exec (.outcomeOverdue step) s = .next (State.fault { s with steps := { s.steps with overdue := s.steps.overdue ++ [step] } }
        0x0013 .module .deadline step r.attempt)) ∧
    (s.steps.replays = (m, a, ft) :: rest → ft.toNat ≤ s.ft.toNat → s.mayOpen m = true →
      t = { s with steps := { s.steps with replays := rest } } →
      exec .replayOpen s = .next (State.settle (State.openLoad
        (if ft.toNat < s.ft.toNat ∧ s.steps.opened = [] then t.fault 0x0014 .module .deadline m ((s.ft.toNat - ft.toNat) / 1250) else t)
        m a))) ∧
    (s.digests.running = some (n, letter, invalid) → t = s.digestRead (s.ownMaster letter) → v = t.digestRead (t.mirrorMaster letter) →
      exec .weightDigestEnd s = .next (State.settle (State.sendDigests { v with digests := v.digests.ended v n letter invalid }))) ∧
    (s.digests.endedAt = some at_ → s.digestsIn = false → s.now < at_ + ticksMs (s.rf .sqDigestCtrl 24 16) →
      exec .digestCompare s = .next s) ∧
    (s.digests.endedAt = some at_ → s.digestsIn = true → s.twin.role ≠ 1 →
      (∀ x ∈ s.groupDigests, x.2 = some (true, value)) →
      exec .digestCompare s = .next { s with digests := { s.digests with endedAt := none, mismatch := false } })

/-- CORE_HANG, STREAM_STALL, PORT_STALL, BENCH_HANG and ROM_TIMER (R474 to R478). -/
def Obligations.HangsAreFound : Prop :=
  ∀ (s f : State) (c e n : Nat) (lapsed : BitVec 4) (hangs : List Nat), s.power.rails = .on →
    (c < 384 → s.coreExpired c = true → f = s.freezeFor (coreRings c) →
      ((f.hungCores (clusterOf c)).length < 3 ∨ f.inReset .bench 0 = true →
        ∀ g, g = f.fault 0x0001 (.core c) .deadline (f.core c).tilesRetired.toNat
            (match (f.core c).item with | some it => it.tag.toNat | none => 0) →
        exec (.coreHang c) s = .next (State.settle
          (if State.coreHungAgain g c = true then State.clampCore g c 5 false else State.startReset g .core c none true))) ∧
      (3 ≤ (f.hungCores (clusterOf c)).length → f.inReset .bench 0 = false → ∀ g, g = State.fault
          (f.freezeFor ((upFrom (4 * clusterOf c) 4).flatMap coreRings)) 0x0002 (.cluster (clusterOf c)) .deadline
          (((f.hungCores (clusterOf c)).map fun j => 2 ^ (j - 4 * clusterOf c)).sum) 0 →
        exec (.coreHang c) s = .next (State.settle (if State.clusterHungAgain g (clusterOf c) = true
          then State.clampCluster g (clusterOf c) 3 false else State.startReset g .cluster (clusterOf c) none true)))) ∧
    (c < 384 → s.coreExpired c = false → exec (.coreHang c) s = .next s.settle) ∧
    (e < 4 → s.engineExpired e = true → exec (.streamStall e) s = .next (State.settle (s.engineStall e))) ∧
    (n < 16 → s.portExpired n = true → exec (.portStall n) s = .next (State.settle (State.retrainPort
      (State.fault (s.freezeFor [1920 + n]) 0x0006 (.port n) .deadline (s.port n).egress.length 0) n))) ∧
    (s.boot.watchdogArmed = true → s.underReset .bench 0 = false → lapsed ≠ 0 →
      hangs = s.now :: s.boot.benchHangs.filter (fun t => decide (s.now < t + ticksS 3600)) →
      ∀ g, g = State.fault { s.freezeFor [benchRing] with boot := { (s.freezeFor [benchRing]).boot with benchHangs := hangs } }
          0x0003 .module .deadline lapsed.toNat hangs.length →
        exec (.benchHang lapsed) s = .next (State.settle
          (if hangs.length < 3 then State.resetBench g 3 false else State.coldReset (State.sendDark g g.ft 1) 4 true))) ∧
    (s.boot.watchdogArmed = false → s.underReset .bench 0 = false → s.boot.stage = 0 → s.boot.startedAt + ticksS 5 ≤ s.now →
      exec .romTimer s = .next (State.settle (s.resetBench s.boot.cause false)))

/-- STEP_OPEN, LOAD_OPEN, STEP_OPEN_WINDOW_END, HOLD, HOLD_END and CHECK_CLOSE (R102, R138, R258 to R262, R347; assumption logs 30
and 32). -/
def Obligations.StepsAreOpenedByTable : Prop :=
  ∀ (s t u v : State) (i d k m n a : Nat) (x : TTSlot) (w : Word) (r : StepRec) (p : List Sys2Proof.Byte) (e : Nat)
      (started ended anchored : Bool) (h : Nat × Nat × Word × Bool × Bool),
    (s.fallsNow i 5 t x d k →
      (t.steps.halted = true ∨ t.steps.restoreFailed = true → exec (.stepOpen i) s =
        .next (State.settle (State.ttMiss (t.setSlot i { x with stopped := true, waiting := none }) i x d))) ∧
      (t.steps.halted = false → t.steps.restoreFailed = false → (t.table.hold.isSome = true ∨ x.waiting.isSome = true) →
        exec (.stepOpen i) s = .next (State.settle { t with table := { t.table with skipped := satAdd t.table.skipped 1 } })) ∧
      (t.steps.halted = false → t.steps.restoreFailed = false → t.table.hold = none → x.waiting = none → u = t.fired i x →
        u.openingOf x = (m, a) →
        (u.ready m = true → exec (.stepOpen i) s = .next (State.settle (State.openLoad (u.setSlot i { x with
          waiting := none, openedBy := x.openedBy ++ [(k, m)], openedCount := x.openedCount + 1 }) m a))) ∧
        (u.ready m = false → exec (.stepOpen i) s = .next (State.settle (u.setSlot i { x with waiting := some (word d) }))))) ∧
    ((∀ r ∈ u.steps.opened, r.phase = 7) → u.steps.evalSlot = none → u.steps.halted = false → u.steps.restoreFailed = false →
      u.benchUp = true → (u.steps.sealedLetter ≠ 3 ∧ m ≤ u.steps.sealedStep + u.depth ∨
        ∀ r ∈ u.steps.opened, m ≤ r.id + u.depth → m ≤ r.id) →
      u.ckpt.frozen = none → u.steps.replays = [] → tabFind u.steps.params m = some p → u.ready m = true) ∧
    (tabFind s.table.slots i = some x → x.waiting = some w → x.entry.action = 5 → s.benchServes = true →
      (x.openExpired w s.ft.toNat = false → s.openingOf x = (m, a) → s.ready m = true → exec (.loadOpen i) s =
        .next (State.settle (State.openLoad (s.setSlot i { x with waiting := none
                                                                  openedBy := x.openedBy ++ [(x.entry.occurrence w.toNat, m)]
                                                                  openedCount := x.openedCount + 1 }) m a))) ∧
      (x.entry.windowUs ≠ 0 → w.toNat + ticksUs x.entry.windowUs.toNat ≤ s.ft.toNat → exec (.stepOpenWindowEnd i) s =
        .next (State.settle (State.ttMiss (s.setSlot i { x with waiting := none, stopped := true }) i x w.toNat)))) ∧
    ((u.mapBad u.nextReads || u.stashBad || u.storeBad) = false → (u.openLoad m a).steps = { u.steps with
      depth := u.depth, next := none, early := u.steps.early.filter (·.step ≠ m)
      opened := u.steps.opened ++ [
        { id := m, attempt := a, reads := u.nextReads, writes := successor u.depth u.nextReads, phase := 1, reduce := 0,
          closed := none, reasons := [], verdictSent := none, own := none,
          children := (u.steps.early.filter fun e => e.step == m && e.attempt == a).map (·.entry), combinedSent := false,
          rings := u.ringMarks, dryfit := none, exhausted := none, decided := 0, forward := [], cut := none,
          twinFailed := none }] }) ∧
    (s.fallsNow i 1 t x d k →
      ((t.addressed x k).1 = none → exec (.holdEntry i) s =
        .next (State.settle { t with table := { t.table with skipped := satAdd t.table.skipped 1 } })) ∧
      ((t.addressed x k).1 = some n → t.openedPast n = true → exec (.holdEntry i) s = .next (t.ttMiss i x d).settle) ∧
      ((t.addressed x k).1 = some n → t.openedPast n = false → u = t.fired i x →
        v = u.table.slots.foldl (fun t y => if y.2.entry.action = 5 ∧ y.2.waiting.isSome = true
          then (t.setSlot y.1 { y.2 with waiting := none }).ttSkip else t) u →
        (v.table.hold = none → exec (.holdEntry i) s = .next (State.settle { v with table := { v.table with
          hold := some (n, i, word (x.windowEnd d), false, false) } })) ∧
        (v.table.hold = some h → w = (if h.2.2.1.toNat < (word (x.windowEnd d)).toNat then word (x.windowEnd d) else h.2.2.1) →
          exec (.holdEntry i) s = .next (State.settle { v with table := { v.table with
            hold := some (if n ≤ h.1 then (h.1, h.2.1, w, h.2.2.2.1, h.2.2.2.2) else (n, i, w, false, false)) } })))) ∧
    (s.table.hold = some (n, e, w, started, ended) →
      (s.benchServes = true → w.toNat ≤ s.ft.toNat →
        (ended = true ∨ started = false ∧ (s.steps.sealedLetter = 3 ∨ s.steps.sealedStep < n)) →
        exec .holdEnd s = .next (State.settle { s with table := { s.table with hold := none } })) ∧
      ((s.ft.toNat < w.toNat ∨ started = true ∧ ended = false) → exec .holdEnd s = .next s.settle)) ∧
    (s.fallsNow i 2 t x d k →
      ((t.addressed x k).1 = none → exec (.checkClose i) s =
        .next (State.settle { t with table := { t.table with skipped := satAdd t.table.skipped 1 } })) ∧
      (t.addressed x k = (some n, anchored) → t.step? n = some r → (anchored = true → r.attempt = 0) → r.closed = none →
        u = t.fired i x → v = u.setStep { r with closed := some u.ft } →
        exec (.checkClose i) s = .next (State.settle (if r.own.isSome = true ∨ (v.localVerdict r).isSome = true then v
          else v.failStep (some r.id) 7))) ∧
      (t.addressed x k = (some n, anchored) → t.step? n = some r → (anchored = true ∧ r.attempt ≠ 0 ∨ r.closed.isSome = true) →
        exec (.checkClose i) s = .next (t.fired i x).settle) ∧
      (t.addressed x k = (some n, anchored) → t.step? n = none →
        (anchored = true ∨ t.steps.sealedLetter ≠ 3 ∧ n ≤ t.steps.sealedStep ∨ (tabFind t.steps.attempts n).isSome = true) →
        exec (.checkClose i) s = .next (t.fired i x).settle) ∧
      (t.addressed x k = (some n, false) → t.step? n = none → (t.steps.sealedLetter = 3 ∨ t.steps.sealedStep < n) →
        t.steps.replays = [] → tabFind t.steps.attempts n = none → exec (.checkClose i) s = .next (t.ttMiss i x d).settle))

/-- CLOCK, SNAPSHOT, MARK, EVAL, the calibration rows and their windows (R131, R193, R194, R258, R262, R532). -/
def Obligations.TimetableActions : Prop :=
  ∀ (s t : State) (i d k u ch : Nat) (x : TTSlot) (w : Word) (c : CalKind) (e : Nat × Nat × Word × Nat × Nat),
    (s.fallsNow i 3 t x d k →
      (t.stepOpen = false → exec (.clockEntry i) s = .next (State.settle { t.fired i x with power := { t.power with
        clock := bits x.entry.paramA.toNat 0 2 } })) ∧
      (t.stepOpen = true → exec (.clockEntry i) s = .next (State.settle (t.ttMiss i x d)))) ∧
    (s.fallsNow i 4 t x d k → exec (.snapshotEntry i) s = .next (State.settle ((t.fired i x).latch x.entry.paramA))) ∧
    (s.fallsNow i 9 t x d k → exec (.markEntry i) s = .next (State.settle ((t.fired i x).emit
      (event 0x000B .timetable .ok (le 2 i ++ zeros 6 ++ le 8 x.entry.paramB.toNat))))) ∧
    (s.fallsNow i 6 t x d k → x.waiting = none → exec (.evalEntry i) s = .next (State.settle
      (if t.evalMayOpen = true then (t.fired i x).openEval i x d else (t.fired i x).setSlot i { x with waiting := some (word d) }))) ∧
    (s.firstWaiting 6 (fun _ => true) = some (i, x, d) → s.benchServes = true → s.evalMayOpen = true → s.ft.toNat < x.windowEnd d →
      exec .evalSlotOpen s = .next (State.settle (s.openEval i x d))) ∧
    (s.steps.evalSlot = some e → e.2.2.1.toNat ≤ s.ft.toNat →
      exec .evalSlotClose s = .next (State.settle { s.closeEval with steps := { s.closeEval.steps with evalSlot := none } })) ∧
    (s.steps.evalSlot = none → ∀ p : TTSlot → Bool,
      (∀ y, p y = true ↔ ∃ w, y.waiting = some w ∧ y.windowEnd w.toNat ≤ s.ft.toNat) → s.firstWaiting 6 p = some (i, x, d) →
      exec .evalSlotClose s = .next (State.settle (State.ttMiss (s.setSlot i { x with waiting := none }) i x d))) ∧
    (((c = .lpddr6 ∧ s.fallsNow i 7 t x d k) ∨ (c = .inlay ∧ s.fallsNow i 8 t x d k)) → x.entry.cal = (c, u, ch) →
      calOk c u ch = true → t.calServes c u = true → x.waiting = none → ∀ row, row = (if c = .lpddr6 then .calLp i else .calInl i) →
      (t.windowOpen c u = false → exec row s = .next (State.settle ((t.fired i x).openWindow c u ch false))) ∧
      (t.windowOpen c u = true → x.entry.windowUs ≠ 0 →
        exec row s = .next (State.settle ((t.fired i x).setSlot i { x with waiting := some (word d) })))) ∧
    (tabFind s.table.slots i = some x → x.waiting = some w → (x.entry.action = 7 ∨ x.entry.action = 8) → s.benchServes = true →
      x.windowEnd w.toNat ≤ s.ft.toNat →
      exec (.calWaitExpiry i) s = .next (State.ttMiss (s.setSlot i { x with waiting := none }) i x w.toNat)) ∧
    (s.mem.windows.any (fun w => w.1 == c && w.2.1 == u && w.2.2.1 == ch) = true →
      t = { s with mem := { s.mem with windows := s.mem.windows.filter fun w => !(w.1 == c && w.2.1 == u && w.2.2.1 == ch) } } →
      exec (.calibrationWindowEnd c u ch true) s = .next (t.calNext c u) ∧
      exec (.calibrationWindowEnd c u ch false) s = .next (State.calNext
        (State.fault (State.setBits { t with mem := { t.mem with failUnit := u, failChannel := ch } } .memCalStatus
            (if c = .lpddr6 then 1 else 2)) 0x000B
          (if c = .lpddr6 then .lpChannel (8 * u + ch) else .inlayChannel (32 * u + ch)) .ok 0 0) c u)) ∧
    (calOk c u ch = true → s.rbit .memCalCtrl 16 = true → s.calServes c u = true → s.windowOpen c u = false →
      tabGet 0 s.mem.windowAt (calKey c u ch) + 2 * s.calInterval c ≤ s.now →
      exec (.forcedWindow c u ch) s = .next (State.openWindow (s.setBits .memCalStatus 4) c u ch true))

/-- TWIN_SEND, TWIN_RECEIVE and TWIN_ADOPT (R383, R384, R385). -/
def Obligations.TwinCommandsComplete : Prop :=
  ∀ (s u : State) (c : OpenCmd) (x : TwinTransfer),
    (s.executes c 0x0700 u → x = transferOf true c → u.transferBad x = false → x.generation = u.fabric.partition.generation →
      u.retentionBusy = false → u.stepOpen = false → x.contexts.any (fun n => (u.context n).busy) = false →
      u.twin.mirrorValid = true → u.steps.restoreFailed = false → x.step = u.steps.sealedStep → x.letter = u.steps.sealedLetter →
      exec .twinSend s = .next (State.started { u with twin := { u.twin with transfer := some x } } c .twinSend
        fun t => t.startTransfer x).settle) ∧
    (s.executes c 0x0701 u → x = transferOf false c → u.transferBad x = false → u.retentionBusy = false → u.stepOpen = false →
      x.contexts.any (fun n => (u.context n).busy) = false →
      ∃ v : State, v = x.contexts.foldl (fun t n => t.setRx n none) u ∧
        exec .twinReceive s = .next (State.started { v with twin := { v.twin with
          transfer := some x, role := 3, mirrorValid := false, peer := x.peer, newPairing := false } } c .twinReceive id).settle) ∧
    (s.executes c 0x0702 u → u.stepOpen = false → u.retentionBusy = false →
      (u.twin.mirrorValid = true → u.twin.role ≠ 2 →
        exec .twinAdopt s = .next (State.ended { u with twin := { u.twin with role := 2, mirrorValid := false } } c [] id).settle) ∧
      ((u.twin.mirrorValid = false ∨ u.twin.role = 2) → exec .twinAdopt s = .next (u.turnedAway c .badParam []).settle)) ∧
    (s.executes c 0x0702 u → (u.stepOpen = true ∨ u.retentionBusy = true) →
      exec .twinAdopt s = .next (u.turnedAway c .busy []).settle)

/-- CKPT_CUT, CHECKPOINT_RELEASE, CKPT_RETRY and RESTORE (R392 to R395). -/
def Obligations.CheckpointCommandsComplete : Prop :=
  ∀ (s u f : State) (c : OpenCmd) (r : StepRec) (w : ImageWrite) (v n : Nat),
    (s.executes c 0x0703 u → u.step? (uAt c.params 0 8) = some r → u.retentionBusy = false →
      (u.longOps.any fun o => o.2 == .ckptCut) = false → (r.phase = 1 ∨ r.phase = 2) → r.cut = none →
      exec .ckptCut s = .next (State.started (u.setStep { r with cut := some (uAt c.params 8 1 == 1) }) c .ckptCut id).settle) ∧
    (s.executes c 0x0704 u → u.ckpt.writing = none → u.ckpt.frozen = some (v, uAt c.params 0 8) →
      exec .checkpointRelease s = .next (State.ended { u with ckpt := { u.ckpt with frozen := none } } c [] id).settle) ∧
    (s.executes c 0x0704 u → u.ckpt.writing.isSome = true →
      exec .checkpointRelease s = .next (u.turnedAway c .busy []).settle) ∧
    (s.executes c 0x0705 u → u.retentionBusy = false → u.ckpt.last = some w → u.ckpt.frozen = some (v, n) →
      u.ckpt.state = 3 → n = uAt c.params 0 8 → w.step = n →
      exec .ckptRetry s = .next (u.started c .ckptRetry fun t =>
        t.startImage { w with cmd := some c.jseq, holdEntry := none, continueAfter := false }).settle) ∧
    (s.executes c 0x0706 u → uAt c.params 0x14 1 ≤ 1 → uAt c.params 0xC 4 < 2 ^ 17 → uAt c.params 0 8 < 2 ^ 48 →
      (u.stepOpen = false ∨ u.heldByCut = true) → u.retentionBusy = false →
      f = u.connectTargets.readObject (uAt c.params 0x14 1) 0 0 4096 →
      exec .restoreImage s = .next (State.started { f with ckpt := { f.ckpt with
        state := 4
        restore := some { step := uAt c.params 0 8, generation := uAt c.params 8 4, chip := uAt c.params 0xC 4,
                          imageNumber := uAt c.params 0x10 4, slot := uAt c.params 0x14 1, cmd := c.jseq, headers := [] }
        engineKeys := f.security.keys } } c .restore id).settle)

/-- JOURNAL_SUMMARY, JOURNAL_READ, JOURNAL_COMPACT and the end of a compaction (R442, R452, R456). -/
def Obligations.JournalCommandsComplete : Prop :=
  ∀ (s u : State) (c : OpenCmd) (n : Nat) (cs : List Nat),
    (s.executes c 0x0800 u → exec .journalSummary s = .next (u.ended c c.summary id)) ∧
    (s.executes c 0x0801 u → uAt c.params 12 1 = 0 → exec .journalRead s = .next (u.ended c
      (journalReadData (uAt c.params 0 8) (uAt c.params 8 4)
        ((u.journal.records.filter (fun r => decide (uAt c.params 0 8 ≤ r.seq))).map fun r => (r.seq, recordBytes r))) id)) ∧
    (s.executes c 0x0801 u → uAt c.params 12 1 ≠ 0 → exec .journalRead s = .next (u.ended c
      (journalReadData (uAt c.params 0 8) (uAt c.params 8 4)
        (((u.journal.active.outcomes.foldl (fun l e => insertEntry e l) []).filter
          (fun e => decide (uAt c.params 0 8 ≤ e.seq))).map fun e => (e.seq, outcomeEntryBytes e))) id)) ∧
    (s.executes c 0x0802 u → u.journal.compacting = none → exec .journalCompact s = .next (State.started
      { u with journal := { u.journal with compacting := some (u.journal.nextSeq - 1, [c.jseq]) } } c .compact id)) ∧
    (s.executes c 0x0802 u → u.journal.compacting = some (n, cs) → exec .journalCompact s = .next (State.started
      { u with journal := { u.journal with compacting := some (n, cs ++ [c.jseq]) } } c .compact id)) ∧
    (s.journal.compacting = some (n, cs) → exec .journalCompactionEnd s =
      .next (State.emitWaiting (State.journalNotices (cs.foldl (fun t k => t.closeCmd k .ok []) (s.switchSnapshot n))))) ∧
    (s.journal.compacting = none → exec .journalCompactionEnd s = .next s)

/-- GLUE_UP_WRITE_END, OBJECT_WRITE_FAIL, TWIN_TRANSFER_END, TWIN_DIGEST_END, RESTORE_HEADER_PASS_END and
RESTORE_PAYLOAD_PASS_END (R183, R185, R383, R391, R393, R396, R398, R399; the place of a restore's regions is assumption log 137). -/
def Obligations.ImagesAndTransfersEnd : Prop :=
  ∀ (s t u v y z : State) (w : ImageWrite) (x : TwinTransfer) (r : Restore) (xs : List ((List Byte × List Byte) × Nat))
      (shard k : Nat) (cause : Sys2Proof.ObjectFault) (hs ps : List (Option (List Byte))) (qs : List (List Byte)) (st e : Status)
      (off : List Nat) (programs : List (Nat × Nat)),
    (s.ckpt.writing = some w → t = s.sourceRead w → t.poisonedShard w = none →
      xs = ((shardsOf (t.sections w)).zipIdx.map fun e => (t.sealShard w e.2 e.1, e.2)) →
      y = xs.foldl (fun t e => t.writeObject w e.2 e.1) t →
      u = y.targets.foldl (fun t i => t.send (.flush (t.targetAt i).1 (t.targetAt i).2.1 (t.targetAt i).2.2)) y →
      v = { u with ckpt := { u.ckpt with state := 2, writing := none, last := some w, engineKeys := [] } } →
      exec .glueUpWriteEnd s = .next (State.settle (State.cutEnded (State.holdImageEnded (State.ckptDone
        (v.setReg .ckptCtrl (v.reg .ckptCtrl ^^^ 1)) w .ok 0xFFFFFFFF (Config.shake256 (xs.flatMap fun e => e.1.1) 32)) w) w))) ∧
    (s.ckpt.writing = some w → t = s.sourceRead w → t.poisonedShard w = some k →
      exec .glueUpWriteEnd s = .next (t.imageFailed k .poison).settle) ∧
    (s.ckpt.writing = some w → t = s.sourceRead w → t.ckpt.writing = some w → (∀ k, t.poisonedShard w = some k → shard ≤ k) →
      u = (((shardsOf (t.sections w)).zipIdx.take shard).map fun e => (t.sealShard w e.2 e.1, e.2)).foldl (fun t e => t.writeObject w e.2 e.1) t →
      v = { u with ckpt := { u.ckpt with state := 3, writing := none, last := some w, engineKeys := [] } } →
      exec (.objectWriteFail shard cause) s = .next (State.settle (State.cutEnded (State.holdImageEnded
        (v.ckptDone w (faultStatus cause) shard []) w) w))) ∧
    (s.twin.transfer = some x → s.transferDone x = true → x.digesting = false →
      (x.sending = true → exec .twinTransferEnd s = .next (State.settle (s.endTransfer x .ok))) ∧
      (x.sending = false → (∃ n ∈ x.contexts, ∃ p, (s.context n).rx = some p ∧ p.poison = true) →
        exec .twinTransferEnd s = .next (State.settle (s.failTransfer .poison))) ∧
      (x.sending = false → (∀ n ∈ x.contexts, ∀ p, (s.context n).rx = some p → p.poison = false) →
        exec .twinTransferEnd s = .next (State.settle { s with twin := { s.twin with transfer := some { x with digesting := true } } }))) ∧
    (s.twin.transfer = some x → x.sending = false → x.digesting = true →
      u = s.digestRead (s.ownMaster x.letter) → t = u.digestRead (s.mirrorMaster x.letter) →
      (t.recordMatches x 0 (t.ownMaster x.letter) = true → t.recordMatches x 1 (t.mirrorMaster x.letter) = true →
        exec .twinDigestEnd s = .next (State.settle (State.endTransfer { t with
          steps := { t.steps with sealedLetter := x.letter, sealedStep := x.step, sealedSince := false, sealedParams := none }
          twin := { t.twin with role := 1, peer := x.peer, mirrorValid := true, newPairing := false } } x .ok))) ∧
      ((t.recordMatches x 0 (t.ownMaster x.letter) = false ∨ t.recordMatches x 1 (t.mirrorMaster x.letter) = false) →
        exec .twinDigestEnd s = .next (State.settle (t.failTransfer .badTag)))) ∧
    (s.ckpt.restore = some r → r.headers = [] →
      t = (upFrom 1 (hs.length - 1)).foldl (fun t k => t.readObject r.slot k 0 4096) s →
      (t.headerFault r hs = some (st, off) → exec (.restoreHeaderPassEnd hs) s = .next (State.settle (t.endRestore r st off))) ∧
      (t.headerFault r hs = none →
        u = (hs.filterMap id).zipIdx.foldl (fun t h => t.readObject r.slot h.2 4096 (roundUp (uAt h.1 0x30 8) 4096)) t →
        exec (.restoreHeaderPassEnd hs) s = .next (State.settle
          { u with ckpt := { u.ckpt with restore := some { r with headers := hs.filterMap id } } }))) ∧
    (s.ckpt.restore = some r → r.headers ≠ [] →
      qs = (s.payloadsPassed (r.headers.zipIdx.map fun h => (h.1, (ps[h.2]?).bind id))).1 → z = s.imageMap r.headers qs →
      programs = programRanges 16 (sectionBytes r.headers qs 4) →
      u = (r.headers.zip qs).foldl (fun t e => t.restoreShard z programs e.1 e.2) s →
      ((s.payloadsPassed (r.headers.zipIdx.map fun h => (h.1, (ps[h.2]?).bind id))).2 = none →
        exec (.restorePayloadPassEnd ps) s = .next (State.settle ((u.activate r qs).endRestore r .ok []))) ∧
      ((s.payloadsPassed (r.headers.zipIdx.map fun h => (h.1, (ps[h.2]?).bind id))).2 = some e →
        exec (.restorePayloadPassEnd ps) s = .next (State.settle (State.endRestore
          { u with steps := { u.steps with restoreFailed := true, opened := [] } } r e [qs.length]))))

/-- SNAPSHOT_NOW, SNAPSHOT_READ and the completion of a snapshot (R522, R523). -/
def Obligations.SnapshotsLatchAndRead : Prop :=
  ∀ (s u : State) (c : OpenCmd) (x : CounterSnapshot) (tag : BitVec 32) (i j : Nat) (mine : List Nat),
    (s.executes c 0x0900 u → tag = BitVec.ofNat 32 (uAt c.params 0 4) →
      x = { tag := tag, ft := u.ft, takenAt := u.now, complete := false, generation := u.fabric.partition.generation,
            values := u.obs.counters } →
      exec .snapshotNow s = .next (State.ended
        { u with obs := { u.obs with snapshots := tabPut u.obs.snapshots (u.snapshotSlot tag) x } } c [] id)) ∧
    (s.executes c 0x0901 u → u.snapshot (uAt c.params 0 4) = some x → uAt c.params 4 4 + uAt c.params 8 4 ≤ counterCount →
      (x.complete = true → exec .snapshotRead s = .next (u.ended c (x.data (uAt c.params 4 4) (uAt c.params 8 4)) id)) ∧
      (x.complete = false → ∀ v : State, v = { u.setPhase c.jseq .running with
          obs := { u.obs with waitingReads := u.obs.waitingReads ++ [c.jseq] } } →
        exec .snapshotRead s = .next (if c.long = true then v.acceptReply c false else v))) ∧
    (s.executes c 0x0901 u → (u.snapshot (uAt c.params 0 4) = none ∨ counterCount < uAt c.params 4 4 + uAt c.params 8 4) →
      exec .snapshotRead s = .next (u.turnedAway c .badParam [])) ∧
    (s.obs.snapshots.find? (fun e => e.2.tag == tag) = some (i, x) → x.complete = false → x.takenAt + ticksUs 1 ≤ s.now →
      s.obs.waitingReads.filter (fun j => match s.openCmd j with | some d => uAt d.params 0 4 == tag.toNat | none => false) = mine →
      ∀ v : State, v = { s with obs := { s.obs with
          snapshots := tabPut s.obs.snapshots i { x with complete := true }
          waitingReads := s.obs.waitingReads.filter fun j => !mine.contains j } } →
        (mine = [] → exec (.snapshotComplete tag) s = .next v) ∧
        (mine = [j] → s.openCmd j = some c → c.long = false → c.notBefore = none → s.tooLate c = false →
          exec (.snapshotComplete tag) s = .next (v.finish c .ok (x.data (uAt c.params 4 4) (uAt c.params 8 4)))) ∧
        (mine = [j] → s.openCmd j = some c → c.long = true →
          exec (.snapshotComplete tag) s = .next (v.closeCmd j .ok (x.data (uAt c.params 4 4) (uAt c.params 8 4))))) ∧
    (s.obs.snapshots.find? (fun e => e.2.tag == tag) = some (i, x) → (x.complete = true ∨ s.now < x.takenAt + ticksUs 1) →
      exec (.snapshotComplete tag) s = .next s)

/-- The trace and power commands (R443, R525, R531, R541). -/
def Obligations.TraceAndPowerCommands : Prop :=
  ∀ (s u : State) (c : OpenCmd) (rs : List Nat) (r first count : Nat),
    (s.executes c 0x0902 u → ringsOf (uAt c.params 0 4) true = some rs → ∀ f : TraceRing → TraceRing, ∀ t : State,
      t = State.ended { u with obs := { u.obs with
        rings := rs.foldl (fun t r => tabMod traceRingReset t r f) u.obs.rings } } c [] id →
      (uAt c.params 4 1 = 0 → f = (fun x => { x with state := 0 }) → exec .traceOff s = .next t) ∧
      (uAt c.params 4 1 = 1 → f = (fun x => { x with state := 1 }) → exec .traceOn s = .next t) ∧
      (uAt c.params 4 1 = 2 → f = (fun x => { x with state := 2 }) → exec .traceFreeze s = .next t) ∧
      (uAt c.params 4 1 = 3 → f = (fun x => { x with entries := [], written := 0 }) → exec .traceClear s = .next t)) ∧
    (s.executes c 0x0903 u → ringsOf (uAt c.params 0 4) false = some [r] → first = uAt c.params 4 4 → count = uAt c.params 8 4 →
      ((tabGet traceRingReset u.obs.rings r).state ≠ 1 → first + count ≤ (tabGet traceRingReset u.obs.rings r).entries.length →
        exec .traceRead s = .next (u.ended c
          ((((tabGet traceRingReset u.obs.rings r).entries.reverse.drop first).take count).flatMap id) id)) ∧
      ((tabGet traceRingReset u.obs.rings r).state = 1 → exec .traceRead s = .next (u.turnedAway c .busy []))) ∧
    (s.executes c 0x0904 u → exec .telemetryRead s = .next (u.ended c
      (le 8 u.power.evaluatedFt.toNat ++ le 4 u.power.inputW.toNat ++ le 2 (clockMhz u.power.clock) ++
        le 2 u.power.moduleDuty ++ (List.range 26).flatMap u.telemetryRecord) id)) ∧
    (s.executes c 0x0A00 u → exec .pwrStatus s = .next (u.ended c (le 8 u.pwrStatus.toNat) id)) ∧
    (s.executes c 0x0A01 u → uAt c.params 4 1 = 0 → 1000 ≤ uAt c.params 0 4 → uAt c.params 0 4 ≤ 3800 →
      exec .pwrCap s = .next (State.ended (u.setReg .pwrCapModule (word (uAt c.params 0 4))) c [] id)) ∧
    (s.executes c 0x0A01 u → uAt c.params 4 1 ≠ 0 → (uAt c.params 0 4 = 0 ∨ 30 ≤ uAt c.params 0 4 ∧ uAt c.params 0 4 ≤ 140) →
      exec .pwrCap s = .next (State.ended (u.setReg (.pwrCapDie (uAt c.params 4 1 - 1)) (word (uAt c.params 0 4))) c [] id)) ∧
    (s.executes c 0x0A01 u → capOk (uAt c.params 4 1 != 0) (uAt c.params 0 4) = false →
      exec .pwrCap s = .next (u.turnedAway c .badParam []))

/-- RESET_DOMAIN and COLD_RESET (R443, R444, R467; assumption log 41). -/
def Obligations.ResetCommandsComplete : Prop :=
  ∀ (s u : State) (c : OpenCmd) (d : DomainCode) (i : Nat) (row : Sys2Proof.Instr),
    (s.executes c 0x0B00 u → i = uAt c.params 2 2 →
      ((uAt c.params 0 1 = 0 ∧ d = .core ∧ row = .resetCore) ∨ (uAt c.params 0 1 = 1 ∧ d = .cluster ∧ row = .resetCluster) ∨
        (uAt c.params 0 1 = 2 ∧ d = .die ∧ row = .resetComputeDie) ∨ (uAt c.params 0 1 = 3 ∧ d = .router ∧ row = .resetCarcassRouter) ∨
        (uAt c.params 0 1 = 4 ∧ d = .memory ∧ row = .resetCarcassMemory) ∨ (uAt c.params 0 1 = 5 ∧ d = .bench ∧ row = .resetBench)) →
      (i < instances d → u.resetClamped d i = false → u.resetBusy d i = false →
        exec row s = .next (State.settle <|
          if d = .bench then State.conclude c false ⟨.direct .ok [], u, fun t => t.resetBench 2 true⟩
          else u.started c (.resetDomain d i) fun t => t.startReset d i (some c.jseq) false)) ∧
      (instances d ≤ i → exec row s = .next (u.turnedAway c .badParam []).settle) ∧
      (i < instances d → u.resetClamped d i = true → exec row s = .next (u.turnedAway c .clamped []).settle) ∧
      (i < instances d → u.resetClamped d i = false → u.resetBusy d i = true →
        exec row s = .next (u.turnedAway c .busy []).settle)) ∧
    (s.executes c 0x0B01 u → exec .coldReset s = .next (State.settle
      (State.conclude c false ⟨.direct .ok [], u, fun t => (t.sendDark t.ft 1).coldReset 1 true⟩)))

/-- The course of a reset (R464, R465, R466, R470). -/
def Obligations.ResetsRunTheirCourse : Prop :=
  ∀ (s : State) (d : DomainCode) (i since : Nat) (r : ResetRun) (passed : Bool), i < instances d → s.resetRun d i = some r →
    (r.phase = .fenced since → d ≠ .router →
      (since + s.drainTicks d ≤ s.now → exec (.drainWindowEnd d i) s = .next (s.assertReset r).settle) ∧
      (s.now < since + s.drainTicks d → exec (.drainWindowEnd d i) s = .next s.settle)) ∧
    (d = .router → i = 0 → r.phase = .fenced since → since + ticksUs 100 ≤ s.now →
      exec .routerIngressClose s = .next (s.setRun { r with phase := .ingressClosed since }).settle) ∧
    (d = .router → i = 0 → r.phase = .ingressClosed since → since + ticksUs 150 ≤ s.now →
      exec .routerAssert s = .next (s.assertReset r).settle) ∧
    (r.phase = .asserted since → s.resets.any (fun x => (x.domain != d || x.inst != i) && contains_ x.domain x.inst d i) = false →
      (d ≠ .router → d ≠ .bench → since + ticksMs 1 ≤ s.now →
        exec (.resetRelease d i passed) s = .next (s.releaseUnit r passed).settle) ∧
      (d = .bench → since + ticksMs 1 ≤ s.now → exec (.resetRelease d i passed) s = .next
        (State.benchReturns { s with resets := s.resets.filter fun x => x.domain != .bench }).settle) ∧
      (d = .router → since + ticksMs 5 ≤ s.now → exec (.resetRelease d i passed) s = .next
        ((List.range 16).foldl (fun t n => t.bringUp n) (s.setRun { r with phase := .returning s.now })).settle)) ∧
    (r.phase = .returning since → (s.portsTrain = false ∨ since + ticksMs 20 ≤ s.now) →
      exec (.resetRelease d i passed) s = .next (s.endRun r .ok).settle)

/-- NOT_BEFORE_EXECUTE, NOT_BEFORE_LOCK_TIMEOUT and LONG_OPERATION_END (R253, R422). -/
def Obligations.HeldAndLongCommandsEnd : Prop :=
  ∀ (s : State) (c : OpenCmd) (errs : Sys2Proof.BitErrors) (failing : List (Nat × Nat × Nat)) (v : List Sys2Proof.Byte)
      (j : Nat) (op : LongOp),
    (s.nextHeld = some c → c.heldFt ≤ s.ft.toNat → s.tableFirst c.heldFt = false → s.benchUp = true → s.boot.commandReady = true →
      s.journal.fits 0 = true → s.commonRefusal c.session c.opcode c.params = none →
      exec (.notBeforeExecute errs failing v) s =
        .next (State.conclude c true (meaningOf errs failing v c.opcode c (s.begun c))).settle) ∧
    ((∀ c, s.nextHeld = some c → s.ft.toNat < c.heldFt) → exec (.notBeforeExecute errs failing v) s = .next s.settle) ∧
    (s.benchUp = true → s.boot.commandReady = true → s.time.lockedOnce = false → s.boot.readyAt + ticksS 60 ≤ s.now →
      exec .notBeforeLockTimeout s = .next (s.settleHeld true)) ∧
    (s.openCmd j = some c → tabFind s.longOps j = some op → c.phase = .running → s.power.rails = .on →
      (op = .stepHalt → (s.hit errs).benchUp = true →
        exec (.longOperationEnd j errs) s = .next ((s.hit errs).closeCmd j .ok []).unhit.settle) ∧
      (∀ a b x y, op = .stepRecall a b x y → (s.hit errs).benchUp = true →
        exec (.longOperationEnd j errs) s = .next ((s.hit errs).closeCmd j .ok []).unhit.settle) ∧
      (∀ st data, op = .done st data → (s.hit errs).benchUp = true →
        exec (.longOperationEnd j errs) s = .next ((s.hit errs).closeCmd j st data).unhit.settle) ∧
      (∀ r w, op = .imageCommit r w → (s.hit errs).benchUp = true →
        exec (.longOperationEnd j errs) s = .next ((s.hit errs).closeCmd j ((s.hit errs).imageStatus r w) []).unhit.settle) ∧
      (∀ a n, op = .programLoad a n → (s.hit errs).benchUp = true → exec (.longOperationEnd j errs) s =
        .next (State.closeCmd ((s.hit errs).loadProgram a n).2 j ((s.hit errs).loadProgram a n).1 []).unhit.settle) ∧
      (∀ i k l, op = .fieldTest i k l → (s.hit errs).benchUp = true →
        exec (.longOperationEnd j errs) s = .next ((s.hit errs).fieldTestEnd j i k l).unhit.settle) ∧
      ((s.hit errs).inReset .memory 0 = false →
        (∀ a n b, op = .memFill a n b → (s.hit errs).clampedUnder [(a, n)] = false → exec (.longOperationEnd j errs) s = .next
          (((s.hit errs).store .carcass a ((List.range (n / 16)).flatMap fun _ => b)).closeCmd j .ok []).unhit.settle) ∧
        (∀ d a n (f : State), op = .memCopy d a n → (s.hit errs).clampedUnder [(a, n), (d, n)] = false →
          f = (s.hit errs).fetch .carcass a n → exec (.longOperationEnd j errs) s = .next (State.settle (State.unhit (match f.firstPoison a n with
            | some g => f.closeCmd j .poison (le 8 g)
            | none => (f.store .carcass d (f.bytesAt a n)).closeCmd j .ok [])))) ∧
        (∀ a n (f : State), op = .memDigest a n → (s.hit errs).clampedUnder [(a, n)] = false →
          f = (s.hit errs).fetch .carcass a n → exec (.longOperationEnd j errs) s = .next (State.settle (State.unhit (match f.firstPoison a n with
            | some g => f.closeCmd j .poison (le 8 g)
            | none => f.closeCmd j .ok (exactly 32 (Config.shake256 (f.bytesAt a n) 32))))))))

/-- BOOT_STAGE_END of the stages 0 to 3 (R28, R32, R402, R483, R486, R496, R499, R500; what a boot after a Bench reset does
again is assumption log 46). -/
def Obligations.EarlyBootStagesEnd : Prop :=
  ∀ (s t u v w : State) (g1 : Bool) (g k : Nat × Nat × Nat) (vs : BitVec 32 × BitVec 32 × BitVec 32) (rv : BitVec 4)
      (cfg : ConfigImage) (st : List (BitVec 8)) (cs bs : BitVec 8) (lf sf mf : BitVec 24) (c b : Nat × Nat),
    s.benchUp = true →
    (s.boot.stopAfter = none → s.inStage 0 = true → s.security.level ≠ 3 →
      exec (.bootStageEnd (.rom g1 true)) s = .next (State.settle { s with
        security := { s.security with noIdentity := !g1 }, boot := { s.boot with
          stage := 1, frontier := max s.boot.frontier (s.boot.stage + 1) } }) ∧
      exec (.bootStageEnd (.rom g1 false)) s = .next (State.settle { s with security := { s.security with noIdentity := !g1 } })) ∧
    (s.boot.stopAfter = none → s.inStage 1 = true →
      pairingOk (if 1 < s.boot.frontier then s.security.config.pairing else cfg.pairing) = true → s.security.noIdentity = false →
      u = { s with boot := { s.boot with watchdogArmed := true } } →
      t = (if 1 < s.boot.frontier then u else u.loadImages true g vs rv k cfg) →
      exec (.bootStageEnd (.images true true true g vs rv k cfg)) s = .next (State.settle { t with
        security := { t.security with recordValid := true }, boot := { s.boot with
          watchdogArmed := true, stage := 2, frontier := max s.boot.frontier (s.boot.stage + 1) } })) ∧
    (s.inStage 2 = true → t = s.recoverJournal (decide (2 < s.boot.frontier)) →
      u = (if (t.boot.coldCause = 0 ∨ t.boot.coldCause = 5) ∧ t.boot.frontier ≤ 2 then { t with square := { t.square with ledger := t.square.ledger.map fun (e : Nat × LedgerEntry) =>
        (e.1, { e.2 with state := if e.2.state = 1 then 2 else e.2.state }) } } else t) →
      v = State.emitWaiting (State.journalNotices u) → w = (if v.time.lockedOnce then v.settleHeld false else v) →
      exec (.bootStageEnd .journal) s = .next (State.settle (w.nextStage (if 3 < w.boot.frontier then 4 else 3)))) ∧
    (s.inStage 3 = true → t = State.pairTable ((List.range 24).foldl (fun u d =>
        if nth 0 st d = 0 then (u.setDie d { u.die d with stepping := nth 0 st d, present := nth 0 st d != 0 }).clampDie d 5 false
        else if (pairingOf s.security.config.pairing 0 (nth 0 st d).toNat).isNone
        then (u.setDie d { u.die d with stepping := nth 0 st d, present := nth 0 st d != 0 }).clampDie d 1 false
        else u.setDie d { u.die d with stepping := nth 0 st d, present := nth 0 st d != 0 })
        { s with boot := { s.boot with carcassStepping := cs, benchStepping := bs } }) st →
      pairingOf s.security.config.pairing 1 cs.toNat = some c →
      (pairingOf s.security.config.pairing 2 bs.toNat = some b → u = t.pairDies st c b →
        v = (List.range 24).foldl (fun w d => if (lf.getLsbD d && (!u.boot.features.getLsbD 2 || sf.getLsbD d)) || mf.getLsbD d
          then w.clampDie d 2 false else w) u →
        exec (.bootStageEnd (.dies st cs bs lf sf mf)) s = .next (State.settle (v.nextStage 4))) ∧
      (pairingOf s.security.config.pairing 2 bs.toNat = none →
        exec (.bootStageEnd (.dies st cs bs lf sf mf)) s = .next (State.settle (State.nextStage (t.stopAt 3 .badParam) 4))))

/-- BOOT_STAGE_END of the stages 4 to 7 (R25, R67, R70, R189, R193, R483, R484, R486, R487, R500). -/
def Obligations.LateBootStagesEnd : Prop :=
  ∀ (s t u v w : State) (il : BitVec 24) (lp : List (Nat × BitVec 8)) (col : List (Nat × BitVec 32)) (rp cl : List Nat),
    s.benchUp = true →
    (s.boot.commandReady = false → s.boot.stage = 4 →
      t = State.raiseRecord { s with boot := { s.boot with
        commandReady := true, readyAt := s.now, cmdReadyMs := BitVec.ofNat 16 (min 65535 ((s.now - s.boot.startedAt) / ticksMs 1)) } } →
      u = (if t.boot.released then t else (List.range 16).foldl (fun t n => t.bringUp n) t) →
      v = State.bootEvent { u with boot := { u.boot with released := true } } (if u.boot.stopped then u.boot.stopStatus else .ok) 0 →
      exec (.bootStageEnd .commandReady) s = .next (State.settle (if v.boot.stopped || decide (7 < v.boot.frontier) then v
        else v.nextStage (max 5 v.boot.frontier)))) ∧
    (s.boot.stage = 5 → s.boot.stopStatus ≠ .clamped →
      t = State.calibrated { s with mem := { (if s.boot.coldCause = 0 ∨ s.boot.coldCause = 5 then s.mem.clear lpddr6Base lpddr6End else s.mem).clear
        0 lpddr6Base with drawers := [] } } →
      u = (List.range 24).foldl (fun t d => if il.getLsbD d then t.clampDie d 2 false else t) t →
      exec (.bootStageEnd (.memory lp il)) s = .next (State.settle
        (if (lp.filter fun e => e.2 != 0 && decide (e.1 < 24)) = [] then u.nextStage 6
         else u.lpddr6Fails (lp.filter fun e => e.2 != 0 && decide (e.1 < 24))))) ∧
    (s.boot.stage = 6 →
      t = { s with engines := (List.range 1536).foldr (fun e t =>
        if ({ manufacturing := columnsOf s.security.config.bypass e, boot := columnsOf col e &&& ~~~columnsOf s.security.config.bypass e } : EngineState)
          = engineReset then t
        else (e, { manufacturing := columnsOf s.security.config.bypass e, boot := columnsOf col e &&& ~~~columnsOf s.security.config.bypass e }) :: t) [] } →
      u = { t with boot := { s.boot with bootBypass := (t.engines.filter fun e => e.2.boot != 0).length } } →
      v = ((List.range 384).filter fun c => (upFrom (4 * c) 4).any fun e => decide ((u.engine e).width < 28) || rp.contains e).foldl
        (fun t c => t.clampCore c 3 false) u →
      w = ((List.range 96).filter cl.contains).foldl (fun t k => t.clampCluster k 2 false) v →
      exec (.bootStageEnd (.compute col rp cl)) s = .next (State.settle (w.nextStage 7))) ∧
    (s.boot.stage = 7 → s.boot.trainingReady = false →
      t = { s with
        boot := { s.boot with trainingReady := true, frontier := 8, trainReadyMs := BitVec.ofNat 16 (min 65535 (s.bootMs s.now)) }
        mem := { s.mem with bankFresh := [] } } →
      exec (.bootStageEnd .trainingReady) s = .next (State.settle (t.bootEvent .ok (s.bootMs s.now))))

/-- FEED_QUALIFIED, FEED_LEAVES_RANGE, POWER_GOOD, COLD_RESET_N, THERMAL_TRIP, THERMAL_TRIP_CLEAR, SVC_EN and
AUXILIARY_INPUT_CHANGE (R542 to R548, R553). The hold of the rails by SVC_EN is the model's own (assumption log 48). -/
def Obligations.RailsRiseAndFall : Prop :=
  ∀ (s t : State) (feed other since ns die : Nat) (on : Bool), feed < 2 → die < 26 →
    (s.power.qualified feed = false → s.power.rails = .off → s.power.coldResetHeld = false → s.power.tripped = false →
      s.power.svcEn = false →
      exec (.feedQualified feed) s = .next (State.serviceLine { s with power := { s.power.setFeed feed true with
        bothLostAt := none, rails := .rising s.now } })) ∧
    (s.power.qualified feed = false → s.power.rails = .on → s.power.feedLost feed = true →
      exec (.feedQualified feed) s = .next (State.powerUp (State.faultRecovered
        { s with power := { s.power.setFeed feed true with bothLostAt := none }.setLost feed false } 0x0016 .module .ok feed 0))) ∧
    (s.power.qualified feed = true → other = 1 - feed → s.power.qualified other = true → s.power.rails = .on →
      exec (.feedLeavesRange feed) s = .next (State.fault { s with power := (s.power.setFeed feed false).setLost feed true }
        0x0016 .module .ok feed 0)) ∧
    (s.power.qualified feed = true → other = 1 - feed → s.power.qualified other = false → s.power.rails = .on →
      exec (.feedLeavesRange feed) s = .next (State.serviceLine { s with power := { s.power.setFeed feed false with
        bothLostAt := some s.now } })) ∧
    (s.power.rails = .rising since → since + ticksMs 16 ≤ s.now →
      t = s.coldReset (if s.boot.failDeclared then 5 else 0) false →
      exec .powerGood s = .next { t with power := { t.power with rails := .on }, boot := { t.boot with failDeclared := false } }) ∧
    (s.power.rails = .on → 10000 ≤ ns →
      exec (.coldResetN false ns) s = .next (State.serviceLine (State.declareFail
        { s with power := { s.power with coldResetHeld := true } }))) ∧
    (s.power.rails = .on → ns < 1000 → exec (.coldResetN false ns) s = .next s) ∧
    (exec (.coldResetN true ns) s = .next (State.powerUp { s with power := { s.power with coldResetHeld := false } })) ∧
    (s.power.rails = .on → exec (.thermalTrip die) s = .next (State.declareFail { s with power := { s.power with tripped := true } })) ∧
    (exec .thermalTripClear s = .next (State.powerUp { s with power := { s.power with tripped := false } })) ∧
    (s.power.rails ≠ .off → exec (.svcEn on) s = .next { s with
      power := { s.power with svcEn := on }, security := { s.security with service := on && !s.power.fed && s.power.aux } }) ∧
    (exec (.auxiliaryInputChange on) s = .next { s with
      power := { s.power with aux := on }, security := { s.security with service := s.power.svcEn && !s.power.fed && on } })

/-- POWER_FAIL, POWER_FAIL_NOTICE, DARK_FT_REACHED, POWER_FAIL_RAILS_OFF, POWER_EVALUATION and NOTICE_UDP_REPEAT (R400, R401,
R473, R479, R480, R530). -/
def Obligations.PowerFailRunsItsCourse : Prop :=
  ∀ (s t : State) (since : Nat) (tm : Sys2Proof.Telemetry) (o : Output) (at_ : Nat) (rest : List (Output × Nat)),
    (s.power.bothLostAt = some since → s.power.rails = .on → since + ticksUs 20 ≤ s.now →
      exec .powerFail s = .next (State.serviceLine { s with
        resets := []
        power := { s.power with rails := .failing s.now, noticed := false, dark := false }
        boot := { s.boot with failDeclared := true } })) ∧
    (s.power.rails = .failing since → since + ticksUs 20 ≤ s.now → s.power.noticed = false →
      t = State.fault { s with power := { s.power with noticed := true } } 0x0017 .module .ok 0 0 →
      exec .powerFailNotice s = .next (t.sendDark (s.ft + word (ticksUs 100)) 2)) ∧
    (s.power.rails = .failing since → since + ticksUs 120 ≤ s.now → s.power.dark = false →
      exec .darkFtReached s = .next ((List.range 16).foldl (fun t n =>
        if ((t.setPort n { t.port n with egress := [] }).port n).state = .down then t.setPort n { t.port n with egress := [] }
        else (t.setPort n { t.port n with egress := [] }).portTo n .dark)
        { s with power := { s.power with dark := true }, fabric := { s.fabric with waiting := [], bridges := [] } })) ∧
    (s.power.rails = .failing since → since + ticksUs 180 ≤ s.now → t = s.coldReset s.boot.cause false →
      exec .powerFailRailsOff s = .next (State.powerUp { t with
        tags := { t.tags with boots := s.tags.boots }, power := { t.power with rails := .off } })) ∧
    (s.benchUp = true → exec (.powerEvaluation tm) s = .next (s.evaluate tm)) ∧
    (s.notices.repeats = (o, at_) :: rest → at_ + ticksUs 10 ≤ s.now →
      t = { s with notices := { s.notices with repeats := rest } } →
      exec .noticeUdpRepeat s = .next (if (s.eth 0).linkUp = true then t.putNotice o else t))
end

