-- ==== Sys2Proof/Laws/Commands.lean ====
section
/-! SUPPORT. How a command that executes goes on: one lemma for each shared operation of Machine/Commands.lean. -/

namespace Sys2Proof.Machine

/-! ### The trace entry leaves everything but the trace -/

/-- A trace entry changes nothing but the trace rings. -/
theorem State.trace_eq (s : State) (r k a b : Nat) :
    ∃ x, s.trace r k a b = { s with obs := { s.obs with rings := x } } := by
  unfold State.trace State.withComms
  dsimp only
  split
  · exact ⟨_, rfl⟩
  · exact ⟨s.obs.rings, rfl⟩

/-- What a command sees as it executes is the state before its trace entry, but for the trace rings. -/
theorem State.begun_eq (s : State) (c : OpenCmd) : ∃ x, s.begun c = { s with obs := { s.obs with rings := x } } :=
  State.trace_eq _ _ _ _ _

@[simp] theorem State.begun_cmds (s : State) (c : OpenCmd) : (s.begun c).cmds = s.cmds := by
  obtain ⟨x, h⟩ := s.begun_eq c; rw [h]
@[simp] theorem State.begun_ft (s : State) (c : OpenCmd) : (s.begun c).ft = s.ft := by
  obtain ⟨x, h⟩ := s.begun_eq c; rw [h]
@[simp] theorem State.begun_now (s : State) (c : OpenCmd) : (s.begun c).now = s.now := by
  obtain ⟨x, h⟩ := s.begun_eq c; rw [h]
@[simp] theorem State.begun_regs (s : State) (c : OpenCmd) : (s.begun c).regs = s.regs := by
  obtain ⟨x, h⟩ := s.begun_eq c; rw [h]
@[simp] theorem State.begun_mem (s : State) (c : OpenCmd) : (s.begun c).mem = s.mem := by
  obtain ⟨x, h⟩ := s.begun_eq c; rw [h]

/-- The refusals common to all opcodes do not look at the trace. -/
theorem State.commonRefusal_begun (s : State) (c : OpenCmd) (n o : Nat) (p : List Byte) :
    (s.begun c).commonRefusal n o p = s.commonRefusal n o p := by
  obtain ⟨x, h⟩ := s.begun_eq c; rw [h]; rfl

/-- A row whose command executes: it has its opcode's meaning, and ends as `conclude` says. -/
theorem State.runFront_of_takes {s : State} {c : OpenCmd} {opcode : Nat} {p : OpenCmd → Bool} {f : OpenCmd → State → Result}
    (h : s.takes c opcode = true) (hp : p c = true) :
    s.runFront opcode p f = State.conclude c false (f c (s.begun c)) := by
  simp only [State.takes, Bool.and_eq_true, decide_eq_true_eq, beq_iff_eq, Bool.not_eq_true', Option.isNone_iff_eq_none] at h
  obtain ⟨⟨⟨⟨⟨⟨h1, h2⟩, h3⟩, h4⟩, h5⟩, h6⟩, h7⟩ := h
  have hc := s.commonRefusal_begun c c.session c.opcode c.params
  rw [h2, h7] at hc
  unfold State.runFront
  simp only [h1, h2, h3, h4, h5, h6, hp, ne_eq, not_true_eq_false, Bool.not_true, Bool.false_eq_true, or_self, if_false,
    State.attempt, State.begun]
  rw [State.begun, h2] at hc
  simp only [hc]

/-- A row whose command executes, without a further condition. -/
theorem State.run_of_takes {s : State} {c : OpenCmd} {opcode : Nat} {f : OpenCmd → State → Result}
    (h : s.takes c opcode = true) : s.run opcode f = State.conclude c false (f c (s.begun c)) :=
  State.runFront_of_takes h rfl

/-- An occurrence that falls has the effect of its action. -/
theorem State.fire_of_fallsNow {s t : State} {i action d k : Nat} {x : TTSlot} {f : State → TTSlot → Nat → Nat → State}
    (h : s.fallsNow i action t x d k) : s.fire i action f = f t x d k := by
  obtain ⟨y, j, h1, h2, h3, h4, h5, h6, h7, h8, h9⟩ := h
  subst h9 h8 h7 h3
  unfold State.fire
  simp only [h1, h2, h4, h5, decide_eq_true h6, BEq.rfl, Bool.and_self, if_true]

/-- A core that comes to an instruction of the asked opcode runs its effect. -/
theorem State.atInstr_of_atOp {s t : State} {c op : Nat} {it : Item} {i : Ins} {f : State → Item → Ins → State}
    (h : s.atOp c op t it i) : s.atInstr c op f = f t it i := by
  obtain ⟨_, h1, h2, h3, h4, h5, h6, h7, h8⟩ := h
  unfold State.atInstr
  subst h8 h5
  simp only [h1, h2, h3, h4, h6, h7, Bool.not_true, Bool.false_eq_true, ne_eq, not_true_eq_false, Option.isSome_none, if_false]

end Sys2Proof.Machine
end

