-- ==== Sys2Proof/Laws/Tables.lean ====
section
/-! SUPPORT. Sparse tables: reading what was set, and the canonical form that every operation keeps. -/

namespace Sys2Proof.Machine

variable {α : Type}

/-- Every key of a table is above `k`. -/
def keysAbove (k : Nat) (t : List (Nat × α)) : Prop := ∀ e ∈ t, k < e.1

theorem keysRise_cons {j : Nat} {v : α} {t : List (Nat × α)} :
    keysRise ((j, v) :: t) = true ↔ keysAbove j t ∧ keysRise t = true := by
  induction t generalizing j v with
  | nil => simp [keysRise, keysAbove]
  | cons e r ih =>
    obtain ⟨k, w⟩ := e
    constructor
    · intro h
      simp only [keysRise, Bool.and_eq_true, decide_eq_true_eq] at h
      have h2 := ih.1 h.2
      refine ⟨fun e he => ?_, h.2⟩
      rcases List.mem_cons.1 he with rfl | he
      · exact h.1
      · exact lt_trans h.1 (h2.1 e he)
    · rintro ⟨h1, h2⟩
      simp only [keysRise, Bool.and_eq_true, decide_eq_true_eq]
      exact ⟨h1 (k, w) (by simp), h2⟩

theorem keysRise_filter {t : List (Nat × α)} (p : Nat × α → Bool) (h : keysRise t = true) :
    keysRise (t.filter p) = true := by
  induction t with
  | nil => rfl
  | cons e r ih =>
    obtain ⟨j, v⟩ := e
    have ⟨h1, h2⟩ := keysRise_cons.1 h
    by_cases hp : p (j, v)
    · rw [List.filter_cons_of_pos hp]
      exact keysRise_cons.2 ⟨fun e he => h1 e (List.mem_filter.1 he).1, ih h2⟩
    · rw [List.filter_cons_of_neg hp]
      exact ih h2

/-- An entry below every key of a table reads as the default. -/
theorem tabGet_of_keysAbove {d : α} {k : Nat} {t : List (Nat × α)} (h : keysAbove k t) : tabGet d t k = d := by
  induction t with
  | nil => rfl
  | cons x r ih =>
    obtain ⟨j, w⟩ := x
    have hj : k < j := h (j, w) (by simp)
    simp only [tabGet, if_neg (Nat.ne_of_gt hj)]
    exact ih fun e he => h e (by simp [he])

variable [DecidableEq α]

theorem mem_tabSet {d v : α} {k : Nat} {t : List (Nat × α)} {e : Nat × α} (h : e ∈ tabSet d t k v) :
    e ∈ t ∨ (e = (k, v) ∧ v ≠ d) := by
  induction t with
  | nil =>
    simp only [tabSet] at h
    split at h <;> simp_all
  | cons x r ih =>
    obtain ⟨j, w⟩ := x
    simp only [tabSet] at h
    split at h
    · split at h <;> simp_all
      tauto
    · split at h
      · split at h <;> simp_all
        tauto
      · rcases List.mem_cons.1 h with h | h
        · exact .inl (by simp [h])
        · rcases ih h with h | h
          · exact .inl (by simp [h])
          · exact .inr h

theorem keysRise_tabSet {d v : α} {k : Nat} {t : List (Nat × α)} (h : keysRise t = true) :
    keysRise (tabSet d t k v) = true := by
  induction t with
  | nil => simp only [tabSet]; split <;> rfl
  | cons x r ih =>
    obtain ⟨j, w⟩ := x
    have ⟨h1, h2⟩ := keysRise_cons.1 h
    simp only [tabSet]
    split
    · rename_i hk
      split
      · exact h
      · refine keysRise_cons.2 ⟨fun e he => ?_, h⟩
        rcases List.mem_cons.1 he with rfl | he
        · exact hk
        · exact lt_trans hk (h1 e he)
    · split
      · rename_i hk
        split
        · exact h2
        · exact keysRise_cons.2 ⟨fun e he => hk ▸ h1 e he, h2⟩
      · rename_i a b
        refine keysRise_cons.2 ⟨fun e he => ?_, ih h2⟩
        rcases mem_tabSet he with h | ⟨rfl, -⟩
        · exact h1 e h
        · dsimp only; omega

/-- Setting an entry keeps the canonical form. -/
theorem tabWf_tabSet {d v : α} {k : Nat} {t : List (Nat × α)} (h : tabWf d t = true) :
    tabWf d (tabSet d t k v) = true := by
  simp only [tabWf, Bool.and_eq_true, List.all_eq_true] at h ⊢
  refine ⟨keysRise_tabSet h.1, fun e he => ?_⟩
  rcases mem_tabSet he with he | ⟨rfl, hv⟩
  · exact h.2 e he
  · simpa using hv

/-- Dropping entries keeps the canonical form. -/
theorem tabWf_filter {d : α} {t : List (Nat × α)} (p : Nat × α → Bool) (h : tabWf d t = true) :
    tabWf d (t.filter p) = true := by
  simp only [tabWf, Bool.and_eq_true, List.all_eq_true] at h ⊢
  exact ⟨keysRise_filter p h.1, fun e he => h.2 e (List.mem_filter.1 he).1⟩

/-- Reading the entry that was set gives the value set. -/
theorem tabGet_tabSet_self {d v : α} {k : Nat} {t : List (Nat × α)} (h : keysRise t = true) :
    tabGet d (tabSet d t k v) k = v := by
  induction t with
  | nil =>
    simp only [tabSet]
    split <;> simp_all [tabGet]
  | cons x r ih =>
    obtain ⟨j, w⟩ := x
    have ⟨h1, h2⟩ := keysRise_cons.1 h
    simp only [tabSet]
    split
    · rename_i hk
      split
      · rename_i hv
        rw [hv]
        exact tabGet_of_keysAbove fun e he => by
          rcases List.mem_cons.1 he with rfl | he
          · exact hk
          · exact lt_trans hk (h1 e he)
      · simp [tabGet]
    · split
      · rename_i hk
        split
        · rename_i hv
          rw [hv]
          exact tabGet_of_keysAbove fun e he => hk ▸ h1 e he
        · simp [tabGet]
      · rename_i hk
        simp only [tabGet, if_neg fun hh : j = k => hk hh.symm]
        exact ih h2

/-- Setting an entry leaves every other entry as it reads. -/
theorem tabGet_tabSet_other {d e v : α} {k j : Nat} {t : List (Nat × α)} (h : j ≠ k) :
    tabGet d (tabSet e t k v) j = tabGet d t j := by
  have hk : k ≠ j := fun e => h e.symm
  induction t with
  | nil =>
    simp only [tabSet]
    split <;> simp [tabGet, hk]
  | cons x r ih =>
    obtain ⟨i, w⟩ := x
    simp only [tabSet]
    split
    · split <;> simp [tabGet, hk]
    · split
      · rename_i hi
        subst hi
        split <;> simp [tabGet, hk]
      · simp only [tabGet, ih]

end Sys2Proof.Machine
end

