-- ==== Sys2Proof/Laws/Memory.lean ====
section
/-! SUPPORT. Memory: what a byte reads as after each operation, and that every operation keeps the canonical form. -/

namespace Sys2Proof.Machine

/-! ### Reading after writing -/

@[simp] theorem Memory.setByte_errors (m : Memory) (a : Nat) (b : Byte) : (m.setByte a b).errors = m.errors := rfl
@[simp] theorem Memory.setDiff_bytes (m : Memory) (g : Nat) (d : BitVec 144) : (m.setDiff g d).bytes = m.bytes := rfl

/-- Writing bytes changes no difference pattern. -/
@[simp] theorem Memory.setBytes_errors (m : Memory) (a : Nat) (bs : List Byte) : (m.setBytes a bs).errors = m.errors := by
  induction bs generalizing m a with
  | nil => rfl
  | cons b r ih => simp only [Memory.setBytes, ih, Memory.setByte_errors]

/-- Writing bytes leaves what is under way. -/
@[simp] theorem Memory.setBytes_inflight (m : Memory) (a : Nat) (bs : List Byte) : (m.setBytes a bs).inflight = m.inflight := by
  induction bs generalizing m a with
  | nil => rfl
  | cons b r ih => simp only [Memory.setBytes, ih, Memory.setByte]

/-- A byte outside the bytes written reads as before. -/
theorem Memory.setBytes_outside (m : Memory) (a : Nat) (bs : List Byte) (x : Nat) (h : x < a ∨ a + bs.length ≤ x) :
    tabGet 0 (m.setBytes a bs).bytes x = tabGet 0 m.bytes x := by
  induction bs generalizing m a with
  | nil => rfl
  | cons b r ih =>
    simp only [List.length_cons] at h
    simp only [Memory.setBytes]
    rw [ih _ _ (by omega)]
    exact tabGet_tabSet_other (by omega)

/-- Only the bytes and the difference patterns decide. -/
theorem Memory.wf_of_parts {m n : Memory} (hb : n.bytes = m.bytes) (he : n.errors = m.errors) (h : m.wf = true) :
    n.wf = true := by
  simp only [Memory.wf] at h ⊢
  rwa [hb, he]

/-- Canonical memory is kept by writing one byte. -/
theorem Memory.wf_setByte {m : Memory} {a : Nat} {b : Byte} (h : m.wf = true) : (m.setByte a b).wf = true := by
  simp only [Memory.wf, Bool.and_eq_true] at h ⊢
  exact ⟨tabWf_tabSet h.1, h.2⟩

theorem Memory.wf_setBytes {m : Memory} {a : Nat} {bs : List Byte} (h : m.wf = true) : (m.setBytes a bs).wf = true := by
  induction bs generalizing m a with
  | nil => exact h
  | cons b r ih => exact ih (Memory.wf_setByte h)

theorem Memory.wf_setDiff {m : Memory} {g : Nat} {d : BitVec 144} (h : m.wf = true) : (m.setDiff g d).wf = true := by
  simp only [Memory.wf, Bool.and_eq_true] at h ⊢
  exact ⟨h.1, tabWf_tabSet h.2⟩

theorem Memory.wf_poison {m : Memory} {g : Nat} (h : m.wf = true) : (m.poison g).wf = true := Memory.wf_setDiff h

theorem Memory.wf_flip {m : Memory} {g : Nat} {d : BitVec 144} (h : m.wf = true) : (m.flip g d).wf = true :=
  Memory.wf_setBytes h

theorem Memory.wf_hit {m : Memory} {es : BitErrors} (h : m.wf = true) : (m.hit es).wf = true := by
  induction es generalizing m with
  | nil => exact h
  | cons e r ih =>
    obtain ⟨p, a, d⟩ := e
    cases p
    · exact ih (Memory.wf_setDiff h)
    all_goals exact ih (Memory.wf_of_parts rfl rfl h)

theorem Memory.wf_clear {m : Memory} {lo hi : Nat} (h : m.wf = true) : (m.clear lo hi).wf = true := by
  simp only [Memory.wf, Bool.and_eq_true] at h ⊢
  exact ⟨tabWf_filter _ h.1, tabWf_filter _ h.2⟩

/-- Keeping the bytes and the patterns of some addresses keeps the form. -/
theorem Memory.wf_filter {m : Memory} (p : Nat → Bool) (h : m.wf = true) :
    tabWf 0 (m.bytes.filter fun c => p c.1) = true ∧ tabWf 0 (m.errors.filter fun c => p c.1) = true := by
  simp only [Memory.wf, Bool.and_eq_true] at h
  exact ⟨tabWf_filter _ h.1, tabWf_filter _ h.2⟩

/-- What a fold over memories keeps, if each of its steps does. -/
theorem Memory.wf_foldl {β : Type} {l : List β} {m : Memory} {f : Memory → β → Memory} (h : m.wf = true)
    (hf : ∀ n b, n.wf = true → (f n b).wf = true) : (l.foldl f m).wf = true := by
  induction l generalizing m with
  | nil => exact h
  | cons b r ih => exact ih (hf m b h)

theorem Memory.wf_remap {m : Memory} {g : Nat} (h : m.wf = true) : (m.remap g).wf = true := by
  unfold Memory.remap
  split
  · exact h
  · exact Memory.wf_foldl (Memory.wf_foldl rfl fun n _ hn => Memory.wf_setByte hn) fun n _ hn => Memory.wf_setDiff hn

/-- Bytes just written read as written. -/
theorem Memory.setBytes_inside (m : Memory) (a : Nat) (bs : List Byte) (h : m.wf = true) (i : Nat) (hi : i < bs.length) :
    tabGet 0 (m.setBytes a bs).bytes (a + i) = bs[i] := by
  induction bs generalizing m a i with
  | nil => simp at hi
  | cons b r ih =>
    simp only [Memory.setBytes]
    have hr : keysRise m.bytes = true := by
      simp only [Memory.wf, tabWf, Bool.and_eq_true] at h
      exact h.1.1
    cases i with
    | zero =>
      rw [Memory.setBytes_outside _ _ _ _ (by omega)]
      exact tabGet_tabSet_self hr
    | succ j =>
      have := ih (m.setByte a b) (a + 1) (Memory.wf_setByte h) j (by simpa using hi)
      simpa [Nat.add_assoc, Nat.add_comm 1 j] using this

end Sys2Proof.Machine
end

