-- ==== Sys2Proof/Laws/Kept.lean ====
section
/-! SUPPORT. What every operation of the block keeps: the queue of waiting commands, and the canonical form of memory and
of the register bank. The lemmas of Laws/Keeps*.lean say it for each operation. -/

namespace Sys2Proof.Machine

/-- The queue is `q`, and memory and the register bank are canonical. -/
def Good (q p : List Instr) (b : List Host.Cell) (e : List (Nat × BitVec 144)) (r : List (Nat × Word)) : Prop :=
  p = q ∧ (tabWf 0 b = true ∧ tabWf 0 e = true) ∧ keysRise r = true

/-- `Good` of a state. -/
def Kept (q : List Instr) (s : State) : Prop := Good q s.pending s.mem.bytes s.mem.errors s.regs

/-- `Good` of what a command's meaning answers. -/
def KeptR (q : List Instr) (r : Result) : Prop := Kept q r.state ∧ ∀ t, Kept q t → Kept q (r.post t)

/-- `Good` of the next state of an outcome. -/
def KeptO (q : List Instr) (o : Host.Outcome State Fault Refusal) : Prop := ∀ t, o = .next t → Kept q t

variable {q : List Instr}

theorem kept_of_canonical {s : State} (h : s.canonical = true) : Kept s.pending s := by
  simp only [State.canonical, Memory.wf, Bool.and_eq_true] at h
  exact ⟨rfl, h.1, h.2⟩

theorem canonical_of_kept {s : State} (h : Kept q s) : s.canonical = true := by
  simp only [State.canonical, Memory.wf, Bool.and_eq_true]
  exact ⟨h.2.1, h.2.2⟩

/-- `Good`, of the parts of a state that is written out. -/
def GoodParts (q p : List Instr) (b : List Host.Cell) (e : List (Nat × BitVec 144)) (r : List (Nat × Word)) : Prop :=
  Good q p b e r

/-- A state written out: only its queue, memory and register bank matter. -/
theorem kept_mk {p o n f r a1 a2 a3 a4 a5 a6 a7 a8 a9 a10 a11 a12 a13 a14 a15 a16 a17 a18 a19 a20 a21 a22 a23 a24 a25 a26
    a27 a28 a29 a30} {m : Memory} {g d} :
    Kept q (State.mk p o n f r a1 a2 a3 a4 a5 a6 a7 a8 a9 a10 a11 a12 a13 a14 a15 a16 a17 a18 a19 a20 a21 a22 a23 a24 a25
      a26 a27 a28 a29 a30 m g d) ↔ GoodParts q p m.bytes m.errors r := Iff.rfl

/-- The parts are those of a state that is `Good`. -/
theorem kept_parts {s : State} (h : Kept q s) : GoodParts q s.pending s.mem.bytes s.mem.errors s.regs := h

theorem kept_parts_of {s t : State} (h : Kept q s) (ht : Kept q t) :
    GoodParts q t.pending s.mem.bytes s.mem.errors t.regs := ⟨ht.1, h.2.1, ht.2.2⟩

/-- Memory of a `Good` state is canonical. -/
theorem wf_of_kept {s : State} (h : Kept q s) : s.mem.wf = true := by
  simpa only [Memory.wf, Bool.and_eq_true] using h.2.1

/-- The parts when memory is another canonical one. -/
theorem kept_parts_mem {s : State} {m : Memory} (h : Kept q s) (hm : m.wf = true) :
    GoodParts q s.pending m.bytes m.errors s.regs :=
  ⟨h.1, by simpa only [Memory.wf, Bool.and_eq_true] using hm, h.2.2⟩

/-- Memory replaced by another canonical one. -/
theorem kept_mem {s : State} {m : Memory} (h : Kept q s) (hm : m.wf = true) : Kept q { s with mem := m } :=
  kept_parts_mem (s := s) h hm

theorem keptR_mk {v : Verdict} {s : State} {p : State → State} :
    KeptR q ⟨v, s, p⟩ ↔ Kept q s ∧ ∀ t, Kept q t → Kept q (p t) := Iff.rfl

theorem refuse_keeps {s : State} {st : Status} (h : Kept q s) : KeptR q (refuse s st) := ⟨h, fun _ ht => ht⟩
theorem refuseWith_keeps {s : State} {st : Status} {d : List Byte} (h : Kept q s) : KeptR q (refuseWith s st d) :=
  ⟨h, fun _ ht => ht⟩
theorem done_keeps {s : State} {d : List Byte} (h : Kept q s) : KeptR q (done s d) := ⟨h, fun _ ht => ht⟩
theorem doneThen_keeps {s : State} {d : List Byte} {p : State → State} (h : Kept q s)
    (hp : ∀ t, Kept q t → Kept q (p t)) : KeptR q (doneThen s d p) := ⟨h, hp⟩
theorem began_keeps {s : State} {op : LongOp} (h : Kept q s) : KeptR q (began s op) := ⟨h, fun _ ht => ht⟩

/-- A fold keeps what its steps keep. -/
theorem kept_foldl {β : Type} {l : List β} {s : State} {f : State → β → State} (hf : ∀ t b, Kept q t → Kept q (f t b))
    (h : Kept q s) : Kept q (l.foldl f s) := by
  induction l generalizing s with
  | nil => exact h
  | cons b r ih => exact ih (hf s b h)

/-- A fold that carries a value beside the state. -/
theorem kept_foldl_fst {β γ : Type} {l : List β} {x : State × γ} {f : State × γ → β → State × γ}
    (hf : ∀ t b, Kept q t.1 → Kept q (f t b).1) (h : Kept q x.1) : Kept q (l.foldl f x).1 := by
  induction l generalizing x with
  | nil => exact h
  | cons b r ih => exact ih (hf x b h)

/-- Either branch keeps it. -/
theorem kept_ite_snd {β : Type} {c : Prop} [Decidable c] {a b : β × State} (ha : Kept q a.2) (hb : Kept q b.2) :
    Kept q (if c then a else b).2 := by
  split <;> assumption

theorem kept_of_fst {γ : Type} {p : State × γ} {s : State} {b : γ} (e : p = (s, b)) (h : Kept q p.1) : Kept q s := by
  rw [e] at h; exact h

theorem kept_of_snd {γ : Type} {p : γ × State} {s : State} {a : γ} (e : p = (a, s)) (h : Kept q p.2) : Kept q s := by
  rw [e] at h; exact h

theorem kept_of_third {β γ : Type} {p : β × γ × State} {s : State} {a : β} {b : γ} (e : p = (a, b, s))
    (h : Kept q p.2.2) : Kept q s := by
  rw [e] at h; exact h

theorem keptO_next {s : State} (h : Kept q s) : KeptO q (.next s) := by
  intro t e; cases e; exact h

theorem keptO_fault {f : Fault} : KeptO q (.fault f) := by
  intro t e; cases e

theorem keptO_onUnit {n l : Nat} {s : State} (h : Kept q s) : KeptO q (onUnit n l s) := by
  unfold onUnit; split
  · exact keptO_next h
  · exact keptO_fault

theorem State.withComms_keeps {s t : State} (h : Kept q s) : Kept q (s.withComms t) := h
theorem State.withMem_keeps {s t : State} (h : Kept q s) (ht : Kept q t) : Kept q (s.withMem t) := ⟨h.1, ht.2⟩
theorem State.unhit_keeps {s : State} (h : Kept q s) : Kept q s.unhit := h
theorem State.withRouter_keeps {s t : State} (h : Kept q s) : Kept q (s.withRouter t) := h

theorem State.setReg_keeps {s : State} {r : Reg} {w : Word} (h : Kept q s) : Kept q (s.setReg r w) :=
  ⟨h.1, h.2.1, keysRise_tabSet h.2.2⟩
theorem State.dropRegs_keeps {s : State} {p : Reg → Bool} (h : Kept q s) : Kept q (s.dropRegs p) :=
  ⟨h.1, h.2.1, keysRise_filter _ h.2.2⟩
theorem State.hit_keeps {s : State} {es : BitErrors} (h : Kept q s) : Kept q (s.hit es) :=
  kept_mem h (Memory.wf_hit (wf_of_kept h))

end Sys2Proof.Machine
end

