-- ==== Sys2Proof/Laws/KeepsComms.lean ====
section
/-! SUPPORT. What every operation keeps (Kept: the canonical tables and memory, and the queue): reports, replies, the journal and the Speas ports. -/

set_option linter.unusedTactic false
set_option linter.unreachableTactic false
set_option linter.unusedSimpArgs false

namespace Sys2Proof.Machine

/-! ### Machine/Ops.lean -/

theorem State.send_keeps {q : List Instr} (s : State) (x2 : Output) (h : Kept q s) :
    Kept q (State.send s x2) := by
  unfold State.send
  try dsimp only
  repeat' with_reducible first | assumption | apply kept_parts | apply kept_parts_of | simp only [kept_mk] | split

/-! ### Machine/Registers.lean -/

theorem State.setBits_keeps {q : List Instr} (s : State) (x2 : Reg) (x3 : Sys2Proof.Word) (h : Kept q s) :
    Kept q (State.setBits s x2 x3) := by
  unfold State.setBits
  try dsimp only
  repeat' with_reducible first | assumption | apply kept_parts | apply kept_parts_of | apply State.setReg_keeps | simp only [kept_mk] | split

/-! ### Machine/Events.lean -/

theorem State.count_keeps {q : List Instr} (s : State) (x2 : ℕ) (x3 : ℕ) (h : Kept q s) :
    Kept q (State.count s x2 x3) := by
  unfold State.count
  try dsimp only
  repeat' with_reducible first | assumption | apply kept_parts | apply kept_parts_of | simp only [kept_mk] | split

theorem State.putNotice_keeps {q : List Instr} (s : State) (x2 : Output) (h : Kept q s) :
    Kept q (State.putNotice s x2) := by
  unfold State.putNotice
  try dsimp only
  repeat' with_reducible first | assumption | apply kept_parts | apply kept_parts_of | apply State.count_keeps | apply State.send_keeps | simp only [kept_mk] | split

theorem State.setSp_keeps {q : List Instr} (s : State) (x2 : ℕ) (x3 : SpeasPort) (h : Kept q s) :
    Kept q (State.setSp s x2 x3) := by
  unfold State.setSp
  try dsimp only
  repeat' with_reducible first | assumption | apply kept_parts | apply kept_parts_of | simp only [kept_mk] | split

theorem State.putFrame_keeps {q : List Instr} (s : State) (x2 : ℕ) (x3 : ℕ) (x4 : ℕ) (x5 : List Sys2Proof.Byte) (x6 : BitVec 32) (x7 : ℕ) (x8 : ℕ) (h : Kept q s) :
    Kept q (State.putFrame s x2 x3 x4 x5 x6 x7 x8) := by
  unfold State.putFrame
  try dsimp only
  repeat' with_reducible first | assumption | apply kept_parts | apply kept_parts_of | apply State.count_keeps | apply State.send_keeps | apply State.setSp_keeps | simp only [kept_mk] | split | intro _ _ _ _ _ _ | intro _ _ _ _ | intro _ _ _ | intro _ _

theorem State.freezeRing_keeps {q : List Instr} (s : State) (x2 : ℕ) (h : Kept q s) :
    Kept q (State.freezeRing s x2) := by
  unfold State.freezeRing
  try dsimp only
  repeat' with_reducible first | assumption | apply kept_parts | apply kept_parts_of | apply State.withComms_keeps | simp only [kept_mk] | split

theorem State.freezeAllRings_keeps {q : List Instr} (s : State) (h : Kept q s) :
    Kept q (State.freezeAllRings s) := by
  unfold State.freezeAllRings
  try dsimp only
  repeat' with_reducible first | assumption | apply kept_parts | apply kept_parts_of | simp only [kept_mk] | split | intro _ _ _ _ _ _ | intro _ _ _ _ | intro _ _ _ | intro _ _

theorem State.queueFrame_keeps {q : List Instr} (s : State) (x2 : ℕ) (x3 : ℕ) (x4 : List Sys2Proof.Byte) (h : Kept q s) :
    Kept q (State.queueFrame s x2 x3 x4) := by
  unfold State.queueFrame
  try dsimp only
  repeat' with_reducible first | assumption | apply kept_parts | apply kept_parts_of | apply State.setSp_keeps | apply State.putFrame_keeps | simp only [kept_mk] | split

theorem State.queueFrames_keeps {q : List Instr} (s : State) (x2 : ℕ) (x3 : Bool) (x4 : List (List Byte)) (h : Kept q s) :
    Kept q (State.queueFrames s x2 x3 x4) := by
  induction x4 generalizing s x3 with
  | nil => exact h
  | cons c r ih =>
    cases r with
    | nil => exact State.queueFrame_keeps _ _ _ _ h
    | cons d r => exact ih _ _ (State.queueFrame_keeps _ _ _ _ h)

theorem State.sendPacket_keeps {q : List Instr} (s : State) (x2 : ℕ) (x3 : List Sys2Proof.Byte) (h : Kept q s) :
    Kept q (State.sendPacket s x2 x3) := by
  unfold State.sendPacket
  try dsimp only
  repeat' with_reducible first | assumption | apply kept_parts | apply kept_parts_of | apply State.withComms_keeps | apply State.queueFrames_keeps | simp only [kept_mk] | split

theorem State.setSession_keeps {q : List Instr} (s : State) (x2 : Session) (h : Kept q s) :
    Kept q (State.setSession s x2) := by
  unfold State.setSession
  try dsimp only
  repeat' with_reducible first | assumption | apply kept_parts | apply kept_parts_of | simp only [kept_mk] | split | intro _ _ _ _ _ _ | intro _ _ _ _ | intro _ _ _ | intro _ _

theorem State.sendTagged_keeps {q : List Instr} (s : State) (x2 : Session) (x3 : List Sys2Proof.Byte) (h : Kept q s) :
    Kept q (State.sendTagged s x2 x3) := by
  unfold State.sendTagged
  try dsimp only
  repeat' with_reducible first | assumption | apply kept_parts | apply kept_parts_of | apply State.sendPacket_keeps | apply State.setSession_keeps | simp only [kept_mk] | split

theorem State.eventTo_keeps {q : List Instr} (s : State) (x2 : ℕ) (x3 : Sys2Proof.Word) (x4 : Event) (x5 : Session) (h : Kept q s) :
    Kept q (State.eventTo s x2 x3 x4 x5) := by
  unfold State.eventTo
  try dsimp only
  repeat' with_reducible first | assumption | apply kept_parts | apply kept_parts_of | apply State.sendTagged_keeps | apply State.send_keeps | simp only [kept_mk] | split

theorem State.sendUdp_keeps {q : List Instr} (s : State) (x2 : ℕ) (x3 : Sys2Proof.Word) (x4 : Event) (h : Kept q s) :
    Kept q (State.sendUdp s x2 x3 x4) := by
  unfold State.sendUdp
  try dsimp only
  repeat' with_reducible first | assumption | apply kept_parts | apply kept_parts_of | apply State.putNotice_keeps | simp only [kept_mk] | split

theorem State.deliver_keeps {q : List Instr} (s : State) (x2 : ℕ) (x3 : Sys2Proof.Word) (x4 : Event) (h : Kept q s) :
    Kept q (State.deliver s x2 x3 x4) := by
  unfold State.deliver
  try dsimp only
  repeat' with_reducible first | assumption | apply kept_parts | apply kept_parts_of | apply State.withComms_keeps | apply State.eventTo_keeps | apply State.sendUdp_keeps | apply kept_foldl | simp only [kept_mk] | split | intro _ _ _ _ _ _ | intro _ _ _ _ | intro _ _ _ | intro _ _

theorem State.journalWrite_keeps {q : List Instr} (s : State) (x2 : JRec) (h : Kept q s) :
    Kept q (State.journalWrite s x2) := by
  unfold State.journalWrite
  try dsimp only
  repeat' with_reducible first | assumption | apply kept_parts | apply kept_parts_of | simp only [kept_mk] | split

theorem State.outcome_keeps {q : List Instr} (s : State) (x2 : OpenCmd) (x3 : Status) (x4 : Bool) (h : Kept q s) :
    Kept q (State.outcome s x2 x3 x4) := by
  unfold State.outcome
  try dsimp only
  repeat' with_reducible first | assumption | apply kept_parts | apply kept_parts_of | apply State.journalWrite_keeps | simp only [kept_mk] | split

theorem State.settleFor_keeps {q : List Instr} (s : State) (x2 : Event) (h : Kept q s) :
    Kept q (State.settleFor s x2) := by
  unfold State.settleFor
  try dsimp only
  repeat' with_reducible first | assumption | apply kept_parts | apply kept_parts_of | apply State.outcome_keeps | simp only [kept_mk] | split

theorem State.emit_keeps {q : List Instr} (s : State) (x2 : Event) (h : Kept q s) :
    Kept q (State.emit s x2) := by
  unfold State.emit
  try dsimp only
  repeat' with_reducible first | assumption | apply kept_parts | apply kept_parts_of | apply State.withComms_keeps | apply State.deliver_keeps | apply State.settleFor_keeps | apply State.journalWrite_keeps | simp only [kept_mk] | split

theorem State.faultRecovered_keeps {q : List Instr} (s : State) (x2 : ℕ) (x3 : FaultUnit) (x4 : Status) (x5 : ℕ) (x6 : ℕ) (h : Kept q s) :
    Kept q (State.faultRecovered s x2 x3 x4 x5 x6) := by
  unfold State.faultRecovered
  try dsimp only
  repeat' with_reducible first | assumption | apply kept_parts | apply kept_parts_of | apply State.emit_keeps | simp only [kept_mk] | split

theorem State.releaseHeld_keeps {q : List Instr} (s : State) (h : Kept q s) :
    Kept q (State.releaseHeld s) := by
  unfold State.releaseHeld
  try dsimp only
  repeat' with_reducible first | assumption | apply kept_parts | apply kept_parts_of | apply State.withComms_keeps | apply State.deliver_keeps | apply kept_foldl | simp only [kept_mk] | split | intro _ _ _ _ _ _ | intro _ _ _ _ | intro _ _ _ | intro _ _

theorem State.emitWaiting_keeps {q : List Instr} (s : State) (h : Kept q s) :
    Kept q (State.emitWaiting s) := by
  unfold State.emitWaiting
  try dsimp only
  repeat' with_reducible first | assumption | apply kept_parts | apply kept_parts_of | apply State.withComms_keeps | apply State.emit_keeps | apply kept_foldl | simp only [kept_mk] | split | intro _ _ _ _ _ _ | intro _ _ _ _ | intro _ _ _ | intro _ _

theorem State.reply_keeps {q : List Instr} (s : State) (x2 : ℕ) (x3 : Reply) (h : Kept q s) :
    Kept q (State.reply s x2 x3) := by
  unfold State.reply
  try dsimp only
  repeat' with_reducible first | assumption | apply kept_parts | apply kept_parts_of | apply State.withComms_keeps | apply State.send_keeps | apply State.sendTagged_keeps | apply State.sendPacket_keeps | simp only [kept_mk] | split

theorem State.fault_keeps {q : List Instr} (s : State) (x2 : ℕ) (x3 : FaultUnit) (x4 : Status) (x5 : ℕ) (x6 : ℕ) (h : Kept q s) :
    Kept q (State.fault s x2 x3 x4 x5 x6) := by
  unfold State.fault
  try dsimp only
  repeat' with_reducible first | assumption | apply kept_parts | apply kept_parts_of | apply State.emit_keeps | simp only [kept_mk] | split

theorem State.trace_keeps {q : List Instr} (s : State) (x2 : ℕ) (x3 : ℕ) (x4 : ℕ) (x5 : ℕ) (h : Kept q s) :
    Kept q (State.trace s x2 x3 x4 x5) := by
  unfold State.trace
  try dsimp only
  repeat' with_reducible first | assumption | apply kept_parts | apply kept_parts_of | apply State.withComms_keeps | simp only [kept_mk] | split

/-! ### Machine/Memory.lean -/

theorem State.countMesh_keeps {q : List Instr} (s : State) (x2 : ℕ) (x3 : ℕ) (x4 : ℕ) (x5 : ℕ) (h : Kept q s) :
    Kept q (State.countMesh s x2 x3 x4 x5) := by
  unfold State.countMesh
  try dsimp only
  repeat' with_reducible first | assumption | apply kept_parts | apply kept_parts_of | apply State.count_keeps | apply kept_foldl | simp only [kept_mk] | split | intro _ _ _ _ _ _ | intro _ _ _ _ | intro _ _ _ | intro _ _

theorem State.countMove_keeps {q : List Instr} (s : State) (x2 : Requester) (x3 : ℕ) (x4 : ℕ) (x5 : Bool) (h : Kept q s) :
    Kept q (State.countMove s x2 x3 x4 x5) := by
  unfold State.countMove
  try dsimp only
  repeat' with_reducible first | assumption | apply kept_parts | apply kept_parts_of | apply State.countMesh_keeps | apply State.count_keeps | simp only [kept_mk] | split

theorem State.touchLine_keeps {q : List Instr} (s : State) (x2 : ℕ) (x3 : ℕ) (x4 : ℕ) (x5 : Bool) (x6 : Bool) (h : Kept q s) :
    Kept q (State.touchLine s x2 x3 x4 x5 x6) := by
  unfold State.touchLine
  try dsimp only
  repeat' with_reducible first | assumption | apply kept_parts | apply kept_parts_of | apply State.count_keeps | simp only [kept_mk] | split

theorem State.accountBytes_keeps {q : List Instr} (s : State) (x2 : Requester) (x3 : List ℕ) (x4 : Bool) (h : Kept q s) :
    Kept q (State.accountBytes s x2 x3 x4) := by
  unfold State.accountBytes
  try dsimp only
  repeat' with_reducible first | assumption | apply kept_parts | apply kept_parts_of | apply State.countMove_keeps | apply State.touchLine_keeps | apply kept_foldl | simp only [kept_mk] | split | intro _ _ _ _ _ _ | intro _ _ _ _ | intro _ _ _ | intro _ _

theorem State.noteCorrected_keeps {q : List Instr} (s : State) (h : Kept q s) :
    Kept q (State.noteCorrected s) := by
  unfold State.noteCorrected
  try dsimp only
  repeat' with_reducible first | assumption | apply kept_parts | apply kept_parts_of | simp only [kept_mk] | split

theorem State.noteUncorrectable_keeps {q : List Instr} (s : State) (x2 : ℕ) (x3 : ℕ) (h : Kept q s) :
    Kept q (State.noteUncorrectable s x2 x3) := by
  unfold State.noteUncorrectable
  try dsimp only
  repeat' with_reducible first | assumption | apply kept_parts | apply kept_parts_of | apply State.setBits_keeps | apply State.fault_keeps | simp only [kept_mk] | split

theorem State.checkTransit_keeps {q : List Instr} (s : State) (x2 : ℕ) (h : Kept q s) :
    Kept q (State.checkTransit s x2) := by
  unfold State.checkTransit
  try dsimp only
  repeat' with_reducible first | assumption | apply kept_parts | apply kept_parts_of | apply State.noteCorrected_keeps | apply State.noteUncorrectable_keeps | apply kept_foldl | simp only [kept_mk] | split | intro _ _ _ _ _ _ | intro _ _ _ _ | intro _ _ _ | intro _ _

theorem State.channelFreshAt_keeps {q : List Instr} (s : State) (x2 : ℕ) (x3 : FaultUnit) (h : Kept q s) :
    Kept q (State.channelFreshAt s x2 x3) := by
  unfold State.channelFreshAt
  try dsimp only
  repeat' with_reducible first | assumption | apply kept_parts | apply kept_parts_of | apply State.fault_keeps | simp only [kept_mk] | split | intro _ _ _ _ _ _ | intro _ _ _ _ | intro _ _ _ | intro _ _

theorem State.freshUncorrectable_keeps {q : List Instr} (s : State) (x2 : ℕ) (x3 : ℕ) (h : Kept q s) :
    Kept q (State.freshUncorrectable s x2 x3) := by
  unfold State.freshUncorrectable
  try dsimp only
  repeat' with_reducible first | assumption | apply kept_parts | apply kept_parts_of | apply State.noteUncorrectable_keeps | apply State.channelFreshAt_keeps | simp only [kept_mk] | split

theorem State.checkStored_keeps {q : List Instr} (s : State) (g : ℕ) (h : Kept q s) : Kept q (s.checkStored g) := by
  have hf : ∀ d, (s.mem.flip g d).wf = true := fun d => Memory.wf_flip (wf_of_kept h)
  have hp : ∀ d, ((s.mem.flip g d).poison g).wf = true := fun d => Memory.wf_poison (hf d)
  have hd : ∀ d, ((s.mem.flip g d).setDiff g 0).wf = true := fun d => Memory.wf_setDiff (hf d)
  have hc : ∀ d c, Memory.wf { (s.mem.flip g d).setDiff g 0 with corrected := c } = true := fun d _ =>
    Memory.wf_of_parts (m := (s.mem.flip g d).setDiff g 0) rfl rfl (hd d)
  unfold State.checkStored
  dsimp only
  split
  · exact h
  · split
    · exact kept_mem h (hd _)
    · exact kept_mem h (hp _)
    · exact kept_mem h (hc _ _)
    · exact State.freshUncorrectable_keeps _ _ _ (kept_mem h (hp _))

theorem State.checkGranule_keeps {q : List Instr} (s : State) (x2 : ℕ) (h : Kept q s) :
    Kept q (State.checkGranule s x2) := by
  unfold State.checkGranule
  try dsimp only
  repeat' with_reducible first | assumption | apply kept_parts | apply kept_parts_of | apply State.checkTransit_keeps | apply State.checkStored_keeps | simp only [kept_mk] | split

theorem State.checkRange_keeps {q : List Instr} (s : State) (x2 : ℕ) (x3 : ℕ) (h : Kept q s) :
    Kept q (State.checkRange s x2 x3) := by
  unfold State.checkRange
  try dsimp only
  repeat' with_reducible first | assumption | apply kept_parts | apply kept_parts_of | apply State.checkGranule_keeps | apply kept_foldl | simp only [kept_mk] | split | intro _ _ _ _ _ _ | intro _ _ _ _ | intro _ _ _ | intro _ _

theorem State.setDie_keeps {q : List Instr} (s : State) (x2 : ℕ) (x3 : DieState) (h : Kept q s) :
    Kept q (State.setDie s x2 x3) := by
  unfold State.setDie
  try dsimp only
  repeat' with_reducible first | assumption | apply kept_parts | apply kept_parts_of | simp only [kept_mk] | split

theorem State.setCluster_keeps {q : List Instr} (s : State) (x2 : ℕ) (x3 : ClusterState) (h : Kept q s) :
    Kept q (State.setCluster s x2 x3) := by
  unfold State.setCluster
  try dsimp only
  repeat' with_reducible first | assumption | apply kept_parts | apply kept_parts_of | simp only [kept_mk] | split

theorem State.account_keeps {q : List Instr} (s : State) (x2 : Requester) (x3 : ℕ) (x4 : ℕ) (x5 : Bool) (h : Kept q s) :
    Kept q (State.account s x2 x3 x4 x5) := by
  unfold State.account
  try dsimp only
  repeat' with_reducible first | assumption | apply kept_parts | apply kept_parts_of | apply State.countMove_keeps | apply State.touchLine_keeps | apply kept_foldl | simp only [kept_mk] | split | intro _ _ _ _ _ _ | intro _ _ _ _ | intro _ _ _ | intro _ _

theorem State.store_keeps {q : List Instr} (s : State) (r : Requester) (a : ℕ) (bs : List Byte) (h : Kept q s) :
    Kept q (s.store r a bs) := by
  unfold State.store
  refine State.withMem_keeps h (State.account_keeps _ _ _ _ _ ?_)
  have hk := kept_foldl (l := partialGranules a bs.length) (fun t g ht => State.checkGranule_keeps t g ht) h
  exact kept_mem hk (Memory.wf_setBytes (Memory.wf_foldl (wf_of_kept hk) fun n b hn => by
    split
    · exact hn
    · exact Memory.wf_setDiff hn))

theorem State.storePoisoned_keeps {q : List Instr} (s : State) (r : Requester) (a : ℕ) (bs : List Byte) (ps : List ℕ)
    (h : Kept q s) : Kept q (s.storePoisoned r a bs ps) := by
  unfold State.storePoisoned
  have hk := State.store_keeps s r a bs h
  exact State.withMem_keeps h (kept_mem hk (Memory.wf_foldl (wf_of_kept hk) fun n b hn => Memory.wf_poison hn))

theorem State.setCore_keeps {q : List Instr} (s : State) (x2 : ℕ) (x3 : CoreState) (h : Kept q s) :
    Kept q (State.setCore s x2 x3) := by
  unfold State.setCore
  try dsimp only
  repeat' with_reducible first | assumption | apply kept_parts | apply kept_parts_of | simp only [kept_mk] | split

theorem State.fetch_keeps {q : List Instr} (s : State) (x2 : Requester) (x3 : ℕ) (x4 : ℕ) (h : Kept q s) :
    Kept q (State.fetch s x2 x3 x4) := by
  unfold State.fetch
  try dsimp only
  repeat' with_reducible first | assumption | apply kept_parts | apply kept_parts_of | apply State.withMem_keeps | apply State.account_keeps | apply State.checkRange_keeps | simp only [kept_mk] | split

/-! ### Machine/Commands.lean -/

theorem State.closeWith_keeps {q : List Instr} (s : State) (x2 : ℕ) (x3 : ℕ) (x4 : EventClass) (x5 : Status) (x6 : List Sys2Proof.Byte) (h : Kept q s) :
    Kept q (State.closeWith s x2 x3 x4 x5 x6) := by
  unfold State.closeWith
  try dsimp only
  repeat' with_reducible first | assumption | apply kept_parts | apply kept_parts_of | apply State.emit_keeps | simp only [kept_mk] | split

theorem State.finish_keeps {q : List Instr} (s : State) (x2 : OpenCmd) (x3 : Status) (x4 : List Sys2Proof.Byte) (h : Kept q s) :
    Kept q (State.finish s x2 x3 x4) := by
  unfold State.finish
  try dsimp only
  repeat' with_reducible first | assumption | apply kept_parts | apply kept_parts_of | apply State.withComms_keeps | apply State.outcome_keeps | apply State.reply_keeps | apply kept_foldl | simp only [kept_mk] | split | intro _ _ _ _ _ _ | intro _ _ _ _ | intro _ _ _ | intro _ _

theorem State.setPhase_keeps {q : List Instr} (s : State) (x2 : ℕ) (x3 : CmdPhase) (h : Kept q s) :
    Kept q (State.setPhase s x2 x3) := by
  unfold State.setPhase
  try dsimp only
  repeat' with_reducible first | assumption | apply kept_parts | apply kept_parts_of | simp only [kept_mk] | split | intro _ _ _ _ _ _ | intro _ _ _ _ | intro _ _ _ | intro _ _

theorem State.acceptReply_keeps {q : List Instr} (s : State) (x2 : OpenCmd) (x3 : Bool) (h : Kept q s) :
    Kept q (State.acceptReply s x2 x3) := by
  unfold State.acceptReply
  try dsimp only
  repeat' with_reducible first | assumption | apply kept_parts | apply kept_parts_of | apply State.reply_keeps | simp only [kept_mk] | split

theorem State.closeCmd_keeps {q : List Instr} (s : State) (x2 : ℕ) (x3 : Status) (x4 : List Sys2Proof.Byte) (h : Kept q s) :
    Kept q (State.closeCmd s x2 x3 x4) := by
  unfold State.closeCmd
  try dsimp only
  repeat' with_reducible first | assumption | apply kept_parts | apply kept_parts_of | apply State.closeWith_keeps | simp only [kept_mk] | split

theorem State.conclude_keeps {q : List Instr} (c : OpenCmd) (held : Bool) (r : Result) (hr : KeptR q r) :
    Kept q (State.conclude c held r) := by
  obtain ⟨h, hp⟩ := hr
  unfold State.conclude
  try dsimp only
  repeat' with_reducible first | assumption | apply hp | apply kept_parts | apply State.acceptReply_keeps | apply State.setPhase_keeps | apply State.finish_keeps | apply State.closeCmd_keeps | simp only [kept_mk] | split

theorem State.attempt_keeps {q : List Instr} (s : State) (c : OpenCmd) (f : OpenCmd → State → Result) (h : Kept q s)
    (hf : ∀ c t, Kept q t → KeptR q (f c t)) : KeptR q (s.attempt c f) := by
  unfold State.attempt
  split
  · exact refuseWith_keeps h
  · exact hf _ _ h

theorem State.runFront_keeps {q : List Instr} (s : State) (x2 : ℕ) (x3 : OpenCmd → Bool) (f : OpenCmd → State → Result) (h : Kept q s) (hf : ∀ c t, Kept q t → KeptR q (f c t)) :
    Kept q (State.runFront s x2 x3 f) := by
  unfold State.runFront
  try dsimp only
  repeat' with_reducible first | assumption | apply kept_parts | apply kept_parts_of | apply State.finish_keeps | apply State.conclude_keeps | apply State.attempt_keeps | apply State.trace_keeps | apply hf | simp only [kept_mk] | split | intro _ _ _ _ _ _ | intro _ _ _ _ | intro _ _ _ | intro _ _

theorem State.run_keeps {q : List Instr} (s : State) (x2 : ℕ) (f : OpenCmd → State → Result) (h : Kept q s) (hf : ∀ c t, Kept q t → KeptR q (f c t)) :
    Kept q (State.run s x2 f) := by
  unfold State.run
  try dsimp only
  repeat' with_reducible first | assumption | apply kept_parts | apply kept_parts_of | apply State.runFront_keeps | apply hf | simp only [kept_mk] | split | intro _ _ _ _ _ _ | intro _ _ _ _ | intro _ _ _ | intro _ _

/-! ### Machine/Scribe.lean -/

theorem State.journalNotices_keeps {q : List Instr} (s : State) (h : Kept q s) :
    Kept q (State.journalNotices s) := by
  unfold State.journalNotices
  try dsimp only
  repeat' with_reducible first | assumption | apply kept_parts | apply kept_parts_of | apply State.journalWrite_keeps | apply kept_foldl | simp only [kept_mk] | split | intro _ _ _ _ _ _ | intro _ _ _ _ | intro _ _ _ | intro _ _

theorem State.switchSnapshot_keeps {q : List Instr} (s : State) (x2 : ℕ) (h : Kept q s) :
    Kept q (State.switchSnapshot s x2) := by
  unfold State.switchSnapshot
  try dsimp only
  repeat' with_reducible first | assumption | apply kept_parts | apply kept_parts_of | simp only [kept_mk] | split | intro _ _ _ _ _ _ | intro _ _ _ _ | intro _ _ _ | intro _ _

theorem State.compactionEnd_keeps {q : List Instr} (s : State) (h : Kept q s) :
    Kept q (State.compactionEnd s) := by
  unfold State.compactionEnd
  try dsimp only
  repeat' with_reducible first | assumption | apply kept_parts | apply kept_parts_of | apply State.emitWaiting_keeps | apply State.journalNotices_keeps | apply State.closeCmd_keeps | apply State.switchSnapshot_keeps | apply kept_foldl | simp only [kept_mk] | split | intro _ _ _ _ _ _ | intro _ _ _ _ | intro _ _ _ | intro _ _

theorem execJournalCompactionEnd_keeps {q : List Instr} (s : State) (h : Kept q s) :
    KeptO q (execJournalCompactionEnd s) := by
  unfold execJournalCompactionEnd
  try dsimp only
  repeat' with_reducible first | assumption | apply kept_parts | apply kept_parts_of | apply State.compactionEnd_keeps | apply keptO_next | apply keptO_onUnit | exact keptO_fault | simp only [kept_mk] | split

theorem doJournalRead_keeps {q : List Instr} (x1 : OpenCmd) (s : State) (h : Kept q s) :
    KeptR q (doJournalRead x1 s) := by
  unfold doJournalRead
  try dsimp only
  repeat' with_reducible first | assumption | apply kept_parts | apply kept_parts_of | apply done_keeps | apply kept_foldl | simp only [keptR_mk, id_eq] | apply And.intro | simp only [kept_mk] | split | intro _ _ _ _ _ _ | intro _ _ _ _ | intro _ _ _ | intro _ _

theorem State.recoverJournal_keeps {q : List Instr} (s : State) (x2 : Bool) (h : Kept q s) :
    Kept q (State.recoverJournal s x2) := by
  unfold State.recoverJournal
  try dsimp only
  repeat' with_reducible first | assumption | apply kept_parts | apply kept_parts_of | apply State.outcome_keeps | apply kept_foldl | simp only [kept_mk] | split | intro _ _ _ _ _ _ | intro _ _ _ _ | intro _ _ _ | intro _ _

theorem execJournalRead_keeps {q : List Instr} (s : State) (h : Kept q s) :
    KeptO q (execJournalRead s) := by
  unfold execJournalRead
  try dsimp only
  repeat' with_reducible first | assumption | apply kept_parts | apply kept_parts_of | apply State.run_keeps | apply doJournalRead_keeps | apply keptO_next | apply keptO_onUnit | exact keptO_fault | simp only [kept_mk] | split

theorem doJournalCompact_keeps {q : List Instr} (x1 : OpenCmd) (s : State) (h : Kept q s) :
    KeptR q (doJournalCompact x1 s) := by
  unfold doJournalCompact
  try dsimp only
  repeat' with_reducible first | assumption | apply kept_parts | apply kept_parts_of | apply began_keeps | simp only [keptR_mk, id_eq] | apply And.intro | simp only [kept_mk] | split | intro _ _ _ _ _ _ | intro _ _ _ _ | intro _ _ _ | intro _ _

theorem execJournalCompact_keeps {q : List Instr} (s : State) (h : Kept q s) :
    KeptO q (execJournalCompact s) := by
  unfold execJournalCompact
  try dsimp only
  repeat' with_reducible first | assumption | apply kept_parts | apply kept_parts_of | apply State.run_keeps | apply doJournalCompact_keeps | apply keptO_next | apply keptO_onUnit | exact keptO_fault | simp only [kept_mk] | split

theorem State.settleHeld_keeps {q : List Instr} (s : State) (x2 : Bool) (h : Kept q s) :
    Kept q (State.settleHeld s x2) := by
  unfold State.settleHeld
  try dsimp only
  repeat' with_reducible first | assumption | apply kept_parts | apply kept_parts_of | apply State.closeCmd_keeps | apply State.setPhase_keeps | apply kept_foldl | simp only [kept_mk] | split | intro _ _ _ _ _ _ | intro _ _ _ _ | intro _ _ _ | intro _ _

theorem doJournalSummary_keeps {q : List Instr} (x1 : OpenCmd) (s : State) (h : Kept q s) :
    KeptR q (doJournalSummary x1 s) := by
  unfold doJournalSummary
  try dsimp only
  repeat' with_reducible first | assumption | apply kept_parts | apply kept_parts_of | apply done_keeps | simp only [keptR_mk, id_eq] | apply And.intro | simp only [kept_mk] | split | intro _ _ _ _ _ _ | intro _ _ _ _ | intro _ _ _ | intro _ _

theorem execJournalSummary_keeps {q : List Instr} (s : State) (h : Kept q s) :
    KeptO q (execJournalSummary s) := by
  unfold execJournalSummary
  try dsimp only
  repeat' with_reducible first | assumption | apply kept_parts | apply kept_parts_of | apply State.run_keeps | apply doJournalSummary_keeps | apply keptO_next | apply keptO_onUnit | exact keptO_fault | simp only [kept_mk] | split

/-! ### Machine/Sessions.lean -/

theorem doOwnerClaim_keeps {q : List Instr} (x1 : OpenCmd) (s : State) (h : Kept q s) :
    KeptR q (doOwnerClaim x1 s) := by
  unfold doOwnerClaim
  try dsimp only
  repeat' with_reducible first | assumption | apply kept_parts | apply kept_parts_of | apply doneThen_keeps | apply State.emit_keeps | apply refuse_keeps | simp only [keptR_mk, id_eq] | apply And.intro | simp only [kept_mk] | split | intro _ _ _ _ _ _ | intro _ _ _ _ | intro _ _ _ | intro _ _

theorem execOwnerClaim_keeps {q : List Instr} (s : State) (h : Kept q s) :
    KeptO q (execOwnerClaim s) := by
  unfold execOwnerClaim
  try dsimp only
  repeat' with_reducible first | assumption | apply kept_parts | apply kept_parts_of | apply State.run_keeps | apply doOwnerClaim_keeps | apply keptO_next | apply keptO_onUnit | exact keptO_fault | simp only [kept_mk] | split

theorem State.closeSession_keeps {q : List Instr} (s : State) (x2 : ℕ) (h : Kept q s) :
    Kept q (State.closeSession s x2) := by
  unfold State.closeSession
  try dsimp only
  repeat' with_reducible first | assumption | apply kept_parts | apply kept_parts_of | apply State.emit_keeps | simp only [kept_mk] | split

theorem doSessionClose_keeps {q : List Instr} (x1 : OpenCmd) (s : State) (h : Kept q s) :
    KeptR q (doSessionClose x1 s) := by
  unfold doSessionClose
  try dsimp only
  repeat' with_reducible first | assumption | apply kept_parts | apply kept_parts_of | apply doneThen_keeps | apply State.closeSession_keeps | simp only [keptR_mk, id_eq] | apply And.intro | simp only [kept_mk] | split | intro _ _ _ _ _ _ | intro _ _ _ _ | intro _ _ _ | intro _ _

theorem execSessionClose_keeps {q : List Instr} (s : State) (h : Kept q s) :
    KeptO q (execSessionClose s) := by
  unfold execSessionClose
  try dsimp only
  repeat' with_reducible first | assumption | apply kept_parts | apply kept_parts_of | apply State.run_keeps | apply doSessionClose_keeps | apply keptO_next | apply keptO_onUnit | exact keptO_fault | simp only [kept_mk] | split

theorem doSessionList_keeps {q : List Instr} (x1 : OpenCmd) (s : State) (h : Kept q s) :
    KeptR q (doSessionList x1 s) := by
  unfold doSessionList
  try dsimp only
  repeat' with_reducible first | assumption | apply kept_parts | apply kept_parts_of | apply done_keeps | simp only [keptR_mk, id_eq] | apply And.intro | simp only [kept_mk] | split | intro _ _ _ _ _ _ | intro _ _ _ _ | intro _ _ _ | intro _ _

theorem execSessionList_keeps {q : List Instr} (s : State) (h : Kept q s) :
    KeptO q (execSessionList s) := by
  unfold execSessionList
  try dsimp only
  repeat' with_reducible first | assumption | apply kept_parts | apply kept_parts_of | apply State.run_keeps | apply doSessionList_keeps | apply keptO_next | apply keptO_onUnit | exact keptO_fault | simp only [kept_mk] | split

theorem execSessionIdleExpiry_keeps {q : List Instr} (x1 : ℕ) (s : State) (h : Kept q s) :
    KeptO q (execSessionIdleExpiry x1 s) := by
  unfold execSessionIdleExpiry
  try dsimp only
  repeat' with_reducible first | assumption | apply kept_parts | apply kept_parts_of | apply State.closeSession_keeps | apply keptO_next | apply keptO_onUnit | exact keptO_fault | simp only [kept_mk] | split

theorem State.forgetWrapped_keeps {q : List Instr} (s : State) (h : Kept q s) :
    Kept q (State.forgetWrapped s) := by
  unfold State.forgetWrapped
  try dsimp only
  repeat' with_reducible first | assumption | apply kept_parts | apply kept_parts_of | simp only [kept_mk] | split | intro _ _ _ _ _ _ | intro _ _ _ _ | intro _ _ _ | intro _ _

theorem doOwnerRelease_keeps {q : List Instr} (x1 : OpenCmd) (s : State) (h : Kept q s) :
    KeptR q (doOwnerRelease x1 s) := by
  unfold doOwnerRelease
  try dsimp only
  repeat' with_reducible first | assumption | apply kept_parts | apply kept_parts_of | apply doneThen_keeps | apply State.emit_keeps | apply done_keeps | simp only [keptR_mk, id_eq] | apply And.intro | simp only [kept_mk] | split | intro _ _ _ _ _ _ | intro _ _ _ _ | intro _ _ _ | intro _ _

theorem State.authFail_keeps {q : List Instr} (s : State) (h : Kept q s) :
    Kept q (State.authFail s) := by
  unfold State.authFail
  try dsimp only
  repeat' with_reducible first | assumption | apply kept_parts | apply kept_parts_of | simp only [kept_mk] | split | intro _ _ _ _ _ _ | intro _ _ _ _ | intro _ _ _ | intro _ _

theorem doSessionConfirm_keeps {q : List Instr} (x1 : OpenCmd) (s : State) (h : Kept q s) :
    KeptR q (doSessionConfirm x1 s) := by
  unfold doSessionConfirm
  try dsimp only
  repeat' with_reducible first | assumption | apply kept_parts | apply kept_parts_of | apply refuse_keeps | apply State.setSession_keeps | apply State.releaseHeld_keeps | apply State.emit_keeps | apply State.authFail_keeps | apply State.closeSession_keeps | simp only [keptR_mk, id_eq] | apply And.intro | simp only [kept_mk] | split | intro _ _ _ _ _ _ | intro _ _ _ _ | intro _ _ _ | intro _ _

theorem execSessionConfirm_keeps {q : List Instr} (s : State) (h : Kept q s) :
    KeptO q (execSessionConfirm s) := by
  unfold execSessionConfirm
  try dsimp only
  repeat' with_reducible first | assumption | apply kept_parts | apply kept_parts_of | apply State.run_keeps | apply doSessionConfirm_keeps | apply keptO_next | apply keptO_onUnit | exact keptO_fault | simp only [kept_mk] | split

theorem State.closeSessions_keeps {q : List Instr} (s : State) (x2 : Session → Bool) (h : Kept q s) :
    Kept q (State.closeSessions s x2) := by
  unfold State.closeSessions
  try dsimp only
  repeat' with_reducible first | assumption | apply kept_parts | apply kept_parts_of | apply State.closeSession_keeps | apply kept_foldl | simp only [kept_mk] | split | intro _ _ _ _ _ _ | intro _ _ _ _ | intro _ _ _ | intro _ _

theorem State.closeWorn_keeps {q : List Instr} (s : State) (h : Kept q s) :
    Kept q (State.closeWorn s) := by
  unfold State.closeWorn
  try dsimp only
  repeat' with_reducible first | assumption | apply kept_parts | apply kept_parts_of | apply State.closeSessions_keeps | simp only [kept_mk] | split | intro _ _ _ _ _ _ | intro _ _ _ _ | intro _ _ _ | intro _ _

theorem execOwnerRelease_keeps {q : List Instr} (s : State) (h : Kept q s) :
    KeptO q (execOwnerRelease s) := by
  unfold execOwnerRelease
  try dsimp only
  repeat' with_reducible first | assumption | apply kept_parts | apply kept_parts_of | apply State.run_keeps | apply doOwnerRelease_keeps | apply keptO_next | apply keptO_onUnit | exact keptO_fault | simp only [kept_mk] | split

theorem doSessionInit_keeps {q : List Instr} (x1 : OpenCmd) (s : State) (h : Kept q s) :
    KeptR q (doSessionInit x1 s) := by
  unfold doSessionInit
  try dsimp only
  repeat' with_reducible first | assumption | apply kept_parts | apply kept_parts_of | apply refuse_keeps | apply done_keeps | simp only [keptR_mk, id_eq] | apply And.intro | simp only [kept_mk] | split | intro _ _ _ _ _ _ | intro _ _ _ _ | intro _ _ _ | intro _ _

theorem execSessionInit_keeps {q : List Instr} (s : State) (h : Kept q s) :
    KeptO q (execSessionInit s) := by
  unfold execSessionInit
  try dsimp only
  repeat' with_reducible first | assumption | apply kept_parts | apply kept_parts_of | apply State.run_keeps | apply doSessionInit_keeps | apply keptO_next | apply keptO_onUnit | exact keptO_fault | simp only [kept_mk] | split

theorem doPing_keeps {q : List Instr} (x1 : OpenCmd) (s : State) (h : Kept q s) :
    KeptR q (doPing x1 s) := by
  unfold doPing
  try dsimp only
  repeat' with_reducible first | assumption | apply kept_parts | apply kept_parts_of | apply done_keeps | simp only [keptR_mk, id_eq] | apply And.intro | simp only [kept_mk] | split | intro _ _ _ _ _ _ | intro _ _ _ _ | intro _ _ _ | intro _ _

theorem execPing_keeps {q : List Instr} (s : State) (h : Kept q s) :
    KeptO q (execPing s) := by
  unfold execPing
  try dsimp only
  repeat' with_reducible first | assumption | apply kept_parts | apply kept_parts_of | apply State.run_keeps | apply doPing_keeps | apply keptO_next | apply keptO_onUnit | exact keptO_fault | simp only [kept_mk] | split

theorem execSessionHalfOpenExpiry_keeps {q : List Instr} (x1 : ℕ) (s : State) (h : Kept q s) :
    KeptO q (execSessionHalfOpenExpiry x1 s) := by
  unfold execSessionHalfOpenExpiry
  try dsimp only
  repeat' with_reducible first | assumption | apply kept_parts | apply kept_parts_of | apply State.closeSession_keeps | apply keptO_next | apply keptO_onUnit | exact keptO_fault | simp only [kept_mk] | split

/-! ### Machine/Speas.lean -/

theorem State.takeAck_keeps {q : List Instr} (s : State) (x2 : ℕ) (x3 : BitVec 32) (h : Kept q s) :
    Kept q (State.takeAck s x2 x3) := by
  unfold State.takeAck
  try dsimp only
  repeat' with_reducible first | assumption | apply kept_parts | apply kept_parts_of | apply State.setSp_keeps | apply State.putFrame_keeps | apply kept_foldl | simp only [kept_mk] | split | intro _ _ _ _ _ _ | intro _ _ _ _ | intro _ _ _ | intro _ _

theorem State.resend_keeps {q : List Instr} (s : State) (x2 : ℕ) (h : Kept q s) :
    Kept q (State.resend s x2) := by
  unfold State.resend
  try dsimp only
  repeat' with_reducible first | assumption | apply kept_parts | apply kept_parts_of | apply State.putFrame_keeps | apply State.trace_keeps | apply State.setSp_keeps | apply kept_foldl | simp only [kept_mk] | split | intro _ _ _ _ _ _ | intro _ _ _ _ | intro _ _ _ | intro _ _

theorem State.control_keeps {q : List Instr} (s : State) (x2 : ℕ) (x3 : ℕ) (x4 : ℕ) (h : Kept q s) :
    Kept q (State.control s x2 x3 x4) := by
  unfold State.control
  try dsimp only
  repeat' with_reducible first | assumption | apply kept_parts | apply kept_parts_of | apply State.trace_keeps | apply State.putFrame_keeps | simp only [kept_mk] | split

theorem State.waveAnswer_keeps {q : List Instr} (s : State) (x2 : ℕ) (x3 : ℕ) (x4 : ℕ) (h : Kept q s) :
    Kept q (State.waveAnswer s x2 x3 x4) := by
  unfold State.waveAnswer
  try dsimp only
  repeat' with_reducible first | assumption | apply kept_parts | apply kept_parts_of | apply State.control_keeps | apply State.setSp_keeps | simp only [kept_mk] | split

theorem State.waveRequest_keeps {q : List Instr} (s : State) (x2 : ℕ) (x3 : ℕ) (x4 : ℕ) (h : Kept q s) :
    Kept q (State.waveRequest s x2 x3 x4) := by
  unfold State.waveRequest
  try dsimp only
  repeat' with_reducible first | assumption | apply kept_parts | apply kept_parts_of | apply State.trace_keeps | apply State.control_keeps | apply State.waveAnswer_keeps | simp only [kept_mk] | split

theorem State.malformed_keeps {q : List Instr} (s : State) (h : Kept q s) :
    Kept q (State.malformed s) := by
  unfold State.malformed
  try dsimp only
  repeat' with_reducible first | assumption | apply kept_parts | apply kept_parts_of | simp only [kept_mk] | split

theorem State.turnAway_keeps {q : List Instr} (s : State) (x2 : ℕ) (x3 : Packet) (x4 : Status) (h : Kept q s) :
    Kept q (State.turnAway s x2 x3 x4) := by
  unfold State.turnAway
  try dsimp only
  repeat' with_reducible first | assumption | apply kept_parts | apply kept_parts_of | apply State.reply_keeps | simp only [kept_mk] | split

theorem State.setSeq_keeps {q : List Instr} (s : State) (x2 : ℕ) (x3 : ℕ) (x4 : ℕ) (h : Kept q s) :
    Kept q (State.setSeq s x2 x3 x4) := by
  unfold State.setSeq
  try dsimp only
  repeat' with_reducible first | assumption | apply kept_parts | apply kept_parts_of | simp only [kept_mk] | split | intro _ _ _ _ _ _ | intro _ _ _ _ | intro _ _ _ | intro _ _

theorem State.duplicate_keeps {q : List Instr} (s : State) (x2 : ℕ) (x3 : Packet) (x4 : Earlier) (h : Kept q s) :
    Kept q (State.duplicate s x2 x3 x4) := by
  unfold State.duplicate
  try dsimp only
  repeat' with_reducible first | assumption | apply kept_parts | apply kept_parts_of | apply State.reply_keeps | simp only [kept_mk] | split | intro _ _ _ _ _ _ | intro _ _ _ _ | intro _ _ _ | intro _ _

theorem State.sequence_keeps {q : List Instr} (s : State) (x2 : ℕ) (x3 : ℕ) (x4 : Packet) (h : Kept q s) :
    Kept q (State.sequence s x2 x3 x4).1 := by
  unfold State.sequence
  try dsimp only
  repeat' with_reducible first | assumption | apply kept_parts | apply kept_parts_of | apply State.turnAway_keeps | apply State.setSeq_keeps | apply State.duplicate_keeps | simp only [kept_mk] | split

theorem State.noteTie_keeps {q : List Instr} (s : State) (x2 : ℕ) (h : Kept q s) :
    Kept q (State.noteTie s x2) := by
  unfold State.noteTie
  try dsimp only
  repeat' with_reducible first | assumption | apply kept_parts | apply kept_parts_of | simp only [kept_mk] | split

theorem State.journalCommand_keeps {q : List Instr} (s : State) (x2 : ℕ) (x3 : ℕ) (x4 : Packet) (x5 : PacketFacts) (h : Kept q s) :
    Kept q (State.journalCommand s x2 x3 x4 x5) := by
  unfold State.journalCommand
  try dsimp only
  repeat' with_reducible first | assumption | apply kept_parts | apply kept_parts_of | apply State.turnAway_keeps | apply State.journalWrite_keeps | apply State.noteTie_keeps | apply State.finish_keeps | apply State.acceptReply_keeps | simp only [kept_mk] | split

theorem State.arrivalChecks_keeps {q : List Instr} (s : State) (x2 : ℕ) (x3 : ℕ) (x4 : Packet) (x5 : PacketFacts) (h : Kept q s) :
    Kept q (State.arrivalChecks s x2 x3 x4 x5) := by
  unfold State.arrivalChecks
  try dsimp only
  repeat' with_reducible first | assumption | apply kept_parts | apply kept_parts_of | apply State.turnAway_keeps | apply State.journalCommand_keeps | simp only [kept_mk] | split

theorem State.arrive_keeps {q : List Instr} (s : State) (x2 : ℕ) (x3 : List Sys2Proof.Byte) (h : Kept q s) :
    Kept q (State.arrive s x2 x3) := by
  unfold State.arrive
  try dsimp only
  repeat' with_reducible first | assumption | apply kept_parts | apply kept_parts_of | apply State.malformed_keeps | apply State.turnAway_keeps | apply State.authFail_keeps | apply State.closeSession_keeps | apply State.setSession_keeps | apply State.sequence_keeps | apply State.arrivalChecks_keeps | simp only [kept_mk] | split | intro _ _ _ _ _ _ | intro _ _ _ _ | intro _ _ _ | intro _ _

theorem State.assemble_keeps {q : List Instr} (s : State) (x2 : ℕ) (x3 : Frame) (h : Kept q s) :
    Kept q (State.assemble s x2 x3) := by
  unfold State.assemble
  try dsimp only
  repeat' with_reducible first | assumption | apply kept_parts | apply kept_parts_of | apply State.malformed_keeps | apply State.setSp_keeps | apply State.arrive_keeps | simp only [kept_mk] | split

theorem State.takeFrame_keeps {q : List Instr} (s : State) (x2 : ℕ) (x3 : Frame) (h : Kept q s) :
    Kept q (State.takeFrame s x2 x3) := by
  unfold State.takeFrame
  try dsimp only
  repeat' with_reducible first | assumption | apply kept_parts | apply kept_parts_of | apply State.takeAck_keeps | apply State.resend_keeps | apply State.waveRequest_keeps | apply State.setSp_keeps | apply State.assemble_keeps | apply State.putFrame_keeps | apply State.count_keeps | simp only [kept_mk] | split

theorem execSpeasFrame_keeps {q : List Instr} (x1 : ℕ) (x2 : ℕ) (x3 : List Sys2Proof.Byte) (s : State) (h : Kept q s) :
    KeptO q (execSpeasFrame x1 x2 x3 s) := by
  unfold execSpeasFrame
  try dsimp only
  repeat' with_reducible first | assumption | apply kept_parts | apply kept_parts_of | apply onUnit_keeps | apply State.count_keeps | apply State.closeWorn_keeps | apply State.takeFrame_keeps | apply keptO_next | apply keptO_onUnit | exact keptO_fault | simp only [kept_mk] | split

theorem execSpeasRotation_keeps {q : List Instr} (x1 : ℕ) (s : State) (h : Kept q s) :
    KeptO q (execSpeasRotation x1 s) := by
  unfold execSpeasRotation
  try dsimp only
  repeat' with_reducible first | assumption | apply kept_parts | apply kept_parts_of | apply onUnit_keeps | apply State.control_keeps | apply State.setSp_keeps | apply keptO_next | apply keptO_onUnit | exact keptO_fault | simp only [kept_mk] | split

theorem State.speasUp_keeps {q : List Instr} (s : State) (x2 : ℕ) (h : Kept q s) :
    Kept q (State.speasUp s x2) := by
  unfold State.speasUp
  try dsimp only
  repeat' with_reducible first | assumption | apply kept_parts | apply kept_parts_of | apply State.setSp_keeps | apply State.trace_keeps | simp only [kept_mk] | split

theorem execSpeasLinkUp_keeps {q : List Instr} (x1 : ℕ) (s : State) (h : Kept q s) :
    KeptO q (execSpeasLinkUp x1 s) := by
  unfold execSpeasLinkUp
  try dsimp only
  repeat' with_reducible first | assumption | apply kept_parts | apply kept_parts_of | apply onUnit_keeps | apply State.speasUp_keeps | apply keptO_next | apply keptO_onUnit | exact keptO_fault | simp only [kept_mk] | split

theorem State.speasDown_keeps {q : List Instr} (s : State) (x2 : ℕ) (h : Kept q s) :
    Kept q (State.speasDown s x2) := by
  unfold State.speasDown
  try dsimp only
  repeat' with_reducible first | assumption | apply kept_parts | apply kept_parts_of | apply State.trace_keeps | apply State.closeSessions_keeps | apply State.setSp_keeps | simp only [kept_mk] | split

theorem execSpeasWavelengthFail_keeps {q : List Instr} (x1 : ℕ) (x2 : ℕ) (s : State) (h : Kept q s) :
    KeptO q (execSpeasWavelengthFail x1 x2 s) := by
  unfold execSpeasWavelengthFail
  try dsimp only
  repeat' with_reducible first | assumption | apply kept_parts | apply kept_parts_of | apply State.speasDown_keeps | apply State.setSp_keeps | apply keptO_next | apply keptO_onUnit | exact keptO_fault | simp only [kept_mk] | split

theorem execSpeasRetransmitTimeout_keeps {q : List Instr} (x1 : ℕ) (s : State) (h : Kept q s) :
    KeptO q (execSpeasRetransmitTimeout x1 s) := by
  unfold execSpeasRetransmitTimeout
  try dsimp only
  repeat' with_reducible first | assumption | apply kept_parts | apply kept_parts_of | apply onUnit_keeps | apply State.speasDown_keeps | apply State.resend_keeps | apply State.setSp_keeps | apply keptO_next | apply keptO_onUnit | exact keptO_fault | simp only [kept_mk] | split

end Sys2Proof.Machine
end

