-- ==== Sys2Proof/Laws/KeepsUnits.lean ====
section
/-! SUPPORT. What every operation keeps (Kept: the canonical tables and memory, and the queue): registers, memories, units and the check. -/

set_option linter.unusedTactic false
set_option linter.unreachableTactic false
set_option linter.unusedSimpArgs false

namespace Sys2Proof.Machine

/-! ### Machine/Units.lean -/

theorem State.wringTake_keeps {q : List Instr} (s : State) (x2 : ℕ) (h : Kept q s) :
    Kept q (State.wringTake s x2) := by
  unfold State.wringTake
  try dsimp only
  repeat' with_reducible first | assumption | apply kept_parts | apply kept_parts_of | simp only [kept_mk] | split

theorem State.setCring_keeps {q : List Instr} (s : State) (x2 : ℕ) (x3 : CompletionRing) (h : Kept q s) :
    Kept q (State.setCring s x2 x3) := by
  unfold State.setCring
  try dsimp only
  repeat' with_reducible first | assumption | apply kept_parts | apply kept_parts_of | simp only [kept_mk] | split

theorem State.putRecord_keeps {q : List Instr} (s : State) (x2 : ℕ) (x3 : Requester) (x4 : List Sys2Proof.Byte) (h : Kept q s) :
    Kept q (State.putRecord s x2 x3 x4) := by
  unfold State.putRecord
  try dsimp only
  repeat' with_reducible first | assumption | apply kept_parts | apply kept_parts_of | apply State.setCring_keeps | apply State.store_keeps | simp only [kept_mk] | split

theorem State.record_keeps {q : List Instr} (s : State) (x2 : ℕ) (x3 : ℕ) (x4 : List Sys2Proof.Byte) (h : Kept q s) :
    Kept q (State.record s x2 x3 x4) := by
  unfold State.record
  try dsimp only
  repeat' with_reducible first | assumption | apply kept_parts | apply kept_parts_of | apply State.putRecord_keeps | apply State.setCring_keeps | apply State.fault_keeps | simp only [kept_mk] | split

theorem State.setStep_keeps {q : List Instr} (s : State) (x2 : StepRec) (h : Kept q s) :
    Kept q (State.setStep s x2) := by
  unfold State.setStep
  try dsimp only
  repeat' with_reducible first | assumption | apply kept_parts | apply kept_parts_of | simp only [kept_mk] | split | intro _ _ _ _ _ _ | intro _ _ _ _ | intro _ _ _ | intro _ _

theorem State.failStep_keeps {q : List Instr} (s : State) (x2 : Option ℕ) (x3 : ℕ) (h : Kept q s) :
    Kept q (State.failStep s x2 x3) := by
  unfold State.failStep
  try dsimp only
  repeat' with_reducible first | assumption | apply kept_parts | apply kept_parts_of | apply State.setStep_keeps | simp only [kept_mk] | split

theorem State.endWaiting_keeps {q : List Instr} (s : State) (x2 : ℕ) (x3 : ℕ) (h : Kept q s) :
    Kept q (State.endWaiting s x2 x3) := by
  unfold State.endWaiting
  try dsimp only
  repeat' with_reducible first | assumption | apply kept_parts | apply kept_parts_of | apply State.wringTake_keeps | apply State.record_keeps | apply State.failStep_keeps | simp only [kept_mk] | split

theorem State.endHostless_keeps {q : List Instr} (s : State) (x2 : ℕ) (x3 : ℕ) (h : Kept q s) :
    Kept q (State.endHostless s x2 x3) := by
  unfold State.endHostless
  try dsimp only
  repeat' with_reducible first | assumption | apply kept_parts | apply kept_parts_of | apply State.endWaiting_keeps | apply kept_foldl | simp only [kept_mk] | split | intro _ _ _ _ _ _ | intro _ _ _ _ | intro _ _ _ | intro _ _

theorem State.cutOps_keeps {q : List Instr} (s : State) (x2 : ℕ) (h : Kept q s) :
    Kept q (State.cutOps s x2) := by
  unfold State.cutOps
  try dsimp only
  repeat' with_reducible first | assumption | apply kept_parts | apply kept_parts_of | apply State.setCore_keeps | apply kept_foldl | simp only [kept_mk] | split | intro _ _ _ _ _ _ | intro _ _ _ _ | intro _ _ _ | intro _ _

theorem State.forgetLost_keeps {q : List Instr} (s : State) (x2 : ℕ × ℕ → Bool) (h : Kept q s) :
    Kept q (State.forgetLost s x2) := by
  unfold State.forgetLost
  try dsimp only
  repeat' with_reducible first | assumption | apply kept_parts | apply kept_parts_of | apply State.setCluster_keeps | apply kept_foldl | simp only [kept_mk] | split | intro _ _ _ _ _ _ | intro _ _ _ _ | intro _ _ _ | intro _ _

theorem State.replayPoison_keeps {q : List Instr} (s : State) (x2 : Option ℕ) (x3 : ℕ) (x4 : Bool) (h : Kept q s) :
    Kept q (State.replayPoison s x2 x3 x4) := by
  unfold State.replayPoison
  try dsimp only
  repeat' with_reducible first | assumption | apply kept_parts | apply kept_parts_of | apply State.failStep_keeps | apply State.fault_keeps | simp only [kept_mk] | split

theorem State.moveLogical_keeps {q : List Instr} (s : State) (x2 : ℕ) (x3 : ℕ) (h : Kept q s) :
    Kept q (State.moveLogical s x2 x3) := by
  unfold State.moveLogical
  try dsimp only
  repeat' with_reducible first | assumption | apply kept_parts | apply kept_parts_of | apply State.trace_keeps | apply State.fault_keeps | apply State.endHostless_keeps | apply State.failStep_keeps | simp only [kept_mk] | split | intro _ _ _ _ _ _ | intro _ _ _ _ | intro _ _ _ | intro _ _

theorem State.showReasons_keeps {q : List Instr} (s : State) (x2 : List ℕ) (x3 : List ℕ) (x4 : Bool) (h : Kept q s) :
    Kept q (State.showReasons s x2 x3 x4) := by
  unfold State.showReasons
  try dsimp only
  repeat' with_reducible first | assumption | apply kept_parts | apply kept_parts_of | apply State.setCore_keeps | apply State.setCluster_keeps | apply kept_foldl | simp only [kept_mk] | split | intro _ _ _ _ _ _ | intro _ _ _ _ | intro _ _ _ | intro _ _

theorem State.loseSlots_keeps {q : List Instr} (s : State) (x2 : ℕ) (h : Kept q s) :
    Kept q (State.loseSlots s x2) := by
  unfold State.loseSlots
  try dsimp only
  repeat' with_reducible first | assumption | apply kept_parts | apply kept_parts_of | apply State.setCluster_keeps | simp only [kept_mk] | split | intro _ _ _ _ _ _ | intro _ _ _ _ | intro _ _ _ | intro _ _

theorem State.closeOp_keeps {q : List Instr} (s : State) (x2 : ℕ) (x3 : Item) (x4 : Op) (x5 : Status) (h : Kept q s) :
    Kept q (State.closeOp s x2 x3 x4 x5).1 := by
  unfold State.closeOp
  try dsimp only
  repeat' with_reducible first | assumption | apply kept_parts | apply kept_parts_of | apply State.setCore_keeps | apply State.setBits_keeps | apply State.record_keeps | simp only [kept_mk] | split

theorem State.closeOps_keeps {q : List Instr} (s : State) (c : ℕ) (it : Item) (st : Status) (h : Kept q s) :
    Kept q (s.closeOps c it st).1 :=
  kept_foldl_fst (fun _ _ ht => State.closeOp_keeps _ _ _ _ _ ht) h

theorem State.itemRecord_keeps {q : List Instr} (s : State) (x2 : ℕ) (x3 : Item) (x4 : Status) (h : Kept q s) :
    Kept q (State.itemRecord s x2 x3 x4) := by
  unfold State.itemRecord
  try dsimp only
  repeat' with_reducible first | assumption | apply kept_parts | apply kept_parts_of | apply State.record_keeps | simp only [kept_mk] | split

theorem State.endItem_keeps {q : List Instr} (s : State) (x2 : ℕ) (x3 : Item) (x4 : Status) (h : Kept q s) :
    Kept q (State.endItem s x2 x3 x4) := by
  unfold State.endItem
  try dsimp only
  repeat' with_reducible first | assumption | apply kept_parts | apply kept_parts_of | apply State.trace_keeps | apply State.itemRecord_keeps | apply State.failStep_keeps | apply State.setCore_keeps | simp only [kept_mk] | split

theorem State.requeue_keeps {q : List Instr} (s : State) (x2 : ℕ) (x3 : Item) (h : Kept q s) :
    Kept q (State.requeue s x2 x3) := by
  unfold State.requeue
  try dsimp only
  repeat' with_reducible first | assumption | apply kept_parts | apply kept_parts_of | apply State.itemRecord_keeps | apply State.failStep_keeps | apply State.setCore_keeps | simp only [kept_mk] | split

theorem State.moveAll_keeps {q : List Instr} (s : State) (x2 : ℕ) (h : Kept q s) :
    Kept q (State.moveAll s x2) := by
  unfold State.moveAll
  try dsimp only
  repeat' with_reducible first | assumption | apply kept_parts | apply kept_parts_of | apply State.moveLogical_keeps | apply kept_foldl | simp only [kept_mk] | split | intro _ _ _ _ _ _ | intro _ _ _ _ | intro _ _ _ | intro _ _

theorem State.loseCore_keeps {q : List Instr} (s : State) (x2 : ℕ) (h : Kept q s) :
    Kept q (State.loseCore s x2) := by
  unfold State.loseCore
  try dsimp only
  repeat' with_reducible first | assumption | apply kept_parts | apply kept_parts_of | apply State.closeOps_keeps | apply State.endItem_keeps | apply State.setCore_keeps | apply State.requeue_keeps | apply State.moveAll_keeps | apply kept_parts_mem | apply Memory.wf_clear | apply wf_of_kept | apply kept_foldl | simp only [kept_mk] | split | intro _ _ _ _ _ _ | intro _ _ _ _ | intro _ _ _ | intro _ _

theorem State.clampNotice_keeps {q : List Instr} (s : State) (x2 : FaultUnit) (x3 : ℕ) (x4 : Bool) (h : Kept q s) :
    Kept q (State.clampNotice s x2 x3 x4) := by
  unfold State.clampNotice
  try dsimp only
  repeat' with_reducible first | assumption | apply kept_parts | apply kept_parts_of | apply State.fault_keeps | simp only [kept_mk] | split

theorem State.clampDie_keeps {q : List Instr} (s : State) (x2 : ℕ) (x3 : ℕ) (x4 : Bool) (h : Kept q s) :
    Kept q (State.clampDie s x2 x3 x4) := by
  unfold State.clampDie
  try dsimp only
  repeat' with_reducible first | assumption | apply kept_parts | apply kept_parts_of | apply State.setDie_keeps | apply State.showReasons_keeps | apply State.loseSlots_keeps | apply State.cutOps_keeps | apply State.loseCore_keeps | apply State.clampNotice_keeps | apply kept_foldl | simp only [kept_mk] | split | intro _ _ _ _ _ _ | intro _ _ _ _ | intro _ _ _ | intro _ _

theorem State.clampCore_keeps {q : List Instr} (s : State) (x2 : ℕ) (x3 : ℕ) (x4 : Bool) (h : Kept q s) :
    Kept q (State.clampCore s x2 x3 x4) := by
  unfold State.clampCore
  try dsimp only
  repeat' with_reducible first | assumption | apply kept_parts | apply kept_parts_of | apply State.setCore_keeps | apply State.showReasons_keeps | apply State.clampNotice_keeps | apply State.loseCore_keeps | simp only [kept_mk] | split

theorem State.abortItem_keeps {q : List Instr} (s : State) (x2 : ℕ) (x3 : Status) (h : Kept q s) :
    Kept q (State.abortItem s x2 x3) := by
  unfold State.abortItem
  try dsimp only
  repeat' with_reducible first | assumption | apply kept_parts | apply kept_parts_of | apply State.closeOps_keeps | apply State.endItem_keeps | simp only [kept_mk] | split

theorem State.clampBadBanks_keeps {q : List Instr} (s : State) (h : Kept q s) :
    Kept q (State.clampBadBanks s) := by
  unfold State.clampBadBanks
  try dsimp only
  repeat' with_reducible first | assumption | apply kept_parts | apply kept_parts_of | apply State.clampCore_keeps | apply kept_foldl | simp only [kept_mk] | split | intro _ _ _ _ _ _ | intro _ _ _ _ | intro _ _ _ | intro _ _

theorem State.wringError_keeps {q : List Instr} (s : State) (x2 : ℕ) (h : Kept q s) :
    Kept q (State.wringError s x2) := by
  unfold State.wringError
  try dsimp only
  repeat' with_reducible first | assumption | apply kept_parts | apply kept_parts_of | apply State.setBits_keeps | simp only [kept_mk] | split

theorem State.clampCluster_keeps {q : List Instr} (s : State) (x2 : ℕ) (x3 : ℕ) (x4 : Bool) (h : Kept q s) :
    Kept q (State.clampCluster s x2 x3 x4) := by
  unfold State.clampCluster
  try dsimp only
  repeat' with_reducible first | assumption | apply kept_parts | apply kept_parts_of | apply State.setCluster_keeps | apply State.loseSlots_keeps | apply State.showReasons_keeps | apply State.loseCore_keeps | apply State.clampNotice_keeps | apply kept_foldl | simp only [kept_mk] | split | intro _ _ _ _ _ _ | intro _ _ _ _ | intro _ _ _ | intro _ _

theorem State.clampUnit_keeps {q : List Instr} (s : State) (x2 : Sys2Proof.UnitKind) (x3 : ℕ) (x4 : ℕ) (x5 : Bool) (h : Kept q s) :
    Kept q (State.clampUnit s x2 x3 x4 x5) := by
  unfold State.clampUnit
  try dsimp only
  repeat' with_reducible first | assumption | apply kept_parts | apply kept_parts_of | apply State.clampCore_keeps | apply State.clampCluster_keeps | apply State.clampDie_keeps | simp only [kept_mk] | split

theorem State.setWringTail_keeps {q : List Instr} (s : State) (x2 : ℕ) (x3 : BitVec 32) (h : Kept q s) :
    Kept q (State.setWringTail s x2 x3) := by
  unfold State.setWringTail
  try dsimp only
  repeat' with_reducible first | assumption | apply kept_parts | apply kept_parts_of | apply State.setReg_keeps | simp only [kept_mk] | split

theorem State.drainCring_keeps {q : List Instr} (s : State) (n k : ℕ) (h : Kept q s) : Kept q (s.drainCring n k) := by
  induction k generalizing s with
  | zero => exact h
  | succ k ih =>
    rw [State.drainCring]
    split
    · exact h
    · split
      · exact ih _ (State.setCring_keeps _ _ _ (State.putRecord_keeps _ _ _ _ h))
      · split
        · exact h
        · exact State.fault_keeps _ _ _ _ _ _ (State.setCring_keeps _ _ _ h)

theorem State.unclampUnit_keeps {q : List Instr} (s : State) (x2 : Sys2Proof.UnitKind) (x3 : ℕ) (h : Kept q s) :
    Kept q (State.unclampUnit s x2 x3) := by
  unfold State.unclampUnit
  try dsimp only
  repeat' with_reducible first | assumption | apply kept_parts | apply kept_parts_of | apply State.showReasons_keeps | apply State.setCore_keeps | apply State.setCluster_keeps | apply State.setDie_keeps | simp only [kept_mk] | split

theorem State.releaseCring_keeps {q : List Instr} (s : State) (x2 : ℕ) (h : Kept q s) :
    Kept q (State.releaseCring s x2) := by
  unfold State.releaseCring
  try dsimp only
  repeat' with_reducible first | assumption | apply kept_parts | apply kept_parts_of | apply State.drainCring_keeps | simp only [kept_mk] | split

/-! ### Machine/SquareCheck.lean -/

theorem State.dropUnit_keeps {q : List Instr} (s : State) (x2 : ℕ) (h : Kept q s) :
    Kept q (State.dropUnit s x2) := by
  unfold State.dropUnit
  try dsimp only
  repeat' with_reducible first | assumption | apply kept_parts | apply kept_parts_of | simp only [kept_mk] | split

theorem State.dropComparisons_keeps {q : List Instr} (s : State) (x2 : ℕ → Bool) (h : Kept q s) :
    Kept q (State.dropComparisons s x2) := by
  unfold State.dropComparisons
  try dsimp only
  repeat' with_reducible first | assumption | apply kept_parts | apply kept_parts_of | apply State.dropUnit_keeps | apply kept_foldl | simp only [kept_mk] | split | intro _ _ _ _ _ _ | intro _ _ _ _ | intro _ _ _ | intro _ _

theorem doFieldTest_keeps {q : List Instr} (x1 : List (ℕ × ℕ × ℕ)) (x2 : OpenCmd) (s : State) (h : Kept q s) :
    KeptR q (doFieldTest x1 x2 s) := by
  unfold doFieldTest
  try dsimp only
  repeat' with_reducible first | assumption | apply kept_parts | apply kept_parts_of | apply refuse_keeps | apply began_keeps | apply State.setCore_keeps | simp only [keptR_mk, id_eq] | apply And.intro | simp only [kept_mk] | split | intro _ _ _ _ _ _ | intro _ _ _ _ | intro _ _ _ | intro _ _

theorem State.coreWatchDown_keeps {q : List Instr} (s : State) (x2 : ℕ) (h : Kept q s) :
    Kept q (State.coreWatchDown s x2) := by
  unfold State.coreWatchDown
  try dsimp only
  repeat' with_reducible first | assumption | apply kept_parts | apply kept_parts_of | apply State.setCore_keeps | simp only [kept_mk] | split

theorem State.watchDownBut_keeps {q : List Instr} (s : State) (x2 : Bool) (x3 : ℕ) (h : Kept q s) :
    Kept q (State.watchDownBut s x2 x3) := by
  unfold State.watchDownBut
  try dsimp only
  repeat' with_reducible first | assumption | apply kept_parts | apply kept_parts_of | apply State.coreWatchDown_keeps | simp only [kept_mk] | split

theorem doLedgerPin_keeps {q : List Instr} (x1 : OpenCmd) (s : State) (h : Kept q s) :
    KeptR q (doLedgerPin x1 s) := by
  unfold doLedgerPin
  try dsimp only
  repeat' with_reducible first | assumption | apply kept_parts | apply kept_parts_of | apply refuse_keeps | apply done_keeps | simp only [keptR_mk, id_eq] | apply And.intro | simp only [kept_mk] | split | intro _ _ _ _ _ _ | intro _ _ _ _ | intro _ _ _ | intro _ _

theorem State.clusterWatchDown_keeps {q : List Instr} (s : State) (x2 : ℕ) (h : Kept q s) :
    Kept q (State.clusterWatchDown s x2) := by
  unfold State.clusterWatchDown
  try dsimp only
  repeat' with_reducible first | assumption | apply kept_parts | apply kept_parts_of | apply State.setCluster_keeps | simp only [kept_mk] | split

theorem State.watchDown_keeps {q : List Instr} (s : State) (x2 : Bool) (x3 : ℕ) (h : Kept q s) :
    Kept q (State.watchDown s x2 x3) := by
  unfold State.watchDown
  try dsimp only
  repeat' with_reducible first | assumption | apply kept_parts | apply kept_parts_of | apply State.coreWatchDown_keeps | apply State.clusterWatchDown_keeps | simp only [kept_mk] | split

theorem State.settleUnit_keeps {q : List Instr} (s : State) (x2 : ℕ) (x3 : CheckUnit) (h : Kept q s) :
    Kept q (State.settleUnit s x2 x3) := by
  unfold State.settleUnit
  try dsimp only
  repeat' with_reducible first | assumption | apply kept_parts | apply kept_parts_of | apply State.watchDown_keeps | apply State.dropUnit_keeps | simp only [kept_mk] | split

theorem State.openUnit_keeps {q : List Instr} (s : State) (x2 : ℕ) (x3 : ℕ) (x4 : Bool) (x5 : Bool) (x6 : Bool) (x7 : ℕ) (x8 : ℕ) (x9 : ℕ) (x10 : ℕ) (x11 : BitVec 32) (h : Kept q s) :
    Kept q (State.openUnit s x2 x3 x4 x5 x6 x7 x8 x9 x10 x11).2 := by
  unfold State.openUnit
  try dsimp only
  repeat' with_reducible first | assumption | apply kept_parts | apply kept_parts_of | simp only [kept_mk] | split

theorem State.queueRun_keeps {q : List Instr} (s : State) (x2 : ℕ) (x3 : ℕ) (x4 : Bool) (h : Kept q s) :
    Kept q (State.queueRun s x2 x3 x4) := by
  unfold State.queueRun
  try dsimp only
  repeat' with_reducible first | assumption | apply kept_parts | apply kept_parts_of | apply State.setCore_keeps | simp only [kept_mk] | split

theorem State.toLedger_keeps {q : List Instr} (s : State) (x : CheckUnit) (noMajority : Bool) (losing : ℕ) (h : Kept q s) :
    Kept q (s.toLedger x noMajority losing).2 := by
  unfold State.toLedger
  extract_lets ps heads content need chain order short d r entry es
  clear_value short es entry
  cases short
  · simp only [Bool.false_eq_true, if_false, kept_mk]
    exact kept_parts h
  · simp only [if_true, kept_mk]
    exact kept_parts h

theorem State.watch_keeps {q : List Instr} (s : State) (x2 : Bool) (x3 : ℕ) (x4 : Bool) (h : Kept q s) :
    Kept q (State.watch s x2 x3 x4) := by
  unfold State.watch
  try dsimp only
  repeat' with_reducible first | assumption | apply kept_parts | apply kept_parts_of | apply State.setCluster_keeps | apply State.setCore_keeps | simp only [kept_mk] | split

theorem State.strike_keeps {q : List Instr} (s : State) (x2 : Bool) (x3 : ℕ) (h : Kept q s) :
    Kept q (State.strike s x2 x3).1 := by
  unfold State.strike
  try dsimp only
  repeat' with_reducible first | assumption | apply kept_parts | apply kept_parts_of | apply State.setCluster_keeps | apply State.clampCluster_keeps | apply State.watch_keeps | apply State.setCore_keeps | apply State.clampCore_keeps | simp only [kept_mk] | split

theorem State.fieldTestEnd_keeps {q : List Instr} (s : State) (x2 : ℕ) (x3 : ℕ) (x4 : ℕ) (x5 : List (ℕ × ℕ × ℕ)) (h : Kept q s) :
    Kept q (State.fieldTestEnd s x2 x3 x4 x5) := by
  unfold State.fieldTestEnd
  try dsimp only
  repeat' with_reducible first | assumption | apply kept_parts | apply kept_parts_of | apply State.setCore_keeps | apply State.strike_keeps | apply State.closeWith_keeps | simp only [kept_mk] | split

theorem doLedgerIndex_keeps {q : List Instr} (x1 : OpenCmd) (s : State) (h : Kept q s) :
    KeptR q (doLedgerIndex x1 s) := by
  unfold doLedgerIndex
  try dsimp only
  repeat' with_reducible first | assumption | apply kept_parts | apply kept_parts_of | apply done_keeps | simp only [keptR_mk, id_eq] | apply And.intro | simp only [kept_mk] | split | intro _ _ _ _ _ _ | intro _ _ _ _ | intro _ _ _ | intro _ _

theorem State.loadRun_keeps {q : List Instr} (s : State) (x2 : ℕ) (x3 : CheckUnit) (h : Kept q s) :
    Kept q (State.loadRun s x2 x3).1 := by
  unfold State.loadRun
  try dsimp only
  repeat' with_reducible first | assumption | apply kept_parts | apply kept_parts_of | apply State.fetch_keeps | apply State.store_keeps | apply kept_foldl | simp only [kept_mk] | split | intro _ _ _ _ _ _ | intro _ _ _ _ | intro _ _ _ | intro _ _

theorem State.strikeEvent_keeps {q : List Instr} (s : State) (x2 : CheckUnit) (x3 : Option ℕ) (x4 : Bool) (x5 : Bool) (x6 : Option ℕ) (h : Kept q s) :
    Kept q (State.strikeEvent s x2 x3 x4 x5 x6) := by
  unfold State.strikeEvent
  try dsimp only
  repeat' with_reducible first | assumption | apply kept_parts | apply kept_parts_of | apply State.emit_keeps | simp only [kept_mk] | split

theorem State.unsettled_keeps {q : List Instr} (s : State) (x2 : ℕ) (x3 : CheckUnit) (x4 : List ℕ) (h : Kept q s) :
    Kept q (State.unsettled s x2 x3 x4) := by
  unfold State.unsettled
  try dsimp only
  repeat' with_reducible first | assumption | apply kept_parts | apply kept_parts_of | apply State.toLedger_keeps | apply State.dropUnit_keeps | apply State.watch_keeps | apply State.failStep_keeps | apply State.strikeEvent_keeps | apply kept_foldl | simp only [kept_mk] | split | intro _ _ _ _ _ _ | intro _ _ _ _ | intro _ _ _ | intro _ _

theorem State.skipUnit_keeps {q : List Instr} (s : State) (x2 : ℕ) (h : Kept q s) :
    Kept q (State.skipUnit s x2) := by
  unfold State.skipUnit
  try dsimp only
  repeat' with_reducible first | assumption | apply kept_parts | apply kept_parts_of | apply State.dropUnit_keeps | simp only [kept_mk] | split

theorem State.setUnit_keeps {q : List Instr} (s : State) (x2 : ℕ) (x3 : CheckUnit) (h : Kept q s) :
    Kept q (State.setUnit s x2 x3) := by
  unfold State.setUnit
  try dsimp only
  repeat' with_reducible first | assumption | apply kept_parts | apply kept_parts_of | simp only [kept_mk] | split

theorem State.capture_keeps {q : List Instr} (s : State) (x2 : ℕ) (x3 : ℕ) (x4 : List Sys2Proof.Byte) (h : Kept q s) :
    Kept q (State.capture s x2 x3 x4) := by
  unfold State.capture
  try dsimp only
  repeat' with_reducible first | assumption | apply kept_parts | apply kept_parts_of | apply State.skipUnit_keeps | apply State.store_keeps | apply State.setUnit_keeps | apply kept_foldl | simp only [kept_mk] | split | intro _ _ _ _ _ _ | intro _ _ _ _ | intro _ _ _ | intro _ _

theorem State.loses_keeps {q : List Instr} (s : State) (x2 : ℕ) (x3 : CheckUnit) (x4 : ℕ) (h : Kept q s) :
    Kept q (State.loses s x2 x3 x4) := by
  unfold State.loses
  try dsimp only
  repeat' with_reducible first | assumption | apply kept_parts | apply kept_parts_of | apply State.toLedger_keeps | apply State.strike_keeps | apply State.watchDownBut_keeps | apply State.dropUnit_keeps | apply State.settleUnit_keeps | apply State.failStep_keeps | apply State.strikeEvent_keeps | simp only [kept_mk] | split

theorem State.majority_keeps {q : List Instr} (s : State) (x2 : ℕ) (x3 : CheckUnit) (h : Kept q s) :
    Kept q (State.majority s x2 x3) := by
  unfold State.majority
  try dsimp only
  repeat' with_reducible first | assumption | apply kept_parts | apply kept_parts_of | apply State.loses_keeps | apply State.unsettled_keeps | simp only [kept_mk] | split

theorem State.originalEnded_keeps {q : List Instr} (s : State) (x2 : Option ℕ) (x3 : Bool) (x4 : Status) (h : Kept q s) :
    Kept q (State.originalEnded s x2 x3 x4) := by
  unfold State.originalEnded
  try dsimp only
  repeat' with_reducible first | assumption | apply kept_parts | apply kept_parts_of | apply State.dropUnit_keeps | apply State.setUnit_keeps | simp only [kept_mk] | split

theorem doLedgerRead_keeps {q : List Instr} (x1 : OpenCmd) (s : State) (h : Kept q s) :
    KeptR q (doLedgerRead x1 s) := by
  unfold doLedgerRead
  try dsimp only
  repeat' with_reducible first | assumption | apply kept_parts | apply kept_parts_of | apply refuse_keeps | apply done_keeps | simp only [keptR_mk, id_eq] | apply And.intro | simp only [kept_mk] | split | intro _ _ _ _ _ _ | intro _ _ _ _ | intro _ _ _ | intro _ _

theorem State.placeDuplicate_keeps {q : List Instr} (s : State) (x2 : ℕ) (x3 : CheckUnit) (h : Kept q s) :
    Kept q (State.placeDuplicate s x2 x3) := by
  unfold State.placeDuplicate
  try dsimp only
  repeat' with_reducible first | assumption | apply kept_parts | apply kept_parts_of | apply State.queueRun_keeps | apply State.setUnit_keeps | apply State.skipUnit_keeps | simp only [kept_mk] | split

theorem State.popRun_keeps {q : List Instr} (s : State) (x2 : ℕ) (x3 : ℕ × Bool) (h : Kept q s) :
    Kept q (State.popRun s x2 x3) := by
  unfold State.popRun
  try dsimp only
  repeat' with_reducible first | assumption | apply kept_parts | apply kept_parts_of | apply State.setCore_keeps | simp only [kept_mk] | split | intro _ _ _ _ _ _ | intro _ _ _ _ | intro _ _ _ | intro _ _

theorem State.placeReferee_keeps {q : List Instr} (s : State) (x2 : ℕ) (x3 : CheckUnit) (h : Kept q s) :
    Kept q (State.placeReferee s x2 x3) := by
  unfold State.placeReferee
  try dsimp only
  repeat' with_reducible first | assumption | apply kept_parts | apply kept_parts_of | apply State.queueRun_keeps | apply State.setUnit_keeps | apply State.unsettled_keeps | simp only [kept_mk] | split

theorem State.discardTray_keeps {q : List Instr} (s : State) (c : ℕ) (as : List ℕ) (h : Kept q s) :
    Kept q (s.discardTray c as) :=
  kept_parts_mem (s := s) h (Memory.wf_foldl (wf_of_kept h) fun _ _ hn => Memory.wf_setByte hn)

theorem State.runCheck_keeps {q : List Instr} (s : State) (x2 : ℕ) (x3 : ℕ) (x4 : Bool) (x5 : Sys2Proof.Word) (f : State → CheckUnit → Sys2Proof.Word → State) (h : Kept q s) (hf : ∀ t i j, Kept q t → Kept q (f t i j)) :
    Kept q (State.runCheck s x2 x3 x4 x5 f) := by
  unfold State.runCheck
  try dsimp only
  repeat' with_reducible first | assumption | apply kept_parts | apply kept_parts_of | apply State.popRun_keeps | apply State.placeReferee_keeps | apply State.placeDuplicate_keeps | apply State.loadRun_keeps | apply State.skipUnit_keeps | apply State.setBits_keeps | apply State.discardTray_keeps | apply hf | simp only [kept_mk] | split | intro _ _ _ _ _ _ | intro _ _ _ _ | intro _ _ _ | intro _ _

theorem State.runReferee_keeps {q : List Instr} (s : State) (x2 : ℕ) (x3 : ℕ) (x4 : Sys2Proof.Word) (h : Kept q s) :
    Kept q (State.runReferee s x2 x3 x4) := by
  unfold State.runReferee
  try dsimp only
  repeat' with_reducible first | assumption | apply kept_parts | apply kept_parts_of | apply State.runCheck_keeps | apply State.majority_keeps | simp only [kept_mk] | split | intro _ _ _ _ _ _ | intro _ _ _ _ | intro _ _ _ | intro _ _

theorem State.compareUnit_keeps {q : List Instr} (s : State) (x2 : ℕ) (h : Kept q s) :
    Kept q (State.compareUnit s x2) := by
  unfold State.compareUnit
  try dsimp only
  repeat' with_reducible first | assumption | apply kept_parts | apply kept_parts_of | apply State.settleUnit_keeps | apply State.placeReferee_keeps | simp only [kept_mk] | split

theorem State.captureEnd_keeps {q : List Instr} (s : State) (x2 : ℕ) (h : Kept q s) :
    Kept q (State.captureEnd s x2) := by
  unfold State.captureEnd
  try dsimp only
  repeat' with_reducible first | assumption | apply kept_parts | apply kept_parts_of | apply State.setUnit_keeps | apply State.placeDuplicate_keeps | simp only [kept_mk] | split

theorem State.runDuplicate_keeps {q : List Instr} (s : State) (x2 : ℕ) (x3 : ℕ) (x4 : Sys2Proof.Word) (h : Kept q s) :
    Kept q (State.runDuplicate s x2 x3 x4) := by
  unfold State.runDuplicate
  try dsimp only
  repeat' with_reducible first | assumption | apply kept_parts | apply kept_parts_of | apply State.runCheck_keeps | apply State.setUnit_keeps | simp only [kept_mk] | split | intro _ _ _ _ _ _ | intro _ _ _ _ | intro _ _ _ | intro _ _

theorem State.reissueLost_keeps {q : List Instr} (s : State) (h : Kept q s) :
    Kept q (State.reissueLost s) := by
  unfold State.reissueLost
  try dsimp only
  repeat' with_reducible first | assumption | apply kept_parts | apply kept_parts_of | apply State.placeReferee_keeps | apply State.placeDuplicate_keeps | apply State.setCore_keeps | apply kept_foldl | simp only [kept_mk] | split | intro _ _ _ _ _ _ | intro _ _ _ _ | intro _ _ _ | intro _ _

end Sys2Proof.Machine
end

