-- ==== Sys2Proof/Laws/KeepsFabric.lean ====
section
/-! SUPPORT. What every operation keeps (Kept: the canonical tables and memory, and the queue): RDMA, routing, streams and collectives. -/

set_option linter.unusedTactic false
set_option linter.unreachableTactic false
set_option linter.unusedSimpArgs false

namespace Sys2Proof.Machine

/-! ### Machine/Rdma.lean -/

theorem State.setEth_keeps {q : List Instr} (s : State) (x2 : ℕ) (x3 : EthPort) (h : Kept q s) :
    Kept q (State.setEth s x2 x3) := by
  unfold State.setEth
  try dsimp only
  repeat' with_reducible first | assumption | apply kept_parts | apply kept_parts_of | simp only [kept_mk] | split

theorem State.putRdma_keeps {q : List Instr} (s : State) (x2 : ℕ) (x3 : QueuePair) (x4 : ℕ) (x5 : Sys2Proof.RdmaPacket) (h : Kept q s) :
    Kept q (State.putRdma s x2 x3 x4 x5) := by
  unfold State.putRdma
  try dsimp only
  repeat' with_reducible first | assumption | apply kept_parts | apply kept_parts_of | apply State.setEth_keeps | apply State.count_keeps | apply State.send_keeps | simp only [kept_mk] | split

theorem State.setQp_keeps {q : List Instr} (s : State) (x2 : ℕ) (x3 : ℕ) (x4 : QueuePair) (h : Kept q s) :
    Kept q (State.setQp s x2 x3 x4) := by
  unfold State.setQp
  try dsimp only
  repeat' with_reducible first | assumption | apply kept_parts | apply kept_parts_of | apply State.setEth_keeps | simp only [kept_mk] | split

theorem State.rdmaSend_keeps {q : List Instr} (s : State) (x2 : ℕ) (x3 : ℕ) (x4 : Sys2Proof.RdmaKind) (h : Kept q s) :
    Kept q (State.rdmaSend s x2 x3 x4) := by
  unfold State.rdmaSend
  try dsimp only
  repeat' with_reducible first | assumption | apply kept_parts | apply kept_parts_of | apply State.withRouter_keeps | apply State.putRdma_keeps | apply State.setQp_keeps | simp only [kept_mk] | split

theorem State.flushHeld_keeps {q : List Instr} (s : State) (x2 : ℕ) (h : Kept q s) :
    Kept q (State.flushHeld s x2) := by
  unfold State.flushHeld
  try dsimp only
  repeat' with_reducible first | assumption | apply kept_parts | apply kept_parts_of | apply State.putRdma_keeps | apply State.setEth_keeps | apply kept_foldl | simp only [kept_mk] | split | intro _ _ _ _ _ _ | intro _ _ _ _ | intro _ _ _ | intro _ _

theorem State.rdmaAnswer_keeps {q : List Instr} (s : State) (x2 : ℕ) (x3 : QueuePair) (x4 : ℕ) (x5 : BitVec 24) (x6 : Sys2Proof.RdmaKind) (h : Kept q s) :
    Kept q (State.rdmaAnswer s x2 x3 x4 x5 x6) := by
  unfold State.rdmaAnswer
  try dsimp only
  repeat' with_reducible first | assumption | apply kept_parts | apply kept_parts_of | apply State.putRdma_keeps | simp only [kept_mk] | split

theorem State.answerRead_keeps {q : List Instr} (s : State) (n k : ℕ) (h : Kept q s) {t : State} (e : s.answerRead n k = some t) :
    Kept q t := by
  have hf : ∀ a m, Kept q (s.fetch .carcass a m) := fun a m => State.fetch_keeps _ _ _ _ h
  unfold State.answerRead at e
  dsimp only at e
  split at e
  · cases e
  · split at e
    · cases e
    · split at e
      · cases e
      · split at e <;> cases e
        · exact State.rdmaAnswer_keeps _ _ _ _ _ _ (State.setQp_keeps _ _ _ _ (hf _ _))
        · exact State.putRdma_keeps _ _ _ _ _ (State.setQp_keeps _ _ _ _ (hf _ _))

theorem State.answerReads_keeps {q : List Instr} (s : State) (n k m : ℕ) (h : Kept q s) : Kept q (s.answerReads n k m) := by
  induction m generalizing s with
  | zero => exact h
  | succ m ih =>
    rw [State.answerReads]
    split
    · exact ih _ (State.answerRead_keeps _ _ _ h ‹_›)
    · exact h

theorem State.rdmaResend_keeps {q : List Instr} (s : State) (x2 : ℕ) (x3 : ℕ) (x4 : List Sys2Proof.RdmaPacket) (h : Kept q s) :
    Kept q (State.rdmaResend s x2 x3 x4) := by
  unfold State.rdmaResend
  try dsimp only
  repeat' with_reducible first | assumption | apply kept_parts | apply kept_parts_of | apply State.withRouter_keeps | apply State.trace_keeps | apply State.putRdma_keeps | apply kept_foldl | simp only [kept_mk] | split | intro _ _ _ _ _ _ | intro _ _ _ _ | intro _ _ _ | intro _ _

theorem State.qpError_keeps {q : List Instr} (s : State) (x2 : ℕ) (x3 : ℕ) (h : Kept q s) :
    Kept q (State.qpError s x2 x3) := by
  unfold State.qpError
  try dsimp only
  repeat' with_reducible first | assumption | apply kept_parts | apply kept_parts_of | apply State.setQp_keeps | simp only [kept_mk] | split

theorem State.pumpReads_keeps {q : List Instr} (s : State) (x2 : ℕ) (h : Kept q s) :
    Kept q (State.pumpReads s x2) := by
  unfold State.pumpReads
  try dsimp only
  repeat' with_reducible first | assumption | apply kept_parts | apply kept_parts_of | apply State.answerReads_keeps | apply kept_foldl | simp only [kept_mk] | split | intro _ _ _ _ _ _ | intro _ _ _ _ | intro _ _ _ | intro _ _

/-! ### Machine/Router.lean -/

theorem State.setPort_keeps {q : List Instr} (s : State) (x2 : ℕ) (x3 : TensorPort) (h : Kept q s) :
    Kept q (State.setPort s x2 x3) := by
  unfold State.setPort
  try dsimp only
  repeat' with_reducible first | assumption | apply kept_parts | apply kept_parts_of | simp only [kept_mk] | split

theorem State.putCell_keeps {q : List Instr} (s : State) (x2 : ℕ) (x3 : List Sys2Proof.Byte) (h : Kept q s) :
    Kept q (State.putCell s x2 x3) := by
  unfold State.putCell
  try dsimp only
  repeat' with_reducible first | assumption | apply kept_parts | apply kept_parts_of | apply State.count_keeps | apply State.send_keeps | apply State.setPort_keeps | simp only [kept_mk] | split

theorem State.setWaiting_keeps {q : List Instr} (s : State) (x2 : List QueuedCell) (h : Kept q s) :
    Kept q (State.setWaiting s x2) := by
  unfold State.setWaiting
  try dsimp only
  repeat' with_reducible first | assumption | apply kept_parts | apply kept_parts_of | simp only [kept_mk] | split

theorem State.oweCredit_keeps {q : List Instr} (s : State) (x2 : Option ℕ) (x3 : ℕ) (h : Kept q s) :
    Kept q (State.oweCredit s x2 x3) := by
  unfold State.oweCredit
  try dsimp only
  repeat' with_reducible first | assumption | apply kept_parts | apply kept_parts_of | apply State.setPort_keeps | simp only [kept_mk] | split

theorem State.discard_keeps {q : List Instr} (s : State) (x2 : ℕ) (x3 : ℕ) (x4 : ℕ) (x5 : List Sys2Proof.Byte) (h : Kept q s) :
    Kept q (State.discard s x2 x3 x4 x5) := by
  unfold State.discard
  try dsimp only
  repeat' with_reducible first | assumption | apply kept_parts | apply kept_parts_of | apply State.trace_keeps | apply State.count_keeps | apply State.setPort_keeps | simp only [kept_mk] | split

theorem State.unroutable_keeps {q : List Instr} (s : State) (x2 : QueuedCell) (h : Kept q s) :
    Kept q (State.unroutable s x2) := by
  unfold State.unroutable
  try dsimp only
  repeat' with_reducible first | assumption | apply kept_parts | apply kept_parts_of | apply State.oweCredit_keeps | apply State.discard_keeps | simp only [kept_mk] | split

theorem State.throttle_keeps {q : List Instr} (s : State) (x2 : ℕ) (h : Kept q s) :
    Kept q (State.throttle s x2) := by
  unfold State.throttle
  try dsimp only
  repeat' with_reducible first | assumption | apply kept_parts | apply kept_parts_of | apply State.setPort_keeps | simp only [kept_mk] | split

theorem State.setEgress_keeps {q : List Instr} (s : State) (x2 : ℕ) (x3 : List QueuedCell) (h : Kept q s) :
    Kept q (State.setEgress s x2 x3) := by
  unfold State.setEgress
  try dsimp only
  repeat' with_reducible first | assumption | apply kept_parts | apply kept_parts_of | apply State.setPort_keeps | simp only [kept_mk] | split

theorem State.drainPort_keeps {q : List Instr} (s : State) (x2 : ℕ) (x3 : ℕ) (h : Kept q s) :
    Kept q (State.drainPort s x2 x3) := by
  induction x3 generalizing s with
  | zero => exact h
  | succ k ih =>
    rw [State.drainPort]
    try dsimp only
    repeat' with_reducible first | apply ih | assumption | apply kept_parts | apply kept_parts_of | apply State.putCell_keeps | apply State.setEgress_keeps | apply State.setPort_keeps | simp only [kept_mk] | split | intro _ _ _ _ _ _ | intro _ _ _ _ | intro _ _ _ | intro _ _

theorem State.flushPort_keeps {q : List Instr} (s : State) (x2 : ℕ) (h : Kept q s) :
    Kept q (State.flushPort s x2) := by
  unfold State.flushPort
  try dsimp only
  repeat' with_reducible first | assumption | apply kept_parts | apply kept_parts_of | apply State.throttle_keeps | apply State.drainPort_keeps | simp only [kept_mk] | split

theorem State.setBridge_keeps {q : List Instr} (s : State) (x2 : ℕ) (x3 : List QueuedCell) (x4 : ℕ) (h : Kept q s) :
    Kept q (State.setBridge s x2 x3 x4) := by
  unfold State.setBridge
  try dsimp only
  repeat' with_reducible first | assumption | apply kept_parts | apply kept_parts_of | simp only [kept_mk] | split | intro _ _ _ _ _ _ | intro _ _ _ _ | intro _ _ _ | intro _ _

theorem State.flushBridge_keeps {q : List Instr} (s : State) (x2 : ℕ) (h : Kept q s) :
    Kept q (State.flushBridge s x2) := by
  unfold State.flushBridge
  try dsimp only
  repeat' with_reducible first | assumption | apply kept_parts | apply kept_parts_of | apply State.rdmaSend_keeps | apply State.setBridge_keeps | simp only [kept_mk] | split

theorem State.enqueue_keeps {q : List Instr} (s : State) (x2 : ℕ) (x3 : QueuedCell) (h : Kept q s) :
    Kept q (State.enqueue s x2 x3) := by
  unfold State.enqueue
  try dsimp only
  repeat' with_reducible first | assumption | apply kept_parts | apply kept_parts_of | apply State.unroutable_keeps | apply State.oweCredit_keeps | apply State.setPort_keeps | apply State.flushPort_keeps | apply State.throttle_keeps | apply State.setEgress_keeps | apply State.flushBridge_keeps | apply State.setBridge_keeps | simp only [kept_mk] | split

theorem State.launch_keeps {q : List Instr} (s : State) (x : QueuedCell) (h : Kept q s) {t : State} (e : s.launch x = some t) :
    Kept q t := by
  unfold State.launch at e
  dsimp only at e
  split at e
  · cases e
    exact State.enqueue_keeps _ _ _ (kept_parts (s := s) h)
  · cases e
  · cases e
    exact State.unroutable_keeps _ _ h

theorem State.launchAll_keeps {q : List Instr} (s : State) (x2 : List QueuedCell) (x3 : List (ℕ × ℕ)) (h : Kept q s) :
    Kept q (s.launchAll x2 x3) := by
  induction x2 generalizing s x3 with
  | nil => exact h
  | cons c r ih =>
    rw [State.launchAll]
    have hw := State.setWaiting_keeps s (s.fabric.waiting ++ [c]) h
    have hl : ∀ {t}, s.launch c = some t → Kept q t := fun e => State.launch_keeps _ _ h e
    revert hl
    generalize s.launch c = l
    intro hl
    cases l with
    | some t => repeat' first | exact ih _ _ hw | exact ih _ _ (hl rfl) | split
    | none => repeat' first | exact ih _ _ hw | split

theorem State.forward_keeps {q : List Instr} (s : State) (x2 : Cell) (x3 : Option ℕ) (h : Kept q s) :
    Kept q (State.forward s x2 x3) := by
  unfold State.forward
  try dsimp only
  repeat' with_reducible first | assumption | apply kept_parts | apply kept_parts_of | apply State.setWaiting_keeps | apply State.withRouter_keeps | apply State.launchAll_keeps | simp only [kept_mk] | split | intro _ _ _ _ _ _ | intro _ _ _ _ | intro _ _ _ | intro _ _

theorem State.reroute_keeps {q : List Instr} (s : State) (h : Kept q s) :
    Kept q (State.reroute s) := by
  unfold State.reroute
  try dsimp only
  repeat' with_reducible first | assumption | apply kept_parts | apply kept_parts_of | apply State.withRouter_keeps | apply State.throttle_keeps | apply State.setEgress_keeps | apply State.setBridge_keeps | apply State.launchAll_keeps | apply State.setWaiting_keeps | apply kept_foldl | simp only [kept_mk] | split | intro _ _ _ _ _ _ | intro _ _ _ _ | intro _ _ _ | intro _ _

theorem State.retryWaiting_keeps {q : List Instr} (s : State) (h : Kept q s) :
    Kept q (State.retryWaiting s) := by
  unfold State.retryWaiting
  try dsimp only
  repeat' with_reducible first | assumption | apply kept_parts | apply kept_parts_of | apply State.withRouter_keeps | apply State.launchAll_keeps | apply State.setWaiting_keeps | simp only [kept_mk] | split

theorem State.flushAll_keeps {q : List Instr} (s : State) (h : Kept q s) :
    Kept q (State.flushAll s) := by
  unfold State.flushAll
  try dsimp only
  repeat' with_reducible first | assumption | apply kept_parts | apply kept_parts_of | apply State.pumpReads_keeps | apply State.flushHeld_keeps | apply State.flushPort_keeps | apply State.withRouter_keeps | apply State.flushBridge_keeps | apply State.retryWaiting_keeps | apply kept_foldl | simp only [kept_mk] | split | intro _ _ _ _ _ _ | intro _ _ _ _ | intro _ _ _ | intro _ _

theorem State.inject_keeps {q : List Instr} (s : State) (x2 : Cell) (h : Kept q s) :
    Kept q (State.inject s x2) := by
  unfold State.inject
  try dsimp only
  repeat' with_reducible first | assumption | apply kept_parts | apply kept_parts_of | apply State.forward_keeps | simp only [kept_mk] | split

theorem State.injectVia_keeps {q : List Instr} (s : State) (x2 : Option ℕ) (x3 : Cell) (h : Kept q s) :
    Kept q (State.injectVia s x2 x3) := by
  unfold State.injectVia
  try dsimp only
  repeat' with_reducible first | assumption | apply kept_parts | apply kept_parts_of | apply State.withRouter_keeps | apply State.enqueue_keeps | apply State.inject_keeps | simp only [kept_mk] | split

/-! ### Machine/Streams.lean -/

theorem State.streamDiscard_keeps {q : List Instr} (s : State) (h : Kept q s) :
    Kept q (State.streamDiscard s) := by
  unfold State.streamDiscard
  try dsimp only
  repeat' with_reducible first | assumption | apply kept_parts | apply kept_parts_of | simp only [kept_mk] | split

theorem State.sendAck_keeps {q : List Instr} (s : State) (x2 : ℕ) (x3 : StreamRx) (x4 : Bool) (h : Kept q s) :
    Kept q (State.sendAck s x2 x3 x4) := by
  unfold State.sendAck
  try dsimp only
  repeat' with_reducible first | assumption | apply kept_parts | apply kept_parts_of | apply State.inject_keeps | simp only [kept_mk] | split

theorem State.rxRecord_keeps {q : List Instr} (s : State) (x2 : ℕ) (x3 : StreamRx) (x4 : Status) (h : Kept q s) :
    Kept q (State.rxRecord s x2 x3 x4) := by
  unfold State.rxRecord
  try dsimp only
  repeat' with_reducible first | assumption | apply kept_parts | apply kept_parts_of | apply State.record_keeps | simp only [kept_mk] | split

theorem State.setContext_keeps {q : List Instr} (s : State) (x2 : ℕ) (x3 : StreamContext) (h : Kept q s) :
    Kept q (State.setContext s x2 x3) := by
  unfold State.setContext
  try dsimp only
  repeat' with_reducible first | assumption | apply kept_parts | apply kept_parts_of | simp only [kept_mk] | split

theorem State.setTx_keeps {q : List Instr} (s : State) (x2 : ℕ) (x3 : Option StreamTx) (h : Kept q s) :
    Kept q (State.setTx s x2 x3) := by
  unfold State.setTx
  try dsimp only
  repeat' with_reducible first | assumption | apply kept_parts | apply kept_parts_of | apply State.setContext_keeps | simp only [kept_mk] | split

theorem State.sendData_keeps {q : List Instr} (s : State) (x2 : ℕ) (x3 : StreamTx) (x4 : ℕ) (h : Kept q s) :
    Kept q (State.sendData s x2 x3 x4) := by
  unfold State.sendData
  try dsimp only
  repeat' with_reducible first | assumption | apply kept_parts | apply kept_parts_of | apply State.fetch_keeps | apply State.replayPoison_keeps | apply State.injectVia_keeps | simp only [kept_mk] | split

theorem State.pumpTx_keeps {q : List Instr} (s : State) (x2 : ℕ) (x3 : ℕ) (h : Kept q s) :
    Kept q (State.pumpTx s x2 x3) := by
  induction x3 generalizing s with
  | zero => exact h
  | succ k ih =>
    rw [State.pumpTx]
    try dsimp only
    repeat' with_reducible first | apply ih | assumption | apply kept_parts | apply kept_parts_of | apply State.sendData_keeps | apply State.setTx_keeps | simp only [kept_mk] | split

theorem State.pump_keeps {q : List Instr} (s : State) (x2 : ℕ) (h : Kept q s) :
    Kept q (State.pump s x2) := by
  unfold State.pump
  try dsimp only
  repeat' with_reducible first | assumption | apply kept_parts | apply kept_parts_of | apply State.pumpTx_keeps | simp only [kept_mk] | split

theorem State.setRx_keeps {q : List Instr} (s : State) (x2 : ℕ) (x3 : Option StreamRx) (h : Kept q s) :
    Kept q (State.setRx s x2 x3) := by
  unfold State.setRx
  try dsimp only
  repeat' with_reducible first | assumption | apply kept_parts | apply kept_parts_of | apply State.setContext_keeps | simp only [kept_mk] | split

theorem State.lateAcks_keeps {q : List Instr} (s : State) (h : Kept q s) :
    Kept q (State.lateAcks s) := by
  unfold State.lateAcks
  try dsimp only
  repeat' with_reducible first | assumption | apply kept_parts | apply kept_parts_of | apply State.sendAck_keeps | apply State.setRx_keeps | apply kept_foldl | simp only [kept_mk] | split | intro _ _ _ _ _ _ | intro _ _ _ _ | intro _ _ _ | intro _ _

theorem State.pumpAll_keeps {q : List Instr} (s : State) (h : Kept q s) :
    Kept q (State.pumpAll s) := by
  unfold State.pumpAll
  try dsimp only
  repeat' with_reducible first | assumption | apply kept_parts | apply kept_parts_of | apply State.pump_keeps | apply kept_foldl | simp only [kept_mk] | split | intro _ _ _ _ _ _ | intro _ _ _ _ | intro _ _ _ | intro _ _

theorem State.completeRx_keeps {q : List Instr} (s : State) (x2 : ℕ) (x3 : StreamRx) (h : Kept q s) :
    Kept q (State.completeRx s x2 x3) := by
  unfold State.completeRx
  try dsimp only
  repeat' with_reducible first | assumption | apply kept_parts | apply kept_parts_of | apply State.rxRecord_keeps | apply State.setRx_keeps | apply State.failStep_keeps | apply State.sendAck_keeps | simp only [kept_mk] | split

theorem State.takeData_keeps {q : List Instr} (s : State) (x2 : ℕ) (x3 : ℕ) (x4 : StreamRx) (x5 : Cell) (h : Kept q s) :
    Kept q (State.takeData s x2 x3 x4 x5) := by
  unfold State.takeData
  try dsimp only
  repeat' with_reducible first | assumption | apply kept_parts | apply kept_parts_of | apply State.streamDiscard_keeps | apply State.setRx_keeps | apply State.storePoisoned_keeps | apply State.completeRx_keeps | apply State.sendAck_keeps | simp only [kept_mk] | split | intro _ _ _ _ _ _ | intro _ _ _ _ | intro _ _ _ | intro _ _

theorem State.takeOpen_keeps {q : List Instr} (s : State) (x2 : ℕ) (x3 : Cell) (x4 : Bool) (h : Kept q s) :
    Kept q (State.takeOpen s x2 x3 x4) := by
  unfold State.takeOpen
  try dsimp only
  repeat' with_reducible first | assumption | apply kept_parts | apply kept_parts_of | apply State.streamDiscard_keeps | apply State.completeRx_keeps | apply State.setRx_keeps | apply State.sendAck_keeps | simp only [kept_mk] | split

theorem State.sendOpen_keeps {q : List Instr} (s : State) (x2 : ℕ) (x3 : StreamTx) (h : Kept q s) :
    Kept q (State.sendOpen s x2 x3) := by
  unfold State.sendOpen
  try dsimp only
  repeat' with_reducible first | assumption | apply kept_parts | apply kept_parts_of | apply State.injectVia_keeps | simp only [kept_mk] | split

theorem State.startTx_keeps {q : List Instr} (s : State) (x2 : ℕ) (x3 : StreamTx) (h : Kept q s) :
    Kept q (State.startTx s x2 x3) := by
  unfold State.startTx
  try dsimp only
  repeat' with_reducible first | assumption | apply kept_parts | apply kept_parts_of | apply State.pump_keeps | apply State.sendOpen_keeps | apply State.setTx_keeps | simp only [kept_mk] | split

theorem State.retryTx_keeps {q : List Instr} (s : State) (x2 : ℕ) (x3 : StreamTx) (h : Kept q s) :
    Kept q (State.retryTx s x2 x3) := by
  unfold State.retryTx
  try dsimp only
  repeat' with_reducible first | assumption | apply kept_parts | apply kept_parts_of | apply State.pump_keeps | apply State.sendOpen_keeps | apply State.setTx_keeps | simp only [kept_mk] | split

/-! ### Machine/Collectives.lean -/

theorem State.setSq_keeps {q : List Instr} (s : State) (x2 : ℕ) (x3 : StreamQueue) (h : Kept q s) :
    Kept q (State.setSq s x2 x3) := by
  unfold State.setSq
  try dsimp only
  repeat' with_reducible first | assumption | apply kept_parts | apply kept_parts_of | simp only [kept_mk] | split

theorem State.streamVerdict_keeps {q : List Instr} (s : State) (x2 : ℕ) (x3 : Status) (h : Kept q s) :
    Kept q (State.streamVerdict s x2 x3) := by
  unfold State.streamVerdict
  try dsimp only
  repeat' with_reducible first | assumption | apply kept_parts | apply kept_parts_of | apply State.failStep_keeps | simp only [kept_mk] | split

theorem State.refuseStream_keeps {q : List Instr} (s : State) (x2 : StreamDesc) (x3 : ℕ) (x4 : Status) (h : Kept q s) :
    Kept q (State.refuseStream s x2 x3 x4) := by
  unfold State.refuseStream
  try dsimp only
  repeat' with_reducible first | assumption | apply kept_parts | apply kept_parts_of | apply State.record_keeps | apply State.streamVerdict_keeps | simp only [kept_mk] | split

theorem State.reduceBegins_keeps {q : List Instr} (s : State) (x2 : ℕ) (h : Kept q s) :
    Kept q (State.reduceBegins s x2) := by
  unfold State.reduceBegins
  try dsimp only
  repeat' with_reducible first | assumption | apply kept_parts | apply kept_parts_of | apply State.setStep_keeps | simp only [kept_mk] | split

theorem State.ownBlock_keeps {q : List Instr} (s : State) (x2 : ℕ) (x3 : StreamDesc) (h : Kept q s) :
    Kept q (State.ownBlock s x2 x3) := by
  unfold State.ownBlock
  try dsimp only
  repeat' with_reducible first | assumption | apply kept_parts | apply kept_parts_of | apply State.storePoisoned_keeps | simp only [kept_mk] | split | intro _ _ _ _ _ _ | intro _ _ _ _ | intro _ _ _ | intro _ _

theorem State.setColl_keeps {q : List Instr} (s : State) (x2 : ℕ) (x3 : Collective) (h : Kept q s) :
    Kept q (State.setColl s x2 x3) := by
  unfold State.setColl
  try dsimp only
  repeat' with_reducible first | assumption | apply kept_parts | apply kept_parts_of | simp only [kept_mk] | split

theorem State.growTx_keeps {q : List Instr} (s : State) (x2 : ℕ) (x3 : ℕ) (x4 : ℕ) (x5 : RingPart) (h : Kept q s) :
    Kept q (State.growTx s x2 x3 x4 x5) := by
  unfold State.growTx
  try dsimp only
  repeat' with_reducible first | assumption | apply kept_parts | apply kept_parts_of | apply State.setTx_keeps | simp only [kept_mk] | split

theorem State.takeRing_keeps {q : List Instr} (s : State) (x2 : ℕ) (x3 : ℕ) (x4 : Collective) (x5 : RingPart) (x6 : StreamRx) (h : Kept q s) :
    Kept q (State.takeRing s x2 x3 x4 x5 x6) := by
  unfold State.takeRing
  try dsimp only
  repeat' with_reducible first | assumption | apply kept_parts | apply kept_parts_of | apply State.setRx_keeps | apply State.setColl_keeps | apply State.pump_keeps | apply State.growTx_keeps | simp only [kept_mk] | split

theorem State.sendRing_keeps {q : List Instr} (s : State) (x2 : ℕ) (x3 : ℕ) (x4 : Collective) (x5 : RingPart) (h : Kept q s) :
    Kept q (State.sendRing s x2 x3 x4 x5) := by
  unfold State.sendRing
  try dsimp only
  repeat' with_reducible first | assumption | apply kept_parts | apply kept_parts_of | apply State.setColl_keeps | apply State.startTx_keeps | simp only [kept_mk] | split | intro _ _ _ _ _ _ | intro _ _ _ _ | intro _ _ _ | intro _ _

theorem State.pumpPart_keeps {q : List Instr} (s : State) (x2 : ℕ) (x3 : ℕ) (h : Kept q s) :
    Kept q (State.pumpPart s x2 x3) := by
  unfold State.pumpPart
  try dsimp only
  repeat' with_reducible first | assumption | apply kept_parts | apply kept_parts_of | apply State.takeRing_keeps | apply State.sendRing_keeps | simp only [kept_mk] | split

theorem State.queueEnd_keeps {q : List Instr} (s : State) (x2 : Option ℕ) (h : Kept q s) :
    Kept q (State.queueEnd s x2) := by
  unfold State.queueEnd
  try dsimp only
  repeat' with_reducible first | assumption | apply kept_parts | apply kept_parts_of | apply State.setSq_keeps | simp only [kept_mk] | split

theorem State.endColl_keeps {q : List Instr} (s : State) (x2 : ℕ) (x3 : Collective) (x4 : Status) (h : Kept q s) :
    Kept q (State.endColl s x2 x3 x4) := by
  unfold State.endColl
  try dsimp only
  repeat' with_reducible first | assumption | apply kept_parts | apply kept_parts_of | apply State.record_keeps | apply State.streamVerdict_keeps | apply State.queueEnd_keeps | simp only [kept_mk] | split

theorem State.beginAxis_keeps {q : List Instr} (s : State) (x2 : ℕ) (x3 : Collective) (h : Kept q s) :
    Kept q (State.beginAxis s x2 x3) := by
  unfold State.beginAxis
  try dsimp only
  repeat' with_reducible first | assumption | apply kept_parts | apply kept_parts_of | apply State.setColl_keeps | simp only [kept_mk] | split

theorem State.afterReduce_keeps {q : List Instr} (s : State) (x2 : ℕ) (x3 : Collective) (h : Kept q s) :
    Kept q (State.afterReduce s x2 x3) := by
  unfold State.afterReduce
  try dsimp only
  repeat' with_reducible first | assumption | apply kept_parts | apply kept_parts_of | apply State.startTx_keeps | apply State.setColl_keeps | apply State.beginAxis_keeps | apply State.endColl_keeps | simp only [kept_mk] | split

theorem State.axisDone_keeps {q : List Instr} (s : State) (x2 : ℕ) (x3 : Collective) (h : Kept q s) :
    Kept q (State.axisDone s x2 x3) := by
  unfold State.axisDone
  try dsimp only
  repeat' with_reducible first | assumption | apply kept_parts | apply kept_parts_of | apply State.endColl_keeps | apply State.beginAxis_keeps | apply State.storePoisoned_keeps | apply State.afterReduce_keeps | simp only [kept_mk] | split | intro _ _ _ _ _ _ | intro _ _ _ _ | intro _ _ _ | intro _ _

theorem State.pumpColl_keeps {q : List Instr} (s : State) (x2 : ℕ) (x3 : ℕ) (h : Kept q s) :
    Kept q (State.pumpColl s x2 x3) := by
  induction x3 generalizing s with
  | zero => exact h
  | succ k ih =>
    rw [State.pumpColl]
    try dsimp only
    repeat' with_reducible first | apply ih | assumption | apply kept_parts | apply kept_parts_of | apply State.pumpPart_keeps | apply State.endColl_keeps | apply State.afterReduce_keeps | apply State.axisDone_keeps | apply kept_foldl | simp only [kept_mk] | split | intro _ _ _ _ _ _ | intro _ _ _ _ | intro _ _ _ | intro _ _

theorem State.runColl_keeps {q : List Instr} (s : State) (x2 : ℕ) (h : Kept q s) :
    Kept q (State.runColl s x2) := by
  unfold State.runColl
  try dsimp only
  repeat' with_reducible first | assumption | apply kept_parts | apply kept_parts_of | apply State.pumpColl_keeps | simp only [kept_mk] | split

theorem State.startStream_keeps {q : List Instr} (s : State) (x2 : ℕ) (x3 : List Sys2Proof.Byte) (x4 : StreamDesc) (x5 : ℕ) (h : Kept q s) :
    Kept q (State.startStream s x2 x3 x4 x5) := by
  unfold State.startStream
  try dsimp only
  repeat' with_reducible first | assumption | apply kept_parts | apply kept_parts_of | apply State.setSq_keeps | apply State.startTx_keeps | apply State.reduceBegins_keeps | apply State.fetch_keeps | apply State.replayPoison_keeps | apply State.ownBlock_keeps | apply State.runColl_keeps | apply State.beginAxis_keeps | simp only [kept_mk] | split

theorem State.streamDescriptorStart_keeps {q : List Instr} (s : State) (x2 : ℕ) (h : Kept q s) :
    Kept q (State.streamDescriptorStart s x2) := by
  unfold State.streamDescriptorStart
  try dsimp only
  repeat' with_reducible first | assumption | apply kept_parts | apply kept_parts_of | apply State.fetch_keeps | apply State.setSq_keeps | apply State.refuseStream_keeps | apply State.startStream_keeps | simp only [kept_mk] | split

theorem State.collTxEnd_keeps {q : List Instr} (s : State) (x2 : ℕ) (x3 : ℕ) (x4 : StreamTx) (x5 : Status) (h : Kept q s) :
    Kept q (State.collTxEnd s x2 x3 x4 x5) := by
  unfold State.collTxEnd
  try dsimp only
  repeat' with_reducible first | assumption | apply kept_parts | apply kept_parts_of | apply State.runColl_keeps | apply State.setColl_keeps | simp only [kept_mk] | split

theorem State.endTx_keeps {q : List Instr} (s : State) (x2 : ℕ) (x3 : StreamTx) (x4 : Status) (h : Kept q s) :
    Kept q (State.endTx s x2 x3 x4) := by
  unfold State.endTx
  try dsimp only
  repeat' with_reducible first | assumption | apply kept_parts | apply kept_parts_of | apply State.setTx_keeps | apply State.collTxEnd_keeps | apply State.record_keeps | apply State.streamVerdict_keeps | apply State.queueEnd_keeps | simp only [kept_mk] | split

theorem State.endStreams_keeps {q : List Instr} (s : State) (x2 : ℕ → Bool) (x3 : Status) (h : Kept q s) :
    Kept q (State.endStreams s x2 x3) := by
  unfold State.endStreams
  try dsimp only
  repeat' with_reducible first | assumption | apply kept_parts | apply kept_parts_of | apply State.setTx_keeps | apply State.endTx_keeps | apply State.streamVerdict_keeps | apply State.rxRecord_keeps | apply State.setRx_keeps | apply State.endColl_keeps | apply kept_foldl | simp only [kept_mk] | split | intro _ _ _ _ _ _ | intro _ _ _ _ | intro _ _ _ | intro _ _

theorem State.rewindQueues_keeps {q : List Instr} (s : State) (h : Kept q s) :
    Kept q (State.rewindQueues s) := by
  unfold State.rewindQueues
  try dsimp only
  repeat' with_reducible first | assumption | apply kept_parts | apply kept_parts_of | apply State.setSq_keeps | apply kept_foldl | simp only [kept_mk] | split | intro _ _ _ _ _ _ | intro _ _ _ _ | intro _ _ _ | intro _ _

end Sys2Proof.Machine
end

