-- ==== Sys2Proof/Laws/KeepsSteps.lean ====
section
/-! SUPPORT. What every operation keeps (Kept: the canonical tables and memory, and the queue): steps, retained inputs, the settling and the clock. -/

set_option linter.unusedTactic false
set_option linter.unreachableTactic false
set_option linter.unusedSimpArgs false

namespace Sys2Proof.Machine

/-! ### Machine/Steps.lean -/

theorem State.restoreRings_keeps {q : List Instr} (s : State) (x2 : List (ℕ × Sys2Proof.Word)) (h : Kept q s) :
    Kept q (State.restoreRings s x2) := by
  unfold State.restoreRings
  try dsimp only
  repeat' with_reducible first | assumption | apply kept_parts | apply kept_parts_of | apply State.setWringTail_keeps | apply kept_foldl | simp only [kept_mk] | split | intro _ _ _ _ _ _ | intro _ _ _ _ | intro _ _ _ | intro _ _

theorem State.digestMismatch_keeps {q : List Instr} (s : State) (x2 : ℕ) (x3 : List ℕ) (x4 : Bool) (x5 : Bool) (x6 : Bool) (h : Kept q s) :
    Kept q (State.digestMismatch s x2 x3 x4 x5 x6) := by
  unfold State.digestMismatch
  try dsimp only
  repeat' with_reducible first | assumption | apply kept_parts | apply kept_parts_of | apply State.emit_keeps | simp only [kept_mk] | split | intro _ _ _ _ _ _ | intro _ _ _ _ | intro _ _ _ | intro _ _

theorem State.sendOutcome_keeps {q : List Instr} (s : State) (x2 : Outcome) (x3 : ℕ) (h : Kept q s) :
    Kept q (State.sendOutcome s x2 x3) := by
  unfold State.sendOutcome
  try dsimp only
  repeat' with_reducible first | assumption | apply kept_parts | apply kept_parts_of | apply State.inject_keeps | apply kept_foldl | simp only [kept_mk] | split | intro _ _ _ _ _ _ | intro _ _ _ _ | intro _ _ _ | intro _ _

theorem State.recallItems_keeps {q : List Instr} (s : State) (x2 : ℕ → Bool) (h : Kept q s) :
    Kept q (State.recallItems s x2) := by
  unfold State.recallItems
  try dsimp only
  repeat' with_reducible first | assumption | apply kept_parts | apply kept_parts_of | apply State.setCore_keeps | apply State.itemRecord_keeps | apply State.abortItem_keeps | apply kept_foldl | simp only [kept_mk] | split | intro _ _ _ _ _ _ | intro _ _ _ _ | intro _ _ _ | intro _ _

theorem State.markRecall_keeps {q : List Instr} (s : State) (x2 : ℕ) (h : Kept q s) :
    Kept q (State.markRecall s x2) := by
  unfold State.markRecall
  try dsimp only
  repeat' with_reducible first | assumption | apply kept_parts | apply kept_parts_of | apply State.record_keeps | apply kept_foldl | simp only [kept_mk] | split | intro _ _ _ _ _ _ | intro _ _ _ _ | intro _ _ _ | intro _ _

theorem State.recallFrom_keeps {q : List Instr} (s : State) (x2 : ℕ) (x3 : Bool) (x4 : ℕ) (x5 : ℕ) (x6 : Sys2Proof.Word) (h : Kept q s) :
    Kept q (State.recallFrom s x2 x3 x4 x5 x6) := by
  unfold State.recallFrom
  try dsimp only
  repeat' with_reducible first | assumption | apply kept_parts | apply kept_parts_of | apply State.freezeAllRings_keeps | apply State.recallItems_keeps | apply State.dropComparisons_keeps | apply State.endStreams_keeps | apply State.markRecall_keeps | apply State.restoreRings_keeps | apply State.rewindQueues_keeps | apply State.emit_keeps | apply State.fault_keeps | apply kept_foldl | simp only [kept_mk] | split | intro _ _ _ _ _ _ | intro _ _ _ _ | intro _ _ _ | intro _ _

theorem State.sealStep_keeps {q : List Instr} (s : State) (x2 : StepRec) (h : Kept q s) :
    Kept q (State.sealStep s x2) := by
  unfold State.sealStep
  try dsimp only
  repeat' with_reducible first | assumption | apply kept_parts | apply kept_parts_of | apply State.emit_keeps | simp only [kept_mk] | split | intro _ _ _ _ _ _ | intro _ _ _ _ | intro _ _ _ | intro _ _

theorem State.recallUnopened_keeps {q : List Instr} (s : State) (x2 : Outcome) (h : Kept q s) :
    Kept q (State.recallUnopened s x2) := by
  unfold State.recallUnopened
  try dsimp only
  repeat' with_reducible first | assumption | apply kept_parts | apply kept_parts_of | simp only [kept_mk] | split | intro _ _ _ _ _ _ | intro _ _ _ _ | intro _ _ _ | intro _ _

theorem State.act_keeps {q : List Instr} (s : State) (x2 : Outcome) (h : Kept q s) :
    Kept q (State.act s x2) := by
  unfold State.act
  try dsimp only
  repeat' with_reducible first | assumption | apply kept_parts | apply kept_parts_of | apply State.trace_keeps | apply State.recallFrom_keeps | apply State.sealStep_keeps | apply State.recallUnopened_keeps | simp only [kept_mk] | split

theorem State.decideOutcome_keeps {q : List Instr} (s : State) (x2 : StepRec) (x3 : ℕ) (x4 : Bool) (x5 : ℕ) (x6 : ℕ) (h : Kept q s) :
    Kept q (State.decideOutcome s x2 x3 x4 x5 x6) := by
  unfold State.decideOutcome
  try dsimp only
  repeat' with_reducible first | assumption | apply kept_parts | apply kept_parts_of | apply State.sendOutcome_keeps | apply State.act_keeps | simp only [kept_mk] | split

theorem State.sendCombined_keeps {q : List Instr} (s : State) (x2 : StepRec) (x3 : Bool) (x4 : ℕ) (x5 : ℕ) (h : Kept q s) :
    Kept q (State.sendCombined s x2 x3 x4 x5) := by
  unfold State.sendCombined
  try dsimp only
  repeat' with_reducible first | assumption | apply kept_parts | apply kept_parts_of | apply State.setStep_keeps | apply State.decideOutcome_keeps | apply State.inject_keeps | simp only [kept_mk] | split | intro _ _ _ _ _ _ | intro _ _ _ _ | intro _ _ _ | intro _ _

theorem State.combine_keeps {q : List Instr} (s : State) (x2 : StepRec) (h : Kept q s) :
    Kept q (State.combine s x2) := by
  unfold State.combine
  try dsimp only
  repeat' with_reducible first | assumption | apply kept_parts | apply kept_parts_of | apply State.sendCombined_keeps | simp only [kept_mk] | split | intro _ _ _ _ _ _ | intro _ _ _ _ | intro _ _ _ | intro _ _

theorem State.tracePhase_keeps {q : List Instr} (s : State) (x2 : ℕ) (x3 : ℕ) (h : Kept q s) :
    Kept q (State.tracePhase s x2 x3) := by
  unfold State.tracePhase
  try dsimp only
  repeat' with_reducible first | assumption | apply kept_parts | apply kept_parts_of | apply State.trace_keeps | simp only [kept_mk] | split

theorem State.stepEnd_keeps {q : List Instr} (s : State) (x2 : StepRec) (x3 : Status) (x4 : ℕ) (x5 : ℕ) (h : Kept q s) :
    Kept q (State.stepEnd s x2 x3 x4 x5) := by
  unfold State.stepEnd
  try dsimp only
  repeat' with_reducible first | assumption | apply kept_parts | apply kept_parts_of | apply State.emit_keeps | simp only [kept_mk] | split

theorem State.openLoad_keeps {q : List Instr} (s : State) (x2 : ℕ) (x3 : ℕ) (h : Kept q s) :
    Kept q (State.openLoad s x2 x3) := by
  unfold State.openLoad
  try dsimp only
  repeat' with_reducible first | assumption | apply kept_parts | apply kept_parts_of | apply State.rewindQueues_keeps | apply State.tracePhase_keeps | apply State.stepEnd_keeps | apply kept_parts_mem | apply Memory.wf_clear | apply wf_of_kept | simp only [kept_mk] | split | intro _ _ _ _ _ _ | intro _ _ _ _ | intro _ _ _ | intro _ _

theorem State.secondReplay_keeps {q : List Instr} (s : State) (h : Kept q s) :
    Kept q (State.secondReplay s) := by
  unfold State.secondReplay
  try dsimp only
  repeat' with_reducible first | assumption | apply kept_parts | apply kept_parts_of | apply State.openLoad_keeps | simp only [kept_mk] | split | intro _ _ _ _ _ _ | intro _ _ _ _ | intro _ _ _ | intro _ _

theorem State.sendDigest_keeps {q : List Instr} (s : State) (x2 : ℕ) (x3 : ℕ) (x4 : List Sys2Proof.Byte) (h : Kept q s) :
    Kept q (State.sendDigest s x2 x3 x4) := by
  unfold State.sendDigest
  try dsimp only
  repeat' with_reducible first | assumption | apply kept_parts | apply kept_parts_of | apply State.startTx_keeps | simp only [kept_mk] | split

theorem State.digestToGroup_keeps {q : List Instr} (s : State) (x2 : ℕ) (h : Kept q s) :
    Kept q (State.digestToGroup s x2) := by
  unfold State.digestToGroup
  try dsimp only
  repeat' with_reducible first | assumption | apply kept_parts | apply kept_parts_of | apply State.sendDigest_keeps | simp only [kept_mk] | split

theorem State.takeEarly_keeps {q : List Instr} (s : State) (x2 : Option ℕ) (x3 : List Sys2Proof.Byte) (h : Kept q s) :
    Kept q (State.takeEarly s x2 x3) := by
  unfold State.takeEarly
  try dsimp only
  repeat' with_reducible first | assumption | apply kept_parts | apply kept_parts_of | simp only [kept_mk] | split | intro _ _ _ _ _ _ | intro _ _ _ _ | intro _ _ _ | intro _ _

theorem State.closeCheck_keeps {q : List Instr} (s : State) (x2 : StepRec) (h : Kept q s) :
    Kept q (State.closeCheck s x2) := by
  unfold State.closeCheck
  try dsimp only
  repeat' with_reducible first | assumption | apply kept_parts | apply kept_parts_of | apply State.setStep_keeps | apply State.failStep_keeps | simp only [kept_mk] | split

theorem State.takeOutcome_keeps {q : List Instr} (s : State) (x2 : Outcome) (x3 : ℕ) (h : Kept q s) :
    Kept q (State.takeOutcome s x2 x3) := by
  unfold State.takeOutcome
  try dsimp only
  repeat' with_reducible first | assumption | apply kept_parts | apply kept_parts_of | apply State.sendOutcome_keeps | apply State.act_keeps | simp only [kept_mk] | split

theorem State.sendLocal_keeps {q : List Instr} (s : State) (x2 : StepRec) (h : Kept q s) :
    Kept q (State.sendLocal s x2) := by
  unfold State.sendLocal
  try dsimp only
  repeat' with_reducible first | assumption | apply kept_parts | apply kept_parts_of | apply State.setStep_keeps | apply State.trace_keeps | simp only [kept_mk] | split

theorem State.sendDigests_keeps {q : List Instr} (s : State) (h : Kept q s) :
    Kept q (State.sendDigests s) := by
  unfold State.sendDigests
  try dsimp only
  repeat' with_reducible first | assumption | apply kept_parts | apply kept_parts_of | apply State.digestToGroup_keeps | apply State.sendDigest_keeps | simp only [kept_mk] | split

theorem State.digestRead_keeps {q : List Instr} (s : State) (x2 : ℕ × ℕ) (h : Kept q s) :
    Kept q (State.digestRead s x2) := by
  unfold State.digestRead
  try dsimp only
  repeat' with_reducible first | assumption | apply kept_parts | apply kept_parts_of | apply State.fetch_keeps | apply State.fault_keeps | simp only [kept_mk] | split

theorem State.openReserve_keeps {q : List Instr} (s : State) (x2 : StepRec) (x3 : ℕ) (h : Kept q s) :
    Kept q (State.openReserve s x2 x3) := by
  unfold State.openReserve
  try dsimp only
  repeat' with_reducible first | assumption | apply kept_parts | apply kept_parts_of | simp only [kept_mk] | split | intro _ _ _ _ _ _ | intro _ _ _ _ | intro _ _ _ | intro _ _

theorem State.fwdOpens_keeps {q : List Instr} (s : State) (h : Kept q s) :
    Kept q (State.fwdOpens s) := by
  unfold State.fwdOpens
  try dsimp only
  repeat' with_reducible first | assumption | apply kept_parts | apply kept_parts_of | simp only [kept_mk] | split

theorem State.advanceStep_keeps {q : List Instr} (s : State) (x2 : StepRec) (h : Kept q s) :
    Kept q (State.advanceStep s x2) := by
  unfold State.advanceStep
  try dsimp only
  repeat' with_reducible first | assumption | apply kept_parts | apply kept_parts_of | apply State.tracePhase_keeps | apply State.setStep_keeps | apply State.fwdOpens_keeps | simp only [kept_mk] | split

theorem State.advanceAll_keeps {q : List Instr} (s : State) (h : Kept q s) :
    Kept q (State.advanceAll s) := by
  unfold State.advanceAll
  try dsimp only
  repeat' with_reducible first | assumption | apply kept_parts | apply kept_parts_of | apply State.advanceStep_keeps | apply kept_foldl | simp only [kept_mk] | split | intro _ _ _ _ _ _ | intro _ _ _ _ | intro _ _ _ | intro _ _

theorem State.advance_keeps {q : List Instr} (s : State) (h : Kept q s) :
    Kept q (State.advance s) := by
  unfold State.advance
  try dsimp only
  repeat' with_reducible first | assumption | apply kept_parts | apply kept_parts_of | apply State.advanceAll_keeps | apply kept_foldl | simp only [kept_mk] | split | intro _ _ _ _ _ _ | intro _ _ _ _ | intro _ _ _ | intro _ _

theorem State.replayOpen_keeps {q : List Instr} (s : State) (h : Kept q s) :
    Kept q (State.replayOpen s) := by
  unfold State.replayOpen
  try dsimp only
  repeat' with_reducible first | assumption | apply kept_parts | apply kept_parts_of | apply State.fault_keeps | apply State.openLoad_keeps | simp only [kept_mk] | split

theorem State.resendCopy_keeps {q : List Instr} (s : State) (h : Kept q s) :
    Kept q (State.resendCopy s) := by
  unfold State.resendCopy
  try dsimp only
  repeat' with_reducible first | assumption | apply kept_parts | apply kept_parts_of | apply State.sendOutcome_keeps | apply kept_foldl | simp only [kept_mk] | split | intro _ _ _ _ _ _ | intro _ _ _ _ | intro _ _ _ | intro _ _

theorem State.takeDigest_keeps {q : List Instr} (s : State) (x2 : List Sys2Proof.Byte) (h : Kept q s) :
    Kept q (State.takeDigest s x2) := by
  unfold State.takeDigest
  try dsimp only
  repeat' with_reducible first | assumption | apply kept_parts | apply kept_parts_of | simp only [kept_mk] | split | intro _ _ _ _ _ _ | intro _ _ _ _ | intro _ _ _ | intro _ _

theorem State.outcomeOverdue_keeps {q : List Instr} (s : State) (x2 : ℕ) (h : Kept q s) :
    Kept q (State.outcomeOverdue s x2) := by
  unfold State.outcomeOverdue
  try dsimp only
  repeat' with_reducible first | assumption | apply kept_parts | apply kept_parts_of | apply State.fault_keeps | simp only [kept_mk] | split

theorem State.digestNext_keeps {q : List Instr} (s : State) (x2 : ℕ) (x3 : ℕ) (h : Kept q s) :
    Kept q (State.digestNext s x2 x3) := by
  unfold State.digestNext
  try dsimp only
  repeat' with_reducible first | assumption | apply kept_parts | apply kept_parts_of | apply State.digestToGroup_keeps | simp only [kept_mk] | split | intro _ _ _ _ _ _ | intro _ _ _ _ | intro _ _ _ | intro _ _

theorem State.digestCompare_keeps {q : List Instr} (s : State) (h : Kept q s) : Kept q s.digestCompare := by
  unfold State.digestCompare
  split
  · split
    · exact h
    · extract_lets g size vs differ maj odd gone noMaj named src s1 s2 src' s3
      have h1 : Kept q s1 := kept_parts h
      have h2 : Kept q s2 := State.digestMismatch_keeps _ _ _ _ _ _ h1
      have h3 : Kept q s3 := kept_parts h2
      repeat' with_reducible first | assumption | apply State.digestMismatch_keeps | simp only [kept_mk] | apply kept_parts | split
  · exact h

theorem State.readySegment_keeps {q : List Instr} (s : State) (x2 : StepRec) (x3 : ℕ) (h : Kept q s) :
    Kept q (State.readySegment s x2 x3) := by
  unfold State.readySegment
  try dsimp only
  repeat' with_reducible first | assumption | apply kept_parts | apply kept_parts_of | apply State.openReserve_keeps | simp only [kept_mk] | split

theorem State.haltSteps_keeps {q : List Instr} (s : State) (h : Kept q s) :
    Kept q (State.haltSteps s) := by
  unfold State.haltSteps
  try dsimp only
  repeat' with_reducible first | assumption | apply kept_parts | apply kept_parts_of | apply State.recallFrom_keeps | apply State.fault_keeps | simp only [kept_mk] | split

theorem State.stashDecision_keeps {q : List Instr} (s : State) (x2 : StepRec) (x3 : ℕ) (h : Kept q s) :
    Kept q (State.stashDecision s x2 x3) := by
  unfold State.stashDecision
  try dsimp only
  repeat' with_reducible first | assumption | apply kept_parts | apply kept_parts_of | apply State.setStep_keeps | apply State.emit_keeps | apply State.stepEnd_keeps | apply State.failStep_keeps | apply State.fault_keeps | apply kept_foldl | simp only [kept_mk] | split | intro _ _ _ _ _ _ | intro _ _ _ _ | intro _ _ _ | intro _ _

theorem State.noteForward_keeps {q : List Instr} (s : State) (x2 : StepRec) (x3 : ForwardRun) (h : Kept q s) :
    Kept q (State.noteForward s x2 x3) := by
  unfold State.noteForward
  try dsimp only
  repeat' with_reducible first | assumption | apply kept_parts | apply kept_parts_of | apply State.setStep_keeps | simp only [kept_mk] | split

theorem State.takeVerdict_keeps {q : List Instr} (s : State) (x2 : Option ℕ) (x3 : List Sys2Proof.Byte) (h : Kept q s) :
    Kept q (State.takeVerdict s x2 x3) := by
  unfold State.takeVerdict
  try dsimp only
  repeat' with_reducible first | assumption | apply kept_parts | apply kept_parts_of | apply State.takeEarly_keeps | apply State.setStep_keeps | simp only [kept_mk] | split

theorem State.verdicts_keeps {q : List Instr} (s : State) (h : Kept q s) :
    Kept q (State.verdicts s) := by
  unfold State.verdicts
  try dsimp only
  repeat' with_reducible first | assumption | apply kept_parts | apply kept_parts_of | apply State.sendLocal_keeps | apply State.combine_keeps | apply kept_foldl | simp only [kept_mk] | split | intro _ _ _ _ _ _ | intro _ _ _ _ | intro _ _ _ | intro _ _

theorem State.sealDeadline_keeps {q : List Instr} (s : State) (x2 : ℕ) (h : Kept q s) :
    Kept q (State.sealDeadline s x2) := by
  unfold State.sealDeadline
  try dsimp only
  repeat' with_reducible first | assumption | apply kept_parts | apply kept_parts_of | apply State.sendCombined_keeps | simp only [kept_mk] | split

theorem State.weightDigestEnd_keeps {q : List Instr} (s : State) (h : Kept q s) :
    Kept q (State.weightDigestEnd s) := by
  unfold State.weightDigestEnd
  try dsimp only
  repeat' with_reducible first | assumption | apply kept_parts | apply kept_parts_of | apply State.digestRead_keeps | apply State.sendDigests_keeps | simp only [kept_mk] | split

/-! ### Machine/Retention.lean -/

theorem State.applyStash_keeps {q : List Instr} (s : State) (x2 : List (ℕ × ℕ)) (h : Kept q s) :
    Kept q (State.applyStash s x2) := by
  unfold State.applyStash
  try dsimp only
  repeat' with_reducible first | assumption | apply kept_parts | apply kept_parts_of | apply kept_foldl | simp only [kept_mk] | split | intro _ _ _ _ _ _ | intro _ _ _ _ | intro _ _ _ | intro _ _

theorem State.applyConfig_keeps {q : List Instr} (s : State) (x2 : List Sys2Proof.Byte) (h : Kept q s) :
    Kept q (State.applyConfig s x2) := by
  unfold State.applyConfig
  try dsimp only
  repeat' with_reducible first | assumption | apply kept_parts | apply kept_parts_of | apply State.setReg_keeps | apply State.dropRegs_keeps | apply kept_foldl | simp only [kept_mk] | split | intro _ _ _ _ _ _ | intro _ _ _ _ | intro _ _ _ | intro _ _

theorem State.imageMap_keeps {q : List Instr} (s : State) (x2 : List (List Sys2Proof.Byte)) (x3 : List (List Sys2Proof.Byte)) (h : Kept q s) :
    Kept q (State.imageMap s x2 x3) := by
  unfold State.imageMap
  try dsimp only
  repeat' with_reducible first | assumption | apply kept_parts | apply kept_parts_of | apply State.applyStash_keeps | apply State.applyConfig_keeps | simp only [kept_mk] | split

theorem State.applyTable_keeps {q : List Instr} (s : State) (x2 : List Sys2Proof.Byte) (h : Kept q s) :
    Kept q (State.applyTable s x2) := by
  unfold State.applyTable
  try dsimp only
  repeat' with_reducible first | assumption | apply kept_parts | apply kept_parts_of | apply State.setReg_keeps | apply kept_foldl | simp only [kept_mk] | split | intro _ _ _ _ _ _ | intro _ _ _ _ | intro _ _ _ | intro _ _

theorem State.endTransfer_keeps {q : List Instr} (s : State) (x2 : TwinTransfer) (x3 : Status) (h : Kept q s) :
    Kept q (State.endTransfer s x2 x3) := by
  unfold State.endTransfer
  try dsimp only
  repeat' with_reducible first | assumption | apply kept_parts | apply kept_parts_of | apply State.closeWith_keeps | simp only [kept_mk] | split

theorem State.failTransfer_keeps {q : List Instr} (s : State) (x2 : Status) (h : Kept q s) :
    Kept q (State.failTransfer s x2) := by
  unfold State.failTransfer
  try dsimp only
  repeat' with_reducible first | assumption | apply kept_parts | apply kept_parts_of | apply State.setTx_keeps | apply State.setRx_keeps | apply State.endTransfer_keeps | apply kept_foldl | simp only [kept_mk] | split | intro _ _ _ _ _ _ | intro _ _ _ _ | intro _ _ _ | intro _ _

theorem State.transferDigested_keeps {q : List Instr} (s : State) (h : Kept q s) :
    Kept q (State.transferDigested s) := by
  unfold State.transferDigested
  try dsimp only
  repeat' with_reducible first | assumption | apply kept_parts | apply kept_parts_of | apply State.digestRead_keeps | apply State.endTransfer_keeps | apply State.failTransfer_keeps | simp only [kept_mk] | split

theorem State.connectTargets_keeps {q : List Instr} (s : State) (h : Kept q s) :
    Kept q (State.connectTargets s) := by
  unfold State.connectTargets
  try dsimp only
  repeat' with_reducible first | assumption | apply kept_parts | apply kept_parts_of | apply State.send_keeps | apply kept_foldl | simp only [kept_mk] | split | intro _ _ _ _ _ _ | intro _ _ _ _ | intro _ _ _ | intro _ _

theorem State.cutEnded_keeps {q : List Instr} (s : State) (x2 : ImageWrite) (h : Kept q s) :
    Kept q (State.cutEnded s x2) := by
  unfold State.cutEnded
  try dsimp only
  repeat' with_reducible first | assumption | apply kept_parts | apply kept_parts_of | apply State.setStep_keeps | simp only [kept_mk] | split

theorem State.readObject_keeps {q : List Instr} (s : State) (x2 : ℕ) (x3 : ℕ) (x4 : ℕ) (x5 : ℕ) (h : Kept q s) :
    Kept q (State.readObject s x2 x3 x4 x5) := by
  unfold State.readObject
  try dsimp only
  repeat' with_reducible first | assumption | apply kept_parts | apply kept_parts_of | apply State.send_keeps | simp only [kept_mk] | split

theorem doCkptCut_keeps {q : List Instr} (x1 : OpenCmd) (s : State) (h : Kept q s) :
    KeptR q (doCkptCut x1 s) := by
  unfold doCkptCut
  try dsimp only
  repeat' with_reducible first | assumption | apply kept_parts | apply kept_parts_of | apply refuse_keeps | apply began_keeps | apply State.setStep_keeps | simp only [keptR_mk, id_eq] | apply And.intro | simp only [kept_mk] | split | intro _ _ _ _ _ _ | intro _ _ _ _ | intro _ _ _ | intro _ _

theorem State.transferEnd_keeps {q : List Instr} (s : State) (h : Kept q s) :
    Kept q (State.transferEnd s) := by
  unfold State.transferEnd
  try dsimp only
  repeat' with_reducible first | assumption | apply kept_parts | apply kept_parts_of | apply State.endTransfer_keeps | apply State.failTransfer_keeps | simp only [kept_mk] | split | intro _ _ _ _ _ _ | intro _ _ _ _ | intro _ _ _ | intro _ _

theorem State.holdImageEnded_keeps {q : List Instr} (s : State) (x2 : ImageWrite) (h : Kept q s) :
    Kept q (State.holdImageEnded s x2) := by
  unfold State.holdImageEnded
  try dsimp only
  repeat' with_reducible first | assumption | apply kept_parts | apply kept_parts_of | simp only [kept_mk] | split

theorem State.ckptDone_keeps {q : List Instr} (s : State) (x2 : ImageWrite) (x3 : Status) (x4 : ℕ) (x5 : List Sys2Proof.Byte) (h : Kept q s) :
    Kept q (State.ckptDone s x2 x3 x4 x5) := by
  unfold State.ckptDone
  try dsimp only
  repeat' with_reducible first | assumption | apply kept_parts | apply kept_parts_of | apply State.closeWith_keeps | apply State.emit_keeps | simp only [kept_mk] | split

theorem State.startImage_keeps {q : List Instr} (s : State) (x2 : ImageWrite) (h : Kept q s) :
    Kept q (State.startImage s x2) := by
  unfold State.startImage
  try dsimp only
  repeat' with_reducible first | assumption | apply kept_parts | apply kept_parts_of | apply State.cutEnded_keeps | apply State.holdImageEnded_keeps | apply State.ckptDone_keeps | apply State.connectTargets_keeps | simp only [kept_mk] | split

theorem doCkptRetry_keeps {q : List Instr} (x1 : OpenCmd) (s : State) (h : Kept q s) :
    KeptR q (doCkptRetry x1 s) := by
  unfold doCkptRetry
  try dsimp only
  repeat' with_reducible first | assumption | apply kept_parts | apply kept_parts_of | apply refuse_keeps | apply State.startImage_keeps | simp only [keptR_mk, id_eq] | apply And.intro | simp only [kept_mk] | split | intro _ _ _ _ _ _ | intro _ _ _ _ | intro _ _ _ | intro _ _

theorem State.startTransfer_keeps {q : List Instr} (s : State) (x2 : TwinTransfer) (h : Kept q s) :
    Kept q (State.startTransfer s x2) := by
  unfold State.startTransfer
  try dsimp only
  repeat' with_reducible first | assumption | apply kept_parts | apply kept_parts_of | apply State.startTx_keeps | apply kept_foldl | simp only [kept_mk] | split | intro _ _ _ _ _ _ | intro _ _ _ _ | intro _ _ _ | intro _ _

theorem doTwinSend_keeps {q : List Instr} (x1 : OpenCmd) (s : State) (h : Kept q s) :
    KeptR q (doTwinSend x1 s) := by
  unfold doTwinSend
  try dsimp only
  repeat' with_reducible first | assumption | apply kept_parts | apply kept_parts_of | apply refuse_keeps | apply State.startTransfer_keeps | simp only [keptR_mk, id_eq] | apply And.intro | simp only [kept_mk] | split | intro _ _ _ _ _ _ | intro _ _ _ _ | intro _ _ _ | intro _ _

theorem State.sourceRead_keeps {q : List Instr} (s : State) (x2 : ImageWrite) (h : Kept q s) :
    Kept q (State.sourceRead s x2) := by
  unfold State.sourceRead
  try dsimp only
  repeat' with_reducible first | assumption | apply kept_parts | apply kept_parts_of | apply State.fetch_keeps | apply kept_foldl | simp only [kept_mk] | split | intro _ _ _ _ _ _ | intro _ _ _ _ | intro _ _ _ | intro _ _

theorem State.writeObject_keeps {q : List Instr} (s : State) (x2 : ImageWrite) (x3 : ℕ) (x4 : List Sys2Proof.Byte × List Sys2Proof.Byte) (h : Kept q s) :
    Kept q (State.writeObject s x2 x3 x4) := by
  unfold State.writeObject
  try dsimp only
  repeat' with_reducible first | assumption | apply kept_parts | apply kept_parts_of | apply State.send_keeps | simp only [kept_mk] | split

theorem State.imageFailed_keeps {q : List Instr} (s : State) (x2 : ℕ) (x3 : Sys2Proof.ObjectFault) (h : Kept q s) :
    Kept q (State.imageFailed s x2 x3) := by
  unfold State.imageFailed
  try dsimp only
  repeat' with_reducible first | assumption | apply kept_parts | apply kept_parts_of | apply State.writeObject_keeps | apply State.cutEnded_keeps | apply State.holdImageEnded_keeps | apply State.ckptDone_keeps | apply kept_foldl | simp only [kept_mk] | split | intro _ _ _ _ _ _ | intro _ _ _ _ | intro _ _ _ | intro _ _

theorem State.imageWritten_keeps {q : List Instr} (s : State) (h : Kept q s) :
    Kept q (State.imageWritten s) := by
  unfold State.imageWritten
  try dsimp only
  repeat' with_reducible first | assumption | apply kept_parts | apply kept_parts_of | apply State.sourceRead_keeps | apply State.imageFailed_keeps | apply State.writeObject_keeps | apply State.send_keeps | apply State.setReg_keeps | apply State.cutEnded_keeps | apply State.holdImageEnded_keeps | apply State.ckptDone_keeps | apply kept_foldl | simp only [kept_mk] | split | intro _ _ _ _ _ _ | intro _ _ _ _ | intro _ _ _ | intro _ _

theorem State.dropCuts_keeps {q : List Instr} (s : State) (h : Kept q s) :
    Kept q (State.dropCuts s) := by
  unfold State.dropCuts
  try dsimp only
  repeat' with_reducible first | assumption | apply kept_parts | apply kept_parts_of | apply State.ckptDone_keeps | simp only [kept_mk] | split | intro _ _ _ _ _ _ | intro _ _ _ _ | intro _ _ _ | intro _ _

theorem State.storeRanges_keeps {q : List Instr} (s : State) (x2 : List (ℕ × ℕ)) (x3 : ℕ) (x4 : List Sys2Proof.Byte) (h : Kept q s) :
    Kept q (State.storeRanges s x2 x3 x4) := by
  induction x2 generalizing s x3 x4 with
  | nil => exact h
  | cons e r ih =>
    rw [State.storeRanges]
    try dsimp only
    repeat' with_reducible first | apply ih | assumption | apply kept_parts | apply kept_parts_of | apply State.store_keeps | simp only [kept_mk] | split

theorem State.restoreShard_keeps {q : List Instr} (s z : State) (x3 : List (ℕ × ℕ)) (x4 x5 : List Sys2Proof.Byte)
    (h : Kept q s) : Kept q (State.restoreShard s z x3 x4 x5) := by
  unfold State.restoreShard
  try dsimp only
  repeat' with_reducible first | assumption | apply kept_parts | apply State.storeRanges_keeps | simp only [kept_mk] | split

theorem State.endRestore_keeps {q : List Instr} (s : State) (x2 : Restore) (x3 : Status) (x4 : List ℕ) (h : Kept q s) :
    Kept q (State.endRestore s x2 x3 x4) := by
  unfold State.endRestore
  try dsimp only
  repeat' with_reducible first | assumption | apply kept_parts | apply kept_parts_of | apply State.closeWith_keeps | simp only [kept_mk] | split

theorem State.applySequencer_keeps {q : List Instr} (s : State) (x2 : List (ℕ × ℕ)) (h : Kept q s) :
    Kept q (State.applySequencer s x2) := by
  unfold State.applySequencer
  try dsimp only
  repeat' with_reducible first | assumption | apply kept_parts | apply kept_parts_of | apply State.setWringTail_keeps | apply State.setReg_keeps | apply State.setCring_keeps | apply State.setSq_keeps | apply State.wringError_keeps | apply kept_foldl | simp only [kept_mk] | split | intro _ _ _ _ _ _ | intro _ _ _ _ | intro _ _ _ | intro _ _

theorem State.activate_keeps {q : List Instr} (s : State) (x2 : Restore) (x3 : List (List Sys2Proof.Byte)) (h : Kept q s) :
    Kept q (State.activate s x2 x3) := by
  unfold State.activate
  try dsimp only
  repeat' with_reducible first | assumption | apply kept_parts | apply kept_parts_of | apply State.applyTable_keeps | apply State.applySequencer_keeps | apply State.applyConfig_keeps | apply State.applyStash_keeps | simp only [kept_mk] | split | intro _ _ _ _ _ _ | intro _ _ _ _ | intro _ _ _ | intro _ _

theorem State.payloadPass_keeps {q : List Instr} (s : State) (x2 : List (Option (List Sys2Proof.Byte))) (h : Kept q s) :
    Kept q (State.payloadPass s x2) := by
  unfold State.payloadPass
  try dsimp only
  repeat' with_reducible first | assumption | apply kept_parts | apply kept_parts_of | apply State.imageMap_keeps | apply State.restoreShard_keeps | apply State.endRestore_keeps | apply State.activate_keeps | apply kept_foldl | simp only [kept_mk] | split | intro _ _ _ _ _ _ | intro _ _ _ _ | intro _ _ _ | intro _ _

theorem State.takeTransferRecord_keeps {q : List Instr} (s : State) (x2 : ℕ) (x3 : StreamRx) (h : Kept q s) :
    Kept q (State.takeTransferRecord s x2 x3) := by
  unfold State.takeTransferRecord
  try dsimp only
  repeat' with_reducible first | assumption | apply kept_parts | apply kept_parts_of | simp only [kept_mk] | split

theorem doRestore_keeps {q : List Instr} (x1 : OpenCmd) (s : State) (h : Kept q s) :
    KeptR q (doRestore x1 s) := by
  unfold doRestore
  try dsimp only
  repeat' with_reducible first | assumption | apply kept_parts | apply kept_parts_of | apply refuse_keeps | apply State.readObject_keeps | apply State.connectTargets_keeps | apply began_keeps | simp only [keptR_mk, id_eq] | apply And.intro | simp only [kept_mk] | split | intro _ _ _ _ _ _ | intro _ _ _ _ | intro _ _ _ | intro _ _

theorem State.headerPass_keeps {q : List Instr} (s : State) (x2 : List (Option (List Sys2Proof.Byte))) (h : Kept q s) :
    Kept q (State.headerPass s x2) := by
  unfold State.headerPass
  try dsimp only
  repeat' with_reducible first | assumption | apply kept_parts | apply kept_parts_of | apply State.readObject_keeps | apply State.endRestore_keeps | apply kept_foldl | simp only [kept_mk] | split | intro _ _ _ _ _ _ | intro _ _ _ _ | intro _ _ _ | intro _ _

theorem State.transferNext_keeps {q : List Instr} (s : State) (x2 : ℕ) (x3 : StreamTx) (h : Kept q s) :
    Kept q (State.transferNext s x2 x3) := by
  unfold State.transferNext
  try dsimp only
  repeat' with_reducible first | assumption | apply kept_parts | apply kept_parts_of | apply State.startTx_keeps | simp only [kept_mk] | split

theorem State.transferTxEnd_keeps {q : List Instr} (s : State) (x2 : ℕ) (x3 : StreamTx) (x4 : Status) (h : Kept q s) :
    Kept q (State.transferTxEnd s x2 x3 x4) := by
  unfold State.transferTxEnd
  try dsimp only
  repeat' with_reducible first | assumption | apply kept_parts | apply kept_parts_of | apply State.transferNext_keeps | apply State.failTransfer_keeps | simp only [kept_mk] | split

theorem doTwinAdopt_keeps {q : List Instr} (x1 : OpenCmd) (s : State) (h : Kept q s) :
    KeptR q (doTwinAdopt x1 s) := by
  unfold doTwinAdopt
  try dsimp only
  repeat' with_reducible first | assumption | apply kept_parts | apply kept_parts_of | apply refuse_keeps | apply done_keeps | simp only [keptR_mk, id_eq] | apply And.intro | simp only [kept_mk] | split | intro _ _ _ _ _ _ | intro _ _ _ _ | intro _ _ _ | intro _ _

theorem State.objectFailed_keeps {q : List Instr} (s : State) (x2 : ℕ) (x3 : Sys2Proof.ObjectFault) (h : Kept q s) :
    Kept q (State.objectFailed s x2 x3) := by
  unfold State.objectFailed
  try dsimp only
  repeat' with_reducible first | assumption | apply kept_parts | apply kept_parts_of | apply State.sourceRead_keeps | apply State.imageFailed_keeps | simp only [kept_mk] | split

theorem State.holdImage_keeps {q : List Instr} (s : State) (h : Kept q s) :
    Kept q (State.holdImage s) := by
  unfold State.holdImage
  try dsimp only
  repeat' with_reducible first | assumption | apply kept_parts | apply kept_parts_of | apply State.startImage_keeps | simp only [kept_mk] | split

theorem doTwinReceive_keeps {q : List Instr} (x1 : OpenCmd) (s : State) (h : Kept q s) :
    KeptR q (doTwinReceive x1 s) := by
  unfold doTwinReceive
  try dsimp only
  repeat' with_reducible first | assumption | apply kept_parts | apply kept_parts_of | apply refuse_keeps | apply State.setRx_keeps | apply began_keeps | apply kept_foldl | simp only [keptR_mk, id_eq] | apply And.intro | simp only [kept_mk] | split | intro _ _ _ _ _ _ | intro _ _ _ _ | intro _ _ _ | intro _ _

theorem doCheckpointRelease_keeps {q : List Instr} (x1 : OpenCmd) (s : State) (h : Kept q s) :
    KeptR q (doCheckpointRelease x1 s) := by
  unfold doCheckpointRelease
  try dsimp only
  repeat' with_reducible first | assumption | apply kept_parts | apply kept_parts_of | apply refuse_keeps | apply done_keeps | simp only [keptR_mk, id_eq] | apply And.intro | simp only [kept_mk] | split | intro _ _ _ _ _ _ | intro _ _ _ _ | intro _ _ _ | intro _ _

theorem State.cutImage_keeps {q : List Instr} (s : State) (h : Kept q s) :
    Kept q (State.cutImage s) := by
  unfold State.cutImage
  try dsimp only
  repeat' with_reducible first | assumption | apply kept_parts | apply kept_parts_of | apply State.startImage_keeps | simp only [kept_mk] | split | intro _ _ _ _ _ _ | intro _ _ _ _ | intro _ _ _ | intro _ _

/-! ### Machine/Settle.lean -/

theorem State.twinStreamFailed_keeps {q : List Instr} (s : State) (x2 : StreamRx) (x3 : Status) (h : Kept q s) :
    Kept q (State.twinStreamFailed s x2 x3) := by
  unfold State.twinStreamFailed
  try dsimp only
  repeat' with_reducible first | assumption | apply kept_parts | apply kept_parts_of | apply State.setStep_keeps | simp only [kept_mk] | split

theorem State.rxFails_keeps {q : List Instr} (s : State) (x2 : ℕ) (x3 : StreamRx) (x4 : Status) (h : Kept q s) :
    Kept q (State.rxFails s x2 x3 x4) := by
  unfold State.rxFails
  try dsimp only
  repeat' with_reducible first | assumption | apply kept_parts | apply kept_parts_of | apply State.setRx_keeps | apply State.rxRecord_keeps | apply State.failTransfer_keeps | apply State.twinStreamFailed_keeps | apply State.streamVerdict_keeps | apply State.runColl_keeps | apply State.setColl_keeps | simp only [kept_mk] | split

theorem State.txEnds_keeps {q : List Instr} (s : State) (x2 : ℕ) (x3 : StreamTx) (x4 : Status) (h : Kept q s) :
    Kept q (State.txEnds s x2 x3 x4) := by
  unfold State.txEnds
  try dsimp only
  repeat' with_reducible first | assumption | apply kept_parts | apply kept_parts_of | apply State.endTx_keeps | apply State.transferTxEnd_keeps | apply State.digestNext_keeps | simp only [kept_mk] | split

theorem State.endShut_keeps {q : List Instr} (s : State) (h : Kept q s) :
    Kept q (State.endShut s) := by
  unfold State.endShut
  try dsimp only
  repeat' with_reducible first | assumption | apply kept_parts | apply kept_parts_of | apply State.txEnds_keeps | apply State.rxFails_keeps | apply kept_foldl | simp only [kept_mk] | split | intro _ _ _ _ _ _ | intro _ _ _ _ | intro _ _ _ | intro _ _

theorem State.endBarred_keeps {q : List Instr} (s : State) (h : Kept q s) :
    Kept q (State.endBarred s) := by
  unfold State.endBarred
  try dsimp only
  repeat' with_reducible first | assumption | apply kept_parts | apply kept_parts_of | apply State.txEnds_keeps | apply kept_foldl | simp only [kept_mk] | split | intro _ _ _ _ _ _ | intro _ _ _ _ | intro _ _ _ | intro _ _

theorem State.dropOrphans_keeps {q : List Instr} (s : State) (h : Kept q s) :
    Kept q (State.dropOrphans s) := by
  unfold State.dropOrphans
  try dsimp only
  repeat' with_reducible first | assumption | apply kept_parts | apply kept_parts_of | apply State.dropUnit_keeps | apply kept_foldl | simp only [kept_mk] | split | intro _ _ _ _ _ _ | intro _ _ _ _ | intro _ _ _ | intro _ _

theorem State.setSlot_keeps {q : List Instr} (s : State) (x2 : ℕ) (x3 : TTSlot) (h : Kept q s) :
    Kept q (State.setSlot s x2 x3) := by
  unfold State.setSlot
  try dsimp only
  repeat' with_reducible first | assumption | apply kept_parts | apply kept_parts_of | simp only [kept_mk] | split

theorem State.settleFabric_keeps {q : List Instr} (s : State) (h : Kept q s) :
    Kept q (State.settleFabric s) := by
  unfold State.settleFabric
  try dsimp only
  repeat' with_reducible first | assumption | apply kept_parts | apply kept_parts_of | apply State.releaseCring_keeps | apply State.endBarred_keeps | apply State.flushAll_keeps | apply State.pumpAll_keeps | apply State.lateAcks_keeps | apply State.endShut_keeps | apply kept_foldl | simp only [kept_mk] | split | intro _ _ _ _ _ _ | intro _ _ _ _ | intro _ _ _ | intro _ _

theorem State.progress_keeps {q : List Instr} (s : State) (h : Kept q s) :
    Kept q (State.progress s) := by
  unfold State.progress
  try dsimp only
  repeat' with_reducible first | assumption | apply kept_parts | apply kept_parts_of | apply State.verdicts_keeps | apply State.advance_keeps | simp only [kept_mk] | split

theorem State.ttMiss_keeps {q : List Instr} (s : State) (x2 : ℕ) (x3 : TTSlot) (x4 : ℕ) (h : Kept q s) :
    Kept q (State.ttMiss s x2 x3 x4) := by
  unfold State.ttMiss
  try dsimp only
  repeat' with_reducible first | assumption | apply kept_parts | apply kept_parts_of | apply State.trace_keeps | apply State.emit_keeps | simp only [kept_mk] | split

theorem State.refuseWaiting_keeps {q : List Instr} (s : State) (h : Kept q s) :
    Kept q (State.refuseWaiting s) := by
  unfold State.refuseWaiting
  try dsimp only
  repeat' with_reducible first | assumption | apply kept_parts | apply kept_parts_of | apply State.ttMiss_keeps | apply State.setSlot_keeps | apply kept_foldl | simp only [kept_mk] | split | intro _ _ _ _ _ _ | intro _ _ _ _ | intro _ _ _ | intro _ _

theorem State.settleSteps_keeps {q : List Instr} (s : State) (h : Kept q s) :
    Kept q (State.settleSteps s) := by
  unfold State.settleSteps
  try dsimp only
  repeat' with_reducible first | assumption | apply kept_parts | apply kept_parts_of | apply State.refuseWaiting_keeps | apply State.progress_keeps | apply State.dropCuts_keeps | apply State.cutImage_keeps | apply State.holdImage_keeps | apply State.secondReplay_keeps | apply State.reissueLost_keeps | apply State.dropOrphans_keeps | apply State.clampBadBanks_keeps | simp only [kept_mk] | split

theorem State.settle_keeps {q : List Instr} (s : State) (h : Kept q s) :
    Kept q (State.settle s) := by
  unfold State.settle
  try dsimp only
  repeat' with_reducible first | assumption | apply kept_parts | apply kept_parts_of | apply State.settleFabric_keeps | apply State.settleSteps_keeps | simp only [kept_mk] | split

/-! ### Machine/Clock.lean -/

theorem State.useSource_keeps {q : List Instr} (s : State) (x2 : TimeSource) (x3 : ℕ) (h : Kept q s) :
    Kept q (State.useSource s x2 x3) := by
  unfold State.useSource
  try dsimp only
  repeat' with_reducible first | assumption | apply kept_parts | apply kept_parts_of | simp only [kept_mk] | split

theorem State.selectSource_keeps {q : List Instr} (s : State) (h : Kept q s) :
    Kept q (State.selectSource s) := by
  unfold State.selectSource
  try dsimp only
  repeat' with_reducible first | assumption | apply kept_parts | apply kept_parts_of | apply State.useSource_keeps | simp only [kept_mk] | split

theorem State.ftAlarm_keeps {q : List Instr} (s : State) (h : Kept q s) :
    Kept q (State.ftAlarm s) := by
  unfold State.ftAlarm
  try dsimp only
  repeat' with_reducible first | assumption | apply kept_parts | apply kept_parts_of | apply State.fault_keeps | apply State.setBits_keeps | simp only [kept_mk] | split

theorem State.sourceLost_keeps {q : List Instr} (s : State) (h : Kept q s) :
    Kept q (State.sourceLost s) := by
  unfold State.sourceLost
  try dsimp only
  repeat' with_reducible first | assumption | apply kept_parts | apply kept_parts_of | apply State.selectSource_keeps | apply State.ftAlarm_keeps | simp only [kept_mk] | split

theorem State.ptpLost_keeps {q : List Instr} (s : State) (x2 : ℕ) (h : Kept q s) :
    Kept q (State.ptpLost s x2) := by
  unfold State.ptpLost
  try dsimp only
  repeat' with_reducible first | assumption | apply kept_parts | apply kept_parts_of | apply State.sourceLost_keeps | simp only [kept_mk] | split

theorem State.delayRequest_keeps {q : List Instr} (s : State) (x2 : PtpExchange) (h : Kept q s) :
    Kept q (State.delayRequest s x2) := by
  unfold State.delayRequest
  try dsimp only
  repeat' with_reducible first | assumption | apply kept_parts | apply kept_parts_of | apply State.count_keeps | apply State.send_keeps | simp only [kept_mk] | split

theorem State.takeOffset_keeps {q : List Instr} (s : State) (x2 : ℤ) (h : Kept q s) :
    Kept q (State.takeOffset s x2) := by
  unfold State.takeOffset
  try dsimp only
  repeat' with_reducible first | assumption | apply kept_parts | apply kept_parts_of | apply State.ftAlarm_keeps | simp only [kept_mk] | split

theorem State.discipline_keeps {q : List Instr} (s : State) (x2 : ℤ) (h : Kept q s) :
    Kept q (State.discipline s x2) := by
  unfold State.discipline
  try dsimp only
  repeat' with_reducible first | assumption | apply kept_parts | apply kept_parts_of | apply State.takeOffset_keeps | simp only [kept_mk] | split

theorem State.ptpStep_keeps {q : List Instr} (s : State) (x2 : ℕ) (x3 : Sys2Proof.PtpMessage) (h : Kept q s) :
    Kept q (State.ptpStep s x2 x3) := by
  unfold State.ptpStep
  try dsimp only
  repeat' with_reducible first | assumption | apply kept_parts | apply kept_parts_of | apply State.delayRequest_keeps | apply State.discipline_keeps | simp only [kept_mk] | split

theorem State.reconsider_keeps {q : List Instr} (s : State) (h : Kept q s) :
    Kept q (State.reconsider s) := by
  unfold State.reconsider
  try dsimp only
  repeat' with_reducible first | assumption | apply kept_parts | apply kept_parts_of | apply State.useSource_keeps | simp only [kept_mk] | split

theorem execPtpMessage_keeps {q : List Instr} (x1 : ℕ) (x2 : Sys2Proof.PtpMessage) (s : State) (h : Kept q s) :
    KeptO q (execPtpMessage x1 x2 s) := by
  unfold execPtpMessage
  try dsimp only
  repeat' with_reducible first | assumption | apply kept_parts | apply kept_parts_of | apply State.count_keeps | apply State.ptpLost_keeps | apply State.ptpStep_keeps | apply State.reconsider_keeps | apply onUnit_keeps | apply State.settle_keeps | apply keptO_next | apply keptO_onUnit | exact keptO_fault | simp only [kept_mk] | split

theorem State.sendTime_keeps {q : List Instr} (s : State) (x2 : ℕ) (h : Kept q s) :
    Kept q (State.sendTime s x2) := by
  unfold State.sendTime
  try dsimp only
  repeat' with_reducible first | assumption | apply kept_parts | apply kept_parts_of | apply State.setPort_keeps | apply State.putCell_keeps | simp only [kept_mk] | split

theorem execTimeCellSend_keeps {q : List Instr} (x1 : ℕ) (s : State) (h : Kept q s) :
    KeptO q (execTimeCellSend x1 s) := by
  unfold execTimeCellSend
  try dsimp only
  repeat' with_reducible first | assumption | apply kept_parts | apply kept_parts_of | apply onUnit_keeps | apply State.settle_keeps | apply State.sendTime_keeps | apply keptO_next | apply keptO_onUnit | exact keptO_fault | simp only [kept_mk] | split

theorem State.chooseSource_keeps {q : List Instr} (s : State) (x2 : ℕ) (h : Kept q s) :
    Kept q (State.chooseSource s x2) := by
  unfold State.chooseSource
  try dsimp only
  repeat' with_reducible first | assumption | apply kept_parts | apply kept_parts_of | apply State.reconsider_keeps | apply State.sourceLost_keeps | simp only [kept_mk] | split

theorem execFtHoldoverExpiry_keeps {q : List Instr} (s : State) (h : Kept q s) :
    KeptO q (execFtHoldoverExpiry s) := by
  unfold execFtHoldoverExpiry
  try dsimp only
  repeat' with_reducible first | assumption | apply kept_parts | apply kept_parts_of | apply State.settle_keeps | apply State.ftAlarm_keeps | apply keptO_next | apply keptO_onUnit | exact keptO_fault | simp only [kept_mk] | split

theorem execFtLock_keeps {q : List Instr} (s : State) (h : Kept q s) :
    KeptO q (execFtLock s) := by
  unfold execFtLock
  try dsimp only
  repeat' with_reducible first | assumption | apply kept_parts | apply kept_parts_of | apply State.settle_keeps | apply State.settleHeld_keeps | apply keptO_next | apply keptO_onUnit | exact keptO_fault | simp only [kept_mk] | split

theorem State.takeTime_keeps {q : List Instr} (s : State) (x2 : ℕ) (x3 : List Sys2Proof.Byte) (h : Kept q s) :
    Kept q (State.takeTime s x2 x3) := by
  unfold State.takeTime
  try dsimp only
  repeat' with_reducible first | assumption | apply kept_parts | apply kept_parts_of | apply State.chooseSource_keeps | apply State.setPort_keeps | apply State.discipline_keeps | simp only [kept_mk] | split

theorem State.recheckPtp_keeps {q : List Instr} (s : State) (h : Kept q s) :
    Kept q (State.recheckPtp s) := by
  unfold State.recheckPtp
  try dsimp only
  repeat' with_reducible first | assumption | apply kept_parts | apply kept_parts_of | apply State.sourceLost_keeps | apply State.reconsider_keeps | simp only [kept_mk] | split

theorem execFtSourceLost_keeps {q : List Instr} (s : State) (h : Kept q s) :
    KeptO q (execFtSourceLost s) := by
  unfold execFtSourceLost
  try dsimp only
  repeat' with_reducible first | assumption | apply kept_parts | apply kept_parts_of | apply State.settle_keeps | apply State.sourceLost_keeps | apply State.setPort_keeps | apply State.ptpLost_keeps | apply keptO_next | apply keptO_onUnit | exact keptO_fault | simp only [kept_mk] | split

end Sys2Proof.Machine
end

