-- ==== Sys2Proof/Laws/KeepsCompute.lean ====
section
/-! SUPPORT. What every operation keeps (Kept: the canonical tables and memory, and the queue): the sequencer, the compute units and the transfers. -/

set_option linter.unusedTactic false
set_option linter.unreachableTactic false
set_option linter.unusedSimpArgs false

namespace Sys2Proof.Machine

/-! ### Machine/Sequencer.lean -/

theorem State.signal_keeps {q : List Instr} (s : State) (x2 : ℕ) (x3 : BitVec 32) (h : Kept q s) :
    Kept q (State.signal s x2 x3) := by
  unfold State.signal
  try dsimp only
  repeat' with_reducible first | assumption | apply kept_parts | apply kept_parts_of | simp only [kept_mk] | split

theorem State.post_keeps {q : List Instr} (s : State) (x2 : ℕ) (x3 : ℕ) (x4 : List Sys2Proof.Byte) (h : Kept q s) :
    Kept q (State.post s x2 x3 x4) := by
  unfold State.post
  try dsimp only
  repeat' with_reducible first | assumption | apply kept_parts | apply kept_parts_of | apply State.setWringTail_keeps | apply State.store_keeps | simp only [kept_mk] | split

theorem State.applyDeferred_keeps {q : List Instr} (s : State) (x2 : ℕ) (x3 : List Deferred) (h : Kept q s) :
    Kept q (State.applyDeferred s x2 x3) := by
  induction x3 generalizing s with
  | nil => exact h
  | cons e r ih =>
    cases e <;> rw [State.applyDeferred]
    try dsimp only
    repeat' with_reducible first | apply ih | assumption | apply kept_parts | apply kept_parts_of | apply State.signal_keeps | apply State.post_keeps | simp only [kept_mk] | split

theorem State.finishItem_keeps {q : List Instr} (s : State) (x2 : ℕ) (x3 : Item) (h : Kept q s) :
    Kept q (State.finishItem s x2 x3) := by
  unfold State.finishItem
  try dsimp only
  repeat' with_reducible first | assumption | apply kept_parts | apply kept_parts_of | apply State.endItem_keeps | apply State.applyDeferred_keeps | simp only [kept_mk] | split

theorem State.setItem_keeps {q : List Instr} (s : State) (x2 : ℕ) (x3 : Item) (h : Kept q s) :
    Kept q (State.setItem s x2 x3) := by
  unfold State.setItem
  try dsimp only
  repeat' with_reducible first | assumption | apply kept_parts | apply kept_parts_of | apply State.setCore_keeps | simp only [kept_mk] | split

theorem State.doEnd_keeps {q : List Instr} (s : State) (x2 : ℕ) (x3 : Item) (x4 : Ins) (h : Kept q s) :
    Kept q (State.doEnd s x2 x3 x4) := by
  unfold State.doEnd
  try dsimp only
  repeat' with_reducible first | assumption | apply kept_parts | apply kept_parts_of | apply State.finishItem_keeps | apply State.setItem_keeps | simp only [kept_mk] | split

theorem State.doJump_keeps {q : List Instr} (s : State) (x2 : ℕ) (x3 : Item) (x4 : Ins) (h : Kept q s) :
    Kept q (State.doJump s x2 x3 x4) := by
  unfold State.doJump
  try dsimp only
  repeat' with_reducible first | assumption | apply kept_parts | apply kept_parts_of | apply State.setItem_keeps | simp only [kept_mk] | split

theorem execUnitFieldFault_keeps {q : List Instr} (x1 : Sys2Proof.UnitKind) (x2 : ℕ) (s : State) (h : Kept q s) :
    KeptO q (execUnitFieldFault x1 x2 s) := by
  unfold execUnitFieldFault
  try dsimp only
  repeat' with_reducible first | assumption | apply kept_parts | apply kept_parts_of | apply onUnit_keeps | apply State.settle_keeps | apply State.clampUnit_keeps | apply keptO_next | apply keptO_onUnit | exact keptO_fault | simp only [kept_mk] | split

theorem execFingerprintCompare_keeps {q : List Instr} (x1 : ℕ) (s : State) (h : Kept q s) :
    KeptO q (execFingerprintCompare x1 s) := by
  unfold execFingerprintCompare
  try dsimp only
  repeat' with_reducible first | assumption | apply kept_parts | apply kept_parts_of | apply State.settle_keeps | apply State.compareUnit_keeps | apply keptO_next | apply keptO_onUnit | exact keptO_fault | simp only [kept_mk] | split

theorem State.failItem_keeps {q : List Instr} (s : State) (x2 : ℕ) (x3 : Item) (x4 : Status) (h : Kept q s) :
    Kept q (State.failItem s x2 x3 x4) := by
  unfold State.failItem
  try dsimp only
  repeat' with_reducible first | assumption | apply kept_parts | apply kept_parts_of | apply State.endItem_keeps | apply State.setItem_keeps | simp only [kept_mk] | split

theorem State.doSignal_keeps {q : List Instr} (s : State) (x2 : ℕ) (x3 : Item) (x4 : Ins) (h : Kept q s) :
    Kept q (State.doSignal s x2 x3 x4) := by
  unfold State.doSignal
  try dsimp only
  repeat' with_reducible first | assumption | apply kept_parts | apply kept_parts_of | apply State.failItem_keeps | apply State.setItem_keeps | apply State.signal_keeps | simp only [kept_mk] | split

theorem onCore_keeps {q : List Instr} (x1 : ℕ) (s : State) (h : Kept q s) :
    KeptO q (onCore x1 s) := by
  unfold onCore
  try dsimp only
  repeat' with_reducible first | assumption | apply kept_parts | apply kept_parts_of | apply onUnit_keeps | apply State.settle_keeps | apply keptO_next | apply keptO_onUnit | exact keptO_fault | simp only [kept_mk] | split

theorem State.atInstr_keeps {q : List Instr} (s : State) (x2 : ℕ) (x3 : ℕ) (f : State → Item → Ins → State) (h : Kept q s) (hf : ∀ t i j, Kept q t → Kept q (f t i j)) :
    Kept q (State.atInstr s x2 x3 f) := by
  unfold State.atInstr
  try dsimp only
  repeat' with_reducible first | assumption | apply kept_parts | apply kept_parts_of | apply State.failItem_keeps | apply State.checkRange_keeps | apply State.replayPoison_keeps | apply State.account_keeps | apply hf | simp only [kept_mk] | split | intro _ _ _ _ _ _ | intro _ _ _ _ | intro _ _ _ | intro _ _

theorem State.branch_keeps {q : List Instr} (s : State) (x2 : ℕ) (x3 : Item) (x4 : ℕ) (h : Kept q s) :
    Kept q (State.branch s x2 x3 x4) := by
  unfold State.branch
  try dsimp only
  repeat' with_reducible first | assumption | apply kept_parts | apply kept_parts_of | apply State.failItem_keeps | apply State.fetch_keeps | apply State.setItem_keeps | simp only [kept_mk] | split

theorem State.doBnz_keeps {q : List Instr} (s : State) (x2 : ℕ) (x3 : Item) (x4 : Ins) (h : Kept q s) :
    Kept q (State.doBnz s x2 x3 x4) := by
  unfold State.doBnz
  try dsimp only
  repeat' with_reducible first | assumption | apply kept_parts | apply kept_parts_of | apply State.branch_keeps | apply State.setItem_keeps | simp only [kept_mk] | split

theorem execBnz_keeps {q : List Instr} (x1 : ℕ) (s : State) (h : Kept q s) :
    KeptO q (execBnz x1 s) := by
  unfold execBnz
  try dsimp only
  repeat' with_reducible first | assumption | apply kept_parts | apply kept_parts_of | apply onCore_keeps | apply State.atInstr_keeps | apply State.doBnz_keeps | apply keptO_next | apply keptO_onUnit | exact keptO_fault | simp only [kept_mk] | split | intro _ _ _ _ _ _ | intro _ _ _ _ | intro _ _ _ | intro _ _

theorem State.doParam_keeps {q : List Instr} (s : State) (x2 : ℕ) (x3 : Item) (x4 : Ins) (h : Kept q s) :
    Kept q (State.doParam s x2 x3 x4) := by
  unfold State.doParam
  try dsimp only
  repeat' with_reducible first | assumption | apply kept_parts | apply kept_parts_of | apply State.failItem_keeps | apply State.setItem_keeps | apply State.store_keeps | simp only [kept_mk] | split

theorem State.doDjnz_keeps {q : List Instr} (s : State) (x2 : ℕ) (x3 : Item) (x4 : Ins) (h : Kept q s) :
    Kept q (State.doDjnz s x2 x3 x4) := by
  unfold State.doDjnz
  try dsimp only
  repeat' with_reducible first | assumption | apply kept_parts | apply kept_parts_of | apply State.setItem_keeps | simp only [kept_mk] | split

theorem execDjnz_keeps {q : List Instr} (x1 : ℕ) (s : State) (h : Kept q s) :
    KeptO q (execDjnz x1 s) := by
  unfold execDjnz
  try dsimp only
  repeat' with_reducible first | assumption | apply kept_parts | apply kept_parts_of | apply onCore_keeps | apply State.atInstr_keeps | apply State.doDjnz_keeps | apply keptO_next | apply keptO_onUnit | exact keptO_fault | simp only [kept_mk] | split | intro _ _ _ _ _ _ | intro _ _ _ _ | intro _ _ _ | intro _ _

theorem State.passPointer_keeps {q : List Instr} (s : State) (x2 : ℕ) (x3 : ℕ) (h : Kept q s) :
    Kept q (State.passPointer s x2 x3) := by
  unfold State.passPointer
  try dsimp only
  repeat' with_reducible first | assumption | apply kept_parts | apply kept_parts_of | apply State.setCore_keeps | simp only [kept_mk] | split

theorem State.takeEntry_keeps {q : List Instr} (s : State) (x2 : ℕ) (x3 : ℕ) (h : Kept q s) :
    Kept q (State.takeEntry s x2 x3) := by
  unfold State.takeEntry
  try dsimp only
  repeat' with_reducible first | assumption | apply kept_parts | apply kept_parts_of | apply State.fetch_keeps | apply State.passPointer_keeps | apply State.wringTake_keeps | apply State.trace_keeps | apply State.setItem_keeps | apply State.endItem_keeps | apply State.replayPoison_keeps | simp only [kept_mk] | split

theorem State.startWork_keeps {q : List Instr} (s : State) (x2 : ℕ) (h : Kept q s) :
    Kept q (State.startWork s x2) := by
  unfold State.startWork
  try dsimp only
  repeat' with_reducible first | assumption | apply kept_parts | apply kept_parts_of | apply State.trace_keeps | apply State.setItem_keeps | apply State.setCore_keeps | apply State.takeEntry_keeps | simp only [kept_mk] | split

theorem State.doWait_keeps {q : List Instr} (s : State) (x2 : ℕ) (x3 : Item) (x4 : Ins) (h : Kept q s) :
    Kept q (State.doWait s x2 x3 x4) := by
  unfold State.doWait
  try dsimp only
  repeat' with_reducible first | assumption | apply kept_parts | apply kept_parts_of | apply State.setItem_keeps | simp only [kept_mk] | split

theorem execWait_keeps {q : List Instr} (x1 : ℕ) (s : State) (h : Kept q s) :
    KeptO q (execWait x1 s) := by
  unfold execWait
  try dsimp only
  repeat' with_reducible first | assumption | apply kept_parts | apply kept_parts_of | apply onCore_keeps | apply State.atInstr_keeps | apply State.doWait_keeps | apply keptO_next | apply keptO_onUnit | exact keptO_fault | simp only [kept_mk] | split | intro _ _ _ _ _ _ | intro _ _ _ _ | intro _ _ _ | intro _ _

theorem State.doBind_keeps {q : List Instr} (s : State) (x2 : ℕ) (x3 : Item) (x4 : Ins) (h : Kept q s) :
    Kept q (State.doBind s x2 x3 x4) := by
  unfold State.doBind
  try dsimp only
  repeat' with_reducible first | assumption | apply kept_parts | apply kept_parts_of | apply State.failItem_keeps | apply State.forgetLost_keeps | apply State.setItem_keeps | apply State.setCluster_keeps | simp only [kept_mk] | split | intro _ _ _ _ _ _ | intro _ _ _ _ | intro _ _ _ | intro _ _

theorem State.doLoopset_keeps {q : List Instr} (s : State) (x2 : ℕ) (x3 : Item) (x4 : Ins) (h : Kept q s) :
    Kept q (State.doLoopset s x2 x3 x4) := by
  unfold State.doLoopset
  try dsimp only
  repeat' with_reducible first | assumption | apply kept_parts | apply kept_parts_of | apply State.setItem_keeps | simp only [kept_mk] | split

theorem execLoopset_keeps {q : List Instr} (x1 : ℕ) (s : State) (h : Kept q s) :
    KeptO q (execLoopset x1 s) := by
  unfold execLoopset
  try dsimp only
  repeat' with_reducible first | assumption | apply kept_parts | apply kept_parts_of | apply onCore_keeps | apply State.atInstr_keeps | apply State.doLoopset_keeps | apply keptO_next | apply keptO_onUnit | exact keptO_fault | simp only [kept_mk] | split | intro _ _ _ _ _ _ | intro _ _ _ _ | intro _ _ _ | intro _ _

theorem State.traceWait_keeps {q : List Instr} (s : State) (x2 : ℕ) (x3 : Item) (h : Kept q s) :
    Kept q (State.traceWait s x2 x3) := by
  unfold State.traceWait
  try dsimp only
  repeat' with_reducible first | assumption | apply kept_parts | apply kept_parts_of | apply State.trace_keeps | simp only [kept_mk] | split

theorem State.commit_keeps {q : List Instr} (s : State) (c : ℕ) (ws : List (ℕ × Byte)) (ps : List ℕ) (h : Kept q s) :
    Kept q (s.commit c ws ps) := by
  unfold State.commit
  extract_lets gs n s1 s2 m
  have h1 : Kept q s1 := kept_foldl (fun t g ht => by
    split
    · exact kept_mem ht (Memory.wf_setDiff (wf_of_kept ht))
    · exact State.checkGranule_keeps _ _ ht) h
  have h2 : Kept q s2 := State.accountBytes_keeps _ _ _ _ h1
  have hm : m.wf = true := Memory.wf_foldl (wf_of_kept h2) fun _ _ hn => Memory.wf_setByte hn
  exact State.withMem_keeps h (kept_mem h2 (Memory.wf_foldl hm fun _ _ hn => Memory.wf_poison hn))

theorem State.completeOp_keeps {q : List Instr} (s : State) (x2 : ℕ) (x3 : OpKind) (h : Kept q s) :
    Kept q (State.completeOp s x2 x3) := by
  unfold State.completeOp
  try dsimp only
  repeat' with_reducible first | assumption | apply kept_parts | apply kept_parts_of | apply State.commit_keeps | apply State.closeOp_keeps | apply State.originalEnded_keeps | apply State.endItem_keeps | apply State.setItem_keeps | simp only [kept_mk] | split | apply kept_of_third (by assumption)

theorem execRowOpComplete_keeps {q : List Instr} (x1 : ℕ) (s : State) (h : Kept q s) :
    KeptO q (execRowOpComplete x1 s) := by
  unfold execRowOpComplete
  try dsimp only
  repeat' with_reducible first | assumption | apply kept_parts | apply kept_parts_of | apply onCore_keeps | apply State.completeOp_keeps | apply keptO_next | apply keptO_onUnit | exact keptO_fault | simp only [kept_mk] | split

theorem execBind_keeps {q : List Instr} (x1 : ℕ) (s : State) (h : Kept q s) :
    KeptO q (execBind x1 s) := by
  unfold execBind
  try dsimp only
  repeat' with_reducible first | assumption | apply kept_parts | apply kept_parts_of | apply onCore_keeps | apply State.atInstr_keeps | apply State.doBind_keeps | apply keptO_next | apply keptO_onUnit | exact keptO_fault | simp only [kept_mk] | split | intro _ _ _ _ _ _ | intro _ _ _ _ | intro _ _ _ | intro _ _

theorem execTransferComplete_keeps {q : List Instr} (x1 : ℕ) (s : State) (h : Kept q s) :
    KeptO q (execTransferComplete x1 s) := by
  unfold execTransferComplete
  try dsimp only
  repeat' with_reducible first | assumption | apply kept_parts | apply kept_parts_of | apply onCore_keeps | apply State.completeOp_keeps | apply keptO_next | apply keptO_onUnit | exact keptO_fault | simp only [kept_mk] | split

theorem execRefereeRun_keeps {q : List Instr} (x1 : ℕ) (x2 : Sys2Proof.BitErrors) (x3 : Sys2Proof.Word) (s : State) (h : Kept q s) :
    KeptO q (execRefereeRun x1 x2 x3 s) := by
  unfold execRefereeRun
  try dsimp only
  repeat' with_reducible first | assumption | apply kept_parts | apply kept_parts_of | apply State.hit_keeps | apply onCore_keeps | apply State.unhit_keeps | apply State.runReferee_keeps | apply State.passPointer_keeps | apply keptO_next | apply keptO_onUnit | exact keptO_fault | simp only [kept_mk] | split

theorem execSignal_keeps {q : List Instr} (x1 : ℕ) (s : State) (h : Kept q s) :
    KeptO q (execSignal x1 s) := by
  unfold execSignal
  try dsimp only
  repeat' with_reducible first | assumption | apply kept_parts | apply kept_parts_of | apply onCore_keeps | apply State.atInstr_keeps | apply State.doSignal_keeps | apply keptO_next | apply keptO_onUnit | exact keptO_fault | simp only [kept_mk] | split | intro _ _ _ _ _ _ | intro _ _ _ _ | intro _ _ _ | intro _ _

theorem State.doWaitc_keeps {q : List Instr} (s : State) (x2 : ℕ) (x3 : Item) (x4 : Ins) (h : Kept q s) :
    Kept q (State.doWaitc s x2 x3 x4) := by
  unfold State.doWaitc
  try dsimp only
  repeat' with_reducible first | assumption | apply kept_parts | apply kept_parts_of | apply State.failItem_keeps | apply State.setItem_keeps | simp only [kept_mk] | split

theorem execParam_keeps {q : List Instr} (x1 : ℕ) (s : State) (h : Kept q s) :
    KeptO q (execParam x1 s) := by
  unfold execParam
  try dsimp only
  repeat' with_reducible first | assumption | apply kept_parts | apply kept_parts_of | apply onCore_keeps | apply State.atInstr_keeps | apply State.doParam_keeps | apply keptO_next | apply keptO_onUnit | exact keptO_fault | simp only [kept_mk] | split | intro _ _ _ _ _ _ | intro _ _ _ _ | intro _ _ _ | intro _ _

theorem State.waitSatisfied_keeps {q : List Instr} (s : State) (x2 : ℕ) (h : Kept q s) :
    Kept q (State.waitSatisfied s x2) := by
  unfold State.waitSatisfied
  try dsimp only
  repeat' with_reducible first | assumption | apply kept_parts | apply kept_parts_of | apply State.setItem_keeps | apply State.traceWait_keeps | apply State.branch_keeps | apply State.finishItem_keeps | simp only [kept_mk] | split

theorem execWorkItemStart_keeps {q : List Instr} (x1 : ℕ) (s : State) (h : Kept q s) :
    KeptO q (execWorkItemStart x1 s) := by
  unfold execWorkItemStart
  try dsimp only
  repeat' with_reducible first | assumption | apply kept_parts | apply kept_parts_of | apply onCore_keeps | apply State.startWork_keeps | apply keptO_next | apply keptO_onUnit | exact keptO_fault | simp only [kept_mk] | split

theorem State.waitcSatisfied_keeps {q : List Instr} (s : State) (x2 : ℕ) (h : Kept q s) :
    Kept q (State.waitcSatisfied s x2) := by
  unfold State.waitcSatisfied
  try dsimp only
  repeat' with_reducible first | assumption | apply kept_parts | apply kept_parts_of | apply State.setItem_keeps | apply State.traceWait_keeps | simp only [kept_mk] | split

theorem execWaitcSatisfied_keeps {q : List Instr} (x1 : ℕ) (s : State) (h : Kept q s) :
    KeptO q (execWaitcSatisfied x1 s) := by
  unfold execWaitcSatisfied
  try dsimp only
  repeat' with_reducible first | assumption | apply kept_parts | apply kept_parts_of | apply onCore_keeps | apply State.waitcSatisfied_keeps | apply keptO_next | apply keptO_onUnit | exact keptO_fault | simp only [kept_mk] | split

theorem execJump_keeps {q : List Instr} (x1 : ℕ) (s : State) (h : Kept q s) :
    KeptO q (execJump x1 s) := by
  unfold execJump
  try dsimp only
  repeat' with_reducible first | assumption | apply kept_parts | apply kept_parts_of | apply onCore_keeps | apply State.atInstr_keeps | apply State.doJump_keeps | apply keptO_next | apply keptO_onUnit | exact keptO_fault | simp only [kept_mk] | split | intro _ _ _ _ _ _ | intro _ _ _ _ | intro _ _ _ | intro _ _

theorem execCaptureEnd_keeps {q : List Instr} (x1 : ℕ) (s : State) (h : Kept q s) :
    KeptO q (execCaptureEnd x1 s) := by
  unfold execCaptureEnd
  try dsimp only
  repeat' with_reducible first | assumption | apply kept_parts | apply kept_parts_of | apply State.settle_keeps | apply State.captureEnd_keeps | apply keptO_next | apply keptO_onUnit | exact keptO_fault | simp only [kept_mk] | split

theorem execNop_keeps {q : List Instr} (x1 : ℕ) (s : State) (h : Kept q s) :
    KeptO q (execNop x1 s) := by
  unfold execNop
  try dsimp only
  repeat' with_reducible first | assumption | apply kept_parts | apply kept_parts_of | apply onCore_keeps | apply State.atInstr_keeps | apply State.setItem_keeps | apply keptO_next | apply keptO_onUnit | exact keptO_fault | simp only [kept_mk] | split | intro _ _ _ _ _ _ | intro _ _ _ _ | intro _ _ _ | intro _ _

theorem State.doPost_keeps {q : List Instr} (s : State) (x2 : ℕ) (x3 : Item) (x4 : Ins) (h : Kept q s) :
    Kept q (State.doPost s x2 x3 x4) := by
  unfold State.doPost
  try dsimp only
  repeat' with_reducible first | assumption | apply kept_parts | apply kept_parts_of | apply State.failItem_keeps | apply State.fetch_keeps | apply State.setItem_keeps | apply State.post_keeps | simp only [kept_mk] | split

theorem execPost_keeps {q : List Instr} (x1 : ℕ) (s : State) (h : Kept q s) :
    KeptO q (execPost x1 s) := by
  unfold execPost
  try dsimp only
  repeat' with_reducible first | assumption | apply kept_parts | apply kept_parts_of | apply onCore_keeps | apply State.atInstr_keeps | apply State.doPost_keeps | apply keptO_next | apply keptO_onUnit | exact keptO_fault | simp only [kept_mk] | split | intro _ _ _ _ _ _ | intro _ _ _ _ | intro _ _ _ | intro _ _

theorem execEnd_keeps {q : List Instr} (x1 : ℕ) (s : State) (h : Kept q s) :
    KeptO q (execEnd x1 s) := by
  unfold execEnd
  try dsimp only
  repeat' with_reducible first | assumption | apply kept_parts | apply kept_parts_of | apply onCore_keeps | apply State.atInstr_keeps | apply State.doEnd_keeps | apply keptO_next | apply keptO_onUnit | exact keptO_fault | simp only [kept_mk] | split | intro _ _ _ _ _ _ | intro _ _ _ _ | intro _ _ _ | intro _ _

theorem execWaitc_keeps {q : List Instr} (x1 : ℕ) (s : State) (h : Kept q s) :
    KeptO q (execWaitc x1 s) := by
  unfold execWaitc
  try dsimp only
  repeat' with_reducible first | assumption | apply kept_parts | apply kept_parts_of | apply onCore_keeps | apply State.atInstr_keeps | apply State.doWaitc_keeps | apply keptO_next | apply keptO_onUnit | exact keptO_fault | simp only [kept_mk] | split | intro _ _ _ _ _ _ | intro _ _ _ _ | intro _ _ _ | intro _ _

theorem execDuplicateRun_keeps {q : List Instr} (x1 : ℕ) (x2 : Sys2Proof.BitErrors) (x3 : Sys2Proof.Word) (s : State) (h : Kept q s) :
    KeptO q (execDuplicateRun x1 x2 x3 s) := by
  unfold execDuplicateRun
  try dsimp only
  repeat' with_reducible first | assumption | apply kept_parts | apply kept_parts_of | apply State.hit_keeps | apply onCore_keeps | apply State.unhit_keeps | apply State.runDuplicate_keeps | apply State.passPointer_keeps | apply keptO_next | apply keptO_onUnit | exact keptO_fault | simp only [kept_mk] | split

theorem execWaitSatisfied_keeps {q : List Instr} (x1 : ℕ) (s : State) (h : Kept q s) :
    KeptO q (execWaitSatisfied x1 s) := by
  unfold execWaitSatisfied
  try dsimp only
  repeat' with_reducible first | assumption | apply kept_parts | apply kept_parts_of | apply onCore_keeps | apply State.waitSatisfied_keeps | apply keptO_next | apply keptO_onUnit | exact keptO_fault | simp only [kept_mk] | split

/-! ### Machine/Compute.lean -/

theorem State.closeAcc_keeps {q : List Instr} (s : State) (x2 : ℕ) (h : Kept q s) :
    Kept q (State.closeAcc s x2) := by
  unfold State.closeAcc
  try dsimp only
  repeat' with_reducible first | assumption | apply kept_parts | apply kept_parts_of | apply State.setCore_keeps | simp only [kept_mk] | split

theorem State.readGranules_keeps {q : List Instr} (s : State) (x2 : ℕ) (x3 : List ℕ) (h : Kept q s) :
    Kept q (State.readGranules s x2 x3) := by
  unfold State.readGranules
  try dsimp only
  repeat' with_reducible first | assumption | apply kept_parts | apply kept_parts_of | apply State.withMem_keeps | apply State.accountBytes_keeps | apply State.checkGranule_keeps | apply kept_foldl | simp only [kept_mk] | split | intro _ _ _ _ _ _ | intro _ _ _ _ | intro _ _ _ | intro _ _

theorem State.enterPrint_keeps {q : List Instr} (s : State) (x2 : Option ℕ) (x3 : List Sys2Proof.Word) (h : Kept q s) :
    Kept q (State.enterPrint s x2 x3) := by
  unfold State.enterPrint
  try dsimp only
  repeat' with_reducible first | assumption | apply kept_parts | apply kept_parts_of | apply State.setUnit_keeps | simp only [kept_mk] | split | intro _ _ _ _ _ _ | intro _ _ _ _ | intro _ _ _ | intro _ _

theorem State.stageA_keeps {q : List Instr} (s : State) (x2 : ℕ) (x3 : Item) (x4 : Desc) (x5 : ℕ → Sys2Proof.Byte) (h : Kept q s) :
    Kept q (State.stageA s x2 x3 x4 x5) := by
  unfold State.stageA
  try dsimp only
  repeat' with_reducible first | assumption | apply kept_parts | apply kept_parts_of | apply State.store_keeps | simp only [kept_mk] | split | intro _ _ _ _ _ _ | intro _ _ _ _ | intro _ _ _ | intro _ _

theorem State.fetchBlock_keeps {q : List Instr} (s : State) (x2 : ℕ) (x3 : Item) (x4 : ℕ) (x5 : ℕ) (h : Kept q s) :
    Kept q (State.fetchBlock s x2 x3 x4 x5).2.2 := by
  unfold State.fetchBlock
  try dsimp only
  repeat' with_reducible first | assumption | apply kept_parts | apply kept_parts_of | apply State.fetch_keeps | apply State.replayPoison_keeps | simp only [kept_mk] | split | apply kept_of_third (by assumption)

theorem State.sampleUnit_keeps {q : List Instr} (s : State) (x2 : ℕ) (x3 : Item) (x4 : Bool) (x5 : Bool) (x6 : BitVec 32) (x7 : ℕ) (x8 : ℕ) (x9 : ℕ) (h : Kept q s) :
    Kept q (State.sampleUnit s x2 x3 x4 x5 x6 x7 x8 x9).2 := by
  unfold State.sampleUnit
  try dsimp only
  repeat' with_reducible first | assumption | apply kept_parts | apply kept_parts_of | apply State.openUnit_keeps | simp only [kept_mk] | split

theorem State.captureFor_keeps {q : List Instr} (s : State) (x2 : ℕ) (x3 : Option ℕ) (x4 : List Sys2Proof.Byte) (h : Kept q s) :
    Kept q (State.captureFor s x2 x3 x4) := by
  unfold State.captureFor
  try dsimp only
  repeat' with_reducible first | assumption | apply kept_parts | apply kept_parts_of | apply State.capture_keeps | simp only [kept_mk] | split

theorem State.runRow_keeps {q : List Instr} (s : State) (x2 : ℕ) (x3 : Item) (x4 : OpBlock) (x5 : List (ℕ × Sys2Proof.Byte)) (h : Kept q s) :
    Kept q (State.runRow s x2 x3 x4 x5).1 := by
  unfold State.runRow
  try dsimp only
  repeat' with_reducible first | assumption | apply kept_parts | apply kept_parts_of | apply State.sampleUnit_keeps | apply State.captureFor_keeps | apply State.enterPrint_keeps | simp only [kept_mk] | split | intro _ _ _ _ _ _ | intro _ _ _ _ | intro _ _ _ | intro _ _

theorem State.issueRow_keeps {q : List Instr} (s : State) (x2 : ℕ) (x3 : Item) (x4 : ℕ) (x5 : List (ℕ × Sys2Proof.Byte)) (h : Kept q s) :
    Kept q (State.issueRow s x2 x3 x4 x5).1 := by
  unfold State.issueRow
  try dsimp only
  repeat' with_reducible first | assumption | apply kept_parts | apply kept_parts_of | apply State.fetchBlock_keeps | apply State.readGranules_keeps | apply State.runRow_keeps | simp only [kept_mk] | split | apply kept_of_third (by assumption)

theorem State.doRow_keeps {q : List Instr} (s : State) (x2 : ℕ) (x3 : Item) (x4 : Ins) (x5 : List (ℕ × Sys2Proof.Byte)) (h : Kept q s) :
    Kept q (State.doRow s x2 x3 x4 x5) := by
  unfold State.doRow
  try dsimp only
  repeat' with_reducible first | assumption | apply kept_parts | apply kept_parts_of | apply State.issueRow_keeps | apply State.setItem_keeps | simp only [kept_mk] | split

theorem State.traceTile_keeps {q : List Instr} (s : State) (x2 : ℕ) (x3 : ℕ) (x4 : Desc) (h : Kept q s) :
    Kept q (State.traceTile s x2 x3 x4) := by
  unfold State.traceTile
  try dsimp only
  repeat' with_reducible first | assumption | apply kept_parts | apply kept_parts_of | apply State.trace_keeps | apply kept_foldl | simp only [kept_mk] | split | intro _ _ _ _ _ _ | intro _ _ _ _ | intro _ _ _ | intro _ _

theorem State.feedSlots_keeps {q : List Instr} (s : State) (x2 : ℕ) (x3 : Item) (x4 : Desc) (x5 : Desc) (x6 : ℕ → Sys2Proof.Byte) (x7 : List AccElem) (h : Kept q s) :
    Kept q (State.feedSlots s x2 x3 x4 x5 x6 x7) := by
  unfold State.feedSlots
  try dsimp only
  repeat' with_reducible first | assumption | apply kept_parts | apply kept_parts_of | apply State.setCluster_keeps | simp only [kept_mk] | split | intro _ _ _ _ _ _ | intro _ _ _ _ | intro _ _ _ | intro _ _

theorem State.keepForward_keeps {q : List Instr} (s : State) (x2 : Item) (x3 : Option ℕ) (x4 : Bool) (x5 : BitVec 6) (x6 : List (ℕ × Sys2Proof.Byte)) (h : Kept q s) :
    Kept q (State.keepForward s x2 x3 x4 x5 x6) := by
  unfold State.keepForward
  try dsimp only
  repeat' with_reducible first | assumption | apply kept_parts | apply kept_parts_of | apply State.noteForward_keeps | simp only [kept_mk] | split

theorem State.runTile_keeps {q : List Instr} (s : State) (x2 : ℕ) (x3 : Item) (x4 : ℕ) (x5 : Desc) (x6 : List (ℕ × Sys2Proof.Byte)) (h : Kept q s) :
    Kept q (State.runTile s x2 x3 x4 x5 x6).1 := by
  unfold State.runTile
  try dsimp only
  repeat' with_reducible first | assumption | apply kept_parts | apply kept_parts_of | apply State.sampleUnit_keeps | apply State.captureFor_keeps | apply State.stageA_keeps | apply State.traceTile_keeps | apply State.closeAcc_keeps | apply State.enterPrint_keeps | apply State.feedSlots_keeps | apply State.keepForward_keeps | apply State.setCore_keeps | simp only [kept_mk] | split | intro _ _ _ _ _ _ | intro _ _ _ _ | intro _ _ _ | intro _ _

theorem State.beforeTile_keeps {q : List Instr} (s : State) (x2 : Item) (x3 : ℕ) (h : Kept q s) :
    Kept q (State.beforeTile s x2 x3).1 := by
  unfold State.beforeTile
  try dsimp only
  repeat' with_reducible first | assumption | apply kept_parts | apply kept_parts_of | apply State.stashDecision_keeps | apply State.readySegment_keeps | simp only [kept_mk] | split

theorem State.checkAccumulator_keeps {q : List Instr} (s : State) (c : ℕ) (h : Kept q s) : Kept q (s.checkAccumulator c).1 := by
  refine kept_foldl_fst (fun t b ht => ?_) h
  have hu : ∀ m, Kept q ({ t.1 with mem := { t.1.mem with inflight := m } } : State) := fun m => kept_parts (s := t.1) ht
  dsimp only
  split
  · exact hu _
  · exact hu _
  · exact State.noteCorrected_keeps _ (hu _)
  · exact State.noteUncorrectable_keeps _ _ _ (hu _)

theorem State.issueTile_keeps {q : List Instr} (s : State) (x2 : ℕ) (x3 : Item) (x4 : ℕ) (x5 : ℕ) (x6 : List (ℕ × Sys2Proof.Byte)) (h : Kept q s) :
    Kept q (State.issueTile s x2 x3 x4 x5 x6).1 := by
  unfold State.issueTile
  try dsimp only
  repeat' with_reducible first | assumption | apply kept_parts | apply kept_parts_of | apply State.closeAcc_keeps | apply State.fetchBlock_keeps | apply State.readGranules_keeps | apply State.checkAccumulator_keeps | apply State.replayPoison_keeps | apply State.runTile_keeps | simp only [kept_mk] | split | apply kept_of_third (by assumption) | intro _ _ _ _ _ _ | intro _ _ _ _ | intro _ _ _ | intro _ _

theorem State.fetchTiles_keeps {q : List Instr} (c k : ℕ) (s : State) (it : Item) (h : Kept q s) :
    Kept q (State.fetchTiles c k s it).1 := by
  induction k generalizing s it with
  | zero => exact h
  | succ k ih =>
    rw [State.fetchTiles]
    try dsimp only
    repeat' with_reducible first | assumption | apply ih | apply State.issueTile_keeps | apply State.beforeTile_keeps | split

theorem State.doTile_keeps {q : List Instr} (s : State) (x2 : ℕ) (x3 : Item) (x4 : Ins) (x5 : List (ℕ × Sys2Proof.Byte)) (h : Kept q s) :
    Kept q (State.doTile s x2 x3 x4 x5) := by
  unfold State.doTile
  try dsimp only
  repeat' with_reducible first | assumption | apply kept_parts | apply kept_parts_of | apply State.fetchTiles_keeps | apply State.setItem_keeps | simp only [kept_mk] | split

theorem execTile_keeps {q : List Instr} (x1 : ℕ) (x2 : Sys2Proof.BitErrors) (x3 : List (ℕ × Sys2Proof.Byte)) (s : State) (h : Kept q s) :
    KeptO q (execTile x1 x2 x3 s) := by
  unfold execTile
  try dsimp only
  repeat' with_reducible first | assumption | apply kept_parts | apply kept_parts_of | apply onCore_keeps | apply State.unhit_keeps | apply State.atInstr_keeps | apply State.hit_keeps | apply State.doTile_keeps | apply keptO_next | apply keptO_onUnit | exact keptO_fault | simp only [kept_mk] | split | intro _ _ _ _ _ _ | intro _ _ _ _ | intro _ _ _ | intro _ _

theorem State.doClose_keeps {q : List Instr} (s : State) (x2 : ℕ) (x3 : Item) (x4 : Ins) (h : Kept q s) :
    Kept q (State.doClose s x2 x3 x4) := by
  unfold State.doClose
  try dsimp only
  repeat' with_reducible first | assumption | apply kept_parts | apply kept_parts_of | apply State.failItem_keeps | apply State.setCluster_keeps | apply State.store_keeps | apply State.setItem_keeps | apply State.keepForward_keeps | simp only [kept_mk] | split | intro _ _ _ _ _ _ | intro _ _ _ _ | intro _ _ _ | intro _ _

theorem execClose_keeps {q : List Instr} (x1 : ℕ) (s : State) (h : Kept q s) :
    KeptO q (execClose x1 s) := by
  unfold execClose
  try dsimp only
  repeat' with_reducible first | assumption | apply kept_parts | apply kept_parts_of | apply onCore_keeps | apply State.atInstr_keeps | apply State.doClose_keeps | apply keptO_next | apply keptO_onUnit | exact keptO_fault | simp only [kept_mk] | split | intro _ _ _ _ _ _ | intro _ _ _ _ | intro _ _ _ | intro _ _

theorem execRow_keeps {q : List Instr} (x1 : ℕ) (x2 : Sys2Proof.BitErrors) (x3 : List (ℕ × Sys2Proof.Byte)) (s : State) (h : Kept q s) :
    KeptO q (execRow x1 x2 x3 s) := by
  unfold execRow
  try dsimp only
  repeat' with_reducible first | assumption | apply kept_parts | apply kept_parts_of | apply onCore_keeps | apply State.unhit_keeps | apply State.atInstr_keeps | apply State.hit_keeps | apply State.doRow_keeps | apply keptO_next | apply keptO_onUnit | exact keptO_fault | simp only [kept_mk] | split | intro _ _ _ _ _ _ | intro _ _ _ _ | intro _ _ _ | intro _ _

theorem State.retireRerun_keeps {q : List Instr} (s : State) (x2 : ℕ) (h : Kept q s) :
    Kept q (State.retireRerun s x2) := by
  unfold State.retireRerun
  try dsimp only
  repeat' with_reducible first | assumption | apply kept_parts | apply kept_parts_of | apply State.setCore_keeps | apply State.setBits_keeps | simp only [kept_mk] | split | intro _ _ _ _ _ _ | intro _ _ _ _ | intro _ _ _ | intro _ _

theorem State.moreTiles_keeps {q : List Instr} (s : State) (x2 : ℕ) (h : Kept q s) :
    Kept q (State.moreTiles s x2) := by
  unfold State.moreTiles
  try dsimp only
  repeat' with_reducible first | assumption | apply kept_parts | apply kept_parts_of | apply State.fetchTiles_keeps | apply State.setItem_keeps | simp only [kept_mk] | split

theorem State.completeTile_keeps {q : List Instr} (s : State) (x2 : ℕ) (h : Kept q s) :
    Kept q (State.completeTile s x2) := by
  unfold State.completeTile
  try dsimp only
  repeat' with_reducible first | assumption | apply kept_parts | apply kept_parts_of | apply State.completeOp_keeps | apply State.retireRerun_keeps | apply State.moreTiles_keeps | apply kept_foldl | simp only [kept_mk] | split | intro _ _ _ _ _ _ | intro _ _ _ _ | intro _ _ _ | intro _ _

theorem execTileComplete_keeps {q : List Instr} (x1 : ℕ) (s : State) (h : Kept q s) :
    KeptO q (execTileComplete x1 s) := by
  unfold execTileComplete
  try dsimp only
  repeat' with_reducible first | assumption | apply kept_parts | apply kept_parts_of | apply onCore_keeps | apply State.completeTile_keeps | apply keptO_next | apply keptO_onUnit | exact keptO_fault | simp only [kept_mk] | split

/-! ### Machine/Transfers.lean -/

theorem State.doTransfer_keeps {q : List Instr} (s : State) (x2 : ℕ) (x3 : Item) (x4 : Ins) (f : State → OpBlock → State × Option Item) (h : Kept q s) (hf : ∀ t o, Kept q t → Kept q (f t o).1) :
    Kept q (State.doTransfer s x2 x3 x4 f) := by
  unfold State.doTransfer
  try dsimp only
  repeat' with_reducible first | assumption | apply kept_parts | apply kept_parts_of | apply State.setItem_keeps | apply State.fetchBlock_keeps | apply hf | simp only [kept_mk] | split | apply kept_of_third (by assumption) | apply kept_of_fst (by assumption) | apply kept_of_snd (by assumption) | intro _ _ _ _ _ _ | intro _ _ _ _ | intro _ _ _ | intro _ _

theorem State.reportBad_keeps {q : List Instr} (s : State) (x2 : Item) (x3 : Option ℕ) (h : Kept q s) :
    Kept q (State.reportBad s x2 x3) := by
  unfold State.reportBad
  try dsimp only
  repeat' with_reducible first | assumption | apply kept_parts | apply kept_parts_of | apply State.replayPoison_keeps | simp only [kept_mk] | split

theorem State.listOp_keeps {q : List Instr} (s : State) (x2 : ℕ) (x3 : Item) (x4 : OpBlock) (x5 : Option Bool) (h : Kept q s) :
    Kept q (State.listOp s x2 x3 x4 x5).1 := by
  unfold State.listOp
  try dsimp only
  repeat' with_reducible first | assumption | apply kept_parts | apply kept_parts_of | apply State.readGranules_keeps | apply State.reportBad_keeps | apply kept_foldl | simp only [kept_mk] | split | intro _ _ _ _ _ _ | intro _ _ _ _ | intro _ _ _ | intro _ _

theorem State.doScatter_keeps {q : List Instr} (s : State) (x2 : ℕ) (x3 : Item) (x4 : Ins) (h : Kept q s) :
    Kept q (State.doScatter s x2 x3 x4) := by
  unfold State.doScatter
  try dsimp only
  repeat' with_reducible first | assumption | apply kept_parts | apply kept_parts_of | apply State.failItem_keeps | apply State.doTransfer_keeps | apply State.listOp_keeps | simp only [kept_mk] | split | intro _ _ _ _ _ _ | intro _ _ _ _ | intro _ _ _ | intro _ _

theorem State.copyOp_keeps {q : List Instr} (s : State) (x2 : ℕ) (x3 : Item) (x4 : OpBlock) (h : Kept q s) :
    Kept q (State.copyOp s x2 x3 x4).1 := by
  unfold State.copyOp
  try dsimp only
  repeat' with_reducible first | assumption | apply kept_parts | apply kept_parts_of | apply State.readGranules_keeps | apply State.reportBad_keeps | simp only [kept_mk] | split | intro _ _ _ _ _ _ | intro _ _ _ _ | intro _ _ _ | intro _ _

theorem execGather_keeps {q : List Instr} (x1 : ℕ) (x2 : Sys2Proof.BitErrors) (s : State) (h : Kept q s) :
    KeptO q (execGather x1 x2 s) := by
  unfold execGather
  try dsimp only
  repeat' with_reducible first | assumption | apply kept_parts | apply kept_parts_of | apply onCore_keeps | apply State.unhit_keeps | apply State.atInstr_keeps | apply State.hit_keeps | apply State.doTransfer_keeps | apply State.listOp_keeps | apply keptO_next | apply keptO_onUnit | exact keptO_fault | simp only [kept_mk] | split | intro _ _ _ _ _ _ | intro _ _ _ _ | intro _ _ _ | intro _ _

theorem execCopy_keeps {q : List Instr} (x1 : ℕ) (x2 : Sys2Proof.BitErrors) (s : State) (h : Kept q s) :
    KeptO q (execCopy x1 x2 s) := by
  unfold execCopy
  try dsimp only
  repeat' with_reducible first | assumption | apply kept_parts | apply kept_parts_of | apply onCore_keeps | apply State.unhit_keeps | apply State.atInstr_keeps | apply State.hit_keeps | apply State.doTransfer_keeps | apply State.copyOp_keeps | apply keptO_next | apply keptO_onUnit | exact keptO_fault | simp only [kept_mk] | split | intro _ _ _ _ _ _ | intro _ _ _ _ | intro _ _ _ | intro _ _

theorem execScatter_keeps {q : List Instr} (x1 : ℕ) (x2 : Sys2Proof.BitErrors) (s : State) (h : Kept q s) :
    KeptO q (execScatter x1 x2 s) := by
  unfold execScatter
  try dsimp only
  repeat' with_reducible first | assumption | apply kept_parts | apply kept_parts_of | apply onCore_keeps | apply State.unhit_keeps | apply State.atInstr_keeps | apply State.hit_keeps | apply State.doScatter_keeps | apply keptO_next | apply keptO_onUnit | exact keptO_fault | simp only [kept_mk] | split | intro _ _ _ _ _ _ | intro _ _ _ _ | intro _ _ _ | intro _ _

end Sys2Proof.Machine
end

