-- ==== Sys2Proof/Laws/KeepsPorts.lean ====
section
/-! SUPPORT. What every operation keeps (Kept: the canonical tables and memory, and the queue): the cells, the lanes and the Ethernet side. -/

set_option linter.unusedTactic false
set_option linter.unreachableTactic false
set_option linter.unusedSimpArgs false

namespace Sys2Proof.Machine

/-! ### Machine/Cells.lean -/

theorem onPort_keeps {q : List Instr} (x1 : ℕ) (s : State) (h : Kept q s) :
    KeptO q (onPort x1 s) := by
  unfold onPort
  try dsimp only
  repeat' with_reducible first | assumption | apply kept_parts | apply kept_parts_of | apply onUnit_keeps | apply State.settle_keeps | apply keptO_next | apply keptO_onUnit | exact keptO_fault | simp only [kept_mk] | split

theorem State.checkCell_keeps {q : List Instr} (s : State) (x2 : List Sys2Proof.Byte) (h : Kept q s) :
    Kept q (State.checkCell s x2) := by
  unfold State.checkCell
  try dsimp only
  repeat' with_reducible first | assumption | apply kept_parts | apply kept_parts_of | apply State.noteCorrected_keeps | apply State.noteUncorrectable_keeps | apply kept_foldl | simp only [kept_mk] | split | intro _ _ _ _ _ _ | intro _ _ _ _ | intro _ _ _ | intro _ _

theorem State.takeDark_keeps {q : List Instr} (s : State) (x2 : ℕ) (x3 : List Sys2Proof.Byte) (h : Kept q s) :
    Kept q (State.takeDark s x2 x3) := by
  unfold State.takeDark
  try dsimp only
  repeat' with_reducible first | assumption | apply kept_parts | apply kept_parts_of | apply State.reroute_keeps | apply State.setPort_keeps | simp only [kept_mk] | split

theorem State.takeCredits_keeps {q : List Instr} (s : State) (x2 : ℕ) (x3 : List Sys2Proof.Byte) (h : Kept q s) :
    Kept q (State.takeCredits s x2 x3) := by
  unfold State.takeCredits
  try dsimp only
  repeat' with_reducible first | assumption | apply kept_parts | apply kept_parts_of | apply State.flushPort_keeps | apply State.setPort_keeps | simp only [kept_mk] | split | intro _ _ _ _ _ _ | intro _ _ _ _ | intro _ _ _ | intro _ _

theorem State.ringGoesOn_keeps {q : List Instr} (s : State) (x2 : ℕ) (h : Kept q s) :
    Kept q (State.ringGoesOn s x2) := by
  unfold State.ringGoesOn
  try dsimp only
  repeat' with_reducible first | assumption | apply kept_parts | apply kept_parts_of | apply State.runColl_keeps | simp only [kept_mk] | split

theorem State.afterRx_keeps {q : List Instr} (s : State) (x2 : ℕ) (x3 : Option StreamRx) (h : Kept q s) :
    Kept q (State.afterRx s x2 x3) := by
  unfold State.afterRx
  try dsimp only
  repeat' with_reducible first | assumption | apply kept_parts | apply kept_parts_of | apply State.twinStreamFailed_keeps | apply State.takeDigest_keeps | apply State.takeTransferRecord_keeps | simp only [kept_mk] | split

theorem State.arriveOpen_keeps {q : List Instr} (s : State) (x2 : Cell) (h : Kept q s) :
    Kept q (State.arriveOpen s x2) := by
  unfold State.arriveOpen
  try dsimp only
  repeat' with_reducible first | assumption | apply kept_parts | apply kept_parts_of | apply State.failTransfer_keeps | apply State.streamDiscard_keeps | apply State.ringGoesOn_keeps | apply State.afterRx_keeps | apply State.takeOpen_keeps | simp only [kept_mk] | split

theorem State.arriveData_keeps {q : List Instr} (s : State) (x2 : ℕ) (x3 : Cell) (h : Kept q s) :
    Kept q (State.arriveData s x2 x3) := by
  unfold State.arriveData
  try dsimp only
  repeat' with_reducible first | assumption | apply kept_parts | apply kept_parts_of | apply State.ringGoesOn_keeps | apply State.afterRx_keeps | apply State.takeData_keeps | apply State.streamDiscard_keeps | simp only [kept_mk] | split

theorem State.arriveAck_keeps {q : List Instr} (s : State) (x2 : Cell) (h : Kept q s) :
    Kept q (State.arriveAck s x2) := by
  unfold State.arriveAck
  try dsimp only
  repeat' with_reducible first | assumption | apply kept_parts | apply kept_parts_of | apply State.txEnds_keeps | apply State.pump_keeps | apply State.setTx_keeps | simp only [kept_mk] | split

theorem State.eject_keeps {q : List Instr} (s : State) (x2 : ℕ) (x3 : Cell) (h : Kept q s) :
    Kept q (State.eject s x2 x3) := by
  unfold State.eject
  try dsimp only
  repeat' with_reducible first | assumption | apply kept_parts | apply kept_parts_of | apply State.arriveOpen_keeps | apply State.arriveData_keeps | apply State.arriveAck_keeps | apply State.takeVerdict_keeps | apply State.takeOutcome_keeps | simp only [kept_mk] | split

theorem State.routed_keeps {q : List Instr} (s : State) (x2 : ℕ) (x3 : List Sys2Proof.Byte) (h : Kept q s) :
    Kept q (State.routed s x2 x3) := by
  unfold State.routed
  try dsimp only
  repeat' with_reducible first | assumption | apply kept_parts | apply kept_parts_of | apply State.discard_keeps | apply State.oweCredit_keeps | apply State.eject_keeps | apply State.forward_keeps | simp only [kept_mk] | split

theorem State.ingress_keeps {q : List Instr} (s : State) (x2 : ℕ) (x3 : List Sys2Proof.Byte) (x4 : Bool) (x5 : Bool) (h : Kept q s) :
    Kept q (State.ingress s x2 x3 x4 x5) := by
  unfold State.ingress
  try dsimp only
  repeat' with_reducible first | assumption | apply kept_parts | apply kept_parts_of | apply State.discard_keeps | apply State.checkCell_keeps | apply State.takeTime_keeps | apply State.takeDark_keeps | apply State.takeCredits_keeps | apply State.routed_keeps | simp only [kept_mk] | split

theorem State.arriveCell_keeps {q : List Instr} (s : State) (x2 : ℕ) (x3 : List Sys2Proof.Byte) (x4 : ℕ) (h : Kept q s) :
    Kept q (State.arriveCell s x2 x3 x4) := by
  unfold State.arriveCell
  try dsimp only
  repeat' with_reducible first | assumption | apply kept_parts | apply kept_parts_of | apply State.ingress_keeps | apply State.count_keeps | simp only [kept_mk] | split

theorem execAck_keeps {q : List Instr} (x1 : ℕ) (x2 : List Sys2Proof.Byte) (s : State) (h : Kept q s) :
    KeptO q (execAck x1 x2 s) := by
  unfold execAck
  try dsimp only
  repeat' with_reducible first | assumption | apply kept_parts | apply kept_parts_of | apply onPort_keeps | apply State.arriveCell_keeps | apply keptO_next | apply keptO_onUnit | exact keptO_fault | simp only [kept_mk] | split

theorem State.takeOut_keeps {q : List Instr} (s : State) (x2 : ℕ) (x3 : QueuedCell) (h : Kept q s) :
    Kept q (State.takeOut s x2 x3) := by
  unfold State.takeOut
  try dsimp only
  repeat' with_reducible first | assumption | apply kept_parts | apply kept_parts_of | apply State.setEgress_keeps | apply State.setBridge_keeps | apply State.setWaiting_keeps | simp only [kept_mk] | split

theorem execCellEscape_keeps {q : List Instr} (x1 : ℕ) (x2 : ℕ) (s : State) (h : Kept q s) :
    KeptO q (execCellEscape x1 x2 s) := by
  unfold execCellEscape
  try dsimp only
  repeat' with_reducible first | assumption | apply kept_parts | apply kept_parts_of | apply State.takeOut_keeps | apply State.withRouter_keeps | apply State.enqueue_keeps | apply onUnit_keeps | apply State.settle_keeps | apply keptO_next | apply keptO_onUnit | exact keptO_fault | simp only [kept_mk] | split

theorem execStreamDescriptorStart_keeps {q : List Instr} (x1 : ℕ) (s : State) (h : Kept q s) :
    KeptO q (execStreamDescriptorStart x1 s) := by
  unfold execStreamDescriptorStart
  try dsimp only
  repeat' with_reducible first | assumption | apply kept_parts | apply kept_parts_of | apply State.checkRange_keeps | apply State.replayPoison_keeps | apply onUnit_keeps | apply State.settle_keeps | apply State.streamDescriptorStart_keeps | apply keptO_next | apply keptO_onUnit | exact keptO_fault | simp only [kept_mk] | split

theorem execStreamRetryTimeout_keeps {q : List Instr} (x1 : ℕ) (s : State) (h : Kept q s) :
    KeptO q (execStreamRetryTimeout x1 s) := by
  unfold execStreamRetryTimeout
  try dsimp only
  repeat' with_reducible first | assumption | apply kept_parts | apply kept_parts_of | apply State.txEnds_keeps | apply State.retryTx_keeps | apply onUnit_keeps | apply State.settle_keeps | apply keptO_next | apply keptO_onUnit | exact keptO_fault | simp only [kept_mk] | split

theorem execLinkDark_keeps {q : List Instr} (x1 : ℕ) (x2 : List Sys2Proof.Byte) (s : State) (h : Kept q s) :
    KeptO q (execLinkDark x1 x2 s) := by
  unfold execLinkDark
  try dsimp only
  repeat' with_reducible first | assumption | apply kept_parts | apply kept_parts_of | apply onPort_keeps | apply State.arriveCell_keeps | apply keptO_next | apply keptO_onUnit | exact keptO_fault | simp only [kept_mk] | split

theorem execStreamReceiveTimeout_keeps {q : List Instr} (x1 : ℕ) (s : State) (h : Kept q s) :
    KeptO q (execStreamReceiveTimeout x1 s) := by
  unfold execStreamReceiveTimeout
  try dsimp only
  repeat' with_reducible first | assumption | apply kept_parts | apply kept_parts_of | apply State.rxFails_keeps | apply onUnit_keeps | apply State.settle_keeps | apply keptO_next | apply keptO_onUnit | exact keptO_fault | simp only [kept_mk] | split

theorem execVerdict_keeps {q : List Instr} (x1 : ℕ) (x2 : List Sys2Proof.Byte) (s : State) (h : Kept q s) :
    KeptO q (execVerdict x1 x2 s) := by
  unfold execVerdict
  try dsimp only
  repeat' with_reducible first | assumption | apply kept_parts | apply kept_parts_of | apply onPort_keeps | apply State.arriveCell_keeps | apply keptO_next | apply keptO_onUnit | exact keptO_fault | simp only [kept_mk] | split

theorem execData_keeps {q : List Instr} (x1 : ℕ) (x2 : List Sys2Proof.Byte) (s : State) (h : Kept q s) :
    KeptO q (execData x1 x2 s) := by
  unfold execData
  try dsimp only
  repeat' with_reducible first | assumption | apply kept_parts | apply kept_parts_of | apply onPort_keeps | apply State.arriveCell_keeps | apply keptO_next | apply keptO_onUnit | exact keptO_fault | simp only [kept_mk] | split

theorem execCellStallDiscard_keeps {q : List Instr} (x1 : ℕ) (x2 : ℕ) (s : State) (h : Kept q s) :
    KeptO q (execCellStallDiscard x1 x2 s) := by
  unfold execCellStallDiscard
  try dsimp only
  repeat' with_reducible first | assumption | apply kept_parts | apply kept_parts_of | apply State.unroutable_keeps | apply State.takeOut_keeps | apply onUnit_keeps | apply State.settle_keeps | apply keptO_next | apply keptO_onUnit | exact keptO_fault | simp only [kept_mk] | split

theorem execBridgePackTimeout_keeps {q : List Instr} (x1 : ℕ) (s : State) (h : Kept q s) :
    KeptO q (execBridgePackTimeout x1 s) := by
  unfold execBridgePackTimeout
  try dsimp only
  repeat' with_reducible first | assumption | apply kept_parts | apply kept_parts_of | apply onUnit_keeps | apply State.settle_keeps | apply State.withRouter_keeps | apply State.flushBridge_keeps | apply keptO_next | apply keptO_onUnit | exact keptO_fault | simp only [kept_mk] | split

theorem execTime_keeps {q : List Instr} (x1 : ℕ) (x2 : List Sys2Proof.Byte) (s : State) (h : Kept q s) :
    KeptO q (execTime x1 x2 s) := by
  unfold execTime
  try dsimp only
  repeat' with_reducible first | assumption | apply kept_parts | apply kept_parts_of | apply onPort_keeps | apply State.arriveCell_keeps | apply keptO_next | apply keptO_onUnit | exact keptO_fault | simp only [kept_mk] | split

theorem execCredit_keeps {q : List Instr} (x1 : ℕ) (x2 : List Sys2Proof.Byte) (s : State) (h : Kept q s) :
    KeptO q (execCredit x1 x2 s) := by
  unfold execCredit
  try dsimp only
  repeat' with_reducible first | assumption | apply kept_parts | apply kept_parts_of | apply onPort_keeps | apply State.arriveCell_keeps | apply keptO_next | apply keptO_onUnit | exact keptO_fault | simp only [kept_mk] | split

theorem execOpen_keeps {q : List Instr} (x1 : ℕ) (x2 : List Sys2Proof.Byte) (s : State) (h : Kept q s) :
    KeptO q (execOpen x1 x2 s) := by
  unfold execOpen
  try dsimp only
  repeat' with_reducible first | assumption | apply kept_parts | apply kept_parts_of | apply onPort_keeps | apply State.arriveCell_keeps | apply keptO_next | apply keptO_onUnit | exact keptO_fault | simp only [kept_mk] | split

theorem execSeal_keeps {q : List Instr} (x1 : ℕ) (x2 : List Sys2Proof.Byte) (s : State) (h : Kept q s) :
    KeptO q (execSeal x1 x2 s) := by
  unfold execSeal
  try dsimp only
  repeat' with_reducible first | assumption | apply kept_parts | apply kept_parts_of | apply onPort_keeps | apply State.arriveCell_keeps | apply keptO_next | apply keptO_onUnit | exact keptO_fault | simp only [kept_mk] | split

theorem execCreditReturn_keeps {q : List Instr} (x1 : ℕ) (s : State) (h : Kept q s) :
    KeptO q (execCreditReturn x1 s) := by
  unfold execCreditReturn
  try dsimp only
  repeat' with_reducible first | assumption | apply kept_parts | apply kept_parts_of | apply State.setPort_keeps | apply State.putCell_keeps | apply onPort_keeps | apply keptO_next | apply keptO_onUnit | exact keptO_fault | simp only [kept_mk] | split | intro _ _ _ _ _ _ | intro _ _ _ _ | intro _ _ _ | intro _ _

theorem execRecall_keeps {q : List Instr} (x1 : ℕ) (x2 : List Sys2Proof.Byte) (s : State) (h : Kept q s) :
    KeptO q (execRecall x1 x2 s) := by
  unfold execRecall
  try dsimp only
  repeat' with_reducible first | assumption | apply kept_parts | apply kept_parts_of | apply onPort_keeps | apply State.arriveCell_keeps | apply keptO_next | apply keptO_onUnit | exact keptO_fault | simp only [kept_mk] | split

theorem execThrottleRecovery_keeps {q : List Instr} (s : State) (h : Kept q s) :
    KeptO q (execThrottleRecovery s) := by
  unfold execThrottleRecovery
  try dsimp only
  repeat' with_reducible first | assumption | apply kept_parts | apply kept_parts_of | apply State.setPort_keeps | apply kept_foldl | apply keptO_next | apply keptO_onUnit | exact keptO_fault | simp only [kept_mk] | split | intro _ _ _ _ _ _ | intro _ _ _ _ | intro _ _ _ | intro _ _

/-! ### Machine/Lanes.lean -/

theorem State.portTo_keeps {q : List Instr} (s : State) (x2 : ℕ) (x3 : PortState) (h : Kept q s) :
    Kept q (State.portTo s x2 x3) := by
  unfold State.portTo
  try dsimp only
  repeat' with_reducible first | assumption | apply kept_parts | apply kept_parts_of | apply State.trace_keeps | apply State.setPort_keeps | apply State.sourceLost_keeps | apply State.reroute_keeps | simp only [kept_mk] | split

theorem State.portPeer_keeps {q : List Instr} (s : State) (x2 : ℕ) (h : Kept q s) :
    Kept q (State.portPeer s x2) := by
  unfold State.portPeer
  try dsimp only
  repeat' with_reducible first | assumption | apply kept_parts | apply kept_parts_of | apply State.emit_keeps | simp only [kept_mk] | split

theorem State.admitTest_keeps {q : List Instr} (s : State) (x2 : ℕ) (x3 : Bool) (h : Kept q s) :
    Kept q (State.admitTest s x2 x3) := by
  unfold State.admitTest
  try dsimp only
  repeat' with_reducible first | assumption | apply kept_parts | apply kept_parts_of | apply State.setPort_keeps | apply State.portTo_keeps | apply State.portPeer_keeps | simp only [kept_mk] | split

theorem State.sendMarker_keeps {q : List Instr} (s : State) (x2 : ℕ) (x3 : ℕ) (x4 : ℕ) (h : Kept q s) :
    Kept q (State.sendMarker s x2 x3 x4) := by
  unfold State.sendMarker
  try dsimp only
  repeat' with_reducible first | assumption | apply kept_parts | apply kept_parts_of | apply State.trace_keeps | simp only [kept_mk] | split

theorem State.answerMarker_keeps {q : List Instr} (s : State) (x2 : ℕ) (x3 : ℕ) (x4 : ℕ) (h : Kept q s) :
    Kept q (State.answerMarker s x2 x3 x4) := by
  unfold State.answerMarker
  try dsimp only
  repeat' with_reducible first | assumption | apply kept_parts | apply kept_parts_of | apply State.sendMarker_keeps | apply State.setPort_keeps | simp only [kept_mk] | split

theorem State.takeTrain_keeps {q : List Instr} (s : State) (x2 : ℕ) (x3 : ℕ) (x4 : TensorPort) (h : Kept q s) :
    Kept q (State.takeTrain s x2 x3 x4) := by
  unfold State.takeTrain
  try dsimp only
  repeat' with_reducible first | assumption | apply kept_parts | apply kept_parts_of | apply State.answerMarker_keeps | apply State.setPort_keeps | simp only [kept_mk] | split

theorem State.compared_keeps {q : List Instr} (s : State) (x2 : ℕ) (x3 : Bool) (h : Kept q s) :
    Kept q (State.compared s x2 x3) := by
  unfold State.compared
  try dsimp only
  repeat' with_reducible first | assumption | apply kept_parts | apply kept_parts_of | apply State.answerMarker_keeps | apply State.setPort_keeps | simp only [kept_mk] | split

theorem State.startMirror_keeps {q : List Instr} (s : State) (x2 : ℕ) (x3 : ℕ) (x4 : ℕ) (x5 : Bool) (h : Kept q s) :
    Kept q (State.startMirror s x2 x3 x4 x5) := by
  unfold State.startMirror
  try dsimp only
  repeat' with_reducible first | assumption | apply kept_parts | apply kept_parts_of | apply State.sendMarker_keeps | apply State.setPort_keeps | simp only [kept_mk] | split

theorem State.rotateLane_keeps {q : List Instr} (s : State) (x2 : ℕ) (h : Kept q s) :
    Kept q (State.rotateLane s x2) := by
  unfold State.rotateLane
  try dsimp only
  repeat' with_reducible first | assumption | apply kept_parts | apply kept_parts_of | apply State.startMirror_keeps | apply State.setPort_keeps | simp only [kept_mk] | split

theorem State.restripe_keeps {q : List Instr} (s : State) (x2 : ℕ) (x3 : ℕ) (x4 : ℕ) (h : Kept q s) :
    Kept q (State.restripe s x2 x3 x4) := by
  unfold State.restripe
  try dsimp only
  repeat' with_reducible first | assumption | apply kept_parts | apply kept_parts_of | apply State.sendMarker_keeps | apply State.setPort_keeps | simp only [kept_mk] | split

theorem State.takeLaneFail_keeps {q : List Instr} (s : State) (x2 : ℕ) (x3 : ℕ) (x4 : TensorPort) (h : Kept q s) :
    Kept q (State.takeLaneFail s x2 x3 x4) := by
  unfold State.takeLaneFail
  try dsimp only
  repeat' with_reducible first | assumption | apply kept_parts | apply kept_parts_of | apply State.fault_keeps | apply State.setPort_keeps | apply State.startMirror_keeps | apply State.portTo_keeps | apply State.restripe_keeps | simp only [kept_mk] | split

theorem State.sendSlot_keeps {q : List Instr} (s : State) (x2 : ℕ) (h : Kept q s) :
    Kept q (State.sendSlot s x2) := by
  unfold State.sendSlot
  try dsimp only
  repeat' with_reducible first | assumption | apply kept_parts | apply kept_parts_of | apply State.send_keeps | apply State.setPort_keeps | simp only [kept_mk] | split

theorem State.takeWord_keeps {q : List Instr} (s : State) (x2 : ℕ) (x3 : Sys2Proof.Word) (h : Kept q s) :
    Kept q (State.takeWord s x2 x3) := by
  unfold State.takeWord
  try dsimp only
  repeat' with_reducible first | assumption | apply kept_parts | apply kept_parts_of | apply State.reroute_keeps | apply State.admitTest_keeps | apply State.setPort_keeps | simp only [kept_mk] | split

theorem execDiscoveryWord_keeps {q : List Instr} (x1 : ℕ) (x2 : List (List Sys2Proof.Byte)) (s : State) (h : Kept q s) :
    KeptO q (execDiscoveryWord x1 x2 s) := by
  unfold execDiscoveryWord
  try dsimp only
  repeat' with_reducible first | assumption | apply kept_parts | apply kept_parts_of | apply onPort_keeps | apply State.takeWord_keeps | apply State.setPort_keeps | apply keptO_next | apply keptO_onUnit | exact keptO_fault | simp only [kept_mk] | split

theorem State.gotMarker_keeps {q : List Instr} (s : State) (x2 : ℕ) (x3 : ℕ) (x4 : ℕ) (h : Kept q s) :
    Kept q (State.gotMarker s x2 x3 x4) := by
  unfold State.gotMarker
  try dsimp only
  repeat' with_reducible first | assumption | apply kept_parts | apply kept_parts_of | apply State.trace_keeps | simp only [kept_mk] | split

theorem State.onMarker_keeps {q : List Instr} (s : State) (x2 : ℕ) (x3 : ℕ) (x4 : List (List Sys2Proof.Byte)) (f : State → TensorPort → ℕ → State) (h : Kept q s) (hf : ∀ t i j, Kept q t → Kept q (f t i j)) :
    Kept q (State.onMarker s x2 x3 x4 f) := by
  unfold State.onMarker
  try dsimp only
  repeat' with_reducible first | assumption | apply kept_parts | apply kept_parts_of | apply State.gotMarker_keeps | apply hf | simp only [kept_mk] | split | intro _ _ _ _ _ _ | intro _ _ _ _ | intro _ _ _ | intro _ _

theorem State.takeTrainPass_keeps {q : List Instr} (s : State) (x2 : ℕ) (x3 : ℕ) (x4 : TensorPort) (h : Kept q s) :
    Kept q (State.takeTrainPass s x2 x3 x4) := by
  unfold State.takeTrainPass
  try dsimp only
  repeat' with_reducible first | assumption | apply kept_parts | apply kept_parts_of | apply State.sendMarker_keeps | apply State.setPort_keeps | simp only [kept_mk] | split | intro _ _ _ _ _ _ | intro _ _ _ _ | intro _ _ _ | intro _ _

theorem execTrainPass_keeps {q : List Instr} (x1 : ℕ) (x2 : List (List Sys2Proof.Byte)) (s : State) (h : Kept q s) :
    KeptO q (execTrainPass x1 x2 s) := by
  unfold execTrainPass
  try dsimp only
  repeat' with_reducible first | assumption | apply kept_parts | apply kept_parts_of | apply onPort_keeps | apply State.onMarker_keeps | apply State.takeTrainPass_keeps | apply keptO_next | apply keptO_onUnit | exact keptO_fault | simp only [kept_mk] | split | intro _ _ _ _ _ _ | intro _ _ _ _ | intro _ _ _ | intro _ _

theorem execPortLock_keeps {q : List Instr} (x1 : ℕ) (x2 : BitVec 5) (x3 : BitVec 5) (s : State) (h : Kept q s) :
    KeptO q (execPortLock x1 x2 x3 s) := by
  unfold execPortLock
  try dsimp only
  repeat' with_reducible first | assumption | apply kept_parts | apply kept_parts_of | apply State.portTo_keeps | apply State.setPort_keeps | apply onPort_keeps | apply keptO_next | apply keptO_onUnit | exact keptO_fault | simp only [kept_mk] | split

theorem execLossOfSignal_keeps {q : List Instr} (x1 : ℕ) (s : State) (h : Kept q s) :
    KeptO q (execLossOfSignal x1 s) := by
  unfold execLossOfSignal
  try dsimp only
  repeat' with_reducible first | assumption | apply kept_parts | apply kept_parts_of | apply State.setPort_keeps | apply State.portTo_keeps | apply State.fault_keeps | apply onPort_keeps | apply keptO_next | apply keptO_onUnit | exact keptO_fault | simp only [kept_mk] | split

theorem execSteerAckTimeout_keeps {q : List Instr} (x1 : ℕ) (s : State) (h : Kept q s) :
    KeptO q (execSteerAckTimeout x1 s) := by
  unfold execSteerAckTimeout
  try dsimp only
  repeat' with_reducible first | assumption | apply kept_parts | apply kept_parts_of | apply State.setPort_keeps | apply onPort_keeps | apply keptO_next | apply keptO_onUnit | exact keptO_fault | simp only [kept_mk] | split

theorem execMirrorCompareEnd_keeps {q : List Instr} (x1 : ℕ) (x2 : Bool) (s : State) (h : Kept q s) :
    KeptO q (execMirrorCompareEnd x1 x2 s) := by
  unfold execMirrorCompareEnd
  try dsimp only
  repeat' with_reducible first | assumption | apply kept_parts | apply kept_parts_of | apply onPort_keeps | apply State.compared_keeps | apply keptO_next | apply keptO_onUnit | exact keptO_fault | simp only [kept_mk] | split

theorem State.loseLane_keeps {q : List Instr} (s : State) (x2 : ℕ) (x3 : ℕ) (h : Kept q s) :
    Kept q (State.loseLane s x2 x3) := by
  unfold State.loseLane
  try dsimp only
  repeat' with_reducible first | assumption | apply kept_parts | apply kept_parts_of | apply State.fault_keeps | apply State.answerMarker_keeps | apply State.setPort_keeps | apply State.sendMarker_keeps | apply State.portTo_keeps | simp only [kept_mk] | split

theorem execMarkerLockLoss_keeps {q : List Instr} (x1 : ℕ) (x2 : ℕ) (s : State) (h : Kept q s) :
    KeptO q (execMarkerLockLoss x1 x2 s) := by
  unfold execMarkerLockLoss
  try dsimp only
  repeat' with_reducible first | assumption | apply kept_parts | apply kept_parts_of | apply onPort_keeps | apply State.loseLane_keeps | apply keptO_next | apply keptO_onUnit | exact keptO_fault | simp only [kept_mk] | split

theorem State.takeSteerAck_keeps {q : List Instr} (s : State) (x2 : ℕ) (x3 : ℕ) (x4 : TensorPort) (h : Kept q s) :
    Kept q (State.takeSteerAck s x2 x3 x4) := by
  unfold State.takeSteerAck
  try dsimp only
  repeat' with_reducible first | assumption | apply kept_parts | apply kept_parts_of | apply State.setPort_keeps | apply State.sendMarker_keeps | simp only [kept_mk] | split

theorem execRestripe3_keeps {q : List Instr} (x1 : ℕ) (x2 : List (List Sys2Proof.Byte)) (s : State) (h : Kept q s) :
    KeptO q (execRestripe3 x1 x2 s) := by
  unfold execRestripe3
  try dsimp only
  repeat' with_reducible first | assumption | apply kept_parts | apply kept_parts_of | apply onPort_keeps | apply State.onMarker_keeps | apply State.setPort_keeps | apply keptO_next | apply keptO_onUnit | exact keptO_fault | simp only [kept_mk] | split | intro _ _ _ _ _ _ | intro _ _ _ _ | intro _ _ _ | intro _ _

theorem execLaneFail_keeps {q : List Instr} (x1 : ℕ) (x2 : List (List Sys2Proof.Byte)) (s : State) (h : Kept q s) :
    KeptO q (execLaneFail x1 x2 s) := by
  unfold execLaneFail
  try dsimp only
  repeat' with_reducible first | assumption | apply kept_parts | apply kept_parts_of | apply onPort_keeps | apply State.onMarker_keeps | apply State.takeLaneFail_keeps | apply keptO_next | apply keptO_onUnit | exact keptO_fault | simp only [kept_mk] | split | intro _ _ _ _ _ _ | intro _ _ _ _ | intro _ _ _ | intro _ _

theorem State.takeTrainFail_keeps {q : List Instr} (s : State) (x2 : ℕ) (x3 : ℕ) (x4 : TensorPort) (h : Kept q s) :
    Kept q (State.takeTrainFail s x2 x3 x4) := by
  unfold State.takeTrainFail
  try dsimp only
  repeat' with_reducible first | assumption | apply kept_parts | apply kept_parts_of | apply State.setPort_keeps | simp only [kept_mk] | split

theorem State.bringUp_keeps {q : List Instr} (s : State) (x2 : ℕ) (h : Kept q s) :
    Kept q (State.bringUp s x2) := by
  unfold State.bringUp
  try dsimp only
  repeat' with_reducible first | assumption | apply kept_parts | apply kept_parts_of | apply State.portTo_keeps | simp only [kept_mk] | split

theorem execTrainFail_keeps {q : List Instr} (x1 : ℕ) (x2 : List (List Sys2Proof.Byte)) (s : State) (h : Kept q s) :
    KeptO q (execTrainFail x1 x2 s) := by
  unfold execTrainFail
  try dsimp only
  repeat' with_reducible first | assumption | apply kept_parts | apply kept_parts_of | apply onPort_keeps | apply State.onMarker_keeps | apply State.takeTrainFail_keeps | apply keptO_next | apply keptO_onUnit | exact keptO_fault | simp only [kept_mk] | split | intro _ _ _ _ _ _ | intro _ _ _ _ | intro _ _ _ | intro _ _

theorem State.takeSteerNak_keeps {q : List Instr} (s : State) (x2 : ℕ) (x3 : ℕ) (x4 : TensorPort) (h : Kept q s) :
    Kept q (State.takeSteerNak s x2 x3 x4) := by
  unfold State.takeSteerNak
  try dsimp only
  repeat' with_reducible first | assumption | apply kept_parts | apply kept_parts_of | apply State.sendMarker_keeps | apply State.setPort_keeps | simp only [kept_mk] | split

theorem execRestripe4_keeps {q : List Instr} (x1 : ℕ) (x2 : List (List Sys2Proof.Byte)) (s : State) (h : Kept q s) :
    KeptO q (execRestripe4 x1 x2 s) := by
  unfold execRestripe4
  try dsimp only
  repeat' with_reducible first | assumption | apply kept_parts | apply kept_parts_of | apply onPort_keeps | apply State.onMarker_keeps | apply State.setPort_keeps | apply keptO_next | apply keptO_onUnit | exact keptO_fault | simp only [kept_mk] | split | intro _ _ _ _ _ _ | intro _ _ _ _ | intro _ _ _ | intro _ _

theorem execBringUpAttempt_keeps {q : List Instr} (x1 : ℕ) (s : State) (h : Kept q s) :
    KeptO q (execBringUpAttempt x1 s) := by
  unfold execBringUpAttempt
  try dsimp only
  repeat' with_reducible first | assumption | apply kept_parts | apply kept_parts_of | apply onPort_keeps | apply State.bringUp_keeps | apply keptO_next | apply keptO_onUnit | exact keptO_fault | simp only [kept_mk] | split

theorem State.trained_keeps {q : List Instr} (s : State) (x2 : ℕ) (x3 : Bool) (x4 : Sys2Proof.Word) (h : Kept q s) :
    Kept q (State.trained s x2 x3 x4) := by
  unfold State.trained
  try dsimp only
  repeat' with_reducible first | assumption | apply kept_parts | apply kept_parts_of | apply State.answerMarker_keeps | apply State.setPort_keeps | simp only [kept_mk] | split

theorem execSignalDetect_keeps {q : List Instr} (x1 : ℕ) (x2 : ℕ) (s : State) (h : Kept q s) :
    KeptO q (execSignalDetect x1 x2 s) := by
  unfold execSignalDetect
  try dsimp only
  repeat' with_reducible first | assumption | apply kept_parts | apply kept_parts_of | apply State.bringUp_keeps | apply State.setPort_keeps | apply onPort_keeps | apply keptO_next | apply keptO_onUnit | exact keptO_fault | simp only [kept_mk] | split

theorem execTrain_keeps {q : List Instr} (x1 : ℕ) (x2 : List (List Sys2Proof.Byte)) (s : State) (h : Kept q s) :
    KeptO q (execTrain x1 x2 s) := by
  unfold execTrain
  try dsimp only
  repeat' with_reducible first | assumption | apply kept_parts | apply kept_parts_of | apply onPort_keeps | apply State.onMarker_keeps | apply State.takeTrain_keeps | apply keptO_next | apply keptO_onUnit | exact keptO_fault | simp only [kept_mk] | split | intro _ _ _ _ _ _ | intro _ _ _ _ | intro _ _ _ | intro _ _

theorem State.sendMarkers_keeps {q : List Instr} (s : State) (h : Kept q s) :
    Kept q (State.sendMarkers s) := by
  unfold State.sendMarkers
  try dsimp only
  repeat' with_reducible first | assumption | apply kept_parts | apply kept_parts_of | apply State.sendSlot_keeps | apply kept_foldl | simp only [kept_mk] | split | intro _ _ _ _ _ _ | intro _ _ _ _ | intro _ _ _ | intro _ _

theorem execSteerAck_keeps {q : List Instr} (x1 : ℕ) (x2 : List (List Sys2Proof.Byte)) (s : State) (h : Kept q s) :
    KeptO q (execSteerAck x1 x2 s) := by
  unfold execSteerAck
  try dsimp only
  repeat' with_reducible first | assumption | apply kept_parts | apply kept_parts_of | apply onPort_keeps | apply State.onMarker_keeps | apply State.takeSteerAck_keeps | apply keptO_next | apply keptO_onUnit | exact keptO_fault | simp only [kept_mk] | split | intro _ _ _ _ _ _ | intro _ _ _ _ | intro _ _ _ | intro _ _

theorem State.takeCodeword_keeps {q : List Instr} (s : State) (x2 : ℕ) (x3 : List ℕ) (x4 : Bool) (x5 : ℕ) (h : Kept q s) :
    Kept q (State.takeCodeword s x2 x3 x4 x5) := by
  unfold State.takeCodeword
  try dsimp only
  repeat' with_reducible first | assumption | apply kept_parts | apply kept_parts_of | apply State.count_keeps | apply State.setPort_keeps | apply State.loseLane_keeps | apply kept_foldl | simp only [kept_mk] | split | intro _ _ _ _ _ _ | intro _ _ _ _ | intro _ _ _ | intro _ _

theorem execCodeword_keeps {q : List Instr} (x1 : ℕ) (x2 : List ℕ) (x3 : Bool) (x4 : Bool) (x5 : ℕ) (s : State) (h : Kept q s) :
    KeptO q (execCodeword x1 x2 x3 x4 x5 s) := by
  unfold execCodeword
  try dsimp only
  repeat' with_reducible first | assumption | apply kept_parts | apply kept_parts_of | apply State.takeCodeword_keeps | apply State.portTo_keeps | apply onPort_keeps | apply keptO_next | apply keptO_onUnit | exact keptO_fault | simp only [kept_mk] | split

theorem execTrainingTimeout_keeps {q : List Instr} (x1 : ℕ) (s : State) (h : Kept q s) :
    KeptO q (execTrainingTimeout x1 s) := by
  unfold execTrainingTimeout
  try dsimp only
  repeat' with_reducible first | assumption | apply kept_parts | apply kept_parts_of | apply onPort_keeps | apply State.portTo_keeps | apply keptO_next | apply keptO_onUnit | exact keptO_fault | simp only [kept_mk] | split

theorem State.takeMirror_keeps {q : List Instr} (s : State) (x2 : ℕ) (x3 : ℕ) (x4 : TensorPort) (h : Kept q s) :
    Kept q (State.takeMirror s x2 x3 x4) := by
  unfold State.takeMirror
  try dsimp only
  repeat' with_reducible first | assumption | apply kept_parts | apply kept_parts_of | apply State.answerMarker_keeps | apply State.setPort_keeps | simp only [kept_mk] | split

theorem execMirror_keeps {q : List Instr} (x1 : ℕ) (x2 : List (List Sys2Proof.Byte)) (s : State) (h : Kept q s) :
    KeptO q (execMirror x1 x2 s) := by
  unfold execMirror
  try dsimp only
  repeat' with_reducible first | assumption | apply kept_parts | apply kept_parts_of | apply onPort_keeps | apply State.onMarker_keeps | apply State.takeMirror_keeps | apply keptO_next | apply keptO_onUnit | exact keptO_fault | simp only [kept_mk] | split | intro _ _ _ _ _ _ | intro _ _ _ _ | intro _ _ _ | intro _ _

theorem State.retrainPort_keeps {q : List Instr} (s : State) (x2 : ℕ) (h : Kept q s) :
    Kept q (State.retrainPort s x2) := by
  unfold State.retrainPort
  try dsimp only
  repeat' with_reducible first | assumption | apply kept_parts | apply kept_parts_of | apply State.bringUp_keeps | apply State.portTo_keeps | simp only [kept_mk] | split

theorem execLaneTrainingEnd_keeps {q : List Instr} (x1 : ℕ) (x2 : Bool) (x3 : Sys2Proof.Word) (s : State) (h : Kept q s) :
    KeptO q (execLaneTrainingEnd x1 x2 x3 s) := by
  unfold execLaneTrainingEnd
  try dsimp only
  repeat' with_reducible first | assumption | apply kept_parts | apply kept_parts_of | apply onPort_keeps | apply State.trained_keeps | apply keptO_next | apply keptO_onUnit | exact keptO_fault | simp only [kept_mk] | split

theorem execJigRotation_keeps {q : List Instr} (x1 : ℕ) (s : State) (h : Kept q s) :
    KeptO q (execJigRotation x1 s) := by
  unfold execJigRotation
  try dsimp only
  repeat' with_reducible first | assumption | apply kept_parts | apply kept_parts_of | apply onPort_keeps | apply State.rotateLane_keeps | apply keptO_next | apply keptO_onUnit | exact keptO_fault | simp only [kept_mk] | split

theorem execSteerNak_keeps {q : List Instr} (x1 : ℕ) (x2 : List (List Sys2Proof.Byte)) (s : State) (h : Kept q s) :
    KeptO q (execSteerNak x1 x2 s) := by
  unfold execSteerNak
  try dsimp only
  repeat' with_reducible first | assumption | apply kept_parts | apply kept_parts_of | apply onPort_keeps | apply State.onMarker_keeps | apply State.takeSteerNak_keeps | apply keptO_next | apply keptO_onUnit | exact keptO_fault | simp only [kept_mk] | split | intro _ _ _ _ _ _ | intro _ _ _ _ | intro _ _ _ | intro _ _

/-! ### Machine/Ethernet.lean -/

theorem execEthernetLinkChange_keeps {q : List Instr} (x1 : ℕ) (x2 : Bool) (s : State) (h : Kept q s) :
    KeptO q (execEthernetLinkChange x1 x2 s) := by
  unfold execEthernetLinkChange
  try dsimp only
  repeat' with_reducible first | assumption | apply kept_parts | apply kept_parts_of | apply State.trace_keeps | apply State.setEth_keeps | apply State.ptpLost_keeps | apply State.releaseHeld_keeps | apply State.reroute_keeps | apply onUnit_keeps | apply State.settle_keeps | apply keptO_next | apply keptO_onUnit | exact keptO_fault | simp only [kept_mk] | split

theorem State.rdmaAck_keeps {q : List Instr} (s : State) (x2 : ℕ) (x3 : ℕ) (h : Kept q s) :
    Kept q (State.rdmaAck s x2 x3) := by
  unfold State.rdmaAck
  try dsimp only
  repeat' with_reducible first | assumption | apply kept_parts | apply kept_parts_of | apply State.rdmaAnswer_keeps | simp only [kept_mk] | split

theorem State.bridgeCells_keeps {q : List Instr} (s : State) (x2 : ℕ) (x3 : List Sys2Proof.Byte) (h : Kept q s) :
    Kept q (State.bridgeCells s x2 x3) := by
  unfold State.bridgeCells
  try dsimp only
  repeat' with_reducible first | assumption | apply kept_parts | apply kept_parts_of | apply State.ingress_keeps | apply kept_foldl | simp only [kept_mk] | split | intro _ _ _ _ _ _ | intro _ _ _ _ | intro _ _ _ | intro _ _

theorem State.takeSend_keeps {q : List Instr} (s : State) (x2 : ℕ) (x3 : ℕ) (x4 : List Sys2Proof.Byte) (h : Kept q s) :
    Kept q (State.takeSend s x2 x3 x4) := by
  unfold State.takeSend
  try dsimp only
  repeat' with_reducible first | assumption | apply kept_parts | apply kept_parts_of | apply State.bridgeCells_keeps | simp only [kept_mk] | split

theorem State.takeRequest_keeps {q : List Instr} (s : State) (x2 : ℕ) (x3 : ℕ) (x4 : QueuePair) (x5 : Sys2Proof.RdmaKind) (h : Kept q s) :
    Kept q (State.takeRequest s x2 x3 x4 x5) := by
  unfold State.takeRequest
  try dsimp only
  repeat' with_reducible first | assumption | apply kept_parts | apply kept_parts_of | apply State.rdmaAnswer_keeps | apply State.rdmaAck_keeps | apply State.takeSend_keeps | apply State.setQp_keeps | apply State.store_keeps | apply State.answerReads_keeps | simp only [kept_mk] | split

theorem State.requestPacket_keeps {q : List Instr} (s : State) (x2 : ℕ) (x3 : ℕ) (x4 : QueuePair) (x5 : BitVec 24) (x6 : Sys2Proof.RdmaKind) (h : Kept q s) :
    Kept q (State.requestPacket s x2 x3 x4 x5 x6) := by
  unfold State.requestPacket
  try dsimp only
  repeat' with_reducible first | assumption | apply kept_parts | apply kept_parts_of | apply State.takeRequest_keeps | apply State.rdmaAck_keeps | apply State.setQp_keeps | apply State.store_keeps | apply State.rdmaAnswer_keeps | apply State.answerReads_keeps | simp only [kept_mk] | split | intro _ _ _ _ _ _ | intro _ _ _ _ | intro _ _ _ | intro _ _

theorem State.rdmaArrives_keeps {q : List Instr} (s : State) (x2 : ℕ) (x3 : Sys2Proof.RdmaPacket) (h : Kept q s) :
    Kept q (State.rdmaArrives s x2 x3) := by
  unfold State.rdmaArrives
  try dsimp only
  repeat' with_reducible first | assumption | apply kept_parts | apply kept_parts_of | apply State.setQp_keeps | apply State.count_keeps | apply State.send_keeps | apply State.rdmaResend_keeps | apply State.requestPacket_keeps | apply kept_foldl | simp only [kept_mk] | split | intro _ _ _ _ _ _ | intro _ _ _ _ | intro _ _ _ | intro _ _

theorem execRdmaPacket_keeps {q : List Instr} (x1 : ℕ) (x2 : Sys2Proof.RdmaPacket) (s : State) (h : Kept q s) :
    KeptO q (execRdmaPacket x1 x2 s) := by
  unfold execRdmaPacket
  try dsimp only
  repeat' with_reducible first | assumption | apply kept_parts | apply kept_parts_of | apply State.count_keeps | apply State.setEth_keeps | apply State.rdmaArrives_keeps | apply onUnit_keeps | apply State.settle_keeps | apply keptO_next | apply keptO_onUnit | exact keptO_fault | simp only [kept_mk] | split

theorem execRdmaRetransmitTimeout_keeps {q : List Instr} (x1 : ℕ) (x2 : ℕ) (s : State) (h : Kept q s) :
    KeptO q (execRdmaRetransmitTimeout x1 x2 s) := by
  unfold execRdmaRetransmitTimeout
  try dsimp only
  repeat' with_reducible first | assumption | apply kept_parts | apply kept_parts_of | apply State.reroute_keeps | apply State.qpError_keeps | apply State.rdmaResend_keeps | apply State.setQp_keeps | apply onUnit_keeps | apply State.settle_keeps | apply keptO_next | apply keptO_onUnit | exact keptO_fault | simp only [kept_mk] | split

theorem execPriorityFlowControl_keeps {q : List Instr} (x1 : ℕ) (x2 : ℕ) (x3 : Bool) (s : State) (h : Kept q s) :
    KeptO q (execPriorityFlowControl x1 x2 x3 s) := by
  unfold execPriorityFlowControl
  try dsimp only
  repeat' with_reducible first | assumption | apply kept_parts | apply kept_parts_of | apply onUnit_keeps | apply State.settle_keeps | apply State.count_keeps | apply State.setEth_keeps | apply keptO_next | apply keptO_onUnit | exact keptO_fault | simp only [kept_mk] | split

theorem execRateRecovery_keeps {q : List Instr} (x1 : ℕ) (x2 : ℕ) (s : State) (h : Kept q s) :
    KeptO q (execRateRecovery x1 x2 s) := by
  unfold execRateRecovery
  try dsimp only
  repeat' with_reducible first | assumption | apply kept_parts | apply kept_parts_of | apply onUnit_keeps | apply State.setQp_keeps | apply keptO_next | apply keptO_onUnit | exact keptO_fault | simp only [kept_mk] | split

theorem execCongestionNotification_keeps {q : List Instr} (x1 : ℕ) (x2 : ℕ) (s : State) (h : Kept q s) :
    KeptO q (execCongestionNotification x1 x2 s) := by
  unfold execCongestionNotification
  try dsimp only
  repeat' with_reducible first | assumption | apply kept_parts | apply kept_parts_of | apply onUnit_keeps | apply State.count_keeps | apply State.setQp_keeps | apply keptO_next | apply keptO_onUnit | exact keptO_fault | simp only [kept_mk] | split

end Sys2Proof.Machine
end

