-- ==== Sys2Proof/Laws/KeepsControl.lean ====
section
/-! SUPPORT. What every operation keeps (Kept: the canonical tables and memory, and the queue): the observing rows, the table, the jobs, the stores and the images. -/

set_option linter.unusedTactic false
set_option linter.unreachableTactic false
set_option linter.unusedSimpArgs false

namespace Sys2Proof.Machine

/-! ### Machine/Observe.lean -/

theorem doTelemetryRead_keeps {q : List Instr} (x1 : OpenCmd) (s : State) (h : Kept q s) :
    KeptR q (doTelemetryRead x1 s) := by
  unfold doTelemetryRead
  try dsimp only
  repeat' with_reducible first | assumption | apply kept_parts | apply kept_parts_of | apply done_keeps | simp only [keptR_mk, id_eq] | apply And.intro | simp only [kept_mk] | split | intro _ _ _ _ _ _ | intro _ _ _ _ | intro _ _ _ | intro _ _

theorem execTelemetryRead_keeps {q : List Instr} (s : State) (h : Kept q s) :
    KeptO q (execTelemetryRead s) := by
  unfold execTelemetryRead
  try dsimp only
  repeat' with_reducible first | assumption | apply kept_parts | apply kept_parts_of | apply State.run_keeps | apply doTelemetryRead_keeps | apply keptO_next | apply keptO_onUnit | exact keptO_fault | simp only [kept_mk] | split

theorem doTraceCtrl_keeps {q : List Instr} (x1 : OpenCmd) (s : State) (h : Kept q s) :
    KeptR q (doTraceCtrl x1 s) := by
  unfold doTraceCtrl
  try dsimp only
  repeat' with_reducible first | assumption | apply kept_parts | apply kept_parts_of | apply refuse_keeps | apply done_keeps | apply kept_foldl | simp only [keptR_mk, id_eq] | apply And.intro | simp only [kept_mk] | split | intro _ _ _ _ _ _ | intro _ _ _ _ | intro _ _ _ | intro _ _

theorem State.traceCtrl_keeps {q : List Instr} (s : State) (x2 : ℕ) (h : Kept q s) :
    Kept q (State.traceCtrl s x2) := by
  unfold State.traceCtrl
  try dsimp only
  repeat' with_reducible first | assumption | apply kept_parts | apply kept_parts_of | apply State.runFront_keeps | apply doTraceCtrl_keeps | simp only [kept_mk] | split | intro _ _ _ _ _ _ | intro _ _ _ _ | intro _ _ _ | intro _ _

theorem execTraceFreeze_keeps {q : List Instr} (s : State) (h : Kept q s) :
    KeptO q (execTraceFreeze s) := by
  unfold execTraceFreeze
  try dsimp only
  repeat' with_reducible first | assumption | apply kept_parts | apply kept_parts_of | apply State.traceCtrl_keeps | apply keptO_next | apply keptO_onUnit | exact keptO_fault | simp only [kept_mk] | split

theorem doPwrStatus_keeps {q : List Instr} (x1 : OpenCmd) (s : State) (h : Kept q s) :
    KeptR q (doPwrStatus x1 s) := by
  unfold doPwrStatus
  try dsimp only
  repeat' with_reducible first | assumption | apply kept_parts | apply kept_parts_of | apply done_keeps | simp only [keptR_mk, id_eq] | apply And.intro | simp only [kept_mk] | split | intro _ _ _ _ _ _ | intro _ _ _ _ | intro _ _ _ | intro _ _

theorem execPwrStatus_keeps {q : List Instr} (s : State) (h : Kept q s) :
    KeptO q (execPwrStatus s) := by
  unfold execPwrStatus
  try dsimp only
  repeat' with_reducible first | assumption | apply kept_parts | apply kept_parts_of | apply State.run_keeps | apply doPwrStatus_keeps | apply keptO_next | apply keptO_onUnit | exact keptO_fault | simp only [kept_mk] | split

theorem doTraceRead_keeps {q : List Instr} (x1 : OpenCmd) (s : State) (h : Kept q s) :
    KeptR q (doTraceRead x1 s) := by
  unfold doTraceRead
  try dsimp only
  repeat' with_reducible first | assumption | apply kept_parts | apply kept_parts_of | apply refuse_keeps | apply done_keeps | simp only [keptR_mk, id_eq] | apply And.intro | simp only [kept_mk] | split | intro _ _ _ _ _ _ | intro _ _ _ _ | intro _ _ _ | intro _ _

theorem execTraceRead_keeps {q : List Instr} (s : State) (h : Kept q s) :
    KeptO q (execTraceRead s) := by
  unfold execTraceRead
  try dsimp only
  repeat' with_reducible first | assumption | apply kept_parts | apply kept_parts_of | apply State.run_keeps | apply doTraceRead_keeps | apply keptO_next | apply keptO_onUnit | exact keptO_fault | simp only [kept_mk] | split

theorem doPwrCap_keeps {q : List Instr} (x1 : OpenCmd) (s : State) (h : Kept q s) :
    KeptR q (doPwrCap x1 s) := by
  unfold doPwrCap
  try dsimp only
  repeat' with_reducible first | assumption | apply kept_parts | apply kept_parts_of | apply refuse_keeps | apply done_keeps | apply State.setReg_keeps | simp only [keptR_mk, id_eq] | apply And.intro | simp only [kept_mk] | split | intro _ _ _ _ _ _ | intro _ _ _ _ | intro _ _ _ | intro _ _

theorem execPwrCap_keeps {q : List Instr} (s : State) (h : Kept q s) :
    KeptO q (execPwrCap s) := by
  unfold execPwrCap
  try dsimp only
  repeat' with_reducible first | assumption | apply kept_parts | apply kept_parts_of | apply State.run_keeps | apply doPwrCap_keeps | apply keptO_next | apply keptO_onUnit | exact keptO_fault | simp only [kept_mk] | split

theorem execTraceClear_keeps {q : List Instr} (s : State) (h : Kept q s) :
    KeptO q (execTraceClear s) := by
  unfold execTraceClear
  try dsimp only
  repeat' with_reducible first | assumption | apply kept_parts | apply kept_parts_of | apply State.traceCtrl_keeps | apply keptO_next | apply keptO_onUnit | exact keptO_fault | simp only [kept_mk] | split

theorem doSnapshotRead_keeps {q : List Instr} (x1 : OpenCmd) (s : State) (h : Kept q s) :
    KeptR q (doSnapshotRead x1 s) := by
  unfold doSnapshotRead
  try dsimp only
  repeat' with_reducible first | assumption | apply kept_parts | apply kept_parts_of | apply refuse_keeps | apply done_keeps | simp only [keptR_mk, id_eq] | apply And.intro | simp only [kept_mk] | split | intro _ _ _ _ _ _ | intro _ _ _ _ | intro _ _ _ | intro _ _

theorem execSnapshotRead_keeps {q : List Instr} (s : State) (h : Kept q s) :
    KeptO q (execSnapshotRead s) := by
  unfold execSnapshotRead
  try dsimp only
  repeat' with_reducible first | assumption | apply kept_parts | apply kept_parts_of | apply State.run_keeps | apply doSnapshotRead_keeps | apply keptO_next | apply keptO_onUnit | exact keptO_fault | simp only [kept_mk] | split

theorem execTraceOn_keeps {q : List Instr} (s : State) (h : Kept q s) :
    KeptO q (execTraceOn s) := by
  unfold execTraceOn
  try dsimp only
  repeat' with_reducible first | assumption | apply kept_parts | apply kept_parts_of | apply State.traceCtrl_keeps | apply keptO_next | apply keptO_onUnit | exact keptO_fault | simp only [kept_mk] | split

theorem State.snapshotComplete_keeps {q : List Instr} (s : State) (x2 : BitVec 32) (h : Kept q s) :
    Kept q (State.snapshotComplete s x2) := by
  unfold State.snapshotComplete
  try dsimp only
  repeat' with_reducible first | assumption | apply kept_parts | apply kept_parts_of | apply State.closeCmd_keeps | apply State.finish_keeps | apply kept_foldl | simp only [kept_mk] | split | intro _ _ _ _ _ _ | intro _ _ _ _ | intro _ _ _ | intro _ _

theorem execSnapshotComplete_keeps {q : List Instr} (x1 : BitVec 32) (s : State) (h : Kept q s) :
    KeptO q (execSnapshotComplete x1 s) := by
  unfold execSnapshotComplete
  try dsimp only
  repeat' with_reducible first | assumption | apply kept_parts | apply kept_parts_of | apply State.snapshotComplete_keeps | apply keptO_next | apply keptO_onUnit | exact keptO_fault | simp only [kept_mk] | split

theorem State.latch_keeps {q : List Instr} (s : State) (x2 : BitVec 32) (h : Kept q s) :
    Kept q (State.latch s x2) := by
  unfold State.latch
  try dsimp only
  repeat' with_reducible first | assumption | apply kept_parts | apply kept_parts_of | simp only [kept_mk] | split

theorem doSnapshotNow_keeps {q : List Instr} (x1 : OpenCmd) (s : State) (h : Kept q s) :
    KeptR q (doSnapshotNow x1 s) := by
  unfold doSnapshotNow
  try dsimp only
  repeat' with_reducible first | assumption | apply kept_parts | apply kept_parts_of | apply done_keeps | apply State.latch_keeps | simp only [keptR_mk, id_eq] | apply And.intro | simp only [kept_mk] | split | intro _ _ _ _ _ _ | intro _ _ _ _ | intro _ _ _ | intro _ _

theorem execSnapshotNow_keeps {q : List Instr} (s : State) (h : Kept q s) :
    KeptO q (execSnapshotNow s) := by
  unfold execSnapshotNow
  try dsimp only
  repeat' with_reducible first | assumption | apply kept_parts | apply kept_parts_of | apply State.run_keeps | apply doSnapshotNow_keeps | apply keptO_next | apply keptO_onUnit | exact keptO_fault | simp only [kept_mk] | split

theorem execTraceOff_keeps {q : List Instr} (s : State) (h : Kept q s) :
    KeptO q (execTraceOff s) := by
  unfold execTraceOff
  try dsimp only
  repeat' with_reducible first | assumption | apply kept_parts | apply kept_parts_of | apply State.runFront_keeps | apply doTraceCtrl_keeps | apply keptO_next | apply keptO_onUnit | exact keptO_fault | simp only [kept_mk] | split | intro _ _ _ _ _ _ | intro _ _ _ _ | intro _ _ _ | intro _ _

/-! ### Machine/Table.lean -/

theorem State.openBy_keeps {q : List Instr} (s : State) (x2 : ℕ) (x3 : TTSlot) (x4 : ℕ) (h : Kept q s) :
    Kept q (State.openBy s x2 x3 x4) := by
  unfold State.openBy
  try dsimp only
  repeat' with_reducible first | assumption | apply kept_parts | apply kept_parts_of | apply State.openLoad_keeps | apply State.setSlot_keeps | simp only [kept_mk] | split

theorem State.loadOpens_keeps {q : List Instr} (s : State) (x2 : ℕ) (h : Kept q s) :
    Kept q (State.loadOpens s x2) := by
  unfold State.loadOpens
  try dsimp only
  repeat' with_reducible first | assumption | apply kept_parts | apply kept_parts_of | apply State.openBy_keeps | simp only [kept_mk] | split

theorem State.fired_keeps {q : List Instr} (s : State) (x2 : ℕ) (x3 : TTSlot) (h : Kept q s) :
    Kept q (State.fired s x2 x3) := by
  unfold State.fired
  try dsimp only
  repeat' with_reducible first | assumption | apply kept_parts | apply kept_parts_of | apply State.trace_keeps | simp only [kept_mk] | split

theorem State.clockFalls_keeps {q : List Instr} (x1 : ℕ) (s : State) (x3 : TTSlot) (x4 : ℕ) (x5 : ℕ) (h : Kept q s) :
    Kept q (State.clockFalls x1 s x3 x4 x5) := by
  unfold State.clockFalls
  try dsimp only
  repeat' with_reducible first | assumption | apply kept_parts | apply kept_parts_of | apply State.ttMiss_keeps | apply State.fired_keeps | simp only [kept_mk] | split

theorem doTtRead_keeps {q : List Instr} (x1 : OpenCmd) (s : State) (h : Kept q s) :
    KeptR q (doTtRead x1 s) := by
  unfold doTtRead
  try dsimp only
  repeat' with_reducible first | assumption | apply kept_parts | apply kept_parts_of | apply refuse_keeps | apply done_keeps | simp only [keptR_mk, id_eq] | apply And.intro | simp only [kept_mk] | split | intro _ _ _ _ _ _ | intro _ _ _ _ | intro _ _ _ | intro _ _

theorem State.dropEntries_keeps {q : List Instr} (x1 : ℕ) (x2 : ℕ) (x3 : ℕ) (s : State) (h : Kept q s) :
    Kept q (State.dropEntries x1 x2 x3 s) := by
  induction x3 generalizing s with
  | zero => exact h
  | succ k ih =>
    rw [State.dropEntries]
    try dsimp only
    repeat' with_reducible first | apply ih | assumption | apply kept_parts | apply kept_parts_of | apply State.itemRecord_keeps | apply State.wringTake_keeps | simp only [kept_mk] | split

theorem State.closeEval_keeps {q : List Instr} (s : State) (h : Kept q s) :
    Kept q (State.closeEval s) := by
  unfold State.closeEval
  try dsimp only
  repeat' with_reducible first | assumption | apply kept_parts | apply kept_parts_of | apply State.setCore_keeps | apply State.dropEntries_keeps | apply kept_foldl | simp only [kept_mk] | split | intro _ _ _ _ _ _ | intro _ _ _ _ | intro _ _ _ | intro _ _

theorem execLoadOpen_keeps {q : List Instr} (x1 : ℕ) (s : State) (h : Kept q s) :
    KeptO q (execLoadOpen x1 s) := by
  unfold execLoadOpen
  try dsimp only
  repeat' with_reducible first | assumption | apply kept_parts | apply kept_parts_of | apply State.settle_keeps | apply State.loadOpens_keeps | apply keptO_next | apply keptO_onUnit | exact keptO_fault | simp only [kept_mk] | split

theorem State.openWindow_keeps {q : List Instr} (s : State) (x2 : Sys2Proof.CalKind) (x3 : ℕ) (x4 : ℕ) (x5 : Bool) (h : Kept q s) :
    Kept q (State.openWindow s x2 x3 x4 x5) := by
  unfold State.openWindow
  try dsimp only
  repeat' with_reducible first | assumption | apply kept_parts | apply kept_parts_of | simp only [kept_mk] | split

theorem State.forceWindow_keeps {q : List Instr} (s : State) (x2 : Sys2Proof.CalKind) (x3 : ℕ) (x4 : ℕ) (h : Kept q s) :
    Kept q (State.forceWindow s x2 x3 x4) := by
  unfold State.forceWindow
  try dsimp only
  repeat' with_reducible first | assumption | apply kept_parts | apply kept_parts_of | apply State.openWindow_keeps | apply State.setBits_keeps | simp only [kept_mk] | split

theorem execForcedWindow_keeps {q : List Instr} (x1 : Sys2Proof.CalKind) (x2 : ℕ) (x3 : ℕ) (s : State) (h : Kept q s) :
    KeptO q (execForcedWindow x1 x2 x3 s) := by
  unfold execForcedWindow
  try dsimp only
  repeat' with_reducible first | assumption | apply kept_parts | apply kept_parts_of | apply State.forceWindow_keeps | apply keptO_next | apply keptO_onUnit | exact keptO_fault | simp only [kept_mk] | split

theorem State.openEval_keeps {q : List Instr} (s : State) (x2 : ℕ) (x3 : TTSlot) (x4 : ℕ) (h : Kept q s) :
    Kept q (State.openEval s x2 x3 x4) := by
  unfold State.openEval
  try dsimp only
  repeat' with_reducible first | assumption | apply kept_parts | apply kept_parts_of | apply State.setSlot_keeps | apply State.tracePhase_keeps | apply State.ttMiss_keeps | simp only [kept_mk] | split

theorem State.evalFalls_keeps {q : List Instr} (x1 : ℕ) (s : State) (x3 : TTSlot) (x4 : ℕ) (x5 : ℕ) (h : Kept q s) :
    Kept q (State.evalFalls x1 s x3 x4 x5) := by
  unfold State.evalFalls
  try dsimp only
  repeat' with_reducible first | assumption | apply kept_parts | apply kept_parts_of | apply State.ttMiss_keeps | apply State.openEval_keeps | apply State.fired_keeps | apply State.setSlot_keeps | simp only [kept_mk] | split

theorem refuseAt_keeps {q : List Instr} (s : State) (x2 : Status) (x3 : ℕ) (h : Kept q s) :
    KeptR q (refuseAt s x2 x3) := by
  unfold refuseAt
  try dsimp only
  repeat' with_reducible first | assumption | apply kept_parts | apply kept_parts_of | apply refuseWith_keeps | simp only [keptR_mk, id_eq] | apply And.intro | simp only [kept_mk] | split | intro _ _ _ _ _ _ | intro _ _ _ _ | intro _ _ _ | intro _ _

theorem doTtWrite_keeps {q : List Instr} (x1 : OpenCmd) (s : State) (h : Kept q s) :
    KeptR q (doTtWrite x1 s) := by
  unfold doTtWrite
  try dsimp only
  repeat' with_reducible first | assumption | apply kept_parts | apply kept_parts_of | apply refuseWith_keeps | apply refuseAt_keeps | apply done_keeps | apply State.setSlot_keeps | apply kept_foldl | simp only [keptR_mk, id_eq] | apply And.intro | simp only [kept_mk] | split | intro _ _ _ _ _ _ | intro _ _ _ _ | intro _ _ _ | intro _ _

theorem State.evalCloses_keeps {q : List Instr} (s : State) (h : Kept q s) :
    Kept q (State.evalCloses s) := by
  unfold State.evalCloses
  try dsimp only
  repeat' with_reducible first | assumption | apply kept_parts | apply kept_parts_of | apply State.ttMiss_keeps | apply State.setSlot_keeps | apply State.closeEval_keeps | simp only [kept_mk] | split | intro _ _ _ _ _ _ | intro _ _ _ _ | intro _ _ _ | intro _ _

theorem State.fire_keeps {q : List Instr} (s : State) (x2 : ℕ) (x3 : ℕ) (f : State → TTSlot → ℕ → ℕ → State) (h : Kept q s) (hf : ∀ t a b c, Kept q t → Kept q (f t a b c)) :
    Kept q (State.fire s x2 x3 f) := by
  unfold State.fire
  try dsimp only
  repeat' with_reducible first | assumption | apply kept_parts | apply kept_parts_of | apply State.setSlot_keeps | apply hf | simp only [kept_mk] | split | intro _ _ _ _ _ _ | intro _ _ _ _ | intro _ _ _ | intro _ _

theorem falls_keeps {q : List Instr} (x1 : ℕ) (x2 : ℕ) (f : ℕ → State → TTSlot → ℕ → ℕ → State) (s : State) (hf : ∀ n t a b c, Kept q t → Kept q (f n t a b c)) (h : Kept q s) :
    KeptO q (falls x1 x2 f s) := by
  unfold falls
  try dsimp only
  repeat' with_reducible first | assumption | apply kept_parts | apply kept_parts_of | apply State.settle_keeps | apply State.fire_keeps | apply keptO_next | apply keptO_onUnit | exact keptO_fault | apply hf | simp only [kept_mk] | split | intro _ _ _ _ _ _ | intro _ _ _ _ | intro _ _ _ | intro _ _

theorem State.ttSkip_keeps {q : List Instr} (s : State) (h : Kept q s) :
    Kept q (State.ttSkip s) := by
  unfold State.ttSkip
  try dsimp only
  repeat' with_reducible first | assumption | apply kept_parts | apply kept_parts_of | simp only [kept_mk] | split

theorem State.stepOpenFalls_keeps {q : List Instr} (x1 : ℕ) (s : State) (x3 : TTSlot) (x4 : ℕ) (x5 : ℕ) (h : Kept q s) :
    Kept q (State.stepOpenFalls x1 s x3 x4 x5) := by
  unfold State.stepOpenFalls
  try dsimp only
  repeat' with_reducible first | assumption | apply kept_parts | apply kept_parts_of | apply State.ttMiss_keeps | apply State.setSlot_keeps | apply State.ttSkip_keeps | apply State.fired_keeps | apply State.openBy_keeps | simp only [kept_mk] | split

theorem execStepOpen_keeps {q : List Instr} (x1 : ℕ) (s : State) (h : Kept q s) :
    KeptO q (execStepOpen x1 s) := by
  unfold execStepOpen
  try dsimp only
  repeat' with_reducible first | assumption | apply kept_parts | apply kept_parts_of | apply falls_keeps | apply State.stepOpenFalls_keeps | apply keptO_next | apply keptO_onUnit | exact keptO_fault | simp only [kept_mk] | split

theorem doTtRemove_keeps {q : List Instr} (x1 : OpenCmd) (s : State) (h : Kept q s) :
    KeptR q (doTtRemove x1 s) := by
  unfold doTtRemove
  try dsimp only
  repeat' with_reducible first | assumption | apply kept_parts | apply kept_parts_of | apply refuseWith_keeps | apply refuseAt_keeps | apply done_keeps | simp only [keptR_mk, id_eq] | apply And.intro | simp only [kept_mk] | split | intro _ _ _ _ _ _ | intro _ _ _ _ | intro _ _ _ | intro _ _

theorem execTtRemove_keeps {q : List Instr} (s : State) (h : Kept q s) :
    KeptO q (execTtRemove s) := by
  unfold execTtRemove
  try dsimp only
  repeat' with_reducible first | assumption | apply kept_parts | apply kept_parts_of | apply State.run_keeps | apply doTtRemove_keeps | apply keptO_next | apply keptO_onUnit | exact keptO_fault | simp only [kept_mk] | split

theorem State.holdEnds_keeps {q : List Instr} (s : State) (h : Kept q s) :
    Kept q (State.holdEnds s) := by
  unfold State.holdEnds
  try dsimp only
  repeat' with_reducible first | assumption | apply kept_parts | apply kept_parts_of | simp only [kept_mk] | split

theorem State.openingMissed_keeps {q : List Instr} (s : State) (x2 : ℕ) (h : Kept q s) :
    Kept q (State.openingMissed s x2) := by
  unfold State.openingMissed
  try dsimp only
  repeat' with_reducible first | assumption | apply kept_parts | apply kept_parts_of | apply State.ttMiss_keeps | apply State.setSlot_keeps | simp only [kept_mk] | split

theorem execStepOpenWindowEnd_keeps {q : List Instr} (x1 : ℕ) (s : State) (h : Kept q s) :
    KeptO q (execStepOpenWindowEnd x1 s) := by
  unfold execStepOpenWindowEnd
  try dsimp only
  repeat' with_reducible first | assumption | apply kept_parts | apply kept_parts_of | apply State.settle_keeps | apply State.openingMissed_keeps | apply keptO_next | apply keptO_onUnit | exact keptO_fault | simp only [kept_mk] | split

theorem execTtWrite_keeps {q : List Instr} (s : State) (h : Kept q s) :
    KeptO q (execTtWrite s) := by
  unfold execTtWrite
  try dsimp only
  repeat' with_reducible first | assumption | apply kept_parts | apply kept_parts_of | apply State.run_keeps | apply doTtWrite_keeps | apply keptO_next | apply keptO_onUnit | exact keptO_fault | simp only [kept_mk] | split

theorem State.holdFalls_keeps {q : List Instr} (x1 : ℕ) (s : State) (x3 : TTSlot) (x4 : ℕ) (x5 : ℕ) (h : Kept q s) :
    Kept q (State.holdFalls x1 s x3 x4 x5) := by
  unfold State.holdFalls
  try dsimp only
  repeat' with_reducible first | assumption | apply kept_parts | apply kept_parts_of | apply State.ttSkip_keeps | apply State.ttMiss_keeps | apply State.fired_keeps | apply State.setSlot_keeps | apply kept_foldl | simp only [kept_mk] | split | intro _ _ _ _ _ _ | intro _ _ _ _ | intro _ _ _ | intro _ _

theorem execHold_keeps {q : List Instr} (x1 : ℕ) (s : State) (h : Kept q s) :
    KeptO q (execHold x1 s) := by
  unfold execHold
  try dsimp only
  repeat' with_reducible first | assumption | apply kept_parts | apply kept_parts_of | apply falls_keeps | apply State.holdFalls_keeps | apply keptO_next | apply keptO_onUnit | exact keptO_fault | simp only [kept_mk] | split

theorem State.calFalls_keeps {q : List Instr} (x1 : ℕ) (s : State) (x3 : TTSlot) (x4 : ℕ) (x5 : ℕ) (h : Kept q s) :
    Kept q (State.calFalls x1 s x3 x4 x5) := by
  unfold State.calFalls
  try dsimp only
  repeat' with_reducible first | assumption | apply kept_parts | apply kept_parts_of | apply State.ttMiss_keeps | apply State.setSlot_keeps | apply State.fired_keeps | apply State.openWindow_keeps | simp only [kept_mk] | split

theorem execCalLp_keeps {q : List Instr} (x1 : ℕ) (s : State) (h : Kept q s) :
    KeptO q (execCalLp x1 s) := by
  unfold execCalLp
  try dsimp only
  repeat' with_reducible first | assumption | apply kept_parts | apply kept_parts_of | apply falls_keeps | apply State.calFalls_keeps | apply keptO_next | apply keptO_onUnit | exact keptO_fault | simp only [kept_mk] | split

theorem State.evalOpens_keeps {q : List Instr} (s : State) (h : Kept q s) :
    Kept q (State.evalOpens s) := by
  unfold State.evalOpens
  try dsimp only
  repeat' with_reducible first | assumption | apply kept_parts | apply kept_parts_of | apply State.openEval_keeps | simp only [kept_mk] | split | intro _ _ _ _ _ _ | intro _ _ _ _ | intro _ _ _ | intro _ _

theorem State.snapshotFalls_keeps {q : List Instr} (x1 : ℕ) (s : State) (x3 : TTSlot) (x4 : ℕ) (x5 : ℕ) (h : Kept q s) :
    Kept q (State.snapshotFalls x1 s x3 x4 x5) := by
  unfold State.snapshotFalls
  try dsimp only
  repeat' with_reducible first | assumption | apply kept_parts | apply kept_parts_of | apply State.latch_keeps | apply State.fired_keeps | simp only [kept_mk] | split

theorem execSnapshot_keeps {q : List Instr} (x1 : ℕ) (s : State) (h : Kept q s) :
    KeptO q (execSnapshot x1 s) := by
  unfold execSnapshot
  try dsimp only
  repeat' with_reducible first | assumption | apply kept_parts | apply kept_parts_of | apply falls_keeps | apply State.snapshotFalls_keeps | apply keptO_next | apply keptO_onUnit | exact keptO_fault | simp only [kept_mk] | split

theorem State.closeFalls_keeps {q : List Instr} (x1 : ℕ) (s : State) (x3 : TTSlot) (x4 : ℕ) (x5 : ℕ) (h : Kept q s) :
    Kept q (State.closeFalls x1 s x3 x4 x5) := by
  unfold State.closeFalls
  try dsimp only
  repeat' with_reducible first | assumption | apply kept_parts | apply kept_parts_of | apply State.ttSkip_keeps | apply State.fired_keeps | apply State.closeCheck_keeps | apply State.ttMiss_keeps | simp only [kept_mk] | split

theorem execCheckClose_keeps {q : List Instr} (x1 : ℕ) (s : State) (h : Kept q s) :
    KeptO q (execCheckClose x1 s) := by
  unfold execCheckClose
  try dsimp only
  repeat' with_reducible first | assumption | apply kept_parts | apply kept_parts_of | apply falls_keeps | apply State.closeFalls_keeps | apply keptO_next | apply keptO_onUnit | exact keptO_fault | simp only [kept_mk] | split

theorem State.calExpires_keeps {q : List Instr} (s : State) (x2 : ℕ) (h : Kept q s) :
    Kept q (State.calExpires s x2) := by
  unfold State.calExpires
  try dsimp only
  repeat' with_reducible first | assumption | apply kept_parts | apply kept_parts_of | apply State.ttMiss_keeps | apply State.setSlot_keeps | simp only [kept_mk] | split

theorem execHoldEnd_keeps {q : List Instr} (s : State) (h : Kept q s) :
    KeptO q (execHoldEnd s) := by
  unfold execHoldEnd
  try dsimp only
  repeat' with_reducible first | assumption | apply kept_parts | apply kept_parts_of | apply State.settle_keeps | apply State.holdEnds_keeps | apply keptO_next | apply keptO_onUnit | exact keptO_fault | simp only [kept_mk] | split

theorem execEvalSlotOpen_keeps {q : List Instr} (s : State) (h : Kept q s) :
    KeptO q (execEvalSlotOpen s) := by
  unfold execEvalSlotOpen
  try dsimp only
  repeat' with_reducible first | assumption | apply kept_parts | apply kept_parts_of | apply State.settle_keeps | apply State.evalOpens_keeps | apply keptO_next | apply keptO_onUnit | exact keptO_fault | simp only [kept_mk] | split

theorem execEval_keeps {q : List Instr} (x1 : ℕ) (s : State) (h : Kept q s) :
    KeptO q (execEval x1 s) := by
  unfold execEval
  try dsimp only
  repeat' with_reducible first | assumption | apply kept_parts | apply kept_parts_of | apply falls_keeps | apply State.evalFalls_keeps | apply keptO_next | apply keptO_onUnit | exact keptO_fault | simp only [kept_mk] | split

theorem execTtRead_keeps {q : List Instr} (s : State) (h : Kept q s) :
    KeptO q (execTtRead s) := by
  unfold execTtRead
  try dsimp only
  repeat' with_reducible first | assumption | apply kept_parts | apply kept_parts_of | apply State.run_keeps | apply doTtRead_keeps | apply keptO_next | apply keptO_onUnit | exact keptO_fault | simp only [kept_mk] | split

theorem execClock_keeps {q : List Instr} (x1 : ℕ) (s : State) (h : Kept q s) :
    KeptO q (execClock x1 s) := by
  unfold execClock
  try dsimp only
  repeat' with_reducible first | assumption | apply kept_parts | apply kept_parts_of | apply falls_keeps | apply State.clockFalls_keeps | apply keptO_next | apply keptO_onUnit | exact keptO_fault | simp only [kept_mk] | split

theorem State.markFalls_keeps {q : List Instr} (x1 : ℕ) (s : State) (x3 : TTSlot) (x4 : ℕ) (x5 : ℕ) (h : Kept q s) :
    Kept q (State.markFalls x1 s x3 x4 x5) := by
  unfold State.markFalls
  try dsimp only
  repeat' with_reducible first | assumption | apply kept_parts | apply kept_parts_of | apply State.emit_keeps | apply State.fired_keeps | simp only [kept_mk] | split

theorem execEvalSlotClose_keeps {q : List Instr} (s : State) (h : Kept q s) :
    KeptO q (execEvalSlotClose s) := by
  unfold execEvalSlotClose
  try dsimp only
  repeat' with_reducible first | assumption | apply kept_parts | apply kept_parts_of | apply State.settle_keeps | apply State.evalCloses_keeps | apply keptO_next | apply keptO_onUnit | exact keptO_fault | simp only [kept_mk] | split

theorem State.calNext_keeps {q : List Instr} (s : State) (x2 : Sys2Proof.CalKind) (x3 : ℕ) (h : Kept q s) :
    Kept q (State.calNext s x2 x3) := by
  unfold State.calNext
  try dsimp only
  repeat' with_reducible first | assumption | apply kept_parts | apply kept_parts_of | apply State.openWindow_keeps | apply State.setSlot_keeps | simp only [kept_mk] | split | intro _ _ _ _ _ _ | intro _ _ _ _ | intro _ _ _ | intro _ _

theorem execCalInl_keeps {q : List Instr} (x1 : ℕ) (s : State) (h : Kept q s) :
    KeptO q (execCalInl x1 s) := by
  unfold execCalInl
  try dsimp only
  repeat' with_reducible first | assumption | apply kept_parts | apply kept_parts_of | apply falls_keeps | apply State.calFalls_keeps | apply keptO_next | apply keptO_onUnit | exact keptO_fault | simp only [kept_mk] | split

theorem State.windowEnds_keeps {q : List Instr} (s : State) (x2 : Sys2Proof.CalKind) (x3 : ℕ) (x4 : ℕ) (x5 : Bool) (h : Kept q s) :
    Kept q (State.windowEnds s x2 x3 x4 x5) := by
  unfold State.windowEnds
  try dsimp only
  repeat' with_reducible first | assumption | apply kept_parts | apply kept_parts_of | apply State.fault_keeps | apply State.setBits_keeps | apply State.calNext_keeps | simp only [kept_mk] | split | intro _ _ _ _ _ _ | intro _ _ _ _ | intro _ _ _ | intro _ _

theorem execCalibrationWindowEnd_keeps {q : List Instr} (x1 : Sys2Proof.CalKind) (x2 : ℕ) (x3 : ℕ) (x4 : Bool) (s : State) (h : Kept q s) :
    KeptO q (execCalibrationWindowEnd x1 x2 x3 x4 s) := by
  unfold execCalibrationWindowEnd
  try dsimp only
  repeat' with_reducible first | assumption | apply kept_parts | apply kept_parts_of | apply State.windowEnds_keeps | apply keptO_next | apply keptO_onUnit | exact keptO_fault | simp only [kept_mk] | split

theorem execCalWaitExpiry_keeps {q : List Instr} (x1 : ℕ) (s : State) (h : Kept q s) :
    KeptO q (execCalWaitExpiry x1 s) := by
  unfold execCalWaitExpiry
  try dsimp only
  repeat' with_reducible first | assumption | apply kept_parts | apply kept_parts_of | apply State.calExpires_keeps | apply keptO_next | apply keptO_onUnit | exact keptO_fault | simp only [kept_mk] | split

theorem execMark_keeps {q : List Instr} (x1 : ℕ) (s : State) (h : Kept q s) :
    KeptO q (execMark x1 s) := by
  unfold execMark
  try dsimp only
  repeat' with_reducible first | assumption | apply kept_parts | apply kept_parts_of | apply falls_keeps | apply State.markFalls_keeps | apply keptO_next | apply keptO_onUnit | exact keptO_fault | simp only [kept_mk] | split

/-! ### Machine/Jobs.lean -/

theorem execLedgerPin_keeps {q : List Instr} (s : State) (h : Kept q s) :
    KeptO q (execLedgerPin s) := by
  unfold execLedgerPin
  try dsimp only
  repeat' with_reducible first | assumption | apply kept_parts | apply kept_parts_of | apply State.run_keeps | apply doLedgerPin_keeps | apply keptO_next | apply keptO_onUnit | exact keptO_fault | simp only [kept_mk] | split

theorem State.runSettle_keeps {q : List Instr} (s : State) (x2 : ℕ) (f : OpenCmd → State → Result) (h : Kept q s) (hf : ∀ c t, Kept q t → KeptR q (f c t)) :
    KeptO q (State.runSettle s x2 f) := by
  unfold State.runSettle
  try dsimp only
  repeat' with_reducible first | assumption | apply kept_parts | apply kept_parts_of | apply State.settle_keeps | apply State.run_keeps | apply keptO_next | apply keptO_onUnit | exact keptO_fault | apply hf | simp only [kept_mk] | split | intro _ _ _ _ _ _ | intro _ _ _ _ | intro _ _ _ | intro _ _

theorem doClamp_keeps {q : List Instr} (x1 : OpenCmd) (s : State) (h : Kept q s) :
    KeptR q (doClamp x1 s) := by
  unfold doClamp
  try dsimp only
  repeat' with_reducible first | assumption | apply kept_parts | apply kept_parts_of | apply refuse_keeps | apply done_keeps | apply State.clampUnit_keeps | simp only [keptR_mk, id_eq] | apply And.intro | simp only [kept_mk] | split | intro _ _ _ _ _ _ | intro _ _ _ _ | intro _ _ _ | intro _ _

theorem execClamp_keeps {q : List Instr} (s : State) (h : Kept q s) :
    KeptO q (execClamp s) := by
  unfold execClamp
  try dsimp only
  repeat' with_reducible first | assumption | apply kept_parts | apply kept_parts_of | apply State.runSettle_keeps | apply doClamp_keeps | apply keptO_next | apply keptO_onUnit | exact keptO_fault | simp only [kept_mk] | split

theorem State.placeCores_keeps {q : List Instr} (s : State) (x2 : Program) (h : Kept q s) :
    Kept q (State.placeCores s x2) := by
  unfold State.placeCores
  try dsimp only
  repeat' with_reducible first | assumption | apply kept_parts | apply kept_parts_of | simp only [kept_mk] | split | intro _ _ _ _ _ _ | intro _ _ _ _ | intro _ _ _ | intro _ _

theorem execSealCopyResend_keeps {q : List Instr} (s : State) (h : Kept q s) :
    KeptO q (execSealCopyResend s) := by
  unfold execSealCopyResend
  try dsimp only
  repeat' with_reducible first | assumption | apply kept_parts | apply kept_parts_of | apply State.settle_keeps | apply State.resendCopy_keeps | apply keptO_next | apply keptO_onUnit | exact keptO_fault | simp only [kept_mk] | split

theorem doStepParam_keeps {q : List Instr} (x1 : OpenCmd) (s : State) (h : Kept q s) :
    KeptR q (doStepParam x1 s) := by
  unfold doStepParam
  try dsimp only
  repeat' with_reducible first | assumption | apply kept_parts | apply kept_parts_of | apply refuse_keeps | apply done_keeps | simp only [keptR_mk, id_eq] | apply And.intro | simp only [kept_mk] | split | intro _ _ _ _ _ _ | intro _ _ _ _ | intro _ _ _ | intro _ _

theorem execStepParam_keeps {q : List Instr} (s : State) (h : Kept q s) :
    KeptO q (execStepParam s) := by
  unfold execStepParam
  try dsimp only
  repeat' with_reducible first | assumption | apply kept_parts | apply kept_parts_of | apply State.run_keeps | apply doStepParam_keeps | apply keptO_next | apply keptO_onUnit | exact keptO_fault | simp only [kept_mk] | split

theorem execDigestCompare_keeps {q : List Instr} (s : State) (h : Kept q s) :
    KeptO q (execDigestCompare s) := by
  unfold execDigestCompare
  try dsimp only
  repeat' with_reducible first | assumption | apply kept_parts | apply kept_parts_of | apply State.digestCompare_keeps | apply keptO_next | apply keptO_onUnit | exact keptO_fault | simp only [kept_mk] | split

theorem doResume_keeps {q : List Instr} (x1 : OpenCmd) (s : State) (h : Kept q s) :
    KeptR q (doResume x1 s) := by
  unfold doResume
  try dsimp only
  repeat' with_reducible first | assumption | apply kept_parts | apply kept_parts_of | apply done_keeps | apply refuse_keeps | simp only [keptR_mk, id_eq] | apply And.intro | simp only [kept_mk] | split | intro _ _ _ _ _ _ | intro _ _ _ _ | intro _ _ _ | intro _ _

theorem execStepControlResume_keeps {q : List Instr} (s : State) (h : Kept q s) :
    KeptO q (execStepControlResume s) := by
  unfold execStepControlResume
  try dsimp only
  repeat' with_reducible first | assumption | apply kept_parts | apply kept_parts_of | apply State.settle_keeps | apply State.runFront_keeps | apply doResume_keeps | apply keptO_next | apply keptO_onUnit | exact keptO_fault | simp only [kept_mk] | split | intro _ _ _ _ _ _ | intro _ _ _ _ | intro _ _ _ | intro _ _

theorem doHalt_keeps {q : List Instr} (x1 : OpenCmd) (s : State) (h : Kept q s) :
    KeptR q (doHalt x1 s) := by
  unfold doHalt
  try dsimp only
  repeat' with_reducible first | assumption | apply kept_parts | apply kept_parts_of | apply State.haltSteps_keeps | simp only [keptR_mk, id_eq] | apply And.intro | simp only [kept_mk] | split | intro _ _ _ _ _ _ | intro _ _ _ _ | intro _ _ _ | intro _ _

theorem doProgramUnload_keeps {q : List Instr} (x1 : OpenCmd) (s : State) (h : Kept q s) :
    KeptR q (doProgramUnload x1 s) := by
  unfold doProgramUnload
  try dsimp only
  repeat' with_reducible first | assumption | apply kept_parts | apply kept_parts_of | apply refuse_keeps | apply done_keeps | simp only [keptR_mk, id_eq] | apply And.intro | simp only [kept_mk] | split | intro _ _ _ _ _ _ | intro _ _ _ _ | intro _ _ _ | intro _ _

theorem execProgramUnload_keeps {q : List Instr} (s : State) (h : Kept q s) :
    KeptO q (execProgramUnload s) := by
  unfold execProgramUnload
  try dsimp only
  repeat' with_reducible first | assumption | apply kept_parts | apply kept_parts_of | apply State.run_keeps | apply doProgramUnload_keeps | apply keptO_next | apply keptO_onUnit | exact keptO_fault | simp only [kept_mk] | split

theorem doProgramLoad_keeps {q : List Instr} (x1 : OpenCmd) (s : State) (h : Kept q s) :
    KeptR q (doProgramLoad x1 s) := by
  unfold doProgramLoad
  try dsimp only
  repeat' with_reducible first | assumption | apply kept_parts | apply kept_parts_of | apply refuse_keeps | apply began_keeps | simp only [keptR_mk, id_eq] | apply And.intro | simp only [kept_mk] | split | intro _ _ _ _ _ _ | intro _ _ _ _ | intro _ _ _ | intro _ _

theorem doUnclamp_keeps {q : List Instr} (x1 : OpenCmd) (s : State) (h : Kept q s) :
    KeptR q (doUnclamp x1 s) := by
  unfold doUnclamp
  try dsimp only
  repeat' with_reducible first | assumption | apply kept_parts | apply kept_parts_of | apply refuse_keeps | apply done_keeps | apply State.unclampUnit_keeps | simp only [keptR_mk, id_eq] | apply And.intro | simp only [kept_mk] | split | intro _ _ _ _ _ _ | intro _ _ _ _ | intro _ _ _ | intro _ _

theorem doStepRecall_keeps {q : List Instr} (x1 : OpenCmd) (s : State) (h : Kept q s) :
    KeptR q (doStepRecall x1 s) := by
  unfold doStepRecall
  try dsimp only
  repeat' with_reducible first | assumption | apply kept_parts | apply kept_parts_of | apply State.takeOutcome_keeps | apply began_keeps | apply refuse_keeps | simp only [keptR_mk, id_eq] | apply And.intro | simp only [kept_mk] | split | intro _ _ _ _ _ _ | intro _ _ _ _ | intro _ _ _ | intro _ _

theorem execReplayOpen_keeps {q : List Instr} (s : State) (h : Kept q s) :
    KeptO q (execReplayOpen s) := by
  unfold execReplayOpen
  try dsimp only
  repeat' with_reducible first | assumption | apply kept_parts | apply kept_parts_of | apply State.settle_keeps | apply State.replayOpen_keeps | apply keptO_next | apply keptO_onUnit | exact keptO_fault | simp only [kept_mk] | split

theorem execLedgerIndex_keeps {q : List Instr} (s : State) (h : Kept q s) :
    KeptO q (execLedgerIndex s) := by
  unfold execLedgerIndex
  try dsimp only
  repeat' with_reducible first | assumption | apply kept_parts | apply kept_parts_of | apply State.run_keeps | apply doLedgerIndex_keeps | apply keptO_next | apply keptO_onUnit | exact keptO_fault | simp only [kept_mk] | split

theorem execStepControlHalt_keeps {q : List Instr} (s : State) (h : Kept q s) :
    KeptO q (execStepControlHalt s) := by
  unfold execStepControlHalt
  try dsimp only
  repeat' with_reducible first | assumption | apply kept_parts | apply kept_parts_of | apply State.settle_keeps | apply State.runFront_keeps | apply doHalt_keeps | apply keptO_next | apply keptO_onUnit | exact keptO_fault | simp only [kept_mk] | split | intro _ _ _ _ _ _ | intro _ _ _ _ | intro _ _ _ | intro _ _

theorem execUnclamp_keeps {q : List Instr} (s : State) (h : Kept q s) :
    KeptO q (execUnclamp s) := by
  unfold execUnclamp
  try dsimp only
  repeat' with_reducible first | assumption | apply kept_parts | apply kept_parts_of | apply State.runSettle_keeps | apply doUnclamp_keeps | apply keptO_next | apply keptO_onUnit | exact keptO_fault | simp only [kept_mk] | split

theorem execOutcomeOverdue_keeps {q : List Instr} (x1 : ℕ) (s : State) (h : Kept q s) :
    KeptO q (execOutcomeOverdue x1 s) := by
  unfold execOutcomeOverdue
  try dsimp only
  repeat' with_reducible first | assumption | apply kept_parts | apply kept_parts_of | apply State.outcomeOverdue_keeps | apply keptO_next | apply keptO_onUnit | exact keptO_fault | simp only [kept_mk] | split

theorem doStepSeal_keeps {q : List Instr} (x1 : OpenCmd) (s : State) (h : Kept q s) :
    KeptR q (doStepSeal x1 s) := by
  unfold doStepSeal
  try dsimp only
  repeat' with_reducible first | assumption | apply kept_parts | apply kept_parts_of | apply doneThen_keeps | apply State.takeOutcome_keeps | apply done_keeps | apply refuse_keeps | simp only [keptR_mk, id_eq] | apply And.intro | simp only [kept_mk] | split | intro _ _ _ _ _ _ | intro _ _ _ _ | intro _ _ _ | intro _ _

theorem execLedgerRead_keeps {q : List Instr} (s : State) (h : Kept q s) :
    KeptO q (execLedgerRead s) := by
  unfold execLedgerRead
  try dsimp only
  repeat' with_reducible first | assumption | apply kept_parts | apply kept_parts_of | apply State.run_keeps | apply doLedgerRead_keeps | apply keptO_next | apply keptO_onUnit | exact keptO_fault | simp only [kept_mk] | split

theorem execFieldTest_keeps {q : List Instr} (x1 : List (ℕ × ℕ × ℕ)) (s : State) (h : Kept q s) :
    KeptO q (execFieldTest x1 s) := by
  unfold execFieldTest
  try dsimp only
  repeat' with_reducible first | assumption | apply kept_parts | apply kept_parts_of | apply State.run_keeps | apply doFieldTest_keeps | apply keptO_next | apply keptO_onUnit | exact keptO_fault | simp only [kept_mk] | split

theorem State.loadProgram_keeps {q : List Instr} (s : State) (x2 : ℕ) (x3 : ℕ) (h : Kept q s) :
    Kept q (State.loadProgram s x2 x3).2 := by
  unfold State.loadProgram
  try dsimp only
  repeat' with_reducible first | assumption | apply kept_parts | apply kept_parts_of | apply State.fetch_keeps | apply State.forgetLost_keeps | apply State.placeCores_keeps | simp only [kept_mk] | split | intro _ _ _ _ _ _ | intro _ _ _ _ | intro _ _ _ | intro _ _

theorem execStepControlRecall_keeps {q : List Instr} (s : State) (h : Kept q s) :
    KeptO q (execStepControlRecall s) := by
  unfold execStepControlRecall
  try dsimp only
  repeat' with_reducible first | assumption | apply kept_parts | apply kept_parts_of | apply State.settle_keeps | apply State.runFront_keeps | apply doStepRecall_keeps | apply keptO_next | apply keptO_onUnit | exact keptO_fault | simp only [kept_mk] | split | intro _ _ _ _ _ _ | intro _ _ _ _ | intro _ _ _ | intro _ _

theorem execSealDeadline_keeps {q : List Instr} (x1 : ℕ) (s : State) (h : Kept q s) :
    KeptO q (execSealDeadline x1 s) := by
  unfold execSealDeadline
  try dsimp only
  repeat' with_reducible first | assumption | apply kept_parts | apply kept_parts_of | apply State.settle_keeps | apply State.sealDeadline_keeps | apply keptO_next | apply keptO_onUnit | exact keptO_fault | simp only [kept_mk] | split

theorem doStepStatus_keeps {q : List Instr} (x1 : OpenCmd) (s : State) (h : Kept q s) :
    KeptR q (doStepStatus x1 s) := by
  unfold doStepStatus
  try dsimp only
  repeat' with_reducible first | assumption | apply kept_parts | apply kept_parts_of | apply done_keeps | simp only [keptR_mk, id_eq] | apply And.intro | simp only [kept_mk] | split | intro _ _ _ _ _ _ | intro _ _ _ _ | intro _ _ _ | intro _ _

theorem execStepStatus_keeps {q : List Instr} (s : State) (h : Kept q s) :
    KeptO q (execStepStatus s) := by
  unfold execStepStatus
  try dsimp only
  repeat' with_reducible first | assumption | apply kept_parts | apply kept_parts_of | apply State.run_keeps | apply doStepStatus_keeps | apply keptO_next | apply keptO_onUnit | exact keptO_fault | simp only [kept_mk] | split

theorem execStepControlSeal_keeps {q : List Instr} (s : State) (h : Kept q s) :
    KeptO q (execStepControlSeal s) := by
  unfold execStepControlSeal
  try dsimp only
  repeat' with_reducible first | assumption | apply kept_parts | apply kept_parts_of | apply State.settle_keeps | apply State.runFront_keeps | apply doStepSeal_keeps | apply keptO_next | apply keptO_onUnit | exact keptO_fault | simp only [kept_mk] | split | intro _ _ _ _ _ _ | intro _ _ _ _ | intro _ _ _ | intro _ _

theorem execWeightDigestEnd_keeps {q : List Instr} (s : State) (h : Kept q s) :
    KeptO q (execWeightDigestEnd s) := by
  unfold execWeightDigestEnd
  try dsimp only
  repeat' with_reducible first | assumption | apply kept_parts | apply kept_parts_of | apply State.settle_keeps | apply State.weightDigestEnd_keeps | apply keptO_next | apply keptO_onUnit | exact keptO_fault | simp only [kept_mk] | split

theorem execProgramLoad_keeps {q : List Instr} (s : State) (h : Kept q s) :
    KeptO q (execProgramLoad s) := by
  unfold execProgramLoad
  try dsimp only
  repeat' with_reducible first | assumption | apply kept_parts | apply kept_parts_of | apply State.run_keeps | apply doProgramLoad_keeps | apply keptO_next | apply keptO_onUnit | exact keptO_fault | simp only [kept_mk] | split

/-! ### Machine/Stores.lean -/

theorem State.under_keeps {q : List Instr} (s : State) (x2 : Partition) (h : Kept q s) :
    Kept q (State.under s x2) := by
  unfold State.under
  try dsimp only
  repeat' with_reducible first | assumption | apply kept_parts | apply kept_parts_of | simp only [kept_mk] | split

theorem doDestTableLoad_keeps {q : List Instr} (x1 : OpenCmd) (s : State) (h : Kept q s) :
    KeptR q (doDestTableLoad x1 s) := by
  unfold doDestTableLoad
  try dsimp only
  repeat' with_reducible first | assumption | apply kept_parts | apply kept_parts_of | apply refuse_keeps | apply done_keeps | apply State.setReg_keeps | apply kept_foldl | simp only [keptR_mk, id_eq] | apply And.intro | simp only [kept_mk] | split | intro _ _ _ _ _ _ | intro _ _ _ _ | intro _ _ _ | intro _ _

theorem execDestTableLoad_keeps {q : List Instr} (s : State) (h : Kept q s) :
    KeptO q (execDestTableLoad s) := by
  unfold execDestTableLoad
  try dsimp only
  repeat' with_reducible first | assumption | apply kept_parts | apply kept_parts_of | apply State.runSettle_keeps | apply doDestTableLoad_keeps | apply keptO_next | apply keptO_onUnit | exact keptO_fault | simp only [kept_mk] | split

theorem State.beginMemory_keeps {q : List Instr} (s : State) (x2 : List (ℕ × ℕ)) (x3 : List (ℕ × ℕ)) (x4 : LongOp) (h : Kept q s) :
    KeptR q (State.beginMemory s x2 x3 x4) := by
  unfold State.beginMemory
  try dsimp only
  repeat' with_reducible first | assumption | apply kept_parts | apply kept_parts_of | apply refuse_keeps | apply began_keeps | simp only [keptR_mk, id_eq] | apply And.intro | simp only [kept_mk] | split | intro _ _ _ _ _ _ | intro _ _ _ _ | intro _ _ _ | intro _ _

theorem doMemDigest_keeps {q : List Instr} (x1 : OpenCmd) (s : State) (h : Kept q s) :
    KeptR q (doMemDigest x1 s) := by
  unfold doMemDigest
  try dsimp only
  repeat' with_reducible first | assumption | apply kept_parts | apply kept_parts_of | apply State.beginMemory_keeps | simp only [keptR_mk, id_eq] | apply And.intro | simp only [kept_mk] | split | intro _ _ _ _ _ _ | intro _ _ _ _ | intro _ _ _ | intro _ _

theorem doPartitionGet_keeps {q : List Instr} (x1 : OpenCmd) (s : State) (h : Kept q s) :
    KeptR q (doPartitionGet x1 s) := by
  unfold doPartitionGet
  try dsimp only
  repeat' with_reducible first | assumption | apply kept_parts | apply kept_parts_of | apply done_keeps | simp only [keptR_mk, id_eq] | apply And.intro | simp only [kept_mk] | split | intro _ _ _ _ _ _ | intro _ _ _ _ | intro _ _ _ | intro _ _

theorem execPartitionGet_keeps {q : List Instr} (s : State) (h : Kept q s) :
    KeptO q (execPartitionGet s) := by
  unfold execPartitionGet
  try dsimp only
  repeat' with_reducible first | assumption | apply kept_parts | apply kept_parts_of | apply State.run_keeps | apply doPartitionGet_keeps | apply keptO_next | apply keptO_onUnit | exact keptO_fault | simp only [kept_mk] | split

theorem doQpCreate_keeps {q : List Instr} (x1 : OpenCmd) (s : State) (h : Kept q s) :
    KeptR q (doQpCreate x1 s) := by
  unfold doQpCreate
  try dsimp only
  repeat' with_reducible first | assumption | apply kept_parts | apply kept_parts_of | apply refuse_keeps | apply done_keeps | apply State.setEth_keeps | simp only [keptR_mk, id_eq] | apply And.intro | simp only [kept_mk] | split | intro _ _ _ _ _ _ | intro _ _ _ _ | intro _ _ _ | intro _ _

theorem doMemCopy_keeps {q : List Instr} (x1 : OpenCmd) (s : State) (h : Kept q s) :
    KeptR q (doMemCopy x1 s) := by
  unfold doMemCopy
  try dsimp only
  repeat' with_reducible first | assumption | apply kept_parts | apply kept_parts_of | apply State.beginMemory_keeps | simp only [keptR_mk, id_eq] | apply And.intro | simp only [kept_mk] | split | intro _ _ _ _ _ _ | intro _ _ _ _ | intro _ _ _ | intro _ _

theorem execMemCopy_keeps {q : List Instr} (s : State) (h : Kept q s) :
    KeptO q (execMemCopy s) := by
  unfold execMemCopy
  try dsimp only
  repeat' with_reducible first | assumption | apply kept_parts | apply kept_parts_of | apply State.run_keeps | apply doMemCopy_keeps | apply keptO_next | apply keptO_onUnit | exact keptO_fault | simp only [kept_mk] | split

theorem doPartitionSet_keeps {q : List Instr} (x1 : OpenCmd) (s : State) (h : Kept q s) :
    KeptR q (doPartitionSet x1 s) := by
  unfold doPartitionSet
  try dsimp only
  repeat' with_reducible first | assumption | apply kept_parts | apply kept_parts_of | apply refuse_keeps | apply done_keeps | apply State.under_keeps | simp only [keptR_mk, id_eq] | apply And.intro | simp only [kept_mk] | split | intro _ _ _ _ _ _ | intro _ _ _ _ | intro _ _ _ | intro _ _

theorem State.memoryEnd_keeps {q : List Instr} (s : State) (x2 : ℕ) (x3 : LongOp) (h : Kept q s) :
    Kept q (State.memoryEnd s x2 x3) := by
  unfold State.memoryEnd
  try dsimp only
  repeat' with_reducible first | assumption | apply kept_parts | apply kept_parts_of | apply State.closeCmd_keeps | apply State.store_keeps | apply State.fetch_keeps | simp only [kept_mk] | split | intro _ _ _ _ _ _ | intro _ _ _ _ | intro _ _ _ | intro _ _

theorem execMemDigest_keeps {q : List Instr} (s : State) (h : Kept q s) :
    KeptO q (execMemDigest s) := by
  unfold execMemDigest
  try dsimp only
  repeat' with_reducible first | assumption | apply kept_parts | apply kept_parts_of | apply State.run_keeps | apply doMemDigest_keeps | apply keptO_next | apply keptO_onUnit | exact keptO_fault | simp only [kept_mk] | split

theorem doMemRead_keeps {q : List Instr} (x1 : Sys2Proof.BitErrors) (x2 : OpenCmd) (s : State) (h : Kept q s) :
    KeptR q (doMemRead x1 x2 s) := by
  unfold doMemRead
  try dsimp only
  repeat' with_reducible first | assumption | apply kept_parts | apply kept_parts_of | apply refuse_keeps | apply State.fetch_keeps | apply State.hit_keeps | apply refuseWith_keeps | apply State.unhit_keeps | apply done_keeps | simp only [keptR_mk, id_eq] | apply And.intro | simp only [kept_mk] | split | intro _ _ _ _ _ _ | intro _ _ _ _ | intro _ _ _ | intro _ _

theorem doMemFill_keeps {q : List Instr} (x1 : OpenCmd) (s : State) (h : Kept q s) :
    KeptR q (doMemFill x1 s) := by
  unfold doMemFill
  try dsimp only
  repeat' with_reducible first | assumption | apply kept_parts | apply kept_parts_of | apply State.beginMemory_keeps | simp only [keptR_mk, id_eq] | apply And.intro | simp only [kept_mk] | split | intro _ _ _ _ _ _ | intro _ _ _ _ | intro _ _ _ | intro _ _

theorem execPartitionSet_keeps {q : List Instr} (s : State) (h : Kept q s) :
    KeptO q (execPartitionSet s) := by
  unfold execPartitionSet
  try dsimp only
  repeat' with_reducible first | assumption | apply kept_parts | apply kept_parts_of | apply State.runSettle_keeps | apply doPartitionSet_keeps | apply keptO_next | apply keptO_onUnit | exact keptO_fault | simp only [kept_mk] | split

theorem execMemFill_keeps {q : List Instr} (s : State) (h : Kept q s) :
    KeptO q (execMemFill s) := by
  unfold execMemFill
  try dsimp only
  repeat' with_reducible first | assumption | apply kept_parts | apply kept_parts_of | apply State.run_keeps | apply doMemFill_keeps | apply keptO_next | apply keptO_onUnit | exact keptO_fault | simp only [kept_mk] | split

theorem doMemWrite_keeps {q : List Instr} (x1 : OpenCmd) (s : State) (h : Kept q s) :
    KeptR q (doMemWrite x1 s) := by
  unfold doMemWrite
  try dsimp only
  repeat' with_reducible first | assumption | apply kept_parts | apply kept_parts_of | apply refuse_keeps | apply done_keeps | apply State.store_keeps | simp only [keptR_mk, id_eq] | apply And.intro | simp only [kept_mk] | split | intro _ _ _ _ _ _ | intro _ _ _ _ | intro _ _ _ | intro _ _

theorem doQpDestroy_keeps {q : List Instr} (x1 : OpenCmd) (s : State) (h : Kept q s) :
    KeptR q (doQpDestroy x1 s) := by
  unfold doQpDestroy
  try dsimp only
  repeat' with_reducible first | assumption | apply kept_parts | apply kept_parts_of | apply refuse_keeps | apply done_keeps | apply State.setEth_keeps | simp only [keptR_mk, id_eq] | apply And.intro | simp only [kept_mk] | split | intro _ _ _ _ _ _ | intro _ _ _ _ | intro _ _ _ | intro _ _

theorem execQpDestroy_keeps {q : List Instr} (s : State) (h : Kept q s) :
    KeptO q (execQpDestroy s) := by
  unfold execQpDestroy
  try dsimp only
  repeat' with_reducible first | assumption | apply kept_parts | apply kept_parts_of | apply State.run_keeps | apply doQpDestroy_keeps | apply keptO_next | apply keptO_onUnit | exact keptO_fault | simp only [kept_mk] | split

theorem execMemRead_keeps {q : List Instr} (x1 : Sys2Proof.BitErrors) (s : State) (h : Kept q s) :
    KeptO q (execMemRead x1 s) := by
  unfold execMemRead
  try dsimp only
  repeat' with_reducible first | assumption | apply kept_parts | apply kept_parts_of | apply State.runSettle_keeps | apply doMemRead_keeps | apply keptO_next | apply keptO_onUnit | exact keptO_fault | simp only [kept_mk] | split

theorem execMemWrite_keeps {q : List Instr} (s : State) (h : Kept q s) :
    KeptO q (execMemWrite s) := by
  unfold execMemWrite
  try dsimp only
  repeat' with_reducible first | assumption | apply kept_parts | apply kept_parts_of | apply State.runSettle_keeps | apply doMemWrite_keeps | apply keptO_next | apply keptO_onUnit | exact keptO_fault | simp only [kept_mk] | split

theorem execQpCreate_keeps {q : List Instr} (s : State) (h : Kept q s) :
    KeptO q (execQpCreate s) := by
  unfold execQpCreate
  try dsimp only
  repeat' with_reducible first | assumption | apply kept_parts | apply kept_parts_of | apply State.run_keeps | apply doQpCreate_keeps | apply keptO_next | apply keptO_onUnit | exact keptO_fault | simp only [kept_mk] | split

/-! ### Machine/Images.lean -/

theorem execRestoreHeaderPassEnd_keeps {q : List Instr} (x1 : List (Option (List Sys2Proof.Byte))) (s : State) (h : Kept q s) :
    KeptO q (execRestoreHeaderPassEnd x1 s) := by
  unfold execRestoreHeaderPassEnd
  try dsimp only
  repeat' with_reducible first | assumption | apply kept_parts | apply kept_parts_of | apply State.settle_keeps | apply State.headerPass_keeps | apply keptO_next | apply keptO_onUnit | exact keptO_fault | simp only [kept_mk] | split

theorem execRestorePayloadPassEnd_keeps {q : List Instr} (x1 : List (Option (List Sys2Proof.Byte))) (s : State) (h : Kept q s) :
    KeptO q (execRestorePayloadPassEnd x1 s) := by
  unfold execRestorePayloadPassEnd
  try dsimp only
  repeat' with_reducible first | assumption | apply kept_parts | apply kept_parts_of | apply State.settle_keeps | apply State.payloadPass_keeps | apply keptO_next | apply keptO_onUnit | exact keptO_fault | simp only [kept_mk] | split

theorem execRestore_keeps {q : List Instr} (s : State) (h : Kept q s) :
    KeptO q (execRestore s) := by
  unfold execRestore
  try dsimp only
  repeat' with_reducible first | assumption | apply kept_parts | apply kept_parts_of | apply State.runSettle_keeps | apply doRestore_keeps | apply keptO_next | apply keptO_onUnit | exact keptO_fault | simp only [kept_mk] | split

theorem execTwinTransferEnd_keeps {q : List Instr} (s : State) (h : Kept q s) :
    KeptO q (execTwinTransferEnd s) := by
  unfold execTwinTransferEnd
  try dsimp only
  repeat' with_reducible first | assumption | apply kept_parts | apply kept_parts_of | apply State.settle_keeps | apply State.transferEnd_keeps | apply keptO_next | apply keptO_onUnit | exact keptO_fault | simp only [kept_mk] | split

theorem execTwinAdopt_keeps {q : List Instr} (s : State) (h : Kept q s) :
    KeptO q (execTwinAdopt s) := by
  unfold execTwinAdopt
  try dsimp only
  repeat' with_reducible first | assumption | apply kept_parts | apply kept_parts_of | apply State.runSettle_keeps | apply doTwinAdopt_keeps | apply keptO_next | apply keptO_onUnit | exact keptO_fault | simp only [kept_mk] | split

theorem execTwinReceive_keeps {q : List Instr} (s : State) (h : Kept q s) :
    KeptO q (execTwinReceive s) := by
  unfold execTwinReceive
  try dsimp only
  repeat' with_reducible first | assumption | apply kept_parts | apply kept_parts_of | apply State.runSettle_keeps | apply doTwinReceive_keeps | apply keptO_next | apply keptO_onUnit | exact keptO_fault | simp only [kept_mk] | split

theorem execCkptRetry_keeps {q : List Instr} (s : State) (h : Kept q s) :
    KeptO q (execCkptRetry s) := by
  unfold execCkptRetry
  try dsimp only
  repeat' with_reducible first | assumption | apply kept_parts | apply kept_parts_of | apply State.runSettle_keeps | apply doCkptRetry_keeps | apply keptO_next | apply keptO_onUnit | exact keptO_fault | simp only [kept_mk] | split

theorem execTwinSend_keeps {q : List Instr} (s : State) (h : Kept q s) :
    KeptO q (execTwinSend s) := by
  unfold execTwinSend
  try dsimp only
  repeat' with_reducible first | assumption | apply kept_parts | apply kept_parts_of | apply State.runSettle_keeps | apply doTwinSend_keeps | apply keptO_next | apply keptO_onUnit | exact keptO_fault | simp only [kept_mk] | split

theorem execGlueUpWriteEnd_keeps {q : List Instr} (s : State) (h : Kept q s) :
    KeptO q (execGlueUpWriteEnd s) := by
  unfold execGlueUpWriteEnd
  try dsimp only
  repeat' with_reducible first | assumption | apply kept_parts | apply kept_parts_of | apply State.settle_keeps | apply State.imageWritten_keeps | apply keptO_next | apply keptO_onUnit | exact keptO_fault | simp only [kept_mk] | split

theorem execTwinDigestEnd_keeps {q : List Instr} (s : State) (h : Kept q s) :
    KeptO q (execTwinDigestEnd s) := by
  unfold execTwinDigestEnd
  try dsimp only
  repeat' with_reducible first | assumption | apply kept_parts | apply kept_parts_of | apply State.settle_keeps | apply State.transferDigested_keeps | apply keptO_next | apply keptO_onUnit | exact keptO_fault | simp only [kept_mk] | split

theorem execObjectWriteFail_keeps {q : List Instr} (x1 : ℕ) (x2 : Sys2Proof.ObjectFault) (s : State) (h : Kept q s) :
    KeptO q (execObjectWriteFail x1 x2 s) := by
  unfold execObjectWriteFail
  try dsimp only
  repeat' with_reducible first | assumption | apply kept_parts | apply kept_parts_of | apply State.settle_keeps | apply State.objectFailed_keeps | apply keptO_next | apply keptO_onUnit | exact keptO_fault | simp only [kept_mk] | split

theorem execCheckpointRelease_keeps {q : List Instr} (s : State) (h : Kept q s) :
    KeptO q (execCheckpointRelease s) := by
  unfold execCheckpointRelease
  try dsimp only
  repeat' with_reducible first | assumption | apply kept_parts | apply kept_parts_of | apply State.runSettle_keeps | apply doCheckpointRelease_keeps | apply keptO_next | apply keptO_onUnit | exact keptO_fault | simp only [kept_mk] | split

theorem execCkptCut_keeps {q : List Instr} (s : State) (h : Kept q s) :
    KeptO q (execCkptCut s) := by
  unfold execCkptCut
  try dsimp only
  repeat' with_reducible first | assumption | apply kept_parts | apply kept_parts_of | apply State.runSettle_keeps | apply doCkptCut_keeps | apply keptO_next | apply keptO_onUnit | exact keptO_fault | simp only [kept_mk] | split

end Sys2Proof.Machine
end

