-- ==== Sys2Proof/Laws/KeepsModule.lean ====
section
/-! SUPPORT. What every operation keeps (Kept: the canonical tables and memory, and the queue): resets, hangs, register accesses, security, boot, power and the held rows. -/

set_option linter.unusedTactic false
set_option linter.unreachableTactic false
set_option linter.unusedSimpArgs false

namespace Sys2Proof.Machine

/-! ### Machine/Resets.lean -/

theorem State.setRun_keeps {q : List Instr} (s : State) (x2 : ResetRun) (h : Kept q s) :
    Kept q (State.setRun s x2) := by
  unfold State.setRun
  try dsimp only
  repeat' with_reducible first | assumption | apply kept_parts | apply kept_parts_of | simp only [kept_mk] | split | intro _ _ _ _ _ _ | intro _ _ _ _ | intro _ _ _ | intro _ _

theorem State.benchReturns_keeps {q : List Instr} (s : State) (h : Kept q s) :
    Kept q (State.benchReturns s) := by
  unfold State.benchReturns
  try dsimp only
  repeat' with_reducible first | assumption | apply kept_parts | apply kept_parts_of | apply State.rewindQueues_keeps | apply kept_foldl | simp only [kept_mk] | split | intro _ _ _ _ _ _ | intro _ _ _ _ | intro _ _ _ | intro _ _

theorem State.endRun_keeps {q : List Instr} (s : State) (x2 : ResetRun) (x3 : Status) (h : Kept q s) :
    Kept q (State.endRun s x2 x3) := by
  unfold State.endRun
  try dsimp only
  repeat' with_reducible first | assumption | apply kept_parts | apply kept_parts_of | apply State.closeCmd_keeps | simp only [kept_mk] | split | intro _ _ _ _ _ _ | intro _ _ _ _ | intro _ _ _ | intro _ _

theorem State.coresReturn_keeps {q : List Instr} (s : State) (x2 : List ℕ) (h : Kept q s) :
    Kept q (State.coresReturn s x2) := by
  unfold State.coresReturn
  try dsimp only
  repeat' with_reducible first | assumption | apply kept_parts | apply kept_parts_of | apply State.setCore_keeps | apply kept_foldl | simp only [kept_mk] | split | intro _ _ _ _ _ _ | intro _ _ _ _ | intro _ _ _ | intro _ _

theorem State.releaseUnit_keeps {q : List Instr} (s : State) (x2 : ResetRun) (x3 : Bool) (h : Kept q s) :
    Kept q (State.releaseUnit s x2 x3) := by
  unfold State.releaseUnit
  try dsimp only
  repeat' with_reducible first | assumption | apply kept_parts | apply kept_parts_of | apply State.endRun_keeps | apply State.coresReturn_keeps | apply State.clampCore_keeps | apply State.faultRecovered_keeps | apply State.setCore_keeps | apply State.clampCluster_keeps | apply State.setCluster_keeps | apply State.clampDie_keeps | apply kept_foldl | simp only [kept_mk] | split | intro _ _ _ _ _ _ | intro _ _ _ _ | intro _ _ _ | intro _ _

theorem State.release_keeps {q : List Instr} (s : State) (x2 : Sys2Proof.DomainCode) (x3 : ℕ) (x4 : Bool) (h : Kept q s) :
    Kept q (State.release s x2 x3 x4) := by
  unfold State.release
  try dsimp only
  repeat' with_reducible first | assumption | apply kept_parts | apply kept_parts_of | apply State.bringUp_keeps | apply State.setRun_keeps | apply State.benchReturns_keeps | apply State.releaseUnit_keeps | apply State.endRun_keeps | apply kept_foldl | simp only [kept_mk] | split | intro _ _ _ _ _ _ | intro _ _ _ _ | intro _ _ _ | intro _ _

theorem execResetRelease_keeps {q : List Instr} (x1 : Sys2Proof.DomainCode) (x2 : ℕ) (x3 : Bool) (s : State) (h : Kept q s) :
    KeptO q (execResetRelease x1 x2 x3 s) := by
  unfold execResetRelease
  try dsimp only
  repeat' with_reducible first | assumption | apply kept_parts | apply kept_parts_of | apply onUnit_keeps | apply State.settle_keeps | apply State.release_keeps | apply keptO_next | apply keptO_onUnit | exact keptO_fault | simp only [kept_mk] | split

theorem State.writeBack_keeps {q : List Instr} (s : State) (us : ℕ) (h : Kept q s) : Kept q (s.writeBack us) := by
  unfold State.writeBack
  extract_lets dirty lost s1 _ s2
  have h1 : Kept q s1 := kept_foldl (fun t e ht => State.count_keeps _ _ _ ht) h
  have h2 : Kept q s2 := kept_parts h1
  split
  · exact h2
  · have hm : (dirty.foldl (fun (t : Memory) e => t.setBytes (lpddr6Back t.homeGib e.1 e.2)
        ((upFrom (lpddr6Back t.homeGib e.1 e.2) 256).map fun b => Config.lostByte s2.freeDraws b)) s2.mem).wf = true :=
      Memory.wf_foldl (wf_of_kept h2) fun _ _ hn => Memory.wf_setBytes hn
    exact State.fault_keeps _ _ _ _ _ _ (kept_parts_mem (s := s2) h2 hm)

theorem State.runReset_keeps {q : List Instr} (s : State) (x2 : ℕ) (f : OpenCmd → State → Result) (h : Kept q s) (hf : ∀ c t, Kept q t → KeptR q (f c t)) :
    KeptO q (State.runReset s x2 f) := by
  unfold State.runReset
  try dsimp only
  repeat' with_reducible first | assumption | apply kept_parts | apply kept_parts_of | apply State.settle_keeps | apply State.runFront_keeps | apply keptO_next | apply keptO_onUnit | exact keptO_fault | apply hf | simp only [kept_mk] | split | intro _ _ _ _ _ _ | intro _ _ _ _ | intro _ _ _ | intro _ _

theorem State.sendDark_keeps {q : List Instr} (s : State) (x2 : Sys2Proof.Word) (x3 : ℕ) (h : Kept q s) :
    Kept q (State.sendDark s x2 x3) := by
  unfold State.sendDark
  try dsimp only
  repeat' with_reducible first | assumption | apply kept_parts | apply kept_parts_of | apply State.putCell_keeps | apply kept_foldl | simp only [kept_mk] | split | intro _ _ _ _ _ _ | intro _ _ _ _ | intro _ _ _ | intro _ _

theorem State.fenceBench_keeps {q : List Instr} (s : State) (h : Kept q s) :
    Kept q (State.fenceBench s) := by
  unfold State.fenceBench
  try dsimp only
  repeat' with_reducible first | assumption | apply kept_parts | apply kept_parts_of | apply State.forgetWrapped_keeps | apply State.setStep_keeps | apply kept_foldl | simp only [kept_mk] | split | intro _ _ _ _ _ _ | intro _ _ _ _ | intro _ _ _ | intro _ _

theorem State.startReset_keeps {q : List Instr} (s : State) (x2 : Sys2Proof.DomainCode) (x3 : ℕ) (x4 : Option ℕ) (x5 : Bool) (h : Kept q s) :
    Kept q (State.startReset s x2 x3 x4 x5) := by
  unfold State.startReset
  try dsimp only
  repeat' with_reducible first | assumption | apply kept_parts | apply kept_parts_of | apply State.sendDark_keeps | apply State.fenceBench_keeps | simp only [kept_mk] | split

theorem State.resetBench_keeps {q : List Instr} (s : State) (x2 : ℕ) (x3 : Bool) (h : Kept q s) :
    Kept q (State.resetBench s x2 x3) := by
  unfold State.resetBench
  try dsimp only
  repeat' with_reducible first | assumption | apply kept_parts | apply kept_parts_of | apply State.fault_keeps | apply State.startReset_keeps | simp only [kept_mk] | split

theorem doReset_keeps {q : List Instr} (x1 : Sys2Proof.DomainCode) (x2 : OpenCmd) (s : State) (h : Kept q s) :
    KeptR q (doReset x1 x2 s) := by
  unfold doReset
  try dsimp only
  repeat' with_reducible first | assumption | apply kept_parts | apply kept_parts_of | apply refuse_keeps | apply State.resetBench_keeps | apply State.startReset_keeps | simp only [keptR_mk, id_eq] | apply And.intro | simp only [kept_mk] | split | intro _ _ _ _ _ _ | intro _ _ _ _ | intro _ _ _ | intro _ _

theorem execResetCarcassRouter_keeps {q : List Instr} (s : State) (h : Kept q s) :
    KeptO q (execResetCarcassRouter s) := by
  unfold execResetCarcassRouter
  try dsimp only
  repeat' with_reducible first | assumption | apply kept_parts | apply kept_parts_of | apply State.runReset_keeps | apply doReset_keeps | apply keptO_next | apply keptO_onUnit | exact keptO_fault | simp only [kept_mk] | split

theorem State.assertCore_keeps {q : List Instr} (s : State) (x2 : ℕ) (h : Kept q s) :
    Kept q (State.assertCore s x2) := by
  unfold State.assertCore
  try dsimp only
  repeat' with_reducible first | assumption | apply kept_parts | apply kept_parts_of | apply State.abortItem_keeps | apply State.itemRecord_keeps | apply State.setCore_keeps | apply State.loseCore_keeps | apply State.setCluster_keeps | apply State.dropRegs_keeps | apply kept_parts_mem | apply Memory.wf_clear | apply wf_of_kept | apply kept_foldl | simp only [kept_mk] | split | intro _ _ _ _ _ _ | intro _ _ _ _ | intro _ _ _ | intro _ _

theorem State.assertCluster_keeps {q : List Instr} (s : State) (x2 : ℕ) (h : Kept q s) :
    Kept q (State.assertCluster s x2) := by
  unfold State.assertCluster
  try dsimp only
  repeat' with_reducible first | assumption | apply kept_parts | apply kept_parts_of | apply State.assertCore_keeps | apply State.loseSlots_keeps | apply State.setCluster_keeps | apply kept_foldl | simp only [kept_mk] | split | intro _ _ _ _ _ _ | intro _ _ _ _ | intro _ _ _ | intro _ _

theorem State.assertDie_keeps {q : List Instr} (s : State) (x2 : ℕ) (h : Kept q s) :
    Kept q (State.assertDie s x2) := by
  unfold State.assertDie
  try dsimp only
  repeat' with_reducible first | assumption | apply kept_parts | apply kept_parts_of | apply State.assertCluster_keeps | apply State.cutOps_keeps | apply State.dropRegs_keeps | apply State.failStep_keeps | apply kept_parts_mem | apply Memory.wf_clear | apply wf_of_kept | apply kept_foldl | simp only [kept_mk] | split | intro _ _ _ _ _ _ | intro _ _ _ _ | intro _ _ _ | intro _ _

theorem State.assertRouter_keeps {q : List Instr} (s : State) (h : Kept q s) :
    Kept q (State.assertRouter s) := by
  unfold State.assertRouter
  try dsimp only
  repeat' with_reducible first | assumption | apply kept_parts | apply kept_parts_of | apply State.endStreams_keeps | apply State.failTransfer_keeps | apply State.failItem_keeps | apply State.dropRegs_keeps | apply State.sourceLost_keeps | apply kept_foldl | simp only [kept_mk] | split | intro _ _ _ _ _ _ | intro _ _ _ _ | intro _ _ _ | intro _ _

theorem State.assertMemory_keeps {q : List Instr} (s : State) (h : Kept q s) : Kept q s.assertMemory := by
  unfold State.assertMemory
  extract_lets s1 s2 m
  have h1 : Kept q s1 := State.writeBack_keeps _ _ h
  have h2 : Kept q s2 := kept_foldl (fun t e ht => by
    split <;> first | exact State.closeCmd_keeps _ _ _ _ ht | exact ht) h1
  have hm : m.wf = true := Memory.wf_remap (wf_of_kept h2)
  exact State.dropRegs_keeps (kept_parts_mem (s := s2) h2 hm)

theorem State.assertBench_keeps {q : List Instr} (s : State) (h : Kept q s) :
    Kept q (State.assertBench s) := by
  unfold State.assertBench
  try dsimp only
  repeat' with_reducible first | assumption | apply kept_parts | apply kept_parts_of | apply State.abortItem_keeps | apply State.itemRecord_keeps | apply State.setCore_keeps | apply State.dropRegs_keeps | apply kept_foldl | simp only [kept_mk] | split | intro _ _ _ _ _ _ | intro _ _ _ _ | intro _ _ _ | intro _ _

theorem State.assertReset_keeps {q : List Instr} (s : State) (x2 : ResetRun) (h : Kept q s) :
    Kept q (State.assertReset s x2) := by
  unfold State.assertReset
  try dsimp only
  repeat' with_reducible first | assumption | apply kept_parts | apply kept_parts_of | apply State.setRun_keeps | apply State.assertCore_keeps | apply State.assertCluster_keeps | apply State.assertDie_keeps | apply State.assertRouter_keeps | apply State.assertMemory_keeps | apply State.assertBench_keeps | simp only [kept_mk] | split | intro _ _ _ _ _ _ | intro _ _ _ _ | intro _ _ _ | intro _ _

theorem State.drainEnds_keeps {q : List Instr} (s : State) (x2 : Sys2Proof.DomainCode) (x3 : ℕ) (h : Kept q s) :
    Kept q (State.drainEnds s x2 x3) := by
  unfold State.drainEnds
  try dsimp only
  repeat' with_reducible first | assumption | apply kept_parts | apply kept_parts_of | apply State.assertReset_keeps | simp only [kept_mk] | split

theorem execRouterAssert_keeps {q : List Instr} (s : State) (h : Kept q s) :
    KeptO q (execRouterAssert s) := by
  unfold execRouterAssert
  try dsimp only
  repeat' with_reducible first | assumption | apply kept_parts | apply kept_parts_of | apply State.settle_keeps | apply State.assertReset_keeps | apply keptO_next | apply keptO_onUnit | exact keptO_fault | simp only [kept_mk] | split

theorem execResetCluster_keeps {q : List Instr} (s : State) (h : Kept q s) :
    KeptO q (execResetCluster s) := by
  unfold execResetCluster
  try dsimp only
  repeat' with_reducible first | assumption | apply kept_parts | apply kept_parts_of | apply State.runReset_keeps | apply doReset_keeps | apply keptO_next | apply keptO_onUnit | exact keptO_fault | simp only [kept_mk] | split

theorem doResetStatus_keeps {q : List Instr} (x1 : OpenCmd) (s : State) (h : Kept q s) :
    KeptR q (doResetStatus x1 s) := by
  unfold doResetStatus
  try dsimp only
  repeat' with_reducible first | assumption | apply kept_parts | apply kept_parts_of | apply done_keeps | simp only [keptR_mk, id_eq] | apply And.intro | simp only [kept_mk] | split | intro _ _ _ _ _ _ | intro _ _ _ _ | intro _ _ _ | intro _ _

theorem execRouterIngressClose_keeps {q : List Instr} (s : State) (h : Kept q s) :
    KeptO q (execRouterIngressClose s) := by
  unfold execRouterIngressClose
  try dsimp only
  repeat' with_reducible first | assumption | apply kept_parts | apply kept_parts_of | apply State.settle_keeps | apply State.setRun_keeps | apply keptO_next | apply keptO_onUnit | exact keptO_fault | simp only [kept_mk] | split

theorem State.coldReset_keeps {q : List Instr} (s : State) (cause : ℕ) (held : Bool) (h : Kept q s) :
    Kept q (s.coldReset cause held) := by
  unfold State.coldReset
  extract_lets z s1 m keep
  have h1 : Kept q s1 := by
    show Kept q (if held = true then s.writeBack 0 else s)
    split
    · exact State.writeBack_keeps _ _ h
    · exact h
  have hm : m.wf = true := Memory.wf_remap (wf_of_kept h1)
  exact ⟨h1.1, Memory.wf_filter keep hm, rfl⟩

theorem doColdReset_keeps {q : List Instr} (x1 : OpenCmd) (s : State) (h : Kept q s) :
    KeptR q (doColdReset x1 s) := by
  unfold doColdReset
  try dsimp only
  repeat' with_reducible first | assumption | apply kept_parts | apply kept_parts_of | apply State.coldReset_keeps | apply State.sendDark_keeps | simp only [keptR_mk, id_eq] | apply And.intro | simp only [kept_mk] | split | intro _ _ _ _ _ _ | intro _ _ _ _ | intro _ _ _ | intro _ _

theorem execColdReset_keeps {q : List Instr} (s : State) (h : Kept q s) :
    KeptO q (execColdReset s) := by
  unfold execColdReset
  try dsimp only
  repeat' with_reducible first | assumption | apply kept_parts | apply kept_parts_of | apply State.settle_keeps | apply State.run_keeps | apply doColdReset_keeps | apply keptO_next | apply keptO_onUnit | exact keptO_fault | simp only [kept_mk] | split

theorem doResetNone_keeps {q : List Instr} (x1 : OpenCmd) (s : State) (h : Kept q s) :
    KeptR q (doResetNone x1 s) := by
  unfold doResetNone
  try dsimp only
  repeat' with_reducible first | assumption | apply kept_parts | apply kept_parts_of | apply refuse_keeps | simp only [keptR_mk, id_eq] | apply And.intro | simp only [kept_mk] | split | intro _ _ _ _ _ _ | intro _ _ _ _ | intro _ _ _ | intro _ _

theorem execResetCore_keeps {q : List Instr} (s : State) (h : Kept q s) :
    KeptO q (execResetCore s) := by
  unfold execResetCore
  try dsimp only
  repeat' with_reducible first | assumption | apply kept_parts | apply kept_parts_of | apply State.settle_keeps | apply State.runFront_keeps | apply doReset_keeps | apply doResetNone_keeps | apply keptO_next | apply keptO_onUnit | exact keptO_fault | simp only [kept_mk] | split | intro _ _ _ _ _ _ | intro _ _ _ _ | intro _ _ _ | intro _ _

theorem execResetBench_keeps {q : List Instr} (s : State) (h : Kept q s) :
    KeptO q (execResetBench s) := by
  unfold execResetBench
  try dsimp only
  repeat' with_reducible first | assumption | apply kept_parts | apply kept_parts_of | apply State.runReset_keeps | apply doReset_keeps | apply keptO_next | apply keptO_onUnit | exact keptO_fault | simp only [kept_mk] | split

theorem execResetComputeDie_keeps {q : List Instr} (s : State) (h : Kept q s) :
    KeptO q (execResetComputeDie s) := by
  unfold execResetComputeDie
  try dsimp only
  repeat' with_reducible first | assumption | apply kept_parts | apply kept_parts_of | apply State.runReset_keeps | apply doReset_keeps | apply keptO_next | apply keptO_onUnit | exact keptO_fault | simp only [kept_mk] | split

theorem execResetCarcassMemory_keeps {q : List Instr} (s : State) (h : Kept q s) :
    KeptO q (execResetCarcassMemory s) := by
  unfold execResetCarcassMemory
  try dsimp only
  repeat' with_reducible first | assumption | apply kept_parts | apply kept_parts_of | apply State.runReset_keeps | apply doReset_keeps | apply keptO_next | apply keptO_onUnit | exact keptO_fault | simp only [kept_mk] | split

theorem execDrainWindowEnd_keeps {q : List Instr} (x1 : Sys2Proof.DomainCode) (x2 : ℕ) (s : State) (h : Kept q s) :
    KeptO q (execDrainWindowEnd x1 x2 s) := by
  unfold execDrainWindowEnd
  try dsimp only
  repeat' with_reducible first | assumption | apply kept_parts | apply kept_parts_of | apply onUnit_keeps | apply State.settle_keeps | apply State.drainEnds_keeps | apply keptO_next | apply keptO_onUnit | exact keptO_fault | simp only [kept_mk] | split

theorem execResetStatus_keeps {q : List Instr} (s : State) (h : Kept q s) :
    KeptO q (execResetStatus s) := by
  unfold execResetStatus
  try dsimp only
  repeat' with_reducible first | assumption | apply kept_parts | apply kept_parts_of | apply State.run_keeps | apply doResetStatus_keeps | apply keptO_next | apply keptO_onUnit | exact keptO_fault | simp only [kept_mk] | split

/-! ### Machine/Hangs.lean -/

theorem State.engineStall_keeps {q : List Instr} (s : State) (x2 : ℕ) (h : Kept q s) :
    Kept q (State.engineStall s x2) := by
  unfold State.engineStall
  try dsimp only
  repeat' with_reducible first | assumption | apply kept_parts | apply kept_parts_of | apply State.fault_keeps | apply State.setTx_keeps | apply State.endTx_keeps | apply State.endColl_keeps | apply State.startReset_keeps | apply kept_foldl | simp only [kept_mk] | split | intro _ _ _ _ _ _ | intro _ _ _ _ | intro _ _ _ | intro _ _

theorem execStreamStall_keeps {q : List Instr} (x1 : ℕ) (s : State) (h : Kept q s) :
    KeptO q (execStreamStall x1 s) := by
  unfold execStreamStall
  try dsimp only
  repeat' with_reducible first | assumption | apply kept_parts | apply kept_parts_of | apply onUnit_keeps | apply State.settle_keeps | apply State.engineStall_keeps | apply keptO_next | apply keptO_onUnit | exact keptO_fault | simp only [kept_mk] | split

theorem State.freezeFor_keeps {q : List Instr} (s : State) (x2 : List ℕ) (h : Kept q s) :
    Kept q (State.freezeFor s x2) := by
  unfold State.freezeFor
  try dsimp only
  repeat' with_reducible first | assumption | apply kept_parts | apply kept_parts_of | apply State.freezeRing_keeps | apply kept_foldl | simp only [kept_mk] | split | intro _ _ _ _ _ _ | intro _ _ _ _ | intro _ _ _ | intro _ _

theorem execPortStall_keeps {q : List Instr} (x1 : ℕ) (s : State) (h : Kept q s) :
    KeptO q (execPortStall x1 s) := by
  unfold execPortStall
  try dsimp only
  repeat' with_reducible first | assumption | apply kept_parts | apply kept_parts_of | apply onUnit_keeps | apply State.settle_keeps | apply State.retrainPort_keeps | apply State.fault_keeps | apply State.freezeFor_keeps | apply keptO_next | apply keptO_onUnit | exact keptO_fault | simp only [kept_mk] | split

theorem State.benchHang_keeps {q : List Instr} (s : State) (x2 : BitVec 4) (h : Kept q s) :
    Kept q (State.benchHang s x2) := by
  unfold State.benchHang
  try dsimp only
  repeat' with_reducible first | assumption | apply kept_parts | apply kept_parts_of | apply State.freezeFor_keeps | apply State.fault_keeps | apply State.coldReset_keeps | apply State.sendDark_keeps | apply State.resetBench_keeps | simp only [kept_mk] | split | intro _ _ _ _ _ _ | intro _ _ _ _ | intro _ _ _ | intro _ _

theorem execBenchHang_keeps {q : List Instr} (x1 : BitVec 4) (s : State) (h : Kept q s) :
    KeptO q (execBenchHang x1 s) := by
  unfold execBenchHang
  try dsimp only
  repeat' with_reducible first | assumption | apply kept_parts | apply kept_parts_of | apply State.settle_keeps | apply State.benchHang_keeps | apply keptO_next | apply keptO_onUnit | exact keptO_fault | simp only [kept_mk] | split

theorem State.coreHang_keeps {q : List Instr} (s : State) (x2 : ℕ) (h : Kept q s) :
    Kept q (State.coreHang s x2) := by
  unfold State.coreHang
  try dsimp only
  repeat' with_reducible first | assumption | apply kept_parts | apply kept_parts_of | apply State.freezeFor_keeps | apply State.fault_keeps | apply State.clampCluster_keeps | apply State.startReset_keeps | apply State.clampCore_keeps | simp only [kept_mk] | split | intro _ _ _ _ _ _ | intro _ _ _ _ | intro _ _ _ | intro _ _

theorem execCoreHang_keeps {q : List Instr} (x1 : ℕ) (s : State) (h : Kept q s) :
    KeptO q (execCoreHang x1 s) := by
  unfold execCoreHang
  try dsimp only
  repeat' with_reducible first | assumption | apply kept_parts | apply kept_parts_of | apply onUnit_keeps | apply State.settle_keeps | apply State.coreHang_keeps | apply keptO_next | apply keptO_onUnit | exact keptO_fault | simp only [kept_mk] | split

theorem execRomTimer_keeps {q : List Instr} (s : State) (h : Kept q s) :
    KeptO q (execRomTimer s) := by
  unfold execRomTimer
  try dsimp only
  repeat' with_reducible first | assumption | apply kept_parts | apply kept_parts_of | apply State.settle_keeps | apply State.resetBench_keeps | apply keptO_next | apply keptO_onUnit | exact keptO_fault | simp only [kept_mk] | split

/-! ### Machine/RegisterRead.lean -/

theorem doRegRead_keeps {q : List Instr} (x1 : OpenCmd) (s : State) (h : Kept q s) :
    KeptR q (doRegRead x1 s) := by
  unfold doRegRead
  try dsimp only
  repeat' with_reducible first | assumption | apply kept_parts | apply kept_parts_of | apply refuse_keeps | apply done_keeps | simp only [keptR_mk, id_eq] | apply And.intro | simp only [kept_mk] | split | intro _ _ _ _ _ _ | intro _ _ _ _ | intro _ _ _ | intro _ _

theorem execRegRead_keeps {q : List Instr} (s : State) (h : Kept q s) :
    KeptO q (execRegRead s) := by
  unfold execRegRead
  try dsimp only
  repeat' with_reducible first | assumption | apply kept_parts | apply kept_parts_of | apply State.run_keeps | apply doRegRead_keeps | apply keptO_next | apply keptO_onUnit | exact keptO_fault | simp only [kept_mk] | split

/-! ### Machine/RegisterWrite.lean -/

theorem execDrawerCarveDone_keeps {q : List Instr} (s : State) (h : Kept q s) :
    KeptO q (execDrawerCarveDone s) := by
  unfold execDrawerCarveDone
  try dsimp only
  repeat' with_reducible first | assumption | apply kept_parts | apply kept_parts_of | apply keptO_next | apply keptO_onUnit | exact keptO_fault | simp only [kept_mk] | split

theorem State.writeArm_keeps {q : List Instr} (s : State) (x2 : Sys2Proof.Word) (h : Kept q s) :
    Kept q (State.writeArm s x2) := by
  unfold State.writeArm
  try dsimp only
  repeat' with_reducible first | assumption | apply kept_parts | apply kept_parts_of | apply State.setReg_keeps | simp only [kept_mk] | split | intro _ _ _ _ _ _ | intro _ _ _ _ | intro _ _ _ | intro _ _

theorem State.writeTail_keeps {q : List Instr} (s : State) (x2 : ℕ) (x3 : ℕ) (x4 : Sys2Proof.Word) (x5 : Sys2Proof.Word) (h : Kept q s) :
    Kept q (State.writeTail s x2 x3 x4 x5) := by
  unfold State.writeTail
  try dsimp only
  repeat' with_reducible first | assumption | apply kept_parts | apply kept_parts_of | apply State.wringError_keeps | apply State.setWringTail_keeps | simp only [kept_mk] | split

theorem State.writeQueueTail_keeps {q : List Instr} (s : State) (x2 : ℕ) (x3 : Sys2Proof.Word) (h : Kept q s) :
    Kept q (State.writeQueueTail s x2 x3) := by
  unfold State.writeQueueTail
  try dsimp only
  repeat' with_reducible first | assumption | apply kept_parts | apply kept_parts_of | apply State.setBits_keeps | apply State.setReg_keeps | simp only [kept_mk] | split

theorem State.writeHead_keeps {q : List Instr} (s : State) (x2 : ℕ) (x3 : Sys2Proof.Word) (h : Kept q s) :
    Kept q (State.writeHead s x2 x3) := by
  unfold State.writeHead
  try dsimp only
  repeat' with_reducible first | assumption | apply kept_parts | apply kept_parts_of | apply State.lateAcks_keeps | apply State.releaseCring_keeps | apply State.setReg_keeps | simp only [kept_mk] | split

theorem State.carve_keeps {q : List Instr} (s : State) (x2 : Sys2Proof.Word) (h : Kept q s) :
    Kept q (State.carve s x2) := by
  unfold State.carve
  try dsimp only
  repeat' with_reducible first | assumption | apply kept_parts | apply kept_parts_of | apply State.setReg_keeps | apply State.count_keeps | apply kept_foldl | simp only [kept_mk] | split | intro _ _ _ _ _ _ | intro _ _ _ _ | intro _ _ _ | intro _ _

theorem State.writePair_keeps {q : List Instr} (s : State) (x2 : Reg) (x3 : Sys2Proof.Word) (x4 : Sys2Proof.Word) (h : Kept q s) :
    Kept q (State.writePair s x2 x3 x4) := by
  unfold State.writePair
  try dsimp only
  repeat' with_reducible first | assumption | apply kept_parts | apply kept_parts_of | apply State.setReg_keeps | apply State.writeArm_keeps | apply State.recheckPtp_keeps | apply State.retrainPort_keeps | apply State.admitTest_keeps | apply State.writeTail_keeps | apply State.writeQueueTail_keeps | apply State.writeHead_keeps | apply State.carve_keeps | apply State.releaseHeld_keeps | simp only [kept_mk] | split

theorem State.writePairs_keeps {q : List Instr} (s : State) (x2 : List (ℕ × Sys2Proof.Word × Sys2Proof.Word)) (h : Kept q s) :
    Kept q (State.writePairs s x2) := by
  unfold State.writePairs
  try dsimp only
  repeat' with_reducible first | assumption | apply kept_parts | apply kept_parts_of | apply State.writePair_keeps | apply kept_foldl | simp only [kept_mk] | split | intro _ _ _ _ _ _ | intro _ _ _ _ | intro _ _ _ | intro _ _

theorem doRegWrite_keeps {q : List Instr} (x1 : OpenCmd) (s : State) (h : Kept q s) :
    KeptR q (doRegWrite x1 s) := by
  unfold doRegWrite
  try dsimp only
  repeat' with_reducible first | assumption | apply kept_parts | apply kept_parts_of | apply refuseWith_keeps | apply done_keeps | apply State.writePairs_keeps | simp only [keptR_mk, id_eq] | apply And.intro | simp only [kept_mk] | split | intro _ _ _ _ _ _ | intro _ _ _ _ | intro _ _ _ | intro _ _

theorem State.runWrite_keeps {q : List Instr} (s : State) (x2 : Reg → Sys2Proof.Word → Bool) (h : Kept q s) :
    KeptO q (State.runWrite s x2) := by
  unfold State.runWrite
  try dsimp only
  repeat' with_reducible first | assumption | apply kept_parts | apply kept_parts_of | apply State.settle_keeps | apply State.runFront_keeps | apply doRegWrite_keeps | apply keptO_next | apply keptO_onUnit | exact keptO_fault | simp only [kept_mk] | split | intro _ _ _ _ _ _ | intro _ _ _ _ | intro _ _ _ | intro _ _

theorem execStepRetainCtrl_keeps {q : List Instr} (s : State) (h : Kept q s) :
    KeptO q (execStepRetainCtrl s) := by
  unfold execStepRetainCtrl
  try dsimp only
  repeat' with_reducible first | assumption | apply kept_parts | apply kept_parts_of | apply State.runWrite_keeps | apply keptO_next | apply keptO_onUnit | exact keptO_fault | simp only [kept_mk] | split | intro _ _ _ _ _ _ | intro _ _ _ _ | intro _ _ _ | intro _ _

theorem execNetCringBase_keeps {q : List Instr} (s : State) (h : Kept q s) :
    KeptO q (execNetCringBase s) := by
  unfold execNetCringBase
  try dsimp only
  repeat' with_reducible first | assumption | apply kept_parts | apply kept_parts_of | apply State.runWrite_keeps | apply keptO_next | apply keptO_onUnit | exact keptO_fault | simp only [kept_mk] | split | intro _ _ _ _ _ _ | intro _ _ _ _ | intro _ _ _ | intro _ _

theorem State.uncollide_keeps {q : List Instr} (s : State) (h : Kept q s) :
    Kept q (State.uncollide s) := by
  unfold State.uncollide
  try dsimp only
  repeat' with_reducible first | assumption | apply kept_parts | apply kept_parts_of | simp only [kept_mk] | split

theorem execRegWriteMasked_keeps {q : List Instr} (x1 : List (ℕ × Sys2Proof.Word)) (s : State) (h : Kept q s) :
    KeptO q (execRegWriteMasked x1 s) := by
  unfold execRegWriteMasked
  try dsimp only
  repeat' with_reducible first | assumption | apply kept_parts | apply kept_parts_of | apply State.settle_keeps | apply State.uncollide_keeps | apply State.run_keeps | apply doRegWrite_keeps | apply keptO_next | apply keptO_onUnit | exact keptO_fault | simp only [kept_mk] | split

theorem execCoreWringCtrl_keeps {q : List Instr} (s : State) (h : Kept q s) :
    KeptO q (execCoreWringCtrl s) := by
  unfold execCoreWringCtrl
  try dsimp only
  repeat' with_reducible first | assumption | apply kept_parts | apply kept_parts_of | apply State.runWrite_keeps | apply keptO_next | apply keptO_onUnit | exact keptO_fault | simp only [kept_mk] | split | intro _ _ _ _ _ _ | intro _ _ _ _ | intro _ _ _ | intro _ _

theorem execNetGeometry_keeps {q : List Instr} (s : State) (h : Kept q s) :
    KeptO q (execNetGeometry s) := by
  unfold execNetGeometry
  try dsimp only
  repeat' with_reducible first | assumption | apply kept_parts | apply kept_parts_of | apply State.runWrite_keeps | apply keptO_next | apply keptO_onUnit | exact keptO_fault | simp only [kept_mk] | split | intro _ _ _ _ _ _ | intro _ _ _ _ | intro _ _ _ | intro _ _

theorem execPortTnAdmit_keeps {q : List Instr} (s : State) (h : Kept q s) :
    KeptO q (execPortTnAdmit s) := by
  unfold execPortTnAdmit
  try dsimp only
  repeat' with_reducible first | assumption | apply kept_parts | apply kept_parts_of | apply State.runWrite_keeps | apply keptO_next | apply keptO_onUnit | exact keptO_fault | simp only [kept_mk] | split | intro _ _ _ _ _ _ | intro _ _ _ _ | intro _ _ _ | intro _ _

theorem execTtCtrl_keeps {q : List Instr} (s : State) (h : Kept q s) :
    KeptO q (execTtCtrl s) := by
  unfold execTtCtrl
  try dsimp only
  repeat' with_reducible first | assumption | apply kept_parts | apply kept_parts_of | apply State.runWrite_keeps | apply keptO_next | apply keptO_onUnit | exact keptO_fault | simp only [kept_mk] | split | intro _ _ _ _ _ _ | intro _ _ _ _ | intro _ _ _ | intro _ _

theorem State.scrub_keeps {q : List Instr} (s : State) (x2 : ℕ) (x3 : Sys2Proof.BitErrors) (h : Kept q s) :
    Kept q (State.scrub s x2 x3) := by
  unfold State.scrub
  try dsimp only
  repeat' with_reducible first | assumption | apply kept_parts | apply kept_parts_of | apply State.hit_keeps | apply State.count_keeps | apply State.unhit_keeps | apply State.fault_keeps | apply State.checkRange_keeps | simp only [kept_mk] | split | intro _ _ _ _ _ _ | intro _ _ _ _ | intro _ _ _ | intro _ _

theorem execScrubRequest_keeps {q : List Instr} (x1 : ℕ) (x2 : Sys2Proof.BitErrors) (s : State) (h : Kept q s) :
    KeptO q (execScrubRequest x1 x2 s) := by
  unfold execScrubRequest
  try dsimp only
  repeat' with_reducible first | assumption | apply kept_parts | apply kept_parts_of | apply State.settle_keeps | apply State.scrub_keeps | apply keptO_next | apply keptO_onUnit | exact keptO_fault | simp only [kept_mk] | split

theorem execRetrain_keeps {q : List Instr} (s : State) (h : Kept q s) :
    KeptO q (execRetrain s) := by
  unfold execRetrain
  try dsimp only
  repeat' with_reducible first | assumption | apply kept_parts | apply kept_parts_of | apply State.runWrite_keeps | apply keptO_next | apply keptO_onUnit | exact keptO_fault | simp only [kept_mk] | split | intro _ _ _ _ _ _ | intro _ _ _ _ | intro _ _ _ | intro _ _

theorem execNetSqPtr_keeps {q : List Instr} (s : State) (h : Kept q s) :
    KeptO q (execNetSqPtr s) := by
  unfold execNetSqPtr
  try dsimp only
  repeat' with_reducible first | assumption | apply kept_parts | apply kept_parts_of | apply State.runWrite_keeps | apply keptO_next | apply keptO_onUnit | exact keptO_fault | simp only [kept_mk] | split | intro _ _ _ _ _ _ | intro _ _ _ _ | intro _ _ _ | intro _ _

theorem execRegWrite_keeps {q : List Instr} (x1 : List (ℕ × Sys2Proof.Word)) (s : State) (h : Kept q s) :
    KeptO q (execRegWrite x1 s) := by
  unfold execRegWrite
  try dsimp only
  repeat' with_reducible first | assumption | apply kept_parts | apply kept_parts_of | apply State.settle_keeps | apply State.uncollide_keeps | apply State.run_keeps | apply doRegWrite_keeps | apply keptO_next | apply keptO_onUnit | exact keptO_fault | simp only [kept_mk] | split

theorem execNetCringPtr_keeps {q : List Instr} (s : State) (h : Kept q s) :
    KeptO q (execNetCringPtr s) := by
  unfold execNetCringPtr
  try dsimp only
  repeat' with_reducible first | assumption | apply kept_parts | apply kept_parts_of | apply State.runWrite_keeps | apply keptO_next | apply keptO_onUnit | exact keptO_fault | simp only [kept_mk] | split | intro _ _ _ _ _ _ | intro _ _ _ _ | intro _ _ _ | intro _ _

theorem execMemDrwCarve_keeps {q : List Instr} (s : State) (h : Kept q s) :
    KeptO q (execMemDrwCarve s) := by
  unfold execMemDrwCarve
  try dsimp only
  repeat' with_reducible first | assumption | apply kept_parts | apply kept_parts_of | apply State.runWrite_keeps | apply keptO_next | apply keptO_onUnit | exact keptO_fault | simp only [kept_mk] | split | intro _ _ _ _ _ _ | intro _ _ _ _ | intro _ _ _ | intro _ _

theorem execCoreWringPtr_keeps {q : List Instr} (s : State) (h : Kept q s) :
    KeptO q (execCoreWringPtr s) := by
  unfold execCoreWringPtr
  try dsimp only
  repeat' with_reducible first | assumption | apply kept_parts | apply kept_parts_of | apply State.runWrite_keeps | apply keptO_next | apply keptO_onUnit | exact keptO_fault | simp only [kept_mk] | split | intro _ _ _ _ _ _ | intro _ _ _ _ | intro _ _ _ | intro _ _

theorem execNetThrottle_keeps {q : List Instr} (s : State) (h : Kept q s) :
    KeptO q (execNetThrottle s) := by
  unfold execNetThrottle
  try dsimp only
  repeat' with_reducible first | assumption | apply kept_parts | apply kept_parts_of | apply State.runWrite_keeps | apply keptO_next | apply keptO_onUnit | exact keptO_fault | simp only [kept_mk] | split | intro _ _ _ _ _ _ | intro _ _ _ _ | intro _ _ _ | intro _ _

theorem execNetBridge_keeps {q : List Instr} (s : State) (h : Kept q s) :
    KeptO q (execNetBridge s) := by
  unfold execNetBridge
  try dsimp only
  repeat' with_reducible first | assumption | apply kept_parts | apply kept_parts_of | apply State.runWrite_keeps | apply keptO_next | apply keptO_onUnit | exact keptO_fault | simp only [kept_mk] | split | intro _ _ _ _ _ _ | intro _ _ _ _ | intro _ _ _ | intro _ _

theorem execFtEpoch_keeps {q : List Instr} (s : State) (h : Kept q s) :
    KeptO q (execFtEpoch s) := by
  unfold execFtEpoch
  try dsimp only
  repeat' with_reducible first | assumption | apply kept_parts | apply kept_parts_of | apply State.runWrite_keeps | apply keptO_next | apply keptO_onUnit | exact keptO_fault | simp only [kept_mk] | split | intro _ _ _ _ _ _ | intro _ _ _ _ | intro _ _ _ | intro _ _

theorem execNetCringCtrl_keeps {q : List Instr} (s : State) (h : Kept q s) :
    KeptO q (execNetCringCtrl s) := by
  unfold execNetCringCtrl
  try dsimp only
  repeat' with_reducible first | assumption | apply kept_parts | apply kept_parts_of | apply State.runWrite_keeps | apply keptO_next | apply keptO_onUnit | exact keptO_fault | simp only [kept_mk] | split | intro _ _ _ _ _ _ | intro _ _ _ _ | intro _ _ _ | intro _ _

theorem execCoreWringBase_keeps {q : List Instr} (s : State) (h : Kept q s) :
    KeptO q (execCoreWringBase s) := by
  unfold execCoreWringBase
  try dsimp only
  repeat' with_reducible first | assumption | apply kept_parts | apply kept_parts_of | apply State.runWrite_keeps | apply keptO_next | apply keptO_onUnit | exact keptO_fault | simp only [kept_mk] | split | intro _ _ _ _ _ _ | intro _ _ _ _ | intro _ _ _ | intro _ _

theorem execNetChip_keeps {q : List Instr} (s : State) (h : Kept q s) :
    KeptO q (execNetChip s) := by
  unfold execNetChip
  try dsimp only
  repeat' with_reducible first | assumption | apply kept_parts | apply kept_parts_of | apply State.runWrite_keeps | apply keptO_next | apply keptO_onUnit | exact keptO_fault | simp only [kept_mk] | split | intro _ _ _ _ _ _ | intro _ _ _ _ | intro _ _ _ | intro _ _

/-! ### Machine/Security.lean -/

theorem State.latchAlarm_keeps {q : List Instr} (s : State) (x2 : BitVec 7) (x3 : ℕ) (x4 : BitVec 16) (x5 : BitVec 16) (h : Kept q s) :
    Kept q (State.latchAlarm s x2 x3 x4 x5) := by
  unfold State.latchAlarm
  try dsimp only
  repeat' with_reducible first | assumption | apply kept_parts | apply kept_parts_of | simp only [kept_mk] | split

theorem State.alarmUntagged_keeps {q : List Instr} (s : State) (x2 : Event) (h : Kept q s) :
    Kept q (State.alarmUntagged s x2) := by
  unfold State.alarmUntagged
  try dsimp only
  repeat' with_reducible first | assumption | apply kept_parts | apply kept_parts_of | apply State.withComms_keeps | apply State.journalWrite_keeps | apply State.sendPacket_keeps | apply State.sendUdp_keeps | simp only [kept_mk] | split

theorem State.dropSessions_keeps {q : List Instr} (s : State) (h : Kept q s) :
    Kept q (State.dropSessions s) := by
  unfold State.dropSessions
  try dsimp only
  repeat' with_reducible first | assumption | apply kept_parts | apply kept_parts_of | apply State.emit_keeps | apply kept_foldl | simp only [kept_mk] | split | intro _ _ _ _ _ _ | intro _ _ _ _ | intro _ _ _ | intro _ _

theorem State.eraseKeys_keeps {q : List Instr} (s : State) (h : Kept q s) :
    Kept q (State.eraseKeys s) := by
  unfold State.eraseKeys
  try dsimp only
  repeat' with_reducible first | assumption | apply kept_parts | apply kept_parts_of | apply State.forgetWrapped_keeps | simp only [kept_mk] | split

theorem State.recallCores_keeps {q : List Instr} (s : State) (h : Kept q s) :
    Kept q (State.recallCores s) := by
  unfold State.recallCores
  try dsimp only
  repeat' with_reducible first | assumption | apply kept_parts | apply kept_parts_of | apply State.abortItem_keeps | apply State.itemRecord_keeps | apply State.setCore_keeps | apply kept_foldl | simp only [kept_mk] | split | intro _ _ _ _ _ _ | intro _ _ _ _ | intro _ _ _ | intro _ _

theorem State.endJobs_keeps {q : List Instr} (s : State) (x2 : Status) (h : Kept q s) :
    Kept q (State.endJobs s x2) := by
  unfold State.endJobs
  try dsimp only
  repeat' with_reducible first | assumption | apply kept_parts | apply kept_parts_of | apply State.cutEnded_keeps | apply State.holdImageEnded_keeps | apply State.ckptDone_keeps | apply State.endRestore_keeps | apply State.closeWith_keeps | apply State.setCore_keeps | apply kept_foldl | simp only [kept_mk] | split | intro _ _ _ _ _ _ | intro _ _ _ _ | intro _ _ _ | intro _ _

theorem State.endQueuePairs_keeps {q : List Instr} (s : State) (x2 : Status) (h : Kept q s) :
    Kept q (State.endQueuePairs s x2) := by
  unfold State.endQueuePairs
  try dsimp only
  repeat' with_reducible first | assumption | apply kept_parts | apply kept_parts_of | simp only [kept_mk] | split | intro _ _ _ _ _ _ | intro _ _ _ _ | intro _ _ _ | intro _ _

theorem State.alarmActions_keeps {q : List Instr} (s : State) (h : Kept q s) :
    Kept q (State.alarmActions s) := by
  unfold State.alarmActions
  try dsimp only
  repeat' with_reducible first | assumption | apply kept_parts | apply kept_parts_of | apply State.dropSessions_keeps | apply State.eraseKeys_keeps | apply State.haltSteps_keeps | apply State.setReg_keeps | apply State.recallCores_keeps | apply State.endStreams_keeps | apply State.failTransfer_keeps | apply State.endJobs_keeps | apply State.endQueuePairs_keeps | simp only [kept_mk] | split | intro _ _ _ _ _ _ | intro _ _ _ _ | intro _ _ _ | intro _ _

theorem State.burnHelper_keeps {q : List Instr} (s : State) (h : Kept q s) :
    Kept q (State.burnHelper s) := by
  unfold State.burnHelper
  try dsimp only
  repeat' with_reducible first | assumption | apply kept_parts | apply kept_parts_of | simp only [kept_mk] | split | intro _ _ _ _ _ _ | intro _ _ _ _ | intro _ _ _ | intro _ _

theorem State.raiseAlarm_keeps {q : List Instr} (s : State) (x2 : BitVec 7) (x3 : BitVec 16) (x4 : BitVec 16) (h : Kept q s) :
    Kept q (State.raiseAlarm s x2 x3 x4) := by
  unfold State.raiseAlarm
  try dsimp only
  repeat' with_reducible first | assumption | apply kept_parts | apply kept_parts_of | apply State.latchAlarm_keeps | apply State.alarmUntagged_keeps | apply State.emit_keeps | apply State.alarmActions_keeps | apply State.burnHelper_keeps | simp only [kept_mk] | split

theorem doCertRead_keeps {q : List Instr} (x1 : OpenCmd) (s : State) (h : Kept q s) :
    KeptR q (doCertRead x1 s) := by
  unfold doCertRead
  try dsimp only
  repeat' with_reducible first | assumption | apply kept_parts | apply kept_parts_of | apply refuse_keeps | apply done_keeps | simp only [keptR_mk, id_eq] | apply And.intro | simp only [kept_mk] | split | intro _ _ _ _ _ _ | intro _ _ _ _ | intro _ _ _ | intro _ _

theorem doAlarmClear_keeps {q : List Instr} (x1 : OpenCmd) (s : State) (h : Kept q s) :
    KeptR q (doAlarmClear x1 s) := by
  unfold doAlarmClear
  try dsimp only
  repeat' with_reducible first | assumption | apply kept_parts | apply kept_parts_of | apply refuse_keeps | apply done_keeps | simp only [keptR_mk, id_eq] | apply And.intro | simp only [kept_mk] | split | intro _ _ _ _ _ _ | intro _ _ _ _ | intro _ _ _ | intro _ _

theorem execAlarmClear_keeps {q : List Instr} (s : State) (h : Kept q s) :
    KeptO q (execAlarmClear s) := by
  unfold execAlarmClear
  try dsimp only
  repeat' with_reducible first | assumption | apply kept_parts | apply kept_parts_of | apply State.run_keeps | apply doAlarmClear_keeps | apply keptO_next | apply keptO_onUnit | exact keptO_fault | simp only [kept_mk] | split

theorem State.activateKey_keeps {q : List Instr} (s : State) (x2 : ℕ) (h : Kept q s) :
    Kept q (State.activateKey s x2) := by
  unfold State.activateKey
  try dsimp only
  repeat' with_reducible first | assumption | apply kept_parts | apply kept_parts_of | simp only [kept_mk] | split

theorem doImageWrite_keeps {q : List Instr} (x1 : OpenCmd) (s : State) (h : Kept q s) :
    KeptR q (doImageWrite x1 s) := by
  unfold doImageWrite
  try dsimp only
  repeat' with_reducible first | assumption | apply kept_parts | apply kept_parts_of | apply refuse_keeps | apply done_keeps | simp only [keptR_mk, id_eq] | apply And.intro | simp only [kept_mk] | split | intro _ _ _ _ _ _ | intro _ _ _ _ | intro _ _ _ | intro _ _

theorem execImageWrite_keeps {q : List Instr} (s : State) (h : Kept q s) :
    KeptO q (execImageWrite s) := by
  unfold execImageWrite
  try dsimp only
  repeat' with_reducible first | assumption | apply kept_parts | apply kept_parts_of | apply State.run_keeps | apply doImageWrite_keeps | apply keptO_next | apply keptO_onUnit | exact keptO_fault | simp only [kept_mk] | split

theorem State.storeKey_keeps {q : List Instr} (s : State) (x2 : ℕ) (x3 : ℕ) (x4 : List Sys2Proof.Byte) (x5 : Bool) (h : Kept q s) :
    Kept q (State.storeKey s x2 x3 x4 x5) := by
  unfold State.storeKey
  try dsimp only
  repeat' with_reducible first | assumption | apply kept_parts | apply kept_parts_of | simp only [kept_mk] | split

theorem keyFails_keeps {q : List Instr} (s : State) (h : Kept q s) :
    KeptR q (keyFails s) := by
  unfold keyFails
  try dsimp only
  repeat' with_reducible first | assumption | apply kept_parts | apply kept_parts_of | apply refuse_keeps | apply State.authFail_keeps | simp only [keptR_mk, id_eq] | apply And.intro | simp only [kept_mk] | split | intro _ _ _ _ _ _ | intro _ _ _ _ | intro _ _ _ | intro _ _

theorem doJobKeyInstall_keeps {q : List Instr} (x1 : OpenCmd) (s : State) (h : Kept q s) :
    KeptR q (doJobKeyInstall x1 s) := by
  unfold doJobKeyInstall
  try dsimp only
  repeat' with_reducible first | assumption | apply kept_parts | apply kept_parts_of | apply refuse_keeps | apply State.releaseHeld_keeps | apply keyFails_keeps | apply State.activateKey_keeps | apply State.storeKey_keeps | apply done_keeps | simp only [keptR_mk, id_eq] | apply And.intro | simp only [kept_mk] | split | intro _ _ _ _ _ _ | intro _ _ _ _ | intro _ _ _ | intro _ _

theorem execJobKeyInstall_keeps {q : List Instr} (s : State) (h : Kept q s) :
    KeptO q (execJobKeyInstall s) := by
  unfold execJobKeyInstall
  try dsimp only
  repeat' with_reducible first | assumption | apply kept_parts | apply kept_parts_of | apply State.run_keeps | apply doJobKeyInstall_keeps | apply keptO_next | apply keptO_onUnit | exact keptO_fault | simp only [kept_mk] | split

theorem doAttest_keeps {q : List Instr} (x1 : OpenCmd) (s : State) (h : Kept q s) :
    KeptR q (doAttest x1 s) := by
  unfold doAttest
  try dsimp only
  repeat' with_reducible first | assumption | apply kept_parts | apply kept_parts_of | apply done_keeps | simp only [keptR_mk, id_eq] | apply And.intro | simp only [kept_mk] | split | intro _ _ _ _ _ _ | intro _ _ _ _ | intro _ _ _ | intro _ _

theorem execAttest_keeps {q : List Instr} (s : State) (h : Kept q s) :
    KeptO q (execAttest s) := by
  unfold execAttest
  try dsimp only
  repeat' with_reducible first | assumption | apply kept_parts | apply kept_parts_of | apply State.run_keeps | apply doAttest_keeps | apply keptO_next | apply keptO_onUnit | exact keptO_fault | simp only [kept_mk] | split

theorem execAlarmTrigger_keeps {q : List Instr} (x1 : BitVec 7) (x2 : BitVec 16) (x3 : BitVec 16) (s : State) (h : Kept q s) :
    KeptO q (execAlarmTrigger x1 x2 x3 s) := by
  unfold execAlarmTrigger
  try dsimp only
  repeat' with_reducible first | assumption | apply kept_parts | apply kept_parts_of | apply State.settle_keeps | apply State.raiseAlarm_keeps | apply keptO_next | apply keptO_onUnit | exact keptO_fault | simp only [kept_mk] | split

theorem doIdentity_keeps {q : List Instr} (x1 : OpenCmd) (s : State) (h : Kept q s) :
    KeptR q (doIdentity x1 s) := by
  unfold doIdentity
  try dsimp only
  repeat' with_reducible first | assumption | apply kept_parts | apply kept_parts_of | apply done_keeps | simp only [keptR_mk, id_eq] | apply And.intro | simp only [kept_mk] | split | intro _ _ _ _ _ _ | intro _ _ _ _ | intro _ _ _ | intro _ _

theorem execIdentity_keeps {q : List Instr} (s : State) (h : Kept q s) :
    KeptO q (execIdentity s) := by
  unfold execIdentity
  try dsimp only
  repeat' with_reducible first | assumption | apply kept_parts | apply kept_parts_of | apply State.run_keeps | apply doIdentity_keeps | apply keptO_next | apply keptO_onUnit | exact keptO_fault | simp only [kept_mk] | split

theorem execNoticeUdpRepeat_keeps {q : List Instr} (s : State) (h : Kept q s) :
    KeptO q (execNoticeUdpRepeat s) := by
  unfold execNoticeUdpRepeat
  try dsimp only
  repeat' with_reducible first | assumption | apply kept_parts | apply kept_parts_of | apply State.putNotice_keeps | apply keptO_next | apply keptO_onUnit | exact keptO_fault | simp only [kept_mk] | split

theorem doImageCommit_keeps {q : List Instr} (x1 : List Sys2Proof.Byte) (x2 : OpenCmd) (s : State) (h : Kept q s) :
    KeptR q (doImageCommit x1 x2 s) := by
  unfold doImageCommit
  try dsimp only
  repeat' with_reducible first | assumption | apply kept_parts | apply kept_parts_of | apply refuse_keeps | apply began_keeps | simp only [keptR_mk, id_eq] | apply And.intro | simp only [kept_mk] | split | intro _ _ _ _ _ _ | intro _ _ _ _ | intro _ _ _ | intro _ _

theorem execImageCommit_keeps {q : List Instr} (x1 : List Sys2Proof.Byte) (s : State) (h : Kept q s) :
    KeptO q (execImageCommit x1 s) := by
  unfold execImageCommit
  try dsimp only
  repeat' with_reducible first | assumption | apply kept_parts | apply kept_parts_of | apply State.run_keeps | apply doImageCommit_keeps | apply keptO_next | apply keptO_onUnit | exact keptO_fault | simp only [kept_mk] | split

theorem doJobKeyErase_keeps {q : List Instr} (x1 : OpenCmd) (s : State) (h : Kept q s) :
    KeptR q (doJobKeyErase x1 s) := by
  unfold doJobKeyErase
  try dsimp only
  repeat' with_reducible first | assumption | apply kept_parts | apply kept_parts_of | apply done_keeps | apply refuse_keeps | simp only [keptR_mk, id_eq] | apply And.intro | simp only [kept_mk] | split | intro _ _ _ _ _ _ | intro _ _ _ _ | intro _ _ _ | intro _ _

theorem execJobKeyErase_keeps {q : List Instr} (s : State) (h : Kept q s) :
    KeptO q (execJobKeyErase s) := by
  unfold execJobKeyErase
  try dsimp only
  repeat' with_reducible first | assumption | apply kept_parts | apply kept_parts_of | apply State.run_keeps | apply doJobKeyErase_keeps | apply keptO_next | apply keptO_onUnit | exact keptO_fault | simp only [kept_mk] | split

theorem doAlarmStatus_keeps {q : List Instr} (x1 : OpenCmd) (s : State) (h : Kept q s) :
    KeptR q (doAlarmStatus x1 s) := by
  unfold doAlarmStatus
  try dsimp only
  repeat' with_reducible first | assumption | apply kept_parts | apply kept_parts_of | apply done_keeps | simp only [keptR_mk, id_eq] | apply And.intro | simp only [kept_mk] | split | intro _ _ _ _ _ _ | intro _ _ _ _ | intro _ _ _ | intro _ _

theorem State.wipe_keeps {q : List Instr} (s : State) (h : Kept q s) : Kept q s.wipe := ⟨h.1, ⟨rfl, rfl⟩, h.2.2⟩

theorem execCertRead_keeps {q : List Instr} (s : State) (h : Kept q s) :
    KeptO q (execCertRead s) := by
  unfold execCertRead
  try dsimp only
  repeat' with_reducible first | assumption | apply kept_parts | apply kept_parts_of | apply State.run_keeps | apply doCertRead_keeps | apply keptO_next | apply keptO_onUnit | exact keptO_fault | simp only [kept_mk] | split

theorem execAlarmStatus_keeps {q : List Instr} (s : State) (h : Kept q s) :
    KeptO q (execAlarmStatus s) := by
  unfold execAlarmStatus
  try dsimp only
  repeat' with_reducible first | assumption | apply kept_parts | apply kept_parts_of | apply State.run_keeps | apply doAlarmStatus_keeps | apply keptO_next | apply keptO_onUnit | exact keptO_fault | simp only [kept_mk] | split

theorem execWipeEnd_keeps {q : List Instr} (s : State) (h : Kept q s) :
    KeptO q (execWipeEnd s) := by
  unfold execWipeEnd
  try dsimp only
  repeat' with_reducible first | assumption | apply kept_parts | apply kept_parts_of | apply State.wipe_keeps | apply keptO_next | apply keptO_onUnit | exact keptO_fault | simp only [kept_mk] | split

/-! ### Machine/Boot.lean -/

theorem State.calibrated_keeps {q : List Instr} (s : State) (h : Kept q s) :
    Kept q (State.calibrated s) := by
  unfold State.calibrated
  try dsimp only
  repeat' with_reducible first | assumption | apply kept_parts | apply kept_parts_of | simp only [kept_mk] | split | intro _ _ _ _ _ _ | intro _ _ _ _ | intro _ _ _ | intro _ _

theorem State.workDone_keeps {q : List Instr} (s : State) (x2 : ℕ) (h : Kept q s) :
    Kept q (State.workDone s x2) := by
  unfold State.workDone
  try dsimp only
  repeat' with_reducible first | assumption | apply kept_parts | apply kept_parts_of | simp only [kept_mk] | split

theorem State.completeWipe_keeps {q : List Instr} (s : State) (h : Kept q s) :
    Kept q (State.completeWipe s) := by
  unfold State.completeWipe
  try dsimp only
  repeat' with_reducible first | assumption | apply kept_parts | apply kept_parts_of | apply State.wipe_keeps | apply State.eraseKeys_keeps | apply State.burnHelper_keeps | simp only [kept_mk] | split

theorem State.nextStage_keeps {q : List Instr} (s : State) (x2 : ℕ) (h : Kept q s) :
    Kept q (State.nextStage s x2) := by
  unfold State.nextStage
  try dsimp only
  repeat' with_reducible first | assumption | apply kept_parts | apply kept_parts_of | apply State.workDone_keeps | apply State.completeWipe_keeps | simp only [kept_mk] | split

theorem State.romEnds_keeps {q : List Instr} (s : State) (x2 : Bool) (x3 : Bool) (h : Kept q s) :
    Kept q (State.romEnds s x2 x3) := by
  unfold State.romEnds
  try dsimp only
  repeat' with_reducible first | assumption | apply kept_parts | apply kept_parts_of | apply State.nextStage_keeps | simp only [kept_mk] | split

theorem State.loadImages_keeps {q : List Instr} (s : State) (x2 : Bool) (x3 : ℕ × ℕ × ℕ) (x4 : BitVec 32 × BitVec 32 × BitVec 32) (x5 : BitVec 4) (x6 : ℕ × ℕ × ℕ) (x7 : Sys2Proof.ConfigImage) (h : Kept q s) :
    Kept q (State.loadImages s x2 x3 x4 x5 x6 x7) := by
  unfold State.loadImages
  try dsimp only
  repeat' with_reducible first | assumption | apply kept_parts | apply kept_parts_of | simp only [kept_mk] | split

theorem State.stopAt_keeps {q : List Instr} (s : State) (x2 : ℕ) (x3 : Status) (h : Kept q s) :
    Kept q (State.stopAt s x2 x3) := by
  unfold State.stopAt
  try dsimp only
  repeat' with_reducible first | assumption | apply kept_parts | apply kept_parts_of | simp only [kept_mk] | split

theorem State.imagesEnd_keeps {q : List Instr} (s : State) (x2 : Bool) (x3 : Bool) (x4 : Bool) (x5 : ℕ × ℕ × ℕ) (x6 : BitVec 32 × BitVec 32 × BitVec 32) (x7 : BitVec 4) (x8 : ℕ × ℕ × ℕ) (x9 : Sys2Proof.ConfigImage) (h : Kept q s) :
    Kept q (State.imagesEnd s x2 x3 x4 x5 x6 x7 x8 x9) := by
  unfold State.imagesEnd
  try dsimp only
  repeat' with_reducible first | assumption | apply kept_parts | apply kept_parts_of | apply State.loadImages_keeps | apply State.stopAt_keeps | apply State.raiseAlarm_keeps | apply State.nextStage_keeps | simp only [kept_mk] | split

theorem State.journalEnds_keeps {q : List Instr} (s : State) (h : Kept q s) :
    Kept q (State.journalEnds s) := by
  unfold State.journalEnds
  try dsimp only
  repeat' with_reducible first | assumption | apply kept_parts | apply kept_parts_of | apply State.recoverJournal_keeps | apply State.emitWaiting_keeps | apply State.journalNotices_keeps | apply State.settleHeld_keeps | apply State.nextStage_keeps | simp only [kept_mk] | split | intro _ _ _ _ _ _ | intro _ _ _ _ | intro _ _ _ | intro _ _

theorem State.pairTable_keeps {q : List Instr} (s : State) (x2 : List (BitVec 8)) (h : Kept q s) :
    Kept q (State.pairTable s x2) := by
  unfold State.pairTable
  try dsimp only
  repeat' with_reducible first | assumption | apply kept_parts | apply kept_parts_of | simp only [kept_mk] | split | intro _ _ _ _ _ _ | intro _ _ _ _ | intro _ _ _ | intro _ _

theorem State.pairDies_keeps {q : List Instr} (s : State) (x2 : List (BitVec 8)) (x3 : ℕ × ℕ) (x4 : ℕ × ℕ) (h : Kept q s) :
    Kept q (State.pairDies s x2 x3 x4) := by
  unfold State.pairDies
  try dsimp only
  repeat' with_reducible first | assumption | apply kept_parts | apply kept_parts_of | apply kept_foldl | simp only [kept_mk] | split | intro _ _ _ _ _ _ | intro _ _ _ _ | intro _ _ _ | intro _ _

theorem State.diesEnd_keeps {q : List Instr} (s : State) (x2 : List (BitVec 8)) (x3 : BitVec 8) (x4 : BitVec 8) (x5 : BitVec 24) (x6 : BitVec 24) (x7 : BitVec 24) (h : Kept q s) :
    Kept q (State.diesEnd s x2 x3 x4 x5 x6 x7) := by
  unfold State.diesEnd
  try dsimp only
  repeat' with_reducible first | assumption | apply kept_parts | apply kept_parts_of | apply State.setDie_keeps | apply State.clampDie_keeps | apply State.pairTable_keeps | apply State.pairDies_keeps | apply State.nextStage_keeps | apply State.stopAt_keeps | apply kept_foldl | simp only [kept_mk] | split | intro _ _ _ _ _ _ | intro _ _ _ _ | intro _ _ _ | intro _ _

theorem State.raiseRecord_keeps {q : List Instr} (s : State) (h : Kept q s) :
    Kept q (State.raiseRecord s) := by
  unfold State.raiseRecord
  try dsimp only
  repeat' with_reducible first | assumption | apply kept_parts | apply kept_parts_of | apply kept_foldl | simp only [kept_mk] | split | intro _ _ _ _ _ _ | intro _ _ _ _ | intro _ _ _ | intro _ _

theorem State.bootEvent_keeps {q : List Instr} (s : State) (x2 : Status) (x3 : ℕ) (h : Kept q s) :
    Kept q (State.bootEvent s x2 x3) := by
  unfold State.bootEvent
  try dsimp only
  repeat' with_reducible first | assumption | apply kept_parts | apply kept_parts_of | apply State.emit_keeps | simp only [kept_mk] | split

theorem State.commandReadyEnds_keeps {q : List Instr} (s : State) (h : Kept q s) :
    Kept q (State.commandReadyEnds s) := by
  unfold State.commandReadyEnds
  try dsimp only
  repeat' with_reducible first | assumption | apply kept_parts | apply kept_parts_of | apply State.raiseRecord_keeps | apply State.bringUp_keeps | apply State.bootEvent_keeps | apply State.nextStage_keeps | apply kept_foldl | simp only [kept_mk] | split | intro _ _ _ _ _ _ | intro _ _ _ _ | intro _ _ _ | intro _ _

theorem State.lpddr6Fails_keeps {q : List Instr} (s : State) (x2 : List (ℕ × BitVec 8)) (h : Kept q s) :
    Kept q (State.lpddr6Fails s x2) := by
  unfold State.lpddr6Fails
  try dsimp only
  repeat' with_reducible first | assumption | apply kept_parts | apply kept_parts_of | apply State.clampDie_keeps | apply State.fault_keeps | apply State.bootEvent_keeps | apply kept_foldl | simp only [kept_mk] | split | intro _ _ _ _ _ _ | intro _ _ _ _ | intro _ _ _ | intro _ _

theorem State.memoryEnds_keeps {q : List Instr} (s : State) (x2 : List (ℕ × BitVec 8)) (x3 : BitVec 24) (h : Kept q s) :
    Kept q (State.memoryEnds s x2 x3) := by
  unfold State.memoryEnds
  try dsimp only
  repeat' with_reducible first | assumption | apply kept_parts | apply kept_parts_of | apply State.calibrated_keeps | apply State.clampDie_keeps | apply State.nextStage_keeps | apply State.lpddr6Fails_keeps | apply kept_parts_mem | apply Memory.wf_clear | apply wf_of_kept | apply kept_foldl | simp only [kept_mk] | split | intro _ _ _ _ _ _ | intro _ _ _ _ | intro _ _ _ | intro _ _

theorem State.computeEnds_keeps {q : List Instr} (s : State) (x2 : List (ℕ × BitVec 32)) (x3 : List ℕ) (x4 : List ℕ) (h : Kept q s) :
    Kept q (State.computeEnds s x2 x3 x4) := by
  unfold State.computeEnds
  try dsimp only
  repeat' with_reducible first | assumption | apply kept_parts | apply kept_parts_of | apply State.clampCore_keeps | apply State.clampCluster_keeps | apply State.nextStage_keeps | apply kept_foldl | simp only [kept_mk] | split | intro _ _ _ _ _ _ | intro _ _ _ _ | intro _ _ _ | intro _ _

theorem State.trainingReadyEnds_keeps {q : List Instr} (s : State) (h : Kept q s) :
    Kept q (State.trainingReadyEnds s) := by
  unfold State.trainingReadyEnds
  try dsimp only
  repeat' with_reducible first | assumption | apply kept_parts | apply kept_parts_of | apply State.bootEvent_keeps | simp only [kept_mk] | split

theorem State.stageEnds_keeps {q : List Instr} (s : State) (x2 : Sys2Proof.StageOutcome) (h : Kept q s) :
    Kept q (State.stageEnds s x2) := by
  unfold State.stageEnds
  try dsimp only
  repeat' with_reducible first | assumption | apply kept_parts | apply kept_parts_of | apply State.romEnds_keeps | apply State.imagesEnd_keeps | apply State.journalEnds_keeps | apply State.diesEnd_keeps | apply State.commandReadyEnds_keeps | apply State.memoryEnds_keeps | apply State.computeEnds_keeps | apply State.trainingReadyEnds_keeps | simp only [kept_mk] | split

theorem execBootStageEnd_keeps {q : List Instr} (x1 : Sys2Proof.StageOutcome) (s : State) (h : Kept q s) :
    KeptO q (execBootStageEnd x1 s) := by
  unfold execBootStageEnd
  try dsimp only
  repeat' with_reducible first | assumption | apply kept_parts | apply kept_parts_of | apply State.settle_keeps | apply State.stageEnds_keeps | apply keptO_next | apply keptO_onUnit | exact keptO_fault | simp only [kept_mk] | split

/-! ### Machine/Power.lean -/

theorem State.failNotice_keeps {q : List Instr} (s : State) (h : Kept q s) :
    Kept q (State.failNotice s) := by
  unfold State.failNotice
  try dsimp only
  repeat' with_reducible first | assumption | apply kept_parts | apply kept_parts_of | apply State.sendDark_keeps | apply State.fault_keeps | simp only [kept_mk] | split

theorem execPowerFailNotice_keeps {q : List Instr} (s : State) (h : Kept q s) :
    KeptO q (execPowerFailNotice s) := by
  unfold execPowerFailNotice
  try dsimp only
  repeat' with_reducible first | assumption | apply kept_parts | apply kept_parts_of | apply State.failNotice_keeps | apply keptO_next | apply keptO_onUnit | exact keptO_fault | simp only [kept_mk] | split

theorem State.serviceLine_keeps {q : List Instr} (s : State) (h : Kept q s) :
    Kept q (State.serviceLine s) := by
  unfold State.serviceLine
  try dsimp only
  repeat' with_reducible first | assumption | apply kept_parts | apply kept_parts_of | simp only [kept_mk] | split

theorem State.powerUp_keeps {q : List Instr} (s : State) (h : Kept q s) :
    Kept q (State.powerUp s) := by
  unfold State.powerUp
  try dsimp only
  repeat' with_reducible first | assumption | apply kept_parts | apply kept_parts_of | apply State.serviceLine_keeps | simp only [kept_mk] | split

theorem State.railsOff_keeps {q : List Instr} (s : State) (h : Kept q s) :
    Kept q (State.railsOff s) := by
  unfold State.railsOff
  try dsimp only
  repeat' with_reducible first | assumption | apply kept_parts | apply kept_parts_of | apply State.coldReset_keeps | apply State.powerUp_keeps | simp only [kept_mk] | split

theorem execPowerFailRailsOff_keeps {q : List Instr} (s : State) (h : Kept q s) :
    KeptO q (execPowerFailRailsOff s) := by
  unfold execPowerFailRailsOff
  try dsimp only
  repeat' with_reducible first | assumption | apply kept_parts | apply kept_parts_of | apply State.railsOff_keeps | apply keptO_next | apply keptO_onUnit | exact keptO_fault | simp only [kept_mk] | split

theorem execPowerGood_keeps {q : List Instr} (s : State) (h : Kept q s) :
    KeptO q (execPowerGood s) := by
  unfold execPowerGood
  try dsimp only
  repeat' with_reducible first | assumption | apply kept_parts | apply kept_parts_of | apply State.coldReset_keeps | apply keptO_next | apply keptO_onUnit | exact keptO_fault | simp only [kept_mk] | split

theorem State.goDark_keeps {q : List Instr} (s : State) (h : Kept q s) :
    Kept q (State.goDark s) := by
  unfold State.goDark
  try dsimp only
  repeat' with_reducible first | assumption | apply kept_parts | apply kept_parts_of | apply State.setPort_keeps | apply State.portTo_keeps | apply kept_foldl | simp only [kept_mk] | split | intro _ _ _ _ _ _ | intro _ _ _ _ | intro _ _ _ | intro _ _

theorem execDarkFtReached_keeps {q : List Instr} (s : State) (h : Kept q s) :
    KeptO q (execDarkFtReached s) := by
  unfold execDarkFtReached
  try dsimp only
  repeat' with_reducible first | assumption | apply kept_parts | apply kept_parts_of | apply State.goDark_keeps | apply keptO_next | apply keptO_onUnit | exact keptO_fault | simp only [kept_mk] | split

theorem State.feedIn_keeps {q : List Instr} (s : State) (x2 : ℕ) (h : Kept q s) :
    Kept q (State.feedIn s x2) := by
  unfold State.feedIn
  try dsimp only
  repeat' with_reducible first | assumption | apply kept_parts | apply kept_parts_of | apply State.faultRecovered_keeps | apply State.powerUp_keeps | simp only [kept_mk] | split

theorem State.declareFail_keeps {q : List Instr} (s : State) (h : Kept q s) :
    Kept q (State.declareFail s) := by
  unfold State.declareFail
  try dsimp only
  repeat' with_reducible first | assumption | apply kept_parts | apply kept_parts_of | simp only [kept_mk] | split

theorem State.failOrOff_keeps {q : List Instr} (s : State) (h : Kept q s) :
    Kept q (State.failOrOff s) := by
  unfold State.failOrOff
  try dsimp only
  repeat' with_reducible first | assumption | apply kept_parts | apply kept_parts_of | apply State.declareFail_keeps | simp only [kept_mk] | split

theorem State.evaluate_keeps {q : List Instr} (s : State) (x2 : Sys2Proof.Telemetry) (h : Kept q s) :
    Kept q (State.evaluate s x2) := by
  unfold State.evaluate
  try dsimp only
  repeat' with_reducible first | assumption | apply kept_parts | apply kept_parts_of | apply State.setDie_keeps | apply kept_foldl | simp only [kept_mk] | split | intro _ _ _ _ _ _ | intro _ _ _ _ | intro _ _ _ | intro _ _

theorem execPowerEvaluation_keeps {q : List Instr} (x1 : Sys2Proof.Telemetry) (s : State) (h : Kept q s) :
    KeptO q (execPowerEvaluation x1 s) := by
  unfold execPowerEvaluation
  try dsimp only
  repeat' with_reducible first | assumption | apply kept_parts | apply kept_parts_of | apply State.evaluate_keeps | apply keptO_next | apply keptO_onUnit | exact keptO_fault | simp only [kept_mk] | split

theorem execSvcEn_keeps {q : List Instr} (x1 : Bool) (s : State) (h : Kept q s) :
    KeptO q (execSvcEn x1 s) := by
  unfold execSvcEn
  try dsimp only
  repeat' with_reducible first | assumption | apply kept_parts | apply kept_parts_of | apply State.powerUp_keeps | apply keptO_next | apply keptO_onUnit | exact keptO_fault | simp only [kept_mk] | split

theorem execThermalTripClear_keeps {q : List Instr} (s : State) (h : Kept q s) :
    KeptO q (execThermalTripClear s) := by
  unfold execThermalTripClear
  try dsimp only
  repeat' with_reducible first | assumption | apply kept_parts | apply kept_parts_of | apply State.powerUp_keeps | apply keptO_next | apply keptO_onUnit | exact keptO_fault | simp only [kept_mk] | split

theorem execAuxiliaryInputChange_keeps {q : List Instr} (x1 : Bool) (s : State) (h : Kept q s) :
    KeptO q (execAuxiliaryInputChange x1 s) := by
  unfold execAuxiliaryInputChange
  try dsimp only
  repeat' with_reducible first | assumption | apply kept_parts | apply kept_parts_of | apply State.serviceLine_keeps | apply keptO_next | apply keptO_onUnit | exact keptO_fault | simp only [kept_mk] | split

theorem execColdResetN_keeps {q : List Instr} (x1 : Bool) (x2 : ℕ) (s : State) (h : Kept q s) :
    KeptO q (execColdResetN x1 x2 s) := by
  unfold execColdResetN
  try dsimp only
  repeat' with_reducible first | assumption | apply kept_parts | apply kept_parts_of | apply State.powerUp_keeps | apply State.serviceLine_keeps | apply State.failOrOff_keeps | apply keptO_next | apply keptO_onUnit | exact keptO_fault | simp only [kept_mk] | split

theorem State.feedOut_keeps {q : List Instr} (s : State) (x2 : ℕ) (h : Kept q s) :
    Kept q (State.feedOut s x2) := by
  unfold State.feedOut
  try dsimp only
  repeat' with_reducible first | assumption | apply kept_parts | apply kept_parts_of | apply State.fault_keeps | apply State.serviceLine_keeps | simp only [kept_mk] | split

theorem execFeedLeavesRange_keeps {q : List Instr} (x1 : ℕ) (s : State) (h : Kept q s) :
    KeptO q (execFeedLeavesRange x1 s) := by
  unfold execFeedLeavesRange
  try dsimp only
  repeat' with_reducible first | assumption | apply kept_parts | apply kept_parts_of | apply onUnit_keeps | apply State.feedOut_keeps | apply keptO_next | apply keptO_onUnit | exact keptO_fault | simp only [kept_mk] | split

theorem execPowerFail_keeps {q : List Instr} (s : State) (h : Kept q s) :
    KeptO q (execPowerFail s) := by
  unfold execPowerFail
  try dsimp only
  repeat' with_reducible first | assumption | apply kept_parts | apply kept_parts_of | apply State.serviceLine_keeps | apply State.declareFail_keeps | apply keptO_next | apply keptO_onUnit | exact keptO_fault | simp only [kept_mk] | split

theorem execFeedQualified_keeps {q : List Instr} (x1 : ℕ) (s : State) (h : Kept q s) :
    KeptO q (execFeedQualified x1 s) := by
  unfold execFeedQualified
  try dsimp only
  repeat' with_reducible first | assumption | apply kept_parts | apply kept_parts_of | apply onUnit_keeps | apply State.feedIn_keeps | apply keptO_next | apply keptO_onUnit | exact keptO_fault | simp only [kept_mk] | split

theorem execThermalTrip_keeps {q : List Instr} (x1 : ℕ) (s : State) (h : Kept q s) :
    KeptO q (execThermalTrip x1 s) := by
  unfold execThermalTrip
  try dsimp only
  repeat' with_reducible first | assumption | apply kept_parts | apply kept_parts_of | apply onUnit_keeps | apply State.failOrOff_keeps | apply keptO_next | apply keptO_onUnit | exact keptO_fault | simp only [kept_mk] | split

/-! ### Machine/Held.lean -/

theorem meaningLow_keeps {q : List Instr} (x1 : Sys2Proof.BitErrors) (x2 : ℕ) (x3 : OpenCmd) (s : State) (h : Kept q s) :
    KeptR q (meaningLow x1 x2 x3 s) := by
  unfold meaningLow
  try dsimp only
  repeat' with_reducible first | assumption | apply kept_parts | apply kept_parts_of | apply doSessionInit_keeps | apply doSessionConfirm_keeps | apply doSessionClose_keeps | apply doPing_keeps | apply doOwnerClaim_keeps | apply doOwnerRelease_keeps | apply doSessionList_keeps | apply doIdentity_keeps | apply doCertRead_keeps | apply doAttest_keeps | apply doRegRead_keeps | apply doRegWrite_keeps | apply doMemRead_keeps | apply doMemWrite_keeps | apply doMemFill_keeps | apply doMemCopy_keeps | apply doMemDigest_keeps | apply doPartitionSet_keeps | apply doPartitionGet_keeps | apply doQpCreate_keeps | apply doQpDestroy_keeps | apply doDestTableLoad_keeps | apply refuse_keeps | simp only [keptR_mk, id_eq] | apply And.intro | simp only [kept_mk] | split | intro _ _ _ _ _ _ | intro _ _ _ _ | intro _ _ _ | intro _ _

theorem doStepControl_keeps {q : List Instr} (x1 : OpenCmd) (s : State) (h : Kept q s) :
    KeptR q (doStepControl x1 s) := by
  unfold doStepControl
  try dsimp only
  repeat' with_reducible first | assumption | apply kept_parts | apply kept_parts_of | apply doHalt_keeps | apply doStepSeal_keeps | apply doStepRecall_keeps | apply doResume_keeps | simp only [keptR_mk, id_eq] | apply And.intro | simp only [kept_mk] | split | intro _ _ _ _ _ _ | intro _ _ _ _ | intro _ _ _ | intro _ _

theorem doResetDomain_keeps {q : List Instr} (x1 : OpenCmd) (s : State) (h : Kept q s) :
    KeptR q (doResetDomain x1 s) := by
  unfold doResetDomain
  try dsimp only
  repeat' with_reducible first | assumption | apply kept_parts | apply kept_parts_of | apply doResetNone_keeps | apply doReset_keeps | simp only [keptR_mk, id_eq] | apply And.intro | simp only [kept_mk] | split | intro _ _ _ _ _ _ | intro _ _ _ _ | intro _ _ _ | intro _ _

theorem meaningHigh_keeps {q : List Instr} (x1 : List (ℕ × ℕ × ℕ)) (x2 : List Sys2Proof.Byte) (x3 : ℕ) (x4 : OpenCmd) (s : State) (h : Kept q s) :
    KeptR q (meaningHigh x1 x2 x3 x4 s) := by
  unfold meaningHigh
  try dsimp only
  repeat' with_reducible first | assumption | apply kept_parts | apply kept_parts_of | apply doProgramLoad_keeps | apply doProgramUnload_keeps | apply doTtWrite_keeps | apply doTtRemove_keeps | apply doTtRead_keeps | apply doStepParam_keeps | apply doStepControl_keeps | apply doStepStatus_keeps | apply doClamp_keeps | apply doUnclamp_keeps | apply doLedgerIndex_keeps | apply doLedgerRead_keeps | apply doLedgerPin_keeps | apply doFieldTest_keeps | apply doTwinSend_keeps | apply doTwinReceive_keeps | apply doTwinAdopt_keeps | apply doCkptCut_keeps | apply doCheckpointRelease_keeps | apply doCkptRetry_keeps | apply doRestore_keeps | apply doJournalSummary_keeps | apply doJournalRead_keeps | apply doJournalCompact_keeps | apply doSnapshotNow_keeps | apply doSnapshotRead_keeps | apply doTraceCtrl_keeps | apply doTraceRead_keeps | apply doTelemetryRead_keeps | apply doPwrStatus_keeps | apply doPwrCap_keeps | apply doResetDomain_keeps | apply doColdReset_keeps | apply doImageWrite_keeps | apply doImageCommit_keeps | apply doResetStatus_keeps | apply doJobKeyInstall_keeps | apply doJobKeyErase_keeps | apply doAlarmStatus_keeps | apply doAlarmClear_keeps | apply refuse_keeps | simp only [keptR_mk, id_eq] | apply And.intro | simp only [kept_mk] | split | intro _ _ _ _ _ _ | intro _ _ _ _ | intro _ _ _ | intro _ _

theorem meaningOf_keeps {q : List Instr} (x1 : Sys2Proof.BitErrors) (x2 : List (ℕ × ℕ × ℕ)) (x3 : List Sys2Proof.Byte) (x4 : ℕ) (x5 : OpenCmd) (s : State) (h : Kept q s) :
    KeptR q (meaningOf x1 x2 x3 x4 x5 s) := by
  unfold meaningOf
  try dsimp only
  repeat' with_reducible first | assumption | apply kept_parts | apply kept_parts_of | apply meaningLow_keeps | apply meaningHigh_keeps | simp only [keptR_mk, id_eq] | apply And.intro | simp only [kept_mk] | split | intro _ _ _ _ _ _ | intro _ _ _ _ | intro _ _ _ | intro _ _

theorem execNotBeforeLockTimeout_keeps {q : List Instr} (s : State) (h : Kept q s) :
    KeptO q (execNotBeforeLockTimeout s) := by
  unfold execNotBeforeLockTimeout
  try dsimp only
  repeat' with_reducible first | assumption | apply kept_parts | apply kept_parts_of | apply State.settleHeld_keeps | apply keptO_next | apply keptO_onUnit | exact keptO_fault | simp only [kept_mk] | split

theorem State.executeHeld_keeps {q : List Instr} (s : State) (f : ℕ → OpenCmd → State → Result) (h : Kept q s) (hf : ∀ n c t, Kept q t → KeptR q (f n c t)) :
    Kept q (State.executeHeld s f) := by
  unfold State.executeHeld
  try dsimp only
  repeat' with_reducible first | assumption | apply kept_parts | apply kept_parts_of | apply State.conclude_keeps | apply State.attempt_keeps | apply State.trace_keeps | apply hf | simp only [kept_mk] | split | intro _ _ _ _ _ _ | intro _ _ _ _ | intro _ _ _ | intro _ _

theorem execNotBeforeExecute_keeps {q : List Instr} (x1 : Sys2Proof.BitErrors) (x2 : List (ℕ × ℕ × ℕ)) (x3 : List Sys2Proof.Byte) (s : State) (h : Kept q s) :
    KeptO q (execNotBeforeExecute x1 x2 x3 s) := by
  unfold execNotBeforeExecute
  try dsimp only
  repeat' with_reducible first | assumption | apply kept_parts | apply kept_parts_of | apply State.settle_keeps | apply State.executeHeld_keeps | apply meaningOf_keeps | apply keptO_next | apply keptO_onUnit | exact keptO_fault | simp only [kept_mk] | split

theorem State.longEnds_keeps {q : List Instr} (s : State) (x2 : ℕ) (x3 : LongOp) (h : Kept q s) :
    Kept q (State.longEnds s x2 x3) := by
  unfold State.longEnds
  try dsimp only
  repeat' with_reducible first | assumption | apply kept_parts | apply kept_parts_of | apply State.memoryEnd_keeps | apply State.fieldTestEnd_keeps | apply State.loadProgram_keeps | apply State.closeCmd_keeps | simp only [kept_mk] | split

theorem execLongOperationEnd_keeps {q : List Instr} (x1 : ℕ) (x2 : Sys2Proof.BitErrors) (s : State) (h : Kept q s) :
    KeptO q (execLongOperationEnd x1 x2 s) := by
  unfold execLongOperationEnd
  try dsimp only
  repeat' with_reducible first | assumption | apply kept_parts | apply kept_parts_of | apply State.settle_keeps | apply State.unhit_keeps | apply State.longEnds_keeps | apply State.hit_keeps | apply keptO_next | apply keptO_onUnit | exact keptO_fault | simp only [kept_mk] | split

/-! ### Machine/Idle.lean -/

theorem State.fabricGoesOn_keeps {q : List Instr} (s : State) (h : Kept q s) :
    Kept q (State.fabricGoesOn s) := by
  unfold State.fabricGoesOn
  try dsimp only
  repeat' with_reducible first | assumption | apply kept_parts | apply kept_parts_of | apply State.settleFabric_keeps | simp only [kept_mk] | split | intro _ _ _ _ _ _ | intro _ _ _ _ | intro _ _ _ | intro _ _

theorem State.count1_keeps {q : List Instr} (s : State) (h : Kept q s) :
    Kept q (State.count1 s) := by
  unfold State.count1
  try dsimp only
  repeat' with_reducible first | assumption | apply kept_parts | apply kept_parts_of | simp only [kept_mk] | split

theorem State.tick_keeps {q : List Instr} (s : State) (h : Kept q s) :
    Kept q (State.tick s) := by
  unfold State.tick
  try dsimp only
  repeat' with_reducible first | assumption | apply kept_parts | apply kept_parts_of | apply State.fabricGoesOn_keeps | apply State.sendMarkers_keeps | apply State.count1_keeps | apply State.compactionEnd_keeps | simp only [kept_mk] | split

end Sys2Proof.Machine
end

