-- ==== Sys2Proof/Laws/Frames.lean ====
section
/-! SUPPORT. What the shared operations leave as it was: the lemmas that proofs about a command cite instead of unfolding
them. -/

set_option linter.unusedTactic false
set_option linter.unreachableTactic false
set_option linter.unusedVariables false
set_option linter.unusedSimpArgs false

namespace Sys2Proof.Machine

/-! ### The parts of the state that answering a command may change -/

theorem onUnit_of_lt {n l : Nat} {s : State} (h : decide (n < l) = true) : onUnit n l s = .next s :=
  if_pos (of_decide_eq_true h)

theorem onUnit_of_ge {n l : Nat} {s : State} (h : decide (n < l) = false) : onUnit n l s = .fault .noSuchUnit :=
  if_neg (of_decide_eq_false h)

/-- Everything but what answering a command may change. -/

def restOf (s : State) : State :=
  { s with outbox := [], journal := State.reset.journal, notices := State.reset.notices, cmds := State.reset.cmds, speas := [],
           obs := State.reset.obs, longOps := [] }

theorem rest_spec {s t : State} (h : restOf t = restOf s) : t = { s with
      outbox := t.outbox, journal := t.journal, notices := t.notices, cmds := t.cmds, speas := t.speas, obs := t.obs
      longOps := t.longOps } := by
  have e : ∀ s : State, s = { restOf s with
      outbox := s.outbox, journal := s.journal, notices := s.notices, cmds := s.cmds, speas := s.speas, obs := s.obs
      longOps := s.longOps } := fun _ => rfl
  calc t = _ := e t
    _ = _ := by rw [h]; rfl

theorem reply_rest (s : State) (p : Nat) (r : Reply) : restOf (s.reply p r) = restOf s := by
  unfold State.reply
  repeat' first | rfl | split

theorem emit_rest (s : State) (e : Event) : restOf (s.emit e) = restOf s := by
  unfold State.emit
  repeat' first | rfl | split

theorem finish_rest (s : State) (c : OpenCmd) (st : Status) (d : List Byte) : restOf (s.finish c st d) = restOf s := by
  unfold State.finish
  extract_lets a b
  show restOf b = restOf s
  show restOf (if _ then _ else _) = _
  split
  · rw [reply_rest]; rfl
  · rfl

theorem closeCmd_rest (s : State) (j : Nat) (st : Status) (d : List Byte) : restOf (s.closeCmd j st d) = restOf s := by
  unfold State.closeCmd State.closeWith
  dsimp only
  split
  · rw [emit_rest]; rfl
  · rfl

theorem conclude_rest {s : State} {c : OpenCmd} {held : Bool} {r : Result} (h : restOf r.state = restOf s)
    (hp : r.post = id) : restOf (State.conclude c held r) = restOf s := by
  unfold State.conclude
  rw [hp]
  simp only [id_eq]
  split
  · split
    · exact h
    · exact (reply_rest _ _ _).trans h
  · split
    · exact (reply_rest _ _ _).trans h
    · exact h
  · split
    · exact (closeCmd_rest _ _ _ _).trans h
    · exact (finish_rest _ _ _ _).trans h
  · split
    · exact (closeCmd_rest _ _ _ _).trans h
    · split
      · exact (reply_rest _ _ _).trans h
      · exact (finish_rest _ _ _ _).trans h

theorem attempt_rest {s u : State} {c : OpenCmd} {f : OpenCmd → State → Result} (h : restOf u = restOf s)
    (hf : ∀ c u, (f c u).state = u ∧ (f c u).post = id) :
    restOf (u.attempt c f).state = restOf s ∧ (u.attempt c f).post = id := by
  unfold State.attempt
  split
  · exact ⟨h, rfl⟩
  · exact ⟨(congrArg restOf (hf c u).1).trans h, (hf c u).2⟩

theorem run_rest {s : State} {op : Nat} {f : OpenCmd → State → Result} (hf : ∀ c u, (f c u).state = u ∧ (f c u).post = id) :
    restOf (s.run op f) = restOf s := by
  unfold State.run State.runFront
  split
  · rfl
  · split
    · rfl
    · split
      · rfl
      · split
        · exact finish_rest _ _ _ _
        · rename_i c _ _ _ _
          have h := attempt_rest (u := s.trace benchRing 0x0030 op c.jseq) (f := f) (s := s) (c := c) (by
            unfold State.trace; repeat' first | rfl | split) hf
          exact conclude_rest h.1 h.2

theorem ofAddr_aligned {a : Nat} (h : a % 8 ≠ 0) : Reg.ofAddr a = none := by
  unfold Reg.ofAddr; rw [if_neg]; exact fun x => h x.1

theorem turnedAway_rest (u : State) (c : OpenCmd) (st : Status) (d : List Byte) : restOf (u.turnedAway c st d) = restOf u :=
  conclude_rest rfl rfl

theorem begun_rest (s : State) (c : OpenCmd) : restOf (s.begun c) = restOf s := by
  obtain ⟨x, h⟩ := s.begun_eq c; rw [h]; rfl

theorem regs_of_rest {s t : State} (h : restOf t = restOf s) : t.regs = s.regs ∧ t.mem = s.mem :=
  ⟨show (restOf t).regs = (restOf s).regs from by rw [h], show (restOf t).mem = (restOf s).mem from by rw [h]⟩

theorem parts_of_rest {s t : State} (h : restOf t = restOf s) : t.regs = s.regs ∧ t.mem = s.mem ∧ t.steps = s.steps ∧
    t.security = s.security ∧ t.pending = s.pending :=
  ⟨show (restOf t).regs = (restOf s).regs from by rw [h], show (restOf t).mem = (restOf s).mem from by rw [h], show (restOf t).steps = (restOf s).steps from by rw [h],
   show (restOf t).security = (restOf s).security from by rw [h], show (restOf t).pending = (restOf s).pending from by rw [h]⟩

/-! ### Register writes -/

theorem takes_opcode {s : State} {c : OpenCmd} {o : Nat} (h : s.takes c o = true) : c.opcode = o := by
  simp only [State.takes, Bool.and_eq_true, beq_iff_eq] at h; exact h.1.1.1.1.1.2

theorem takes_front {s : State} {c : OpenCmd} {o : Nat} (h : s.takes c o = true) : s.front = some c := by
  simp only [State.takes, Bool.and_eq_true, decide_eq_true_eq] at h; exact h.1.1.1.1.1.1

theorem doRegWrite_ok {u : State} {c : OpenCmd} (h : ∀ p ∈ writeTriples c.opcode c.params, u.pairRefusal p.1 p.2.1 p.2.2 = none) :
    doRegWrite c u = done (u.writePairs (writeTriples c.opcode c.params)) (le 4 0xFFFFFFFF) := by
  unfold doRegWrite
  have : ((writeTriples c.opcode c.params).zipIdx.filterMap fun e => (u.pairRefusal e.1.1 e.1.2.1 e.1.2.2).map fun st => (st, e.2)) = [] := by
    simp only [List.filterMap_eq_nil_iff, Option.map_eq_none_iff]
    intro e he
    exact h e.1 (List.fst_mem_of_mem_zipIdx he)
  simp only [this, List.head?_nil]

theorem doRegWrite_bad {u : State} {c : OpenCmd} {pre post : List (Nat × Word × Word)} {p : Nat × Word × Word} {st : Status}
    (hw : writeTriples c.opcode c.params = pre ++ p :: post) (h : ∀ q ∈ pre, u.pairRefusal q.1 q.2.1 q.2.2 = none)
    (hp : u.pairRefusal p.1 p.2.1 p.2.2 = some st) :
    doRegWrite c u = refuseWith u st (le 4 pre.length) := by
  unfold doRegWrite
  simp only [hw]
  rw [List.zipIdx_append, List.filterMap_append]
  have : (pre.zipIdx.filterMap fun e => (u.pairRefusal e.1.1 e.1.2.1 e.1.2.2).map fun st => (st, e.2)) = [] := by
    simp only [List.filterMap_eq_nil_iff, Option.map_eq_none_iff]
    intro e he
    exact h e.1 (List.fst_mem_of_mem_zipIdx he)
  simp [this, hp]

theorem runWrite_of_writes {s u : State} {c : OpenCmd} {pairs : List (Nat × Word × Word)} (h : s.writes c u pairs)
    (f : Reg → Word → Bool) (hf : ∃ p ∈ pairs, ∃ r, Reg.ofAddr p.1 = some r ∧ f r (p.2.1 &&& p.2.2) = true) :
    s.runWrite f = .next (State.ended (u.writePairs pairs) c (le 4 0xFFFFFFFF) id).settle := by
  obtain ⟨o, ho, ⟨h, rfl⟩, rfl, hp⟩ := h
  obtain ⟨p, hpm, r, hr, hfr⟩ := hf
  have hc := takes_opcode h
  subst hc
  unfold State.runWrite
  simp only [takes_front h]
  have hs : ((writeTriples c.opcode c.params).any fun x =>
      match Reg.ofAddr x.1 with | some r => f r (x.2.1 &&& x.2.2) | none => false) = true :=
    List.any_eq_true.2 ⟨p, hpm, by simp only [hr]; exact hfr⟩
  rcases ho with ho | ho
  · rw [ho] at h
    rw [if_neg (by rw [ho]; decide), State.runFront_of_takes h hs, doRegWrite_ok hp]; rfl
  · rw [ho] at h
    rw [if_pos ho, State.runFront_of_takes h hs, doRegWrite_ok hp]; rfl

/-! ### Reading and writing memory -/

def SmP (p : List Instr) (b : List Host.Cell) (e : List (Nat × BitVec 144)) (r : List (Nat × Word)) (p' : List Instr) (b' : List Host.Cell) (e' : List (Nat × BitVec 144)) (r' : List (Nat × Word)) : Prop :=
  b' = b ∧ e' = e ∧ r' = r ∧ p' = p

def SameM (s t : State) : Prop := SmP s.pending s.mem.bytes s.mem.errors s.regs t.pending t.mem.bytes t.mem.errors t.regs

theorem SameM.b {s t : State} (h : SameM s t) : t.mem.bytes = s.mem.bytes := h.1

theorem SameM.e {s t : State} (h : SameM s t) : t.mem.errors = s.mem.errors := h.2.1

theorem SameM.r {s t : State} (h : SameM s t) : t.regs = s.regs := h.2.2.1

theorem SameM.p {s t : State} (h : SameM s t) : t.pending = s.pending := h.2.2.2

theorem sm_mk {z : State} {p o n f r a1 a2 a3 a4 a5 a6 a7 a8 a9 a10 a11 a12 a13 a14 a15 a16 a17 a18 a19 a20 a21 a22 a23 a24 a25 a26
    a27 a28 a29 a30} {m : Memory} {g d} :
    SameM z (State.mk p o n f r a1 a2 a3 a4 a5 a6 a7 a8 a9 a10 a11 a12 a13 a14 a15 a16 a17 a18 a19 a20 a21 a22 a23 a24 a25
      a26 a27 a28 a29 a30 m g d) ↔ SmP z.pending z.mem.bytes z.mem.errors z.regs p m.bytes m.errors r := Iff.rfl

theorem sm_parts {z s : State} (h : SameM z s) : SmP z.pending z.mem.bytes z.mem.errors z.regs s.pending s.mem.bytes s.mem.errors s.regs := h

theorem SameM.refl (s : State) : SameM s s := ⟨rfl, rfl, rfl, rfl⟩

theorem SameM.trans {s t u : State} (h : SameM s t) (k : SameM t u) : SameM s u :=
  ⟨k.b.trans h.b, k.e.trans h.e, k.r.trans h.r, k.p.trans h.p⟩

theorem sm_withComms {z s t : State} (h : SameM z s) : SameM z (s.withComms t) := h

theorem sm_fault {z s : State} (c : Nat) (u : FaultUnit) (st : Status) (a b : Nat) (h : SameM z s) : SameM z (s.fault c u st a b) := by
  unfold State.fault State.emit; exact sm_withComms h

theorem sm_foldl {β : Type} {l : List β} {z s : State} {f : State → β → State} (hf : ∀ t b, SameM z t → SameM z (f t b)) (h : SameM z s) : SameM z (l.foldl f s) := by
  induction l generalizing s with
  | nil => exact h
  | cons b r ih => exact ih (hf s b h)

theorem sm_count {z s : State} (i n : Nat) (h : SameM z s) : SameM z (s.count i n) := h

theorem sm_countMesh {z s : State} (a b c d : Nat) (h : SameM z s) : SameM z (s.countMesh a b c d) := by
  unfold State.countMesh; exact sm_foldl (fun t b => sm_count _ _) h

theorem sm_countMove {z s : State} (r : Requester) (a n : Nat) (w : Bool) (h : SameM z s) : SameM z (s.countMove r a n w) := by
  unfold State.countMove
  dsimp only
  repeat' with_reducible first | assumption | apply sm_countMesh | apply sm_count | split

theorem sm_touchLine {z s : State} (m l n : Nat) (w b : Bool) (h : SameM z s) : SameM z (s.touchLine m l n w b) := by
  unfold State.touchLine
  dsimp only
  repeat' with_reducible first | assumption | apply sm_parts | apply sm_count | simp only [sm_mk] | split

theorem sm_account {z s : State} (r : Requester) (a n : Nat) (w : Bool) (h : SameM z s) : SameM z (s.account r a n w) := by
  unfold State.account
  dsimp only
  repeat' with_reducible first | assumption | apply sm_countMove | apply sm_touchLine | apply sm_foldl | split | intro _ _ _

theorem sameM_account (s : State) (r : Requester) (a n : Nat) (w : Bool) : SameM s (s.account r a n w) := sm_account _ _ _ _ (.refl s)

theorem sm_channelFreshAt {z s : State} (k : Nat) (u : FaultUnit) (h : SameM z s) : SameM z (s.channelFreshAt k u) := by
  unfold State.channelFreshAt
  dsimp only
  repeat' with_reducible first | assumption | apply sm_parts | apply sm_fault | simp only [sm_mk] | split

theorem sameM_channelFreshAt (s : State) (k : Nat) (u : FaultUnit) : SameM s (s.channelFreshAt k u) := sm_channelFreshAt _ _ (.refl s)

theorem sameM_fault (s : State) (c : Nat) (u : FaultUnit) (st : Status) (a b : Nat) : SameM s (s.fault c u st a b) := sm_fault _ _ _ _ _ (.refl s)

theorem sm_reply {z s : State} (p : Nat) (r : Reply) (h : SameM z s) : SameM z (s.reply p r) := by
  unfold State.reply; exact sm_withComms h

theorem sm_ended {z s : State} (c : OpenCmd) (d : List Byte) (h : SameM z s) : SameM z (State.ended s c d id) := by
  unfold State.ended State.conclude doneThen State.acceptReply State.setPhase State.finish
  dsimp only [id]
  simp only [Bool.false_eq_true, if_false]
  repeat' with_reducible first | assumption | apply sm_parts | apply sm_withComms | apply sm_reply | simp only [sm_mk] | split

theorem sameM_ended (s : State) (c : OpenCmd) (d : List Byte) : SameM s (State.ended s c d id) := sm_ended _ _ (.refl s)
/-- what checking one granule leaves -/

structure SameBut (g : Nat) (s t : State) : Prop where
  b : ∀ x, (granule x ≠ g ∨ s.mem.diff g = 0 ∨ s.mem.diff g = poisonPattern) → t.byte x = s.byte x
  e : ∀ x, x ≠ g → t.mem.diff x = s.mem.diff x
  r : ∀ r, r.addr ≠ Reg.memPoisonLog.addr → t.reg r = s.reg r
  p : t.pending = s.pending

def FrP (s : State) (p' : List Instr) (b' : List Host.Cell) (e' : List (Nat × BitVec 144)) (r' : List (Nat × Word)) : Prop :=
  b' = s.mem.bytes ∧ e' = s.mem.errors ∧ p' = s.pending ∧ ∀ (r : Reg), r.addr ≠ Reg.memPoisonLog.addr → tabGet r.reset r' r.addr = tabGet r.reset s.regs r.addr

def Fr (s t : State) : Prop := FrP s t.pending t.mem.bytes t.mem.errors t.regs

theorem fr_mk {z : State} {p o n f r a1 a2 a3 a4 a5 a6 a7 a8 a9 a10 a11 a12 a13 a14 a15 a16 a17 a18 a19 a20 a21 a22 a23 a24 a25 a26
    a27 a28 a29 a30} {m : Memory} {g d} :
    Fr z (State.mk p o n f r a1 a2 a3 a4 a5 a6 a7 a8 a9 a10 a11 a12 a13 a14 a15 a16 a17 a18 a19 a20 a21 a22 a23 a24 a25
      a26 a27 a28 a29 a30 m g d) ↔ FrP z p m.bytes m.errors r := Iff.rfl

theorem fr_parts {z s : State} (h : Fr z s) : FrP z s.pending s.mem.bytes s.mem.errors s.regs := h

theorem fr_parts2 {z s t : State} (h : Fr z s) (k : Fr z t) : FrP z s.pending t.mem.bytes t.mem.errors s.regs := ⟨k.1, k.2.1, h.2.2⟩

theorem fr_sm {z s t : State} (h : Fr z s) (k : SameM s t) : Fr z t := by
  unfold Fr; rw [k.b, k.e, k.r, k.p]; exact h

theorem fr_fault {z s : State} (c : Nat) (u : FaultUnit) (st : Status) (a b : Nat) (h : Fr z s) : Fr z (s.fault c u st a b) := fr_sm h (sameM_fault _ _ _ _ _ _)

theorem fr_chan {z s : State} (k : Nat) (u : FaultUnit) (h : Fr z s) : Fr z (s.channelFreshAt k u) := fr_sm h (sameM_channelFreshAt _ _ _)

theorem fr_log {z s : State} (w : Word) (h : Fr z s) : Fr z (s.setBits .memPoisonLog w) :=
  ⟨h.1, h.2.1, h.2.2.1, fun r hr => (tabGet_tabSet_other hr).trans (h.2.2.2 r hr)⟩

theorem fr_note {z s : State} (g m : Nat) (h : Fr z s) : Fr z (s.noteUncorrectable g m) := by
  unfold State.noteUncorrectable
  try dsimp only
  repeat' with_reducible first | assumption | apply fr_parts | apply fr_parts2 | apply fr_log | apply fr_fault | simp only [fr_mk] | split

theorem fr_fresh {z s : State} (g m : Nat) (h : Fr z s) : Fr z (s.freshUncorrectable g m) := by
  unfold State.freshUncorrectable
  try dsimp only
  repeat' with_reducible first | assumption | apply fr_parts | apply fr_note | apply fr_chan | simp only [fr_mk] | split

/-- A check on the way changes counts, the captured address and the log only. -/
theorem transit_part (s : State) (g : Nat) : Fr s (s.checkTransit g) := by
  unfold State.checkTransit
  have h : ∀ (l : BitErrors) (t : State), Fr s t → Fr s (l.foldl (fun t h =>
      let t := { t with mem := { t.mem with inflight := t.mem.inflight.erase h } }
      match decodeSyndrome (syndrome h.2.2) with
      | .clean => t
      | .poisoned => { t with mem := { t.mem with delivered := g :: t.mem.delivered } }
      | .corrected _ _ => t.noteCorrected
      | .uncorrectable => { t with mem := { t.mem with delivered := g :: t.mem.delivered } }.noteUncorrectable g 4) t) := by
    intro l
    induction l with
    | nil => exact fun _ h => h
    | cons e r ih =>
      intro t ht
      refine ih _ ?_
      dsimp only
      split
      · exact fr_parts ht
      · exact fr_parts ht
      · exact fr_parts ht
      · exact fr_note _ _ (fr_parts ht)
  exact h _ s ⟨rfl, rfl, rfl, fun _ _ => rfl⟩

theorem fresh_part (s : State) (g m : Nat) : Fr s (s.freshUncorrectable g m) := fr_fresh _ _ ⟨rfl, rfl, rfl, fun _ _ => rfl⟩

theorem flip_bytes (m : Memory) (g x : Nat) (d : BitVec 144) (hg : g % 16 = 0) (h : granule x ≠ g) :
    tabGet 0 (m.flip g d).bytes x = tabGet 0 m.bytes x := by
  unfold Memory.flip
  refine Memory.setBytes_outside _ _ _ _ ?_
  simp only [List.length_map, List.length_range]
  unfold granule at h
  omega

theorem flip_errors (m : Memory) (g : Nat) (d : BitVec 144) : (m.flip g d).errors = m.errors := Memory.setBytes_errors _ _ _

theorem sameBut_mem (s : State) (g : Nat) (m : Memory)
    (hb : ∀ x, granule x ≠ g → tabGet 0 m.bytes x = s.byte x) (he : ∀ x, x ≠ g → tabGet 0 m.errors x = s.mem.diff x)
    (hd : ¬ (s.mem.diff g = 0 ∨ s.mem.diff g = poisonPattern)) : SameBut g s { s with mem := m } :=
  ⟨fun x hx => hb x (by tauto), he, fun _ _ => rfl, rfl⟩

theorem sameBut_fr {g : Nat} {s t u : State} (h : SameBut g s t) (k : Fr t u) : SameBut g s u := by
  refine ⟨fun x hx => ?_, fun x hx => ?_, fun r hr => (k.2.2.2 r hr).trans (h.r r hr), k.2.2.1.trans h.p⟩
  · rw [← h.b x hx]; show tabGet 0 u.mem.bytes x = tabGet 0 t.mem.bytes x; rw [k.1]
  · rw [← h.e x hx]; show tabGet 0 u.mem.errors x = tabGet 0 t.mem.errors x; rw [k.2.1]

theorem sameBut_stored (s : State) (g : Nat) (hg : g % 16 = 0) : SameBut g s (s.checkStored g) := by
  have bb : ∀ (d : BitVec 144) x, granule x ≠ g → tabGet 0 (s.mem.flip g d).bytes x = s.byte x := fun d x hx => flip_bytes _ _ _ _ hg hx
  have ee : ∀ (d e : BitVec 144) x, x ≠ g → tabGet 0 ((s.mem.flip g d).setDiff g e).errors x = s.mem.diff x := by
    intro d e x hx
    show tabGet 0 (tabSet 0 (s.mem.flip g d).errors g e) x = _
    rw [tabGet_tabSet_other hx, flip_errors]; rfl
  have bc : ∀ (d e : BitVec 144) x, granule x ≠ g → tabGet 0 ((s.mem.flip g d).setDiff g e).bytes x = s.byte x := fun d e => bb d
  unfold State.checkStored
  dsimp only
  split
  · exact ⟨fun _ _ => rfl, fun _ _ => rfl, fun _ _ => rfl, rfl⟩
  rename_i hd
  split
  · exact sameBut_mem s g _ (bc _ _) (ee _ _) hd
  · exact sameBut_mem s g _ (bc _ _) (ee _ _) hd
  · refine sameBut_mem s g _ ?_ ?_ hd
    · dsimp only; exact bc _ _
    · dsimp only; exact ee _ _
  · have h := fresh_part { s with mem := (s.mem.flip g (s.mem.diff g)).poison g } g (s.mediumOf g)
    exact sameBut_fr (sameBut_mem s g _ (bc _ _) (ee _ _) hd) h

theorem sameBut_check (s : State) (g : Nat) (hg : g % 16 = 0) : SameBut g s (s.checkGranule g) :=
  sameBut_fr (sameBut_stored s g hg) (transit_part _ g)

structure SameOut (l : List Nat) (s t : State) : Prop where
  b : ∀ x, (granule x ∉ l ∨ s.mem.diff (granule x) = 0 ∨ s.mem.diff (granule x) = poisonPattern) → t.byte x = s.byte x
  e : ∀ x, x ∉ l → t.mem.diff x = s.mem.diff x
  r : ∀ r, r.addr ≠ Reg.memPoisonLog.addr → t.reg r = s.reg r
  p : t.pending = s.pending

theorem check_stays {s : State} {g : Nat} (h : s.mem.diff g = 0 ∨ s.mem.diff g = poisonPattern) :
    Fr s (s.checkGranule g) := by
  unfold State.checkGranule State.checkStored
  simp only [h, if_true]
  exact transit_part s g

theorem sameOut_fold (l : List Nat) (hl : ∀ g ∈ l, g % 16 = 0) (s : State) : SameOut l s (l.foldl (fun t g => t.checkGranule g) s) := by
  induction l generalizing s with
  | nil => exact ⟨fun _ _ => rfl, fun _ _ => rfl, fun _ _ => rfl, rfl⟩
  | cons g l ih =>
    have h1 := sameBut_check s g (hl g (by simp))
    have h2 := ih (fun x hx => hl x (by simp [hx])) (s.checkGranule g)
    refine ⟨fun x hx => ?_, fun x hx => ?_, fun r hr => (h2.r r hr).trans (h1.r r hr), h2.p.trans h1.p⟩
    · have a1 : (s.checkGranule g).byte x = s.byte x := h1.b x (by
        by_cases hgx : granule x = g
        · rcases hx with hx | hx
          · simp [hgx] at hx
          · exact .inr (hgx ▸ hx)
        · exact .inl hgx)
      refine (h2.b x ?_).trans a1
      rcases hx with hx | hx
      · simp only [List.mem_cons, not_or] at hx; exact .inl hx.2
      · by_cases hgx : granule x = g
        · refine .inr ?_
          have k : (s.checkGranule g).mem.diff (granule x) = s.mem.diff (granule x) := by
            show tabGet 0 (s.checkGranule g).mem.errors _ = tabGet 0 s.mem.errors _
            rw [(check_stays (hgx ▸ hx)).2.1]
          rw [k]; exact hx
        · rw [h1.e _ hgx]; exact .inr hx
    · simp only [List.mem_cons, not_or] at hx
      exact (h2.e x hx.2).trans (h1.e x hx.1)

theorem granulesOf_mod (a n g : Nat) (h : g ∈ granulesOf a n) : g % 16 = 0 := by
  unfold granulesOf at h
  split at h
  · simp at h
  · simp only [List.mem_map] at h; obtain ⟨x, _, rfl⟩ := h; omega

theorem kept_sm {q : List Instr} {s t : State} (h : Kept q s) (k : SameM s t) : Kept q t := by
  unfold Kept; rw [k.b, k.e, k.r, k.p]; exact h

theorem wf_check {q : List Instr} (l : List Nat) {s : State} (h : Kept q s) : Kept q (l.foldl (fun t g => t.checkGranule g) s) :=
  kept_foldl (fun t g ht => State.checkGranule_keeps t g ht) h

theorem clearFold_bytes (l keep : List Nat) (m : Memory) :
    (l.foldl (fun (m : Memory) g => if g ∈ keep then m else m.setDiff g 0) m).bytes = m.bytes := by
  induction l generalizing m with
  | nil => rfl
  | cons g l ih => simp only [List.foldl_cons, ih]; split <;> rfl

theorem clearFold_wf (l keep : List Nat) (m : Memory) (h : m.wf = true) :
    (l.foldl (fun (m : Memory) g => if g ∈ keep then m else m.setDiff g 0) m).wf = true :=
  Memory.wf_foldl h fun n b hn => by split; exact hn; exact Memory.wf_setDiff hn

theorem clearFold_zero (l keep : List Nat) (m : Memory) (h : m.wf = true) (g : Nat) (hz : tabGet 0 m.errors g = 0 ∨ (g ∈ l ∧ g ∉ keep)) :
    tabGet 0 (l.foldl (fun (m : Memory) g => if g ∈ keep then m else m.setDiff g 0) m).errors g = 0 := by
  induction l generalizing m with
  | nil => simpa using hz
  | cons x l ih =>
    simp only [List.foldl_cons]
    refine ih _ (by split; exact h; exact Memory.wf_setDiff h) ?_
    by_cases hx : x ∈ keep
    · simp only [hx, if_true]
      rcases hz with hz | ⟨h1, h2⟩
      · exact .inl hz
      · rcases List.mem_cons.1 h1 with rfl | h1
        · exact absurd hx h2
        · exact .inr ⟨h1, h2⟩
    · simp only [hx, if_false]
      by_cases hgx : g = x
      · subst hgx
        left
        show tabGet 0 (tabSet 0 m.errors g 0) g = 0
        simp only [Memory.wf, tabWf, Bool.and_eq_true] at h
        exact tabGet_tabSet_self h.2.1
      · rcases hz with hz | ⟨h1, h2⟩
        · left
          show tabGet 0 (tabSet 0 m.errors x 0) g = 0
          rw [tabGet_tabSet_other hgx]; exact hz
        · exact .inr ⟨(List.mem_cons.1 h1).resolve_left hgx, h2⟩

/-! ### The code -/

theorem code_one_symbol : ∀ i < 36, ∀ v < 16, 0 < v →
    BitVec.ofNat 144 (v <<< (4 * i)) ≠ 0 ∧ BitVec.ofNat 144 (v <<< (4 * i)) ≠ poisonPattern ∧
    decodeSyndrome (syndrome (BitVec.ofNat 144 (v <<< (4 * i)))) = .corrected i v := by
  decide +kernel

theorem flip_zero (m : Memory) (g x : Nat) (h : m.wf = true) : tabGet 0 (m.flip g 0#144).bytes x = tabGet 0 m.bytes x := by
  unfold Memory.flip
  by_cases hx : g ≤ x ∧ x < g + 16
  · obtain ⟨i, rfl⟩ : ∃ i, x = g + i := ⟨x - g, by omega⟩
    rw [Memory.setBytes_inside _ _ _ h i (by simp; omega)]
    simp [bits]
  · apply Memory.setBytes_outside; simp; omega

/-! ### First and none -/

theorem firstBelow_some (n : Nat) (p : Nat → Bool) (q : Nat) (h : q < n) (hp : p q = true) (hl : ∀ r < q, p r = false) : firstBelow n p = some q := by
  unfold firstBelow
  first
    | (rw [List.find?_range_eq_some]; exact ⟨hp, List.mem_range.2 h, fun r hr => by simp [hl r hr]⟩)
    | skip

theorem firstBelow_none (n : Nat) (p : Nat → Bool) (hl : ∀ r < n, p r = false) : firstBelow n p = none := by
  unfold firstBelow
  rw [List.find?_eq_none]; intro r hr; simp [hl r (List.mem_range.1 hr)]

theorem find_none_range (n : Nat) (p : Nat → Bool) (h : ∀ j < n, p j = false) : (List.range n).find? p = none := by
  rw [List.find?_eq_none]; intro r hr; simp [h r (List.mem_range.1 hr)]

theorem exactly_self (bs : List Byte) (n : Nat) (h : bs.length = n) : exactly n bs = bs := by
  unfold exactly
  subst h
  refine List.ext_getElem (by simp) fun i h1 h2 => ?_
  simp at h1
  simp [nth, h1]

/-! ### Bypassed columns -/

theorem ones_le (m : BitVec 32) : ones m ≤ 32 := by
  unfold ones
  exact (List.length_filter_le _ _).trans (by simp)

theorem ones_mono (a b : BitVec 32) : ones a ≤ ones (a ||| b) := by
  unfold ones
  apply List.Sublist.length_le
  apply List.monotone_filter_right
  intro i h
  simp only [BitVec.getLsbD_or, Bool.or_eq_true]; exact .inl h

/-! ### Occurrences -/

theorem fired_slots (t : State) (i : Nat) (x : TTSlot) : (t.fired i x).table = t.table := by
  unfold State.fired State.trace State.withComms; dsimp only

theorem hold_fold (l : List (Nat × TTSlot)) (s : State) (h : ∀ y ∈ l, y.2.entry.action = 5 → y.2.waiting = none) :
    l.foldl (fun t (e : Nat × TTSlot) =>
        if e.2.entry.action = 5 ∧ e.2.waiting.isSome then (t.setSlot e.1 { e.2 with waiting := none }).ttSkip else t) s = s := by
  induction l generalizing s with
  | nil => rfl
  | cons y l ih =>
    rw [List.foldl_cons, if_neg, ih _ fun z hz => h z (List.mem_cons_of_mem _ hz)]
    rintro ⟨a, b⟩
    rw [h y (List.mem_cons_self) a] at b
    simp at b

/-! ### Boot -/

theorem nextStage_begins {s : State} {n : Nat} (h : s.boot.stopAfter = none) (hn : n ≠ 4) :
    s.nextStage n =
      { s with boot := { s.boot with stage := n, frontier := max s.boot.frontier (s.boot.stage + 1) } } := by
  have h' : (s.workDone s.boot.stage).boot.stopAfter = none := h
  have z : ((none : Option Nat) == some (s.workDone s.boot.stage).boot.stage) = false := rfl
  have hn' : (n == 4) = false := by simpa using hn
  unfold State.nextStage
  simp only [h', z, hn', Bool.or_self, Bool.false_eq_true, if_false]
  simp only [State.workDone, h]

end Sys2Proof.Machine
end

