-- ==== Sys2Proof/Laws/State.lean ====
section
/-! SUPPORT. One lemma per field and update of the state, so that no proof unfolds a record update, and what the entry
that was set reads as. -/

namespace Sys2Proof.Machine

/-! ### State.setReg -/

@[simp] theorem State.setReg_pending (s : State) (r : Reg) (w : Word) : (s.setReg r w).pending = s.pending := rfl
@[simp] theorem State.setReg_outbox (s : State) (r : Reg) (w : Word) : (s.setReg r w).outbox = s.outbox := rfl
@[simp] theorem State.setReg_now (s : State) (r : Reg) (w : Word) : (s.setReg r w).now = s.now := rfl
@[simp] theorem State.setReg_ft (s : State) (r : Reg) (w : Word) : (s.setReg r w).ft = s.ft := rfl
@[simp] theorem State.setReg_cmds (s : State) (r : Reg) (w : Word) : (s.setReg r w).cmds = s.cmds := rfl
@[simp] theorem State.setReg_journal (s : State) (r : Reg) (w : Word) : (s.setReg r w).journal = s.journal := rfl
@[simp] theorem State.setReg_longOps (s : State) (r : Reg) (w : Word) : (s.setReg r w).longOps = s.longOps := rfl
@[simp] theorem State.setReg_speas (s : State) (r : Reg) (w : Word) : (s.setReg r w).speas = s.speas := rfl
@[simp] theorem State.setReg_ports (s : State) (r : Reg) (w : Word) : (s.setReg r w).ports = s.ports := rfl
@[simp] theorem State.setReg_eths (s : State) (r : Reg) (w : Word) : (s.setReg r w).eths = s.eths := rfl
@[simp] theorem State.setReg_time (s : State) (r : Reg) (w : Word) : (s.setReg r w).time = s.time := rfl
@[simp] theorem State.setReg_table (s : State) (r : Reg) (w : Word) : (s.setReg r w).table = s.table := rfl
@[simp] theorem State.setReg_programs (s : State) (r : Reg) (w : Word) : (s.setReg r w).programs = s.programs := rfl
@[simp] theorem State.setReg_cores (s : State) (r : Reg) (w : Word) : (s.setReg r w).cores = s.cores := rfl
@[simp] theorem State.setReg_clusters (s : State) (r : Reg) (w : Word) : (s.setReg r w).clusters = s.clusters := rfl
@[simp] theorem State.setReg_dies (s : State) (r : Reg) (w : Word) : (s.setReg r w).dies = s.dies := rfl
@[simp] theorem State.setReg_engines (s : State) (r : Reg) (w : Word) : (s.setReg r w).engines = s.engines := rfl
@[simp] theorem State.setReg_hosts (s : State) (r : Reg) (w : Word) : (s.setReg r w).hosts = s.hosts := rfl
@[simp] theorem State.setReg_noHost (s : State) (r : Reg) (w : Word) : (s.setReg r w).noHost = s.noHost := rfl
@[simp] theorem State.setReg_ringHeads (s : State) (r : Reg) (w : Word) : (s.setReg r w).ringHeads = s.ringHeads := rfl
@[simp] theorem State.setReg_crings (s : State) (r : Reg) (w : Word) : (s.setReg r w).crings = s.crings := rfl
@[simp] theorem State.setReg_steps (s : State) (r : Reg) (w : Word) : (s.setReg r w).steps = s.steps := rfl
@[simp] theorem State.setReg_square (s : State) (r : Reg) (w : Word) : (s.setReg r w).square = s.square := rfl
@[simp] theorem State.setReg_digests (s : State) (r : Reg) (w : Word) : (s.setReg r w).digests = s.digests := rfl
@[simp] theorem State.setReg_twin (s : State) (r : Reg) (w : Word) : (s.setReg r w).twin = s.twin := rfl
@[simp] theorem State.setReg_ckpt (s : State) (r : Reg) (w : Word) : (s.setReg r w).ckpt = s.ckpt := rfl
@[simp] theorem State.setReg_fabric (s : State) (r : Reg) (w : Word) : (s.setReg r w).fabric = s.fabric := rfl
@[simp] theorem State.setReg_resets (s : State) (r : Reg) (w : Word) : (s.setReg r w).resets = s.resets := rfl
@[simp] theorem State.setReg_tags (s : State) (r : Reg) (w : Word) : (s.setReg r w).tags = s.tags := rfl
@[simp] theorem State.setReg_boot (s : State) (r : Reg) (w : Word) : (s.setReg r w).boot = s.boot := rfl
@[simp] theorem State.setReg_power (s : State) (r : Reg) (w : Word) : (s.setReg r w).power = s.power := rfl
@[simp] theorem State.setReg_security (s : State) (r : Reg) (w : Word) : (s.setReg r w).security = s.security := rfl
@[simp] theorem State.setReg_notices (s : State) (r : Reg) (w : Word) : (s.setReg r w).notices = s.notices := rfl
@[simp] theorem State.setReg_obs (s : State) (r : Reg) (w : Word) : (s.setReg r w).obs = s.obs := rfl
@[simp] theorem State.setReg_mem (s : State) (r : Reg) (w : Word) : (s.setReg r w).mem = s.mem := rfl
@[simp] theorem State.setReg_colliding (s : State) (r : Reg) (w : Word) : (s.setReg r w).colliding = s.colliding := rfl
@[simp] theorem State.setReg_freeDraws (s : State) (r : Reg) (w : Word) : (s.setReg r w).freeDraws = s.freeDraws := rfl

/-! ### State.setPort -/

@[simp] theorem State.setPort_pending (s : State) (n : Nat) (p : TensorPort) : (s.setPort n p).pending = s.pending := rfl
@[simp] theorem State.setPort_outbox (s : State) (n : Nat) (p : TensorPort) : (s.setPort n p).outbox = s.outbox := rfl
@[simp] theorem State.setPort_now (s : State) (n : Nat) (p : TensorPort) : (s.setPort n p).now = s.now := rfl
@[simp] theorem State.setPort_ft (s : State) (n : Nat) (p : TensorPort) : (s.setPort n p).ft = s.ft := rfl
@[simp] theorem State.setPort_regs (s : State) (n : Nat) (p : TensorPort) : (s.setPort n p).regs = s.regs := rfl
@[simp] theorem State.setPort_cmds (s : State) (n : Nat) (p : TensorPort) : (s.setPort n p).cmds = s.cmds := rfl
@[simp] theorem State.setPort_journal (s : State) (n : Nat) (p : TensorPort) : (s.setPort n p).journal = s.journal := rfl
@[simp] theorem State.setPort_longOps (s : State) (n : Nat) (p : TensorPort) : (s.setPort n p).longOps = s.longOps := rfl
@[simp] theorem State.setPort_speas (s : State) (n : Nat) (p : TensorPort) : (s.setPort n p).speas = s.speas := rfl
@[simp] theorem State.setPort_eths (s : State) (n : Nat) (p : TensorPort) : (s.setPort n p).eths = s.eths := rfl
@[simp] theorem State.setPort_time (s : State) (n : Nat) (p : TensorPort) : (s.setPort n p).time = s.time := rfl
@[simp] theorem State.setPort_table (s : State) (n : Nat) (p : TensorPort) : (s.setPort n p).table = s.table := rfl
@[simp] theorem State.setPort_programs (s : State) (n : Nat) (p : TensorPort) : (s.setPort n p).programs = s.programs := rfl
@[simp] theorem State.setPort_cores (s : State) (n : Nat) (p : TensorPort) : (s.setPort n p).cores = s.cores := rfl
@[simp] theorem State.setPort_clusters (s : State) (n : Nat) (p : TensorPort) : (s.setPort n p).clusters = s.clusters := rfl
@[simp] theorem State.setPort_dies (s : State) (n : Nat) (p : TensorPort) : (s.setPort n p).dies = s.dies := rfl
@[simp] theorem State.setPort_engines (s : State) (n : Nat) (p : TensorPort) : (s.setPort n p).engines = s.engines := rfl
@[simp] theorem State.setPort_hosts (s : State) (n : Nat) (p : TensorPort) : (s.setPort n p).hosts = s.hosts := rfl
@[simp] theorem State.setPort_noHost (s : State) (n : Nat) (p : TensorPort) : (s.setPort n p).noHost = s.noHost := rfl
@[simp] theorem State.setPort_ringHeads (s : State) (n : Nat) (p : TensorPort) : (s.setPort n p).ringHeads = s.ringHeads := rfl
@[simp] theorem State.setPort_crings (s : State) (n : Nat) (p : TensorPort) : (s.setPort n p).crings = s.crings := rfl
@[simp] theorem State.setPort_steps (s : State) (n : Nat) (p : TensorPort) : (s.setPort n p).steps = s.steps := rfl
@[simp] theorem State.setPort_square (s : State) (n : Nat) (p : TensorPort) : (s.setPort n p).square = s.square := rfl
@[simp] theorem State.setPort_digests (s : State) (n : Nat) (p : TensorPort) : (s.setPort n p).digests = s.digests := rfl
@[simp] theorem State.setPort_twin (s : State) (n : Nat) (p : TensorPort) : (s.setPort n p).twin = s.twin := rfl
@[simp] theorem State.setPort_ckpt (s : State) (n : Nat) (p : TensorPort) : (s.setPort n p).ckpt = s.ckpt := rfl
@[simp] theorem State.setPort_fabric (s : State) (n : Nat) (p : TensorPort) : (s.setPort n p).fabric = s.fabric := rfl
@[simp] theorem State.setPort_resets (s : State) (n : Nat) (p : TensorPort) : (s.setPort n p).resets = s.resets := rfl
@[simp] theorem State.setPort_tags (s : State) (n : Nat) (p : TensorPort) : (s.setPort n p).tags = s.tags := rfl
@[simp] theorem State.setPort_boot (s : State) (n : Nat) (p : TensorPort) : (s.setPort n p).boot = s.boot := rfl
@[simp] theorem State.setPort_power (s : State) (n : Nat) (p : TensorPort) : (s.setPort n p).power = s.power := rfl
@[simp] theorem State.setPort_security (s : State) (n : Nat) (p : TensorPort) : (s.setPort n p).security = s.security := rfl
@[simp] theorem State.setPort_notices (s : State) (n : Nat) (p : TensorPort) : (s.setPort n p).notices = s.notices := rfl
@[simp] theorem State.setPort_obs (s : State) (n : Nat) (p : TensorPort) : (s.setPort n p).obs = s.obs := rfl
@[simp] theorem State.setPort_mem (s : State) (n : Nat) (p : TensorPort) : (s.setPort n p).mem = s.mem := rfl
@[simp] theorem State.setPort_colliding (s : State) (n : Nat) (p : TensorPort) : (s.setPort n p).colliding = s.colliding := rfl
@[simp] theorem State.setPort_freeDraws (s : State) (n : Nat) (p : TensorPort) : (s.setPort n p).freeDraws = s.freeDraws := rfl

/-! ### State.setEth -/

@[simp] theorem State.setEth_pending (s : State) (n : Nat) (p : EthPort) : (s.setEth n p).pending = s.pending := rfl
@[simp] theorem State.setEth_outbox (s : State) (n : Nat) (p : EthPort) : (s.setEth n p).outbox = s.outbox := rfl
@[simp] theorem State.setEth_now (s : State) (n : Nat) (p : EthPort) : (s.setEth n p).now = s.now := rfl
@[simp] theorem State.setEth_ft (s : State) (n : Nat) (p : EthPort) : (s.setEth n p).ft = s.ft := rfl
@[simp] theorem State.setEth_regs (s : State) (n : Nat) (p : EthPort) : (s.setEth n p).regs = s.regs := rfl
@[simp] theorem State.setEth_cmds (s : State) (n : Nat) (p : EthPort) : (s.setEth n p).cmds = s.cmds := rfl
@[simp] theorem State.setEth_journal (s : State) (n : Nat) (p : EthPort) : (s.setEth n p).journal = s.journal := rfl
@[simp] theorem State.setEth_longOps (s : State) (n : Nat) (p : EthPort) : (s.setEth n p).longOps = s.longOps := rfl
@[simp] theorem State.setEth_speas (s : State) (n : Nat) (p : EthPort) : (s.setEth n p).speas = s.speas := rfl
@[simp] theorem State.setEth_ports (s : State) (n : Nat) (p : EthPort) : (s.setEth n p).ports = s.ports := rfl
@[simp] theorem State.setEth_time (s : State) (n : Nat) (p : EthPort) : (s.setEth n p).time = s.time := rfl
@[simp] theorem State.setEth_table (s : State) (n : Nat) (p : EthPort) : (s.setEth n p).table = s.table := rfl
@[simp] theorem State.setEth_programs (s : State) (n : Nat) (p : EthPort) : (s.setEth n p).programs = s.programs := rfl
@[simp] theorem State.setEth_cores (s : State) (n : Nat) (p : EthPort) : (s.setEth n p).cores = s.cores := rfl
@[simp] theorem State.setEth_clusters (s : State) (n : Nat) (p : EthPort) : (s.setEth n p).clusters = s.clusters := rfl
@[simp] theorem State.setEth_dies (s : State) (n : Nat) (p : EthPort) : (s.setEth n p).dies = s.dies := rfl
@[simp] theorem State.setEth_engines (s : State) (n : Nat) (p : EthPort) : (s.setEth n p).engines = s.engines := rfl
@[simp] theorem State.setEth_hosts (s : State) (n : Nat) (p : EthPort) : (s.setEth n p).hosts = s.hosts := rfl
@[simp] theorem State.setEth_noHost (s : State) (n : Nat) (p : EthPort) : (s.setEth n p).noHost = s.noHost := rfl
@[simp] theorem State.setEth_ringHeads (s : State) (n : Nat) (p : EthPort) : (s.setEth n p).ringHeads = s.ringHeads := rfl
@[simp] theorem State.setEth_crings (s : State) (n : Nat) (p : EthPort) : (s.setEth n p).crings = s.crings := rfl
@[simp] theorem State.setEth_steps (s : State) (n : Nat) (p : EthPort) : (s.setEth n p).steps = s.steps := rfl
@[simp] theorem State.setEth_square (s : State) (n : Nat) (p : EthPort) : (s.setEth n p).square = s.square := rfl
@[simp] theorem State.setEth_digests (s : State) (n : Nat) (p : EthPort) : (s.setEth n p).digests = s.digests := rfl
@[simp] theorem State.setEth_twin (s : State) (n : Nat) (p : EthPort) : (s.setEth n p).twin = s.twin := rfl
@[simp] theorem State.setEth_ckpt (s : State) (n : Nat) (p : EthPort) : (s.setEth n p).ckpt = s.ckpt := rfl
@[simp] theorem State.setEth_fabric (s : State) (n : Nat) (p : EthPort) : (s.setEth n p).fabric = s.fabric := rfl
@[simp] theorem State.setEth_resets (s : State) (n : Nat) (p : EthPort) : (s.setEth n p).resets = s.resets := rfl
@[simp] theorem State.setEth_tags (s : State) (n : Nat) (p : EthPort) : (s.setEth n p).tags = s.tags := rfl
@[simp] theorem State.setEth_boot (s : State) (n : Nat) (p : EthPort) : (s.setEth n p).boot = s.boot := rfl
@[simp] theorem State.setEth_power (s : State) (n : Nat) (p : EthPort) : (s.setEth n p).power = s.power := rfl
@[simp] theorem State.setEth_security (s : State) (n : Nat) (p : EthPort) : (s.setEth n p).security = s.security := rfl
@[simp] theorem State.setEth_notices (s : State) (n : Nat) (p : EthPort) : (s.setEth n p).notices = s.notices := rfl
@[simp] theorem State.setEth_obs (s : State) (n : Nat) (p : EthPort) : (s.setEth n p).obs = s.obs := rfl
@[simp] theorem State.setEth_mem (s : State) (n : Nat) (p : EthPort) : (s.setEth n p).mem = s.mem := rfl
@[simp] theorem State.setEth_colliding (s : State) (n : Nat) (p : EthPort) : (s.setEth n p).colliding = s.colliding := rfl
@[simp] theorem State.setEth_freeDraws (s : State) (n : Nat) (p : EthPort) : (s.setEth n p).freeDraws = s.freeDraws := rfl

/-! ### State.setSp -/

@[simp] theorem State.setSp_pending (s : State) (n : Nat) (p : SpeasPort) : (s.setSp n p).pending = s.pending := rfl
@[simp] theorem State.setSp_outbox (s : State) (n : Nat) (p : SpeasPort) : (s.setSp n p).outbox = s.outbox := rfl
@[simp] theorem State.setSp_now (s : State) (n : Nat) (p : SpeasPort) : (s.setSp n p).now = s.now := rfl
@[simp] theorem State.setSp_ft (s : State) (n : Nat) (p : SpeasPort) : (s.setSp n p).ft = s.ft := rfl
@[simp] theorem State.setSp_regs (s : State) (n : Nat) (p : SpeasPort) : (s.setSp n p).regs = s.regs := rfl
@[simp] theorem State.setSp_cmds (s : State) (n : Nat) (p : SpeasPort) : (s.setSp n p).cmds = s.cmds := rfl
@[simp] theorem State.setSp_journal (s : State) (n : Nat) (p : SpeasPort) : (s.setSp n p).journal = s.journal := rfl
@[simp] theorem State.setSp_longOps (s : State) (n : Nat) (p : SpeasPort) : (s.setSp n p).longOps = s.longOps := rfl
@[simp] theorem State.setSp_ports (s : State) (n : Nat) (p : SpeasPort) : (s.setSp n p).ports = s.ports := rfl
@[simp] theorem State.setSp_eths (s : State) (n : Nat) (p : SpeasPort) : (s.setSp n p).eths = s.eths := rfl
@[simp] theorem State.setSp_time (s : State) (n : Nat) (p : SpeasPort) : (s.setSp n p).time = s.time := rfl
@[simp] theorem State.setSp_table (s : State) (n : Nat) (p : SpeasPort) : (s.setSp n p).table = s.table := rfl
@[simp] theorem State.setSp_programs (s : State) (n : Nat) (p : SpeasPort) : (s.setSp n p).programs = s.programs := rfl
@[simp] theorem State.setSp_cores (s : State) (n : Nat) (p : SpeasPort) : (s.setSp n p).cores = s.cores := rfl
@[simp] theorem State.setSp_clusters (s : State) (n : Nat) (p : SpeasPort) : (s.setSp n p).clusters = s.clusters := rfl
@[simp] theorem State.setSp_dies (s : State) (n : Nat) (p : SpeasPort) : (s.setSp n p).dies = s.dies := rfl
@[simp] theorem State.setSp_engines (s : State) (n : Nat) (p : SpeasPort) : (s.setSp n p).engines = s.engines := rfl
@[simp] theorem State.setSp_hosts (s : State) (n : Nat) (p : SpeasPort) : (s.setSp n p).hosts = s.hosts := rfl
@[simp] theorem State.setSp_noHost (s : State) (n : Nat) (p : SpeasPort) : (s.setSp n p).noHost = s.noHost := rfl
@[simp] theorem State.setSp_ringHeads (s : State) (n : Nat) (p : SpeasPort) : (s.setSp n p).ringHeads = s.ringHeads := rfl
@[simp] theorem State.setSp_crings (s : State) (n : Nat) (p : SpeasPort) : (s.setSp n p).crings = s.crings := rfl
@[simp] theorem State.setSp_steps (s : State) (n : Nat) (p : SpeasPort) : (s.setSp n p).steps = s.steps := rfl
@[simp] theorem State.setSp_square (s : State) (n : Nat) (p : SpeasPort) : (s.setSp n p).square = s.square := rfl
@[simp] theorem State.setSp_digests (s : State) (n : Nat) (p : SpeasPort) : (s.setSp n p).digests = s.digests := rfl
@[simp] theorem State.setSp_twin (s : State) (n : Nat) (p : SpeasPort) : (s.setSp n p).twin = s.twin := rfl
@[simp] theorem State.setSp_ckpt (s : State) (n : Nat) (p : SpeasPort) : (s.setSp n p).ckpt = s.ckpt := rfl
@[simp] theorem State.setSp_fabric (s : State) (n : Nat) (p : SpeasPort) : (s.setSp n p).fabric = s.fabric := rfl
@[simp] theorem State.setSp_resets (s : State) (n : Nat) (p : SpeasPort) : (s.setSp n p).resets = s.resets := rfl
@[simp] theorem State.setSp_tags (s : State) (n : Nat) (p : SpeasPort) : (s.setSp n p).tags = s.tags := rfl
@[simp] theorem State.setSp_boot (s : State) (n : Nat) (p : SpeasPort) : (s.setSp n p).boot = s.boot := rfl
@[simp] theorem State.setSp_power (s : State) (n : Nat) (p : SpeasPort) : (s.setSp n p).power = s.power := rfl
@[simp] theorem State.setSp_security (s : State) (n : Nat) (p : SpeasPort) : (s.setSp n p).security = s.security := rfl
@[simp] theorem State.setSp_notices (s : State) (n : Nat) (p : SpeasPort) : (s.setSp n p).notices = s.notices := rfl
@[simp] theorem State.setSp_obs (s : State) (n : Nat) (p : SpeasPort) : (s.setSp n p).obs = s.obs := rfl
@[simp] theorem State.setSp_mem (s : State) (n : Nat) (p : SpeasPort) : (s.setSp n p).mem = s.mem := rfl
@[simp] theorem State.setSp_colliding (s : State) (n : Nat) (p : SpeasPort) : (s.setSp n p).colliding = s.colliding := rfl
@[simp] theorem State.setSp_freeDraws (s : State) (n : Nat) (p : SpeasPort) : (s.setSp n p).freeDraws = s.freeDraws := rfl

/-! ### State.setCore -/

@[simp] theorem State.setCore_pending (s : State) (c : Nat) (x : CoreState) : (s.setCore c x).pending = s.pending := rfl
@[simp] theorem State.setCore_outbox (s : State) (c : Nat) (x : CoreState) : (s.setCore c x).outbox = s.outbox := rfl
@[simp] theorem State.setCore_now (s : State) (c : Nat) (x : CoreState) : (s.setCore c x).now = s.now := rfl
@[simp] theorem State.setCore_ft (s : State) (c : Nat) (x : CoreState) : (s.setCore c x).ft = s.ft := rfl
@[simp] theorem State.setCore_regs (s : State) (c : Nat) (x : CoreState) : (s.setCore c x).regs = s.regs := rfl
@[simp] theorem State.setCore_cmds (s : State) (c : Nat) (x : CoreState) : (s.setCore c x).cmds = s.cmds := rfl
@[simp] theorem State.setCore_journal (s : State) (c : Nat) (x : CoreState) : (s.setCore c x).journal = s.journal := rfl
@[simp] theorem State.setCore_longOps (s : State) (c : Nat) (x : CoreState) : (s.setCore c x).longOps = s.longOps := rfl
@[simp] theorem State.setCore_speas (s : State) (c : Nat) (x : CoreState) : (s.setCore c x).speas = s.speas := rfl
@[simp] theorem State.setCore_ports (s : State) (c : Nat) (x : CoreState) : (s.setCore c x).ports = s.ports := rfl
@[simp] theorem State.setCore_eths (s : State) (c : Nat) (x : CoreState) : (s.setCore c x).eths = s.eths := rfl
@[simp] theorem State.setCore_time (s : State) (c : Nat) (x : CoreState) : (s.setCore c x).time = s.time := rfl
@[simp] theorem State.setCore_table (s : State) (c : Nat) (x : CoreState) : (s.setCore c x).table = s.table := rfl
@[simp] theorem State.setCore_programs (s : State) (c : Nat) (x : CoreState) : (s.setCore c x).programs = s.programs := rfl
@[simp] theorem State.setCore_clusters (s : State) (c : Nat) (x : CoreState) : (s.setCore c x).clusters = s.clusters := rfl
@[simp] theorem State.setCore_dies (s : State) (c : Nat) (x : CoreState) : (s.setCore c x).dies = s.dies := rfl
@[simp] theorem State.setCore_engines (s : State) (c : Nat) (x : CoreState) : (s.setCore c x).engines = s.engines := rfl
@[simp] theorem State.setCore_hosts (s : State) (c : Nat) (x : CoreState) : (s.setCore c x).hosts = s.hosts := rfl
@[simp] theorem State.setCore_noHost (s : State) (c : Nat) (x : CoreState) : (s.setCore c x).noHost = s.noHost := rfl
@[simp] theorem State.setCore_ringHeads (s : State) (c : Nat) (x : CoreState) : (s.setCore c x).ringHeads = s.ringHeads := rfl
@[simp] theorem State.setCore_crings (s : State) (c : Nat) (x : CoreState) : (s.setCore c x).crings = s.crings := rfl
@[simp] theorem State.setCore_steps (s : State) (c : Nat) (x : CoreState) : (s.setCore c x).steps = s.steps := rfl
@[simp] theorem State.setCore_square (s : State) (c : Nat) (x : CoreState) : (s.setCore c x).square = s.square := rfl
@[simp] theorem State.setCore_digests (s : State) (c : Nat) (x : CoreState) : (s.setCore c x).digests = s.digests := rfl
@[simp] theorem State.setCore_twin (s : State) (c : Nat) (x : CoreState) : (s.setCore c x).twin = s.twin := rfl
@[simp] theorem State.setCore_ckpt (s : State) (c : Nat) (x : CoreState) : (s.setCore c x).ckpt = s.ckpt := rfl
@[simp] theorem State.setCore_fabric (s : State) (c : Nat) (x : CoreState) : (s.setCore c x).fabric = s.fabric := rfl
@[simp] theorem State.setCore_resets (s : State) (c : Nat) (x : CoreState) : (s.setCore c x).resets = s.resets := rfl
@[simp] theorem State.setCore_tags (s : State) (c : Nat) (x : CoreState) : (s.setCore c x).tags = s.tags := rfl
@[simp] theorem State.setCore_boot (s : State) (c : Nat) (x : CoreState) : (s.setCore c x).boot = s.boot := rfl
@[simp] theorem State.setCore_power (s : State) (c : Nat) (x : CoreState) : (s.setCore c x).power = s.power := rfl
@[simp] theorem State.setCore_security (s : State) (c : Nat) (x : CoreState) : (s.setCore c x).security = s.security := rfl
@[simp] theorem State.setCore_notices (s : State) (c : Nat) (x : CoreState) : (s.setCore c x).notices = s.notices := rfl
@[simp] theorem State.setCore_obs (s : State) (c : Nat) (x : CoreState) : (s.setCore c x).obs = s.obs := rfl
@[simp] theorem State.setCore_mem (s : State) (c : Nat) (x : CoreState) : (s.setCore c x).mem = s.mem := rfl
@[simp] theorem State.setCore_colliding (s : State) (c : Nat) (x : CoreState) : (s.setCore c x).colliding = s.colliding := rfl
@[simp] theorem State.setCore_freeDraws (s : State) (c : Nat) (x : CoreState) : (s.setCore c x).freeDraws = s.freeDraws := rfl

/-! ### State.setCluster -/

@[simp] theorem State.setCluster_pending (s : State) (c : Nat) (x : ClusterState) : (s.setCluster c x).pending = s.pending := rfl
@[simp] theorem State.setCluster_outbox (s : State) (c : Nat) (x : ClusterState) : (s.setCluster c x).outbox = s.outbox := rfl
@[simp] theorem State.setCluster_now (s : State) (c : Nat) (x : ClusterState) : (s.setCluster c x).now = s.now := rfl
@[simp] theorem State.setCluster_ft (s : State) (c : Nat) (x : ClusterState) : (s.setCluster c x).ft = s.ft := rfl
@[simp] theorem State.setCluster_regs (s : State) (c : Nat) (x : ClusterState) : (s.setCluster c x).regs = s.regs := rfl
@[simp] theorem State.setCluster_cmds (s : State) (c : Nat) (x : ClusterState) : (s.setCluster c x).cmds = s.cmds := rfl
@[simp] theorem State.setCluster_journal (s : State) (c : Nat) (x : ClusterState) : (s.setCluster c x).journal = s.journal := rfl
@[simp] theorem State.setCluster_longOps (s : State) (c : Nat) (x : ClusterState) : (s.setCluster c x).longOps = s.longOps := rfl
@[simp] theorem State.setCluster_speas (s : State) (c : Nat) (x : ClusterState) : (s.setCluster c x).speas = s.speas := rfl
@[simp] theorem State.setCluster_ports (s : State) (c : Nat) (x : ClusterState) : (s.setCluster c x).ports = s.ports := rfl
@[simp] theorem State.setCluster_eths (s : State) (c : Nat) (x : ClusterState) : (s.setCluster c x).eths = s.eths := rfl
@[simp] theorem State.setCluster_time (s : State) (c : Nat) (x : ClusterState) : (s.setCluster c x).time = s.time := rfl
@[simp] theorem State.setCluster_table (s : State) (c : Nat) (x : ClusterState) : (s.setCluster c x).table = s.table := rfl
@[simp] theorem State.setCluster_programs (s : State) (c : Nat) (x : ClusterState) : (s.setCluster c x).programs = s.programs := rfl
@[simp] theorem State.setCluster_cores (s : State) (c : Nat) (x : ClusterState) : (s.setCluster c x).cores = s.cores := rfl
@[simp] theorem State.setCluster_dies (s : State) (c : Nat) (x : ClusterState) : (s.setCluster c x).dies = s.dies := rfl
@[simp] theorem State.setCluster_engines (s : State) (c : Nat) (x : ClusterState) : (s.setCluster c x).engines = s.engines := rfl
@[simp] theorem State.setCluster_hosts (s : State) (c : Nat) (x : ClusterState) : (s.setCluster c x).hosts = s.hosts := rfl
@[simp] theorem State.setCluster_noHost (s : State) (c : Nat) (x : ClusterState) : (s.setCluster c x).noHost = s.noHost := rfl
@[simp] theorem State.setCluster_ringHeads (s : State) (c : Nat) (x : ClusterState) : (s.setCluster c x).ringHeads = s.ringHeads := rfl
@[simp] theorem State.setCluster_crings (s : State) (c : Nat) (x : ClusterState) : (s.setCluster c x).crings = s.crings := rfl
@[simp] theorem State.setCluster_steps (s : State) (c : Nat) (x : ClusterState) : (s.setCluster c x).steps = s.steps := rfl
@[simp] theorem State.setCluster_square (s : State) (c : Nat) (x : ClusterState) : (s.setCluster c x).square = s.square := rfl
@[simp] theorem State.setCluster_digests (s : State) (c : Nat) (x : ClusterState) : (s.setCluster c x).digests = s.digests := rfl
@[simp] theorem State.setCluster_twin (s : State) (c : Nat) (x : ClusterState) : (s.setCluster c x).twin = s.twin := rfl
@[simp] theorem State.setCluster_ckpt (s : State) (c : Nat) (x : ClusterState) : (s.setCluster c x).ckpt = s.ckpt := rfl
@[simp] theorem State.setCluster_fabric (s : State) (c : Nat) (x : ClusterState) : (s.setCluster c x).fabric = s.fabric := rfl
@[simp] theorem State.setCluster_resets (s : State) (c : Nat) (x : ClusterState) : (s.setCluster c x).resets = s.resets := rfl
@[simp] theorem State.setCluster_tags (s : State) (c : Nat) (x : ClusterState) : (s.setCluster c x).tags = s.tags := rfl
@[simp] theorem State.setCluster_boot (s : State) (c : Nat) (x : ClusterState) : (s.setCluster c x).boot = s.boot := rfl
@[simp] theorem State.setCluster_power (s : State) (c : Nat) (x : ClusterState) : (s.setCluster c x).power = s.power := rfl
@[simp] theorem State.setCluster_security (s : State) (c : Nat) (x : ClusterState) : (s.setCluster c x).security = s.security := rfl
@[simp] theorem State.setCluster_notices (s : State) (c : Nat) (x : ClusterState) : (s.setCluster c x).notices = s.notices := rfl
@[simp] theorem State.setCluster_obs (s : State) (c : Nat) (x : ClusterState) : (s.setCluster c x).obs = s.obs := rfl
@[simp] theorem State.setCluster_mem (s : State) (c : Nat) (x : ClusterState) : (s.setCluster c x).mem = s.mem := rfl
@[simp] theorem State.setCluster_colliding (s : State) (c : Nat) (x : ClusterState) : (s.setCluster c x).colliding = s.colliding := rfl
@[simp] theorem State.setCluster_freeDraws (s : State) (c : Nat) (x : ClusterState) : (s.setCluster c x).freeDraws = s.freeDraws := rfl

/-! ### State.setDie -/

@[simp] theorem State.setDie_pending (s : State) (d : Nat) (x : DieState) : (s.setDie d x).pending = s.pending := rfl
@[simp] theorem State.setDie_outbox (s : State) (d : Nat) (x : DieState) : (s.setDie d x).outbox = s.outbox := rfl
@[simp] theorem State.setDie_now (s : State) (d : Nat) (x : DieState) : (s.setDie d x).now = s.now := rfl
@[simp] theorem State.setDie_ft (s : State) (d : Nat) (x : DieState) : (s.setDie d x).ft = s.ft := rfl
@[simp] theorem State.setDie_regs (s : State) (d : Nat) (x : DieState) : (s.setDie d x).regs = s.regs := rfl
@[simp] theorem State.setDie_cmds (s : State) (d : Nat) (x : DieState) : (s.setDie d x).cmds = s.cmds := rfl
@[simp] theorem State.setDie_journal (s : State) (d : Nat) (x : DieState) : (s.setDie d x).journal = s.journal := rfl
@[simp] theorem State.setDie_longOps (s : State) (d : Nat) (x : DieState) : (s.setDie d x).longOps = s.longOps := rfl
@[simp] theorem State.setDie_speas (s : State) (d : Nat) (x : DieState) : (s.setDie d x).speas = s.speas := rfl
@[simp] theorem State.setDie_ports (s : State) (d : Nat) (x : DieState) : (s.setDie d x).ports = s.ports := rfl
@[simp] theorem State.setDie_eths (s : State) (d : Nat) (x : DieState) : (s.setDie d x).eths = s.eths := rfl
@[simp] theorem State.setDie_time (s : State) (d : Nat) (x : DieState) : (s.setDie d x).time = s.time := rfl
@[simp] theorem State.setDie_table (s : State) (d : Nat) (x : DieState) : (s.setDie d x).table = s.table := rfl
@[simp] theorem State.setDie_programs (s : State) (d : Nat) (x : DieState) : (s.setDie d x).programs = s.programs := rfl
@[simp] theorem State.setDie_cores (s : State) (d : Nat) (x : DieState) : (s.setDie d x).cores = s.cores := rfl
@[simp] theorem State.setDie_clusters (s : State) (d : Nat) (x : DieState) : (s.setDie d x).clusters = s.clusters := rfl
@[simp] theorem State.setDie_engines (s : State) (d : Nat) (x : DieState) : (s.setDie d x).engines = s.engines := rfl
@[simp] theorem State.setDie_hosts (s : State) (d : Nat) (x : DieState) : (s.setDie d x).hosts = s.hosts := rfl
@[simp] theorem State.setDie_noHost (s : State) (d : Nat) (x : DieState) : (s.setDie d x).noHost = s.noHost := rfl
@[simp] theorem State.setDie_ringHeads (s : State) (d : Nat) (x : DieState) : (s.setDie d x).ringHeads = s.ringHeads := rfl
@[simp] theorem State.setDie_crings (s : State) (d : Nat) (x : DieState) : (s.setDie d x).crings = s.crings := rfl
@[simp] theorem State.setDie_steps (s : State) (d : Nat) (x : DieState) : (s.setDie d x).steps = s.steps := rfl
@[simp] theorem State.setDie_square (s : State) (d : Nat) (x : DieState) : (s.setDie d x).square = s.square := rfl
@[simp] theorem State.setDie_digests (s : State) (d : Nat) (x : DieState) : (s.setDie d x).digests = s.digests := rfl
@[simp] theorem State.setDie_twin (s : State) (d : Nat) (x : DieState) : (s.setDie d x).twin = s.twin := rfl
@[simp] theorem State.setDie_ckpt (s : State) (d : Nat) (x : DieState) : (s.setDie d x).ckpt = s.ckpt := rfl
@[simp] theorem State.setDie_fabric (s : State) (d : Nat) (x : DieState) : (s.setDie d x).fabric = s.fabric := rfl
@[simp] theorem State.setDie_resets (s : State) (d : Nat) (x : DieState) : (s.setDie d x).resets = s.resets := rfl
@[simp] theorem State.setDie_tags (s : State) (d : Nat) (x : DieState) : (s.setDie d x).tags = s.tags := rfl
@[simp] theorem State.setDie_boot (s : State) (d : Nat) (x : DieState) : (s.setDie d x).boot = s.boot := rfl
@[simp] theorem State.setDie_power (s : State) (d : Nat) (x : DieState) : (s.setDie d x).power = s.power := rfl
@[simp] theorem State.setDie_security (s : State) (d : Nat) (x : DieState) : (s.setDie d x).security = s.security := rfl
@[simp] theorem State.setDie_notices (s : State) (d : Nat) (x : DieState) : (s.setDie d x).notices = s.notices := rfl
@[simp] theorem State.setDie_obs (s : State) (d : Nat) (x : DieState) : (s.setDie d x).obs = s.obs := rfl
@[simp] theorem State.setDie_mem (s : State) (d : Nat) (x : DieState) : (s.setDie d x).mem = s.mem := rfl
@[simp] theorem State.setDie_colliding (s : State) (d : Nat) (x : DieState) : (s.setDie d x).colliding = s.colliding := rfl
@[simp] theorem State.setDie_freeDraws (s : State) (d : Nat) (x : DieState) : (s.setDie d x).freeDraws = s.freeDraws := rfl

/-! ### State.setContext -/

@[simp] theorem State.setContext_pending (s : State) (n : Nat) (c : StreamContext) : (s.setContext n c).pending = s.pending := rfl
@[simp] theorem State.setContext_outbox (s : State) (n : Nat) (c : StreamContext) : (s.setContext n c).outbox = s.outbox := rfl
@[simp] theorem State.setContext_now (s : State) (n : Nat) (c : StreamContext) : (s.setContext n c).now = s.now := rfl
@[simp] theorem State.setContext_ft (s : State) (n : Nat) (c : StreamContext) : (s.setContext n c).ft = s.ft := rfl
@[simp] theorem State.setContext_regs (s : State) (n : Nat) (c : StreamContext) : (s.setContext n c).regs = s.regs := rfl
@[simp] theorem State.setContext_cmds (s : State) (n : Nat) (c : StreamContext) : (s.setContext n c).cmds = s.cmds := rfl
@[simp] theorem State.setContext_journal (s : State) (n : Nat) (c : StreamContext) : (s.setContext n c).journal = s.journal := rfl
@[simp] theorem State.setContext_longOps (s : State) (n : Nat) (c : StreamContext) : (s.setContext n c).longOps = s.longOps := rfl
@[simp] theorem State.setContext_speas (s : State) (n : Nat) (c : StreamContext) : (s.setContext n c).speas = s.speas := rfl
@[simp] theorem State.setContext_ports (s : State) (n : Nat) (c : StreamContext) : (s.setContext n c).ports = s.ports := rfl
@[simp] theorem State.setContext_eths (s : State) (n : Nat) (c : StreamContext) : (s.setContext n c).eths = s.eths := rfl
@[simp] theorem State.setContext_time (s : State) (n : Nat) (c : StreamContext) : (s.setContext n c).time = s.time := rfl
@[simp] theorem State.setContext_table (s : State) (n : Nat) (c : StreamContext) : (s.setContext n c).table = s.table := rfl
@[simp] theorem State.setContext_programs (s : State) (n : Nat) (c : StreamContext) : (s.setContext n c).programs = s.programs := rfl
@[simp] theorem State.setContext_cores (s : State) (n : Nat) (c : StreamContext) : (s.setContext n c).cores = s.cores := rfl
@[simp] theorem State.setContext_clusters (s : State) (n : Nat) (c : StreamContext) : (s.setContext n c).clusters = s.clusters := rfl
@[simp] theorem State.setContext_dies (s : State) (n : Nat) (c : StreamContext) : (s.setContext n c).dies = s.dies := rfl
@[simp] theorem State.setContext_engines (s : State) (n : Nat) (c : StreamContext) : (s.setContext n c).engines = s.engines := rfl
@[simp] theorem State.setContext_hosts (s : State) (n : Nat) (c : StreamContext) : (s.setContext n c).hosts = s.hosts := rfl
@[simp] theorem State.setContext_noHost (s : State) (n : Nat) (c : StreamContext) : (s.setContext n c).noHost = s.noHost := rfl
@[simp] theorem State.setContext_ringHeads (s : State) (n : Nat) (c : StreamContext) : (s.setContext n c).ringHeads = s.ringHeads := rfl
@[simp] theorem State.setContext_crings (s : State) (n : Nat) (c : StreamContext) : (s.setContext n c).crings = s.crings := rfl
@[simp] theorem State.setContext_steps (s : State) (n : Nat) (c : StreamContext) : (s.setContext n c).steps = s.steps := rfl
@[simp] theorem State.setContext_square (s : State) (n : Nat) (c : StreamContext) : (s.setContext n c).square = s.square := rfl
@[simp] theorem State.setContext_digests (s : State) (n : Nat) (c : StreamContext) : (s.setContext n c).digests = s.digests := rfl
@[simp] theorem State.setContext_twin (s : State) (n : Nat) (c : StreamContext) : (s.setContext n c).twin = s.twin := rfl
@[simp] theorem State.setContext_ckpt (s : State) (n : Nat) (c : StreamContext) : (s.setContext n c).ckpt = s.ckpt := rfl
@[simp] theorem State.setContext_resets (s : State) (n : Nat) (c : StreamContext) : (s.setContext n c).resets = s.resets := rfl
@[simp] theorem State.setContext_tags (s : State) (n : Nat) (c : StreamContext) : (s.setContext n c).tags = s.tags := rfl
@[simp] theorem State.setContext_boot (s : State) (n : Nat) (c : StreamContext) : (s.setContext n c).boot = s.boot := rfl
@[simp] theorem State.setContext_power (s : State) (n : Nat) (c : StreamContext) : (s.setContext n c).power = s.power := rfl
@[simp] theorem State.setContext_security (s : State) (n : Nat) (c : StreamContext) : (s.setContext n c).security = s.security := rfl
@[simp] theorem State.setContext_notices (s : State) (n : Nat) (c : StreamContext) : (s.setContext n c).notices = s.notices := rfl
@[simp] theorem State.setContext_obs (s : State) (n : Nat) (c : StreamContext) : (s.setContext n c).obs = s.obs := rfl
@[simp] theorem State.setContext_mem (s : State) (n : Nat) (c : StreamContext) : (s.setContext n c).mem = s.mem := rfl
@[simp] theorem State.setContext_colliding (s : State) (n : Nat) (c : StreamContext) : (s.setContext n c).colliding = s.colliding := rfl
@[simp] theorem State.setContext_freeDraws (s : State) (n : Nat) (c : StreamContext) : (s.setContext n c).freeDraws = s.freeDraws := rfl

/-! ### State.setSlot -/

@[simp] theorem State.setSlot_pending (s : State) (i : Nat) (x : TTSlot) : (s.setSlot i x).pending = s.pending := rfl
@[simp] theorem State.setSlot_outbox (s : State) (i : Nat) (x : TTSlot) : (s.setSlot i x).outbox = s.outbox := rfl
@[simp] theorem State.setSlot_now (s : State) (i : Nat) (x : TTSlot) : (s.setSlot i x).now = s.now := rfl
@[simp] theorem State.setSlot_ft (s : State) (i : Nat) (x : TTSlot) : (s.setSlot i x).ft = s.ft := rfl
@[simp] theorem State.setSlot_regs (s : State) (i : Nat) (x : TTSlot) : (s.setSlot i x).regs = s.regs := rfl
@[simp] theorem State.setSlot_cmds (s : State) (i : Nat) (x : TTSlot) : (s.setSlot i x).cmds = s.cmds := rfl
@[simp] theorem State.setSlot_journal (s : State) (i : Nat) (x : TTSlot) : (s.setSlot i x).journal = s.journal := rfl
@[simp] theorem State.setSlot_longOps (s : State) (i : Nat) (x : TTSlot) : (s.setSlot i x).longOps = s.longOps := rfl
@[simp] theorem State.setSlot_speas (s : State) (i : Nat) (x : TTSlot) : (s.setSlot i x).speas = s.speas := rfl
@[simp] theorem State.setSlot_ports (s : State) (i : Nat) (x : TTSlot) : (s.setSlot i x).ports = s.ports := rfl
@[simp] theorem State.setSlot_eths (s : State) (i : Nat) (x : TTSlot) : (s.setSlot i x).eths = s.eths := rfl
@[simp] theorem State.setSlot_time (s : State) (i : Nat) (x : TTSlot) : (s.setSlot i x).time = s.time := rfl
@[simp] theorem State.setSlot_programs (s : State) (i : Nat) (x : TTSlot) : (s.setSlot i x).programs = s.programs := rfl
@[simp] theorem State.setSlot_cores (s : State) (i : Nat) (x : TTSlot) : (s.setSlot i x).cores = s.cores := rfl
@[simp] theorem State.setSlot_clusters (s : State) (i : Nat) (x : TTSlot) : (s.setSlot i x).clusters = s.clusters := rfl
@[simp] theorem State.setSlot_dies (s : State) (i : Nat) (x : TTSlot) : (s.setSlot i x).dies = s.dies := rfl
@[simp] theorem State.setSlot_engines (s : State) (i : Nat) (x : TTSlot) : (s.setSlot i x).engines = s.engines := rfl
@[simp] theorem State.setSlot_hosts (s : State) (i : Nat) (x : TTSlot) : (s.setSlot i x).hosts = s.hosts := rfl
@[simp] theorem State.setSlot_noHost (s : State) (i : Nat) (x : TTSlot) : (s.setSlot i x).noHost = s.noHost := rfl
@[simp] theorem State.setSlot_ringHeads (s : State) (i : Nat) (x : TTSlot) : (s.setSlot i x).ringHeads = s.ringHeads := rfl
@[simp] theorem State.setSlot_crings (s : State) (i : Nat) (x : TTSlot) : (s.setSlot i x).crings = s.crings := rfl
@[simp] theorem State.setSlot_steps (s : State) (i : Nat) (x : TTSlot) : (s.setSlot i x).steps = s.steps := rfl
@[simp] theorem State.setSlot_square (s : State) (i : Nat) (x : TTSlot) : (s.setSlot i x).square = s.square := rfl
@[simp] theorem State.setSlot_digests (s : State) (i : Nat) (x : TTSlot) : (s.setSlot i x).digests = s.digests := rfl
@[simp] theorem State.setSlot_twin (s : State) (i : Nat) (x : TTSlot) : (s.setSlot i x).twin = s.twin := rfl
@[simp] theorem State.setSlot_ckpt (s : State) (i : Nat) (x : TTSlot) : (s.setSlot i x).ckpt = s.ckpt := rfl
@[simp] theorem State.setSlot_fabric (s : State) (i : Nat) (x : TTSlot) : (s.setSlot i x).fabric = s.fabric := rfl
@[simp] theorem State.setSlot_resets (s : State) (i : Nat) (x : TTSlot) : (s.setSlot i x).resets = s.resets := rfl
@[simp] theorem State.setSlot_tags (s : State) (i : Nat) (x : TTSlot) : (s.setSlot i x).tags = s.tags := rfl
@[simp] theorem State.setSlot_boot (s : State) (i : Nat) (x : TTSlot) : (s.setSlot i x).boot = s.boot := rfl
@[simp] theorem State.setSlot_power (s : State) (i : Nat) (x : TTSlot) : (s.setSlot i x).power = s.power := rfl
@[simp] theorem State.setSlot_security (s : State) (i : Nat) (x : TTSlot) : (s.setSlot i x).security = s.security := rfl
@[simp] theorem State.setSlot_notices (s : State) (i : Nat) (x : TTSlot) : (s.setSlot i x).notices = s.notices := rfl
@[simp] theorem State.setSlot_obs (s : State) (i : Nat) (x : TTSlot) : (s.setSlot i x).obs = s.obs := rfl
@[simp] theorem State.setSlot_mem (s : State) (i : Nat) (x : TTSlot) : (s.setSlot i x).mem = s.mem := rfl
@[simp] theorem State.setSlot_colliding (s : State) (i : Nat) (x : TTSlot) : (s.setSlot i x).colliding = s.colliding := rfl
@[simp] theorem State.setSlot_freeDraws (s : State) (i : Nat) (x : TTSlot) : (s.setSlot i x).freeDraws = s.freeDraws := rfl

/-! ### State.setSession -/

@[simp] theorem State.setSession_pending (s : State) (x : Session) : (s.setSession x).pending = s.pending := rfl
@[simp] theorem State.setSession_outbox (s : State) (x : Session) : (s.setSession x).outbox = s.outbox := rfl
@[simp] theorem State.setSession_now (s : State) (x : Session) : (s.setSession x).now = s.now := rfl
@[simp] theorem State.setSession_ft (s : State) (x : Session) : (s.setSession x).ft = s.ft := rfl
@[simp] theorem State.setSession_regs (s : State) (x : Session) : (s.setSession x).regs = s.regs := rfl
@[simp] theorem State.setSession_journal (s : State) (x : Session) : (s.setSession x).journal = s.journal := rfl
@[simp] theorem State.setSession_longOps (s : State) (x : Session) : (s.setSession x).longOps = s.longOps := rfl
@[simp] theorem State.setSession_speas (s : State) (x : Session) : (s.setSession x).speas = s.speas := rfl
@[simp] theorem State.setSession_ports (s : State) (x : Session) : (s.setSession x).ports = s.ports := rfl
@[simp] theorem State.setSession_eths (s : State) (x : Session) : (s.setSession x).eths = s.eths := rfl
@[simp] theorem State.setSession_time (s : State) (x : Session) : (s.setSession x).time = s.time := rfl
@[simp] theorem State.setSession_table (s : State) (x : Session) : (s.setSession x).table = s.table := rfl
@[simp] theorem State.setSession_programs (s : State) (x : Session) : (s.setSession x).programs = s.programs := rfl
@[simp] theorem State.setSession_cores (s : State) (x : Session) : (s.setSession x).cores = s.cores := rfl
@[simp] theorem State.setSession_clusters (s : State) (x : Session) : (s.setSession x).clusters = s.clusters := rfl
@[simp] theorem State.setSession_dies (s : State) (x : Session) : (s.setSession x).dies = s.dies := rfl
@[simp] theorem State.setSession_engines (s : State) (x : Session) : (s.setSession x).engines = s.engines := rfl
@[simp] theorem State.setSession_hosts (s : State) (x : Session) : (s.setSession x).hosts = s.hosts := rfl
@[simp] theorem State.setSession_noHost (s : State) (x : Session) : (s.setSession x).noHost = s.noHost := rfl
@[simp] theorem State.setSession_ringHeads (s : State) (x : Session) : (s.setSession x).ringHeads = s.ringHeads := rfl
@[simp] theorem State.setSession_crings (s : State) (x : Session) : (s.setSession x).crings = s.crings := rfl
@[simp] theorem State.setSession_steps (s : State) (x : Session) : (s.setSession x).steps = s.steps := rfl
@[simp] theorem State.setSession_square (s : State) (x : Session) : (s.setSession x).square = s.square := rfl
@[simp] theorem State.setSession_digests (s : State) (x : Session) : (s.setSession x).digests = s.digests := rfl
@[simp] theorem State.setSession_twin (s : State) (x : Session) : (s.setSession x).twin = s.twin := rfl
@[simp] theorem State.setSession_ckpt (s : State) (x : Session) : (s.setSession x).ckpt = s.ckpt := rfl
@[simp] theorem State.setSession_fabric (s : State) (x : Session) : (s.setSession x).fabric = s.fabric := rfl
@[simp] theorem State.setSession_resets (s : State) (x : Session) : (s.setSession x).resets = s.resets := rfl
@[simp] theorem State.setSession_tags (s : State) (x : Session) : (s.setSession x).tags = s.tags := rfl
@[simp] theorem State.setSession_boot (s : State) (x : Session) : (s.setSession x).boot = s.boot := rfl
@[simp] theorem State.setSession_power (s : State) (x : Session) : (s.setSession x).power = s.power := rfl
@[simp] theorem State.setSession_security (s : State) (x : Session) : (s.setSession x).security = s.security := rfl
@[simp] theorem State.setSession_notices (s : State) (x : Session) : (s.setSession x).notices = s.notices := rfl
@[simp] theorem State.setSession_obs (s : State) (x : Session) : (s.setSession x).obs = s.obs := rfl
@[simp] theorem State.setSession_mem (s : State) (x : Session) : (s.setSession x).mem = s.mem := rfl
@[simp] theorem State.setSession_colliding (s : State) (x : Session) : (s.setSession x).colliding = s.colliding := rfl
@[simp] theorem State.setSession_freeDraws (s : State) (x : Session) : (s.setSession x).freeDraws = s.freeDraws := rfl

/-! ### State.setPhase -/

@[simp] theorem State.setPhase_pending (s : State) (j : Nat) (ph : CmdPhase) : (s.setPhase j ph).pending = s.pending := rfl
@[simp] theorem State.setPhase_outbox (s : State) (j : Nat) (ph : CmdPhase) : (s.setPhase j ph).outbox = s.outbox := rfl
@[simp] theorem State.setPhase_now (s : State) (j : Nat) (ph : CmdPhase) : (s.setPhase j ph).now = s.now := rfl
@[simp] theorem State.setPhase_ft (s : State) (j : Nat) (ph : CmdPhase) : (s.setPhase j ph).ft = s.ft := rfl
@[simp] theorem State.setPhase_regs (s : State) (j : Nat) (ph : CmdPhase) : (s.setPhase j ph).regs = s.regs := rfl
@[simp] theorem State.setPhase_journal (s : State) (j : Nat) (ph : CmdPhase) : (s.setPhase j ph).journal = s.journal := rfl
@[simp] theorem State.setPhase_longOps (s : State) (j : Nat) (ph : CmdPhase) : (s.setPhase j ph).longOps = s.longOps := rfl
@[simp] theorem State.setPhase_speas (s : State) (j : Nat) (ph : CmdPhase) : (s.setPhase j ph).speas = s.speas := rfl
@[simp] theorem State.setPhase_ports (s : State) (j : Nat) (ph : CmdPhase) : (s.setPhase j ph).ports = s.ports := rfl
@[simp] theorem State.setPhase_eths (s : State) (j : Nat) (ph : CmdPhase) : (s.setPhase j ph).eths = s.eths := rfl
@[simp] theorem State.setPhase_time (s : State) (j : Nat) (ph : CmdPhase) : (s.setPhase j ph).time = s.time := rfl
@[simp] theorem State.setPhase_table (s : State) (j : Nat) (ph : CmdPhase) : (s.setPhase j ph).table = s.table := rfl
@[simp] theorem State.setPhase_programs (s : State) (j : Nat) (ph : CmdPhase) : (s.setPhase j ph).programs = s.programs := rfl
@[simp] theorem State.setPhase_cores (s : State) (j : Nat) (ph : CmdPhase) : (s.setPhase j ph).cores = s.cores := rfl
@[simp] theorem State.setPhase_clusters (s : State) (j : Nat) (ph : CmdPhase) : (s.setPhase j ph).clusters = s.clusters := rfl
@[simp] theorem State.setPhase_dies (s : State) (j : Nat) (ph : CmdPhase) : (s.setPhase j ph).dies = s.dies := rfl
@[simp] theorem State.setPhase_engines (s : State) (j : Nat) (ph : CmdPhase) : (s.setPhase j ph).engines = s.engines := rfl
@[simp] theorem State.setPhase_hosts (s : State) (j : Nat) (ph : CmdPhase) : (s.setPhase j ph).hosts = s.hosts := rfl
@[simp] theorem State.setPhase_noHost (s : State) (j : Nat) (ph : CmdPhase) : (s.setPhase j ph).noHost = s.noHost := rfl
@[simp] theorem State.setPhase_ringHeads (s : State) (j : Nat) (ph : CmdPhase) : (s.setPhase j ph).ringHeads = s.ringHeads := rfl
@[simp] theorem State.setPhase_crings (s : State) (j : Nat) (ph : CmdPhase) : (s.setPhase j ph).crings = s.crings := rfl
@[simp] theorem State.setPhase_steps (s : State) (j : Nat) (ph : CmdPhase) : (s.setPhase j ph).steps = s.steps := rfl
@[simp] theorem State.setPhase_square (s : State) (j : Nat) (ph : CmdPhase) : (s.setPhase j ph).square = s.square := rfl
@[simp] theorem State.setPhase_digests (s : State) (j : Nat) (ph : CmdPhase) : (s.setPhase j ph).digests = s.digests := rfl
@[simp] theorem State.setPhase_twin (s : State) (j : Nat) (ph : CmdPhase) : (s.setPhase j ph).twin = s.twin := rfl
@[simp] theorem State.setPhase_ckpt (s : State) (j : Nat) (ph : CmdPhase) : (s.setPhase j ph).ckpt = s.ckpt := rfl
@[simp] theorem State.setPhase_fabric (s : State) (j : Nat) (ph : CmdPhase) : (s.setPhase j ph).fabric = s.fabric := rfl
@[simp] theorem State.setPhase_resets (s : State) (j : Nat) (ph : CmdPhase) : (s.setPhase j ph).resets = s.resets := rfl
@[simp] theorem State.setPhase_tags (s : State) (j : Nat) (ph : CmdPhase) : (s.setPhase j ph).tags = s.tags := rfl
@[simp] theorem State.setPhase_boot (s : State) (j : Nat) (ph : CmdPhase) : (s.setPhase j ph).boot = s.boot := rfl
@[simp] theorem State.setPhase_power (s : State) (j : Nat) (ph : CmdPhase) : (s.setPhase j ph).power = s.power := rfl
@[simp] theorem State.setPhase_security (s : State) (j : Nat) (ph : CmdPhase) : (s.setPhase j ph).security = s.security := rfl
@[simp] theorem State.setPhase_notices (s : State) (j : Nat) (ph : CmdPhase) : (s.setPhase j ph).notices = s.notices := rfl
@[simp] theorem State.setPhase_obs (s : State) (j : Nat) (ph : CmdPhase) : (s.setPhase j ph).obs = s.obs := rfl
@[simp] theorem State.setPhase_mem (s : State) (j : Nat) (ph : CmdPhase) : (s.setPhase j ph).mem = s.mem := rfl
@[simp] theorem State.setPhase_colliding (s : State) (j : Nat) (ph : CmdPhase) : (s.setPhase j ph).colliding = s.colliding := rfl
@[simp] theorem State.setPhase_freeDraws (s : State) (j : Nat) (ph : CmdPhase) : (s.setPhase j ph).freeDraws = s.freeDraws := rfl

/-! ### State.setStep -/

@[simp] theorem State.setStep_pending (s : State) (r : StepRec) : (s.setStep r).pending = s.pending := rfl
@[simp] theorem State.setStep_outbox (s : State) (r : StepRec) : (s.setStep r).outbox = s.outbox := rfl
@[simp] theorem State.setStep_now (s : State) (r : StepRec) : (s.setStep r).now = s.now := rfl
@[simp] theorem State.setStep_ft (s : State) (r : StepRec) : (s.setStep r).ft = s.ft := rfl
@[simp] theorem State.setStep_regs (s : State) (r : StepRec) : (s.setStep r).regs = s.regs := rfl
@[simp] theorem State.setStep_cmds (s : State) (r : StepRec) : (s.setStep r).cmds = s.cmds := rfl
@[simp] theorem State.setStep_journal (s : State) (r : StepRec) : (s.setStep r).journal = s.journal := rfl
@[simp] theorem State.setStep_longOps (s : State) (r : StepRec) : (s.setStep r).longOps = s.longOps := rfl
@[simp] theorem State.setStep_speas (s : State) (r : StepRec) : (s.setStep r).speas = s.speas := rfl
@[simp] theorem State.setStep_ports (s : State) (r : StepRec) : (s.setStep r).ports = s.ports := rfl
@[simp] theorem State.setStep_eths (s : State) (r : StepRec) : (s.setStep r).eths = s.eths := rfl
@[simp] theorem State.setStep_time (s : State) (r : StepRec) : (s.setStep r).time = s.time := rfl
@[simp] theorem State.setStep_table (s : State) (r : StepRec) : (s.setStep r).table = s.table := rfl
@[simp] theorem State.setStep_programs (s : State) (r : StepRec) : (s.setStep r).programs = s.programs := rfl
@[simp] theorem State.setStep_cores (s : State) (r : StepRec) : (s.setStep r).cores = s.cores := rfl
@[simp] theorem State.setStep_clusters (s : State) (r : StepRec) : (s.setStep r).clusters = s.clusters := rfl
@[simp] theorem State.setStep_dies (s : State) (r : StepRec) : (s.setStep r).dies = s.dies := rfl
@[simp] theorem State.setStep_engines (s : State) (r : StepRec) : (s.setStep r).engines = s.engines := rfl
@[simp] theorem State.setStep_hosts (s : State) (r : StepRec) : (s.setStep r).hosts = s.hosts := rfl
@[simp] theorem State.setStep_noHost (s : State) (r : StepRec) : (s.setStep r).noHost = s.noHost := rfl
@[simp] theorem State.setStep_ringHeads (s : State) (r : StepRec) : (s.setStep r).ringHeads = s.ringHeads := rfl
@[simp] theorem State.setStep_crings (s : State) (r : StepRec) : (s.setStep r).crings = s.crings := rfl
@[simp] theorem State.setStep_square (s : State) (r : StepRec) : (s.setStep r).square = s.square := rfl
@[simp] theorem State.setStep_digests (s : State) (r : StepRec) : (s.setStep r).digests = s.digests := rfl
@[simp] theorem State.setStep_twin (s : State) (r : StepRec) : (s.setStep r).twin = s.twin := rfl
@[simp] theorem State.setStep_ckpt (s : State) (r : StepRec) : (s.setStep r).ckpt = s.ckpt := rfl
@[simp] theorem State.setStep_fabric (s : State) (r : StepRec) : (s.setStep r).fabric = s.fabric := rfl
@[simp] theorem State.setStep_resets (s : State) (r : StepRec) : (s.setStep r).resets = s.resets := rfl
@[simp] theorem State.setStep_tags (s : State) (r : StepRec) : (s.setStep r).tags = s.tags := rfl
@[simp] theorem State.setStep_boot (s : State) (r : StepRec) : (s.setStep r).boot = s.boot := rfl
@[simp] theorem State.setStep_power (s : State) (r : StepRec) : (s.setStep r).power = s.power := rfl
@[simp] theorem State.setStep_security (s : State) (r : StepRec) : (s.setStep r).security = s.security := rfl
@[simp] theorem State.setStep_notices (s : State) (r : StepRec) : (s.setStep r).notices = s.notices := rfl
@[simp] theorem State.setStep_obs (s : State) (r : StepRec) : (s.setStep r).obs = s.obs := rfl
@[simp] theorem State.setStep_mem (s : State) (r : StepRec) : (s.setStep r).mem = s.mem := rfl
@[simp] theorem State.setStep_colliding (s : State) (r : StepRec) : (s.setStep r).colliding = s.colliding := rfl
@[simp] theorem State.setStep_freeDraws (s : State) (r : StepRec) : (s.setStep r).freeDraws = s.freeDraws := rfl

/-! ### State.send -/

@[simp] theorem State.send_pending (s : State) (o : Output) : (s.send o).pending = s.pending := rfl
@[simp] theorem State.send_now (s : State) (o : Output) : (s.send o).now = s.now := rfl
@[simp] theorem State.send_ft (s : State) (o : Output) : (s.send o).ft = s.ft := rfl
@[simp] theorem State.send_regs (s : State) (o : Output) : (s.send o).regs = s.regs := rfl
@[simp] theorem State.send_cmds (s : State) (o : Output) : (s.send o).cmds = s.cmds := rfl
@[simp] theorem State.send_journal (s : State) (o : Output) : (s.send o).journal = s.journal := rfl
@[simp] theorem State.send_longOps (s : State) (o : Output) : (s.send o).longOps = s.longOps := rfl
@[simp] theorem State.send_speas (s : State) (o : Output) : (s.send o).speas = s.speas := rfl
@[simp] theorem State.send_ports (s : State) (o : Output) : (s.send o).ports = s.ports := rfl
@[simp] theorem State.send_eths (s : State) (o : Output) : (s.send o).eths = s.eths := rfl
@[simp] theorem State.send_time (s : State) (o : Output) : (s.send o).time = s.time := rfl
@[simp] theorem State.send_table (s : State) (o : Output) : (s.send o).table = s.table := rfl
@[simp] theorem State.send_programs (s : State) (o : Output) : (s.send o).programs = s.programs := rfl
@[simp] theorem State.send_cores (s : State) (o : Output) : (s.send o).cores = s.cores := rfl
@[simp] theorem State.send_clusters (s : State) (o : Output) : (s.send o).clusters = s.clusters := rfl
@[simp] theorem State.send_dies (s : State) (o : Output) : (s.send o).dies = s.dies := rfl
@[simp] theorem State.send_engines (s : State) (o : Output) : (s.send o).engines = s.engines := rfl
@[simp] theorem State.send_hosts (s : State) (o : Output) : (s.send o).hosts = s.hosts := rfl
@[simp] theorem State.send_noHost (s : State) (o : Output) : (s.send o).noHost = s.noHost := rfl
@[simp] theorem State.send_ringHeads (s : State) (o : Output) : (s.send o).ringHeads = s.ringHeads := rfl
@[simp] theorem State.send_crings (s : State) (o : Output) : (s.send o).crings = s.crings := rfl
@[simp] theorem State.send_steps (s : State) (o : Output) : (s.send o).steps = s.steps := rfl
@[simp] theorem State.send_square (s : State) (o : Output) : (s.send o).square = s.square := rfl
@[simp] theorem State.send_digests (s : State) (o : Output) : (s.send o).digests = s.digests := rfl
@[simp] theorem State.send_twin (s : State) (o : Output) : (s.send o).twin = s.twin := rfl
@[simp] theorem State.send_ckpt (s : State) (o : Output) : (s.send o).ckpt = s.ckpt := rfl
@[simp] theorem State.send_fabric (s : State) (o : Output) : (s.send o).fabric = s.fabric := rfl
@[simp] theorem State.send_resets (s : State) (o : Output) : (s.send o).resets = s.resets := rfl
@[simp] theorem State.send_tags (s : State) (o : Output) : (s.send o).tags = s.tags := rfl
@[simp] theorem State.send_boot (s : State) (o : Output) : (s.send o).boot = s.boot := rfl
@[simp] theorem State.send_power (s : State) (o : Output) : (s.send o).power = s.power := rfl
@[simp] theorem State.send_security (s : State) (o : Output) : (s.send o).security = s.security := rfl
@[simp] theorem State.send_notices (s : State) (o : Output) : (s.send o).notices = s.notices := rfl
@[simp] theorem State.send_obs (s : State) (o : Output) : (s.send o).obs = s.obs := rfl
@[simp] theorem State.send_mem (s : State) (o : Output) : (s.send o).mem = s.mem := rfl
@[simp] theorem State.send_colliding (s : State) (o : Output) : (s.send o).colliding = s.colliding := rfl
@[simp] theorem State.send_freeDraws (s : State) (o : Output) : (s.send o).freeDraws = s.freeDraws := rfl

/-! ### State.hit -/

@[simp] theorem State.hit_pending (s : State) (e : BitErrors) : (s.hit e).pending = s.pending := rfl
@[simp] theorem State.hit_outbox (s : State) (e : BitErrors) : (s.hit e).outbox = s.outbox := rfl
@[simp] theorem State.hit_now (s : State) (e : BitErrors) : (s.hit e).now = s.now := rfl
@[simp] theorem State.hit_ft (s : State) (e : BitErrors) : (s.hit e).ft = s.ft := rfl
@[simp] theorem State.hit_regs (s : State) (e : BitErrors) : (s.hit e).regs = s.regs := rfl
@[simp] theorem State.hit_cmds (s : State) (e : BitErrors) : (s.hit e).cmds = s.cmds := rfl
@[simp] theorem State.hit_journal (s : State) (e : BitErrors) : (s.hit e).journal = s.journal := rfl
@[simp] theorem State.hit_longOps (s : State) (e : BitErrors) : (s.hit e).longOps = s.longOps := rfl
@[simp] theorem State.hit_speas (s : State) (e : BitErrors) : (s.hit e).speas = s.speas := rfl
@[simp] theorem State.hit_ports (s : State) (e : BitErrors) : (s.hit e).ports = s.ports := rfl
@[simp] theorem State.hit_eths (s : State) (e : BitErrors) : (s.hit e).eths = s.eths := rfl
@[simp] theorem State.hit_time (s : State) (e : BitErrors) : (s.hit e).time = s.time := rfl
@[simp] theorem State.hit_table (s : State) (e : BitErrors) : (s.hit e).table = s.table := rfl
@[simp] theorem State.hit_programs (s : State) (e : BitErrors) : (s.hit e).programs = s.programs := rfl
@[simp] theorem State.hit_cores (s : State) (e : BitErrors) : (s.hit e).cores = s.cores := rfl
@[simp] theorem State.hit_clusters (s : State) (e : BitErrors) : (s.hit e).clusters = s.clusters := rfl
@[simp] theorem State.hit_dies (s : State) (e : BitErrors) : (s.hit e).dies = s.dies := rfl
@[simp] theorem State.hit_engines (s : State) (e : BitErrors) : (s.hit e).engines = s.engines := rfl
@[simp] theorem State.hit_hosts (s : State) (e : BitErrors) : (s.hit e).hosts = s.hosts := rfl
@[simp] theorem State.hit_noHost (s : State) (e : BitErrors) : (s.hit e).noHost = s.noHost := rfl
@[simp] theorem State.hit_ringHeads (s : State) (e : BitErrors) : (s.hit e).ringHeads = s.ringHeads := rfl
@[simp] theorem State.hit_crings (s : State) (e : BitErrors) : (s.hit e).crings = s.crings := rfl
@[simp] theorem State.hit_steps (s : State) (e : BitErrors) : (s.hit e).steps = s.steps := rfl
@[simp] theorem State.hit_square (s : State) (e : BitErrors) : (s.hit e).square = s.square := rfl
@[simp] theorem State.hit_digests (s : State) (e : BitErrors) : (s.hit e).digests = s.digests := rfl
@[simp] theorem State.hit_twin (s : State) (e : BitErrors) : (s.hit e).twin = s.twin := rfl
@[simp] theorem State.hit_ckpt (s : State) (e : BitErrors) : (s.hit e).ckpt = s.ckpt := rfl
@[simp] theorem State.hit_fabric (s : State) (e : BitErrors) : (s.hit e).fabric = s.fabric := rfl
@[simp] theorem State.hit_resets (s : State) (e : BitErrors) : (s.hit e).resets = s.resets := rfl
@[simp] theorem State.hit_tags (s : State) (e : BitErrors) : (s.hit e).tags = s.tags := rfl
@[simp] theorem State.hit_boot (s : State) (e : BitErrors) : (s.hit e).boot = s.boot := rfl
@[simp] theorem State.hit_power (s : State) (e : BitErrors) : (s.hit e).power = s.power := rfl
@[simp] theorem State.hit_security (s : State) (e : BitErrors) : (s.hit e).security = s.security := rfl
@[simp] theorem State.hit_notices (s : State) (e : BitErrors) : (s.hit e).notices = s.notices := rfl
@[simp] theorem State.hit_obs (s : State) (e : BitErrors) : (s.hit e).obs = s.obs := rfl
@[simp] theorem State.hit_colliding (s : State) (e : BitErrors) : (s.hit e).colliding = s.colliding := rfl
@[simp] theorem State.hit_freeDraws (s : State) (e : BitErrors) : (s.hit e).freeDraws = s.freeDraws := rfl

/-! ### State.withComms -/

@[simp] theorem State.withComms_pending (s : State) (t : State) : (s.withComms t).pending = s.pending := rfl
@[simp] theorem State.withComms_now (s : State) (t : State) : (s.withComms t).now = s.now := rfl
@[simp] theorem State.withComms_ft (s : State) (t : State) : (s.withComms t).ft = s.ft := rfl
@[simp] theorem State.withComms_regs (s : State) (t : State) : (s.withComms t).regs = s.regs := rfl
@[simp] theorem State.withComms_longOps (s : State) (t : State) : (s.withComms t).longOps = s.longOps := rfl
@[simp] theorem State.withComms_ports (s : State) (t : State) : (s.withComms t).ports = s.ports := rfl
@[simp] theorem State.withComms_eths (s : State) (t : State) : (s.withComms t).eths = s.eths := rfl
@[simp] theorem State.withComms_time (s : State) (t : State) : (s.withComms t).time = s.time := rfl
@[simp] theorem State.withComms_table (s : State) (t : State) : (s.withComms t).table = s.table := rfl
@[simp] theorem State.withComms_programs (s : State) (t : State) : (s.withComms t).programs = s.programs := rfl
@[simp] theorem State.withComms_cores (s : State) (t : State) : (s.withComms t).cores = s.cores := rfl
@[simp] theorem State.withComms_clusters (s : State) (t : State) : (s.withComms t).clusters = s.clusters := rfl
@[simp] theorem State.withComms_dies (s : State) (t : State) : (s.withComms t).dies = s.dies := rfl
@[simp] theorem State.withComms_engines (s : State) (t : State) : (s.withComms t).engines = s.engines := rfl
@[simp] theorem State.withComms_hosts (s : State) (t : State) : (s.withComms t).hosts = s.hosts := rfl
@[simp] theorem State.withComms_noHost (s : State) (t : State) : (s.withComms t).noHost = s.noHost := rfl
@[simp] theorem State.withComms_ringHeads (s : State) (t : State) : (s.withComms t).ringHeads = s.ringHeads := rfl
@[simp] theorem State.withComms_crings (s : State) (t : State) : (s.withComms t).crings = s.crings := rfl
@[simp] theorem State.withComms_steps (s : State) (t : State) : (s.withComms t).steps = s.steps := rfl
@[simp] theorem State.withComms_square (s : State) (t : State) : (s.withComms t).square = s.square := rfl
@[simp] theorem State.withComms_digests (s : State) (t : State) : (s.withComms t).digests = s.digests := rfl
@[simp] theorem State.withComms_twin (s : State) (t : State) : (s.withComms t).twin = s.twin := rfl
@[simp] theorem State.withComms_ckpt (s : State) (t : State) : (s.withComms t).ckpt = s.ckpt := rfl
@[simp] theorem State.withComms_fabric (s : State) (t : State) : (s.withComms t).fabric = s.fabric := rfl
@[simp] theorem State.withComms_resets (s : State) (t : State) : (s.withComms t).resets = s.resets := rfl
@[simp] theorem State.withComms_tags (s : State) (t : State) : (s.withComms t).tags = s.tags := rfl
@[simp] theorem State.withComms_boot (s : State) (t : State) : (s.withComms t).boot = s.boot := rfl
@[simp] theorem State.withComms_power (s : State) (t : State) : (s.withComms t).power = s.power := rfl
@[simp] theorem State.withComms_security (s : State) (t : State) : (s.withComms t).security = s.security := rfl
@[simp] theorem State.withComms_mem (s : State) (t : State) : (s.withComms t).mem = s.mem := rfl
@[simp] theorem State.withComms_colliding (s : State) (t : State) : (s.withComms t).colliding = s.colliding := rfl
@[simp] theorem State.withComms_freeDraws (s : State) (t : State) : (s.withComms t).freeDraws = s.freeDraws := rfl

/-! ### State.withMem -/

@[simp] theorem State.withMem_pending (s : State) (t : State) : (s.withMem t).pending = s.pending := rfl
@[simp] theorem State.withMem_now (s : State) (t : State) : (s.withMem t).now = s.now := rfl
@[simp] theorem State.withMem_ft (s : State) (t : State) : (s.withMem t).ft = s.ft := rfl
@[simp] theorem State.withMem_longOps (s : State) (t : State) : (s.withMem t).longOps = s.longOps := rfl
@[simp] theorem State.withMem_ports (s : State) (t : State) : (s.withMem t).ports = s.ports := rfl
@[simp] theorem State.withMem_eths (s : State) (t : State) : (s.withMem t).eths = s.eths := rfl
@[simp] theorem State.withMem_time (s : State) (t : State) : (s.withMem t).time = s.time := rfl
@[simp] theorem State.withMem_table (s : State) (t : State) : (s.withMem t).table = s.table := rfl
@[simp] theorem State.withMem_programs (s : State) (t : State) : (s.withMem t).programs = s.programs := rfl
@[simp] theorem State.withMem_cores (s : State) (t : State) : (s.withMem t).cores = s.cores := rfl
@[simp] theorem State.withMem_clusters (s : State) (t : State) : (s.withMem t).clusters = s.clusters := rfl
@[simp] theorem State.withMem_dies (s : State) (t : State) : (s.withMem t).dies = s.dies := rfl
@[simp] theorem State.withMem_engines (s : State) (t : State) : (s.withMem t).engines = s.engines := rfl
@[simp] theorem State.withMem_hosts (s : State) (t : State) : (s.withMem t).hosts = s.hosts := rfl
@[simp] theorem State.withMem_noHost (s : State) (t : State) : (s.withMem t).noHost = s.noHost := rfl
@[simp] theorem State.withMem_ringHeads (s : State) (t : State) : (s.withMem t).ringHeads = s.ringHeads := rfl
@[simp] theorem State.withMem_crings (s : State) (t : State) : (s.withMem t).crings = s.crings := rfl
@[simp] theorem State.withMem_steps (s : State) (t : State) : (s.withMem t).steps = s.steps := rfl
@[simp] theorem State.withMem_square (s : State) (t : State) : (s.withMem t).square = s.square := rfl
@[simp] theorem State.withMem_digests (s : State) (t : State) : (s.withMem t).digests = s.digests := rfl
@[simp] theorem State.withMem_twin (s : State) (t : State) : (s.withMem t).twin = s.twin := rfl
@[simp] theorem State.withMem_ckpt (s : State) (t : State) : (s.withMem t).ckpt = s.ckpt := rfl
@[simp] theorem State.withMem_fabric (s : State) (t : State) : (s.withMem t).fabric = s.fabric := rfl
@[simp] theorem State.withMem_resets (s : State) (t : State) : (s.withMem t).resets = s.resets := rfl
@[simp] theorem State.withMem_tags (s : State) (t : State) : (s.withMem t).tags = s.tags := rfl
@[simp] theorem State.withMem_boot (s : State) (t : State) : (s.withMem t).boot = s.boot := rfl
@[simp] theorem State.withMem_power (s : State) (t : State) : (s.withMem t).power = s.power := rfl
@[simp] theorem State.withMem_security (s : State) (t : State) : (s.withMem t).security = s.security := rfl
@[simp] theorem State.withMem_colliding (s : State) (t : State) : (s.withMem t).colliding = s.colliding := rfl
@[simp] theorem State.withMem_freeDraws (s : State) (t : State) : (s.withMem t).freeDraws = s.freeDraws := rfl

/-! ### What was set reads back -/

/-- The entry that was set. -/
theorem State.setPort_self (s : State) (n : Nat) (p : TensorPort) (h : keysRise s.ports = true) : (s.setPort n p).port n = p := tabGet_tabSet_self h
/-- Every other entry. -/
theorem State.setPort_other (s : State) (n : Nat) (p : TensorPort) {j : Nat} (h : j ≠ n) : (s.setPort n p).port j = s.port j := tabGet_tabSet_other h

/-- The entry that was set. -/
theorem State.setEth_self (s : State) (n : Nat) (p : EthPort) (h : keysRise s.eths = true) : (s.setEth n p).eth n = p := tabGet_tabSet_self h
/-- Every other entry. -/
theorem State.setEth_other (s : State) (n : Nat) (p : EthPort) {j : Nat} (h : j ≠ n) : (s.setEth n p).eth j = s.eth j := tabGet_tabSet_other h

/-- The entry that was set. -/
theorem State.setSp_self (s : State) (n : Nat) (p : SpeasPort) (h : keysRise s.speas = true) : (s.setSp n p).sp n = p := tabGet_tabSet_self h
/-- Every other entry. -/
theorem State.setSp_other (s : State) (n : Nat) (p : SpeasPort) {j : Nat} (h : j ≠ n) : (s.setSp n p).sp j = s.sp j := tabGet_tabSet_other h

/-- The entry that was set. -/
theorem State.setCore_self (s : State) (c : Nat) (x : CoreState) (h : keysRise s.cores = true) : (s.setCore c x).core c = x := tabGet_tabSet_self h
/-- Every other entry. -/
theorem State.setCore_other (s : State) (c : Nat) (x : CoreState) {j : Nat} (h : j ≠ c) : (s.setCore c x).core j = s.core j := tabGet_tabSet_other h

/-- The entry that was set. -/
theorem State.setCluster_self (s : State) (c : Nat) (x : ClusterState) (h : keysRise s.clusters = true) : (s.setCluster c x).cluster c = x := tabGet_tabSet_self h
/-- Every other entry. -/
theorem State.setCluster_other (s : State) (c : Nat) (x : ClusterState) {j : Nat} (h : j ≠ c) : (s.setCluster c x).cluster j = s.cluster j := tabGet_tabSet_other h

/-- The entry that was set. -/
theorem State.setDie_self (s : State) (d : Nat) (x : DieState) (h : keysRise s.dies = true) : (s.setDie d x).die d = x := tabGet_tabSet_self h
/-- Every other entry. -/
theorem State.setDie_other (s : State) (d : Nat) (x : DieState) {j : Nat} (h : j ≠ d) : (s.setDie d x).die j = s.die j := tabGet_tabSet_other h

/-- The register that was set. -/
theorem State.setReg_self (s : State) (r : Reg) (w : Word) (h : keysRise s.regs = true) : (s.setReg r w).reg r = w :=
  tabGet_tabSet_self h
/-- Every register at another address. -/
theorem State.setReg_other (s : State) (r q : Reg) (w : Word) (h : q.addr ≠ r.addr) : (s.setReg r w).reg q = s.reg q :=
  tabGet_tabSet_other h

end Sys2Proof.Machine
end

