-- ==== Sys2Proof/Tests/Slice0.lean ====
section
/-! SUPPORT. Tests: one ill-formed command for each check of WellFormed, worked examples of the spec, single steps, and for every clause of
the statements of Certificates/Slice0/Obligations.lean that has hypotheses a concrete state and operands that meet them together
(`wit_<statement>_<number>`; a clause whose hypotheses another clause of the same statement has as well shares its witness). -/

set_option linter.unusedVariables false

open Sys2Proof
open Sys2Proof.Machine

set_option Elab.async false

namespace Sys2Proof.Tests

theorem exec_ {s : State} {c : OpenCmd} {op : Nat} (h : s.takes c op = true) : s.executes c op (s.begun c) := ⟨h, rfl⟩

theorem writes_ {s : State} {c : OpenCmd} {op : Nat} (ho : op = 0x0201 ∨ op = 0x0202) (h : s.takes c op = true)
    (hp : ((writeTriples op c.params).all fun p => ((s.begun c).pairRefusal p.1 p.2.1 p.2.2).isNone) = true) :
    s.writes c (s.begun c) (writeTriples op c.params) :=
  ⟨op, ho, ⟨h, rfl⟩, rfl, fun p m => by simpa using List.all_eq_true.mp hp p m⟩

theorem names_ {l : List (Nat × Word × Word)} {r : Reg} (h : (l.any fun p => decide (Reg.ofAddr p.1 = some r)) = true) : names l r := by
  simpa [names, List.any_eq_true] using h

/-- Fields of these widths in bytes, with these values, one behind the other. -/
def fs (l : List (Nat × Nat)) : List Byte := l.flatMap fun p => le p.1 p.2

/-- Every check of the packet came out well. -/
def good : PacketFacts := ⟨true, true, true, []⟩
def bad : PacketFacts := ⟨false, false, false, []⟩

/-- A confirmed session of principal 5 on SP-A. -/
def sess (n p : Nat) : Session := ⟨n, 0, p, true, 0, 0, 0, [], [], [], 0, 0⟩

/-- A module that is up: training-ready, session 1 the owner, principals 5 and 7 of the config image. -/
def up : State :=
  { State.reset with
    boot := { bootReset with stage := 7, commandReady := true, trainingReady := true }
    cmds := { commandsReset with sessions := [sess 1 5, sess 2 5, sess 3 7], owner := some 1, lastSession := 3 }
    security := { securityReset with
      config := { configImageReset with principals := [⟨5, true, []⟩, ⟨7, false, []⟩] } } }

/-- A command of session 1 that waits to execute. -/
def cmdOf (op : Nat) (p : List Byte) (sid : Nat := 1) (facts : PacketFacts := good) : OpenCmd :=
  { jseq := 9, opcode := op, session := sid, port := 0, principal := 5, epoch := 0, number := 1, ackWanted := true, notBefore := none, idempotent := false
    long := runsLong op p, deadlineUs := 2000, arrivedAt := 0, acceptFt := 0, params := p, facts := facts, phase := .waiting, duplicates := []
    summary := [] }

def putCmd (s : State) (c : OpenCmd) : State := { s with cmds := { s.cmds with opened := [c] } }

/-- The module `up`, changed by `f`, with that command at the head of the execution order. -/
def atCmd (op : Nat) (p : List Byte) (f : State → State := id) : State := putCmd (f up) (cmdOf op p)

theorem takes_confirm (f : State → State) (facts : PacketFacts) (p : List Byte) (h : layoutOk 2 p = true) (hc : (f up).benchUp = true)
    (hb : (f up).boot.commandReady = true) (hj : (f up).journal.fits 0 = true) (hn : (f up).now = 0) (hw : (f up).obs.waitingReads = [])
    (hh : ∀ c, (putCmd (f up) c).halfOpenBad 2 2 = false) (hg : ∀ c q, (putCmd (f up) c).gated 2 q = false) :
    (putCmd (f up) (cmdOf 2 p 2 facts)).takes (cmdOf 2 p 2 facts) 2 = true := by
  have hg' : (putCmd (f up) (cmdOf 2 p 2 facts)).gated 2 p = false := hg _ _
  simp_all [State.takes, State.front, putCmd, State.commonRefusal, cmdOf, State.benchUp, State.tooLate]

theorem fields_zeros (n : Nat) : fieldsTake (zeros n) n = true := by
  simp [fieldsTake, zeros, zeroFrom, slice]

/-- The parameters of a SESSION_CONFIRM. -/
@[irreducible] def confirm : List Byte := zeros 0x148D

theorem layout_confirm : layoutOk 2 confirm = true := by
  unfold confirm
  exact fields_zeros 0x148D

/-- The module with session 2 half open. -/
def half (s : State) : State := { s with cmds := { s.cmds with sessions := [{ sess 2 5 with confirmed := false }], owner := none } }

theorem takes_half (facts : PacketFacts) : (putCmd (half up) (cmdOf 2 confirm 2 facts)).takes (cmdOf 2 confirm 2 facts) 2 = true :=
  takes_confirm half facts confirm layout_confirm rfl rfl rfl rfl rfl (fun _ => rfl) (fun _ _ => rfl)

/-- A step of this id and attempt in a phase. -/
def stepRec (n attempt phase : Nat) : StepRec :=
  { id := n, attempt := attempt, reads := 0, writes := 1, phase := phase, reduce := 0, closed := none, reasons := [], verdictSent := none, own := none
    children := [], combinedSent := false, rings := [], dryfit := none, exhausted := none, decided := 0, forward := [], cut := none
    twinFailed := none }

/-- Step `r` is there. -/
def withStep (r : StepRec) (s : State) : State := { s with steps := { s.steps with opened := [r] } }

def program0 : Program :=
  { base := 0, length := 64, strict := false, rabbet := false, eval := false, placement := [], slots := [], stash := [], measuredFt := 0, digest := [] }

/-- A step held for CKPT_CUT, its image written. -/
def heldStep (s : State) : State := withStep { stepRec 4 0 2 with cut := some false } s

/-- A timetable slot whose entry has this action and parameters, due first at FT 0 and never again. -/
def slotOf (action : BitVec 8) (a : BitVec 32 := 0) (b : Word := 0) : TTSlot :=
  { entry := ⟨0, 0, 0, action, 1, a, b⟩, next := 0, stopped := false, waiting := none, openedBy := [], openedCount := 0 }

/-- Every local QPN is in use. -/
@[irreducible] def manyQps : List (Nat × QueuePair) := (List.range 4096).map fun q => (q, newQp [] 0)

theorem many_qps (q : Nat) (h : q < 4096) : (manyQps.any fun e => e.1 == q) = true := by
  unfold manyQps
  simp [h]

def snap (tag : BitVec 32) (complete : Bool) : CounterSnapshot := ⟨tag, 0, 0, complete, 0, []⟩

def imageWrite : ImageWrite :=
  { step := 4, phaseImage := false, imageNumber := 1, slot := 0, shards := 0, letter := 0, cmd := none, holdEntry := none, continueAfter := false, captured := [] }

/-- A command that runs long as `op`. -/
def running (op : LongOp) (f : State → State := id) : State :=
  { putCmd (f up) { cmdOf 0x0B03 [0] with phase := .running } with longOps := [(9, op)] }

/-- A reset of unit `i` of a domain in this phase, at `now`. -/
def resetting (d : DomainCode) (i : Nat) (p : ResetPhase) (now : Nat) : State := { up with resets := [⟨d, i, p, none, false⟩], now := now }

theorem atOp_ {s : State} {c op : Nat} {it : Item} (h : (decide (c < 384) && decide ((s.core c).item = some it) && s.issues c it &&
    decide (s.fetchStatus it.pc = .ok) && decide ((s.checkRange it.pc 16).firstPoison it.pc 16 = none) &&
    !(it.parse ((s.checkRange it.pc 16).bytesAt it.pc 16)).bad && (it.parse ((s.checkRange it.pc 16).bytesAt it.pc 16)).op == op) = true) :
    s.atOp c op ((s.checkRange it.pc 16).account (.core c) it.pc 16 false) it (it.parse ((s.checkRange it.pc 16).bytesAt it.pc 16)) := by
  simp only [Bool.and_eq_true, decide_eq_true_eq, Bool.not_eq_true', beq_iff_eq] at h
  obtain ⟨⟨⟨⟨⟨⟨h1, h2⟩, h3⟩, h4⟩, h5⟩, h6⟩, h7⟩ := h
  exact ⟨h1, h2, h3, h4, h5, rfl, h6, h7, rfl⟩

theorem fetched_ {r : Status × List Byte × State} (h : r.1 = .ok) : r = (.ok, r.2.1, r.2.2) := by
  obtain ⟨a, b, c⟩ := r
  simp_all

theorem some_ {α β : Type} {r : α × Option β} (h : r.2.isSome = true) : r = (r.1, some (r.2.get h)) := by
  obtain ⟨a, b⟩ := r
  simp

/-- An item of work ring 0, in FWD of step 4, at the instruction at 0x40. -/
def item : Item :=
  { ring := 0, logical := 0, phase := 2, step := some 4, verdict := false, tag := 0, restartable := false, reportAll := false, entryPc := 0x40, pc := 0x40
    args := [0, 0, 0], loops := [2, 0, 0, 0, 0, 0, 0, 0], instrIndex := 0, wait := .none, run := none, late := false, ops := [], failed := none, quiet := 0, deferred := []
    restarted := false }

/-- An operation of an item. -/
def opOf (k : OpKind) (st : Status) : Op :=
  { kind := k, instrIndex := 0, descIndex := 0, tileId := 0, quiet := false, status := st, flags := 0, writes := [], poisoned := [], reach := [], unit := none
    last := false }

/-- Bytes placed in memory from an address up. -/
def placed (a : Nat) (bs : List Byte) : List Host.Cell := (bs.zipIdx.filter fun e => e.1 != 0).map fun e => (a + e.2, e.1)

/-- Core 0 hosts logical core 0 and holds an item. -/
def onCore (it : Item) (s : State) : State := { s with hosts := [(0, 0)], cores := [(0, { coreReset with item := some it })] }

/-- An instruction word. -/
def ins (op a b c : Nat) : List Byte := fs [(1, op), (1, 0), (2, a), (4, b), (8, c)]

/-- Core 0 comes to this instruction of the item. -/
def atIns (op a b c : Nat) (it : Item := item) (f : State → State := id) : State :=
  onCore it (f { up with mem := { up.mem with bytes := placed 0x40 (ins op a b c) } })

/-- A check unit of core 3, checked on core 9. -/
def checkUnit : CheckUnit :=
  { step := 4, attempt := 0, training := false, isRow := false, original := 3, checker := some 9, referee := none, sample := 0, q0 := 0, c0 := 0, width := 4
    key := 0, strict := false, fpOriginal := none, fpDuplicate := none, fpReferee := none, capturing := false, captured := 0, descriptors := 0
    pages := [], used := [], disagreedFt := 0, originalDone := false, originalOk := false }

def withUnit (x : CheckUnit) (s : State) : State := { s with square := { s.square with units := [(2, x)] } }

/-- Tensor port `n` as given, in a partition of tag 1 of its own; chip 1 lies behind direction 0. -/
def withPort (n : Nat) (p : TensorPort) (s : State) : State :=
  { s with
    ports := [(n, p)]
    regs := tabSet 0 (tabSet 0 (tabSet 0 s.regs Reg.netGeometry.addr (word (1 + 2 ^ 32))) (Reg.destEntry 1).addr (word (2 ^ 48 + 1 * 2 ^ 36 + 1))) Reg.netRouteCtrl.addr (word (4 * 2 ^ 10 + 5))
    fabric := { s.fabric with partition :=
      { s.fabric.partition with tag := 1, axes := [⟨0, 2, false⟩, ⟨0, 1, false⟩, ⟨0, 1, false⟩, ⟨0, 1, false⟩] } } }

/-- A port in service with all its lanes. -/
def port : TensorPort :=
  { tensorPortReset with state := .admitted, signal := true, txData := [0, 1, 2, 3], txShim := 4, rxData := [0, 1, 2, 3], rxShim := 4, credits := [9, 9, 9, 9, 9, 9], peer := word (2 ^ 36), peerValid := true }

def cellOf (typ vc ptag dest : Nat) : Cell :=
  { dest := dest, ptag := ptag, vc := vc, stream := 3, typ := typ, dateline := false, detour := false, hops := 0, payload := zeros 48, poison := [], tail := 0 }


/-- The timetable is armed and holds these entries. -/
def armedWith (xs : List (Nat × TTSlot)) (s : State) : State :=
  { s with regs := tabSet 0 s.regs Reg.ttCtrl.addr 1, table := { s.table with slots := xs } }

theorem falls_ {s : State} {i action d j : Nat} {y : TTSlot} (h : (decide (tabFind s.table.slots i = some y) &&
    decide (s.nextFiring = some (d, action, j)) && decide (j = i) && s.armed && s.benchServes && decide (d ≤ s.ft.toNat)) = true) :
    s.fallsNow i action (s.setSlot i { y with next := y.next + 1 }) { y with next := y.next + 1 } d y.next := by
  simp only [Bool.and_eq_true, decide_eq_true_eq] at h
  obtain ⟨⟨⟨⟨⟨h1, h2⟩, h3⟩, h4⟩, h5⟩, h6⟩ := h
  exact ⟨y, j, h1, h2, h3, h4, h5, h6, rfl, rfl, rfl⟩

theorem no_poison {s : State} {l : List Nat} (h : (l.all fun n => match (s.context n).rx with | some p => !p.poison | none => true) = true) :
    ∀ n ∈ l, ∀ p, (s.context n).rx = some p → p.poison = false := by
  intro n hn p hp
  have := List.all_eq_true.mp h n hn
  simpa [hp] using this

theorem matches_ {s : State} {x : TwinTransfer} {array : Nat} {own : Nat × Nat} {r : DigestRecord}
    (h : x.records.find? (·.array == array) = some r) (hv : r.valid = true) (hc : s.arrayClean own = true)
    (hd : r.digest = s.digestOf x.step own) : s.recordMatches x array own = true := by
  simp [State.recordMatches, h, hv, hc, hd]

/-- A transfer here whose digest records are those of the arrays received. -/
def transferIn : TwinTransfer :=
  ⟨false, 1, 0, 4, 0, 1, 200, 9, true, [⟨1, 0, true, 0, 4, up.digestOf 4 (up.ownMaster 0)⟩, ⟨1, 1, true, 0, 4, up.digestOf 4 (up.mirrorMaster 0)⟩]⟩

/-- The header of an empty shard that passes. -/
def goodHeader : List Byte :=
  zeros 64 ++ exactly 32 (Config.shake256 [] 32) ++ zeros 16 ++
    exactly 16 (Config.gcmTag [] (zeros 12) (zeros 64 ++ exactly 32 (Config.shake256 [] 32) ++ zeros 16 ++ zeros 16 ++ zeros 128) []) ++ zeros 128

theorem goodPayload {s : State} (h : tabFind s.ckpt.engineKeys 0 = none := by rfl) :
    (s.payloadsPassed ([goodHeader].zipIdx.map fun h => (h.1, (([some []] : List (Option (List Byte)))[h.2]?).bind id))).2 = none := by
  have hk : uAt goodHeader 0x6C 4 = 0 := by rfl
  have hp : s.openPayload goodHeader [] = [] := by simp [State.openPayload, exactly]
  have ho : s.payloadOk goodHeader [] = true := by
    simp only [State.payloadOk, hk, h, Bool.and_eq_true, beq_iff_eq]
    exact ⟨rfl, rfl⟩
  simp [State.payloadsPassed, hp, ho]

/-! ### Ill-formed commands: each check refuses one (R8, R202, R232, R299, R305, R315, R462) -/

theorem test_speas_port_2_is_ill_formed : Instr.wellFormed (.speasLinkUp 2) = false := by decide
theorem test_speas_wavelength_3_is_ill_formed : Instr.wellFormed (.speasWavelengthFail 1 3) = false := by decide
theorem test_core_384_is_ill_formed : Instr.wellFormed (.nop 384) = false := by decide
theorem test_cluster_96_is_ill_formed : Instr.wellFormed (.unitFieldFault .cluster 96) = false := by decide
theorem test_queue_16_is_ill_formed : Instr.wellFormed (.streamDescriptorStart 16) = false := by decide
theorem test_tensor_port_16_is_ill_formed : Instr.wellFormed (.creditReturn 16) = false := by decide
theorem test_context_16384_is_ill_formed : Instr.wellFormed (.streamRetryTimeout 16384) = false := by decide
theorem test_direction_8_is_ill_formed : Instr.wellFormed (.bridgePackTimeout 8) = false := by decide
theorem test_ethernet_port_6_is_ill_formed : Instr.wellFormed (.rateRecovery 6 0) = false := by decide
theorem test_engine_4_is_ill_formed : Instr.wellFormed (.streamStall 4) = false := by decide
theorem test_domain_die_24_is_ill_formed : Instr.wellFormed (.drainWindowEnd .die 24) = false := by decide
theorem test_feed_2_is_ill_formed : Instr.wellFormed (.feedQualified 2) = false := by decide
theorem test_die_26_is_ill_formed : Instr.wellFormed (.thermalTrip 26) = false := by decide
theorem test_last_units_are_well_formed :
    ([.speasWavelengthFail 1 2, .nop 383, .unitFieldFault .cluster 95, .streamDescriptorStart 15, .creditReturn 15, .streamRetryTimeout 16383,
      .bridgePackTimeout 7, .rateRecovery 5 0, .streamStall 3, .drainWindowEnd .die 23, .feedQualified 1, .thermalTrip 25] : List Instr).all
      Instr.wellFormed = true := by decide
theorem test_ill_formed_faults : exec (.nop 384) up = .fault .noSuchUnit := rfl

/-! ### The spec's worked examples -/

/-- Core 200 lies on die 12, in cluster 2 of it, its Tray window at 0x010032000000 (the example after R41). -/
theorem test_core_200 : (dieOf 200, clusterOf 200, trayOf 200) = (12, 50, 0x010032000000) := by decide
/-- CD_ID of its die (the same example): SITE 13, DIE 12. -/
theorem test_cd_id : { up with dies := [(12, { dieReset with stepping := 0xA1, present := true })] }.readReg (.cdId 12) = 0x0C0DA1 := by decide +kernel
/-- ENG_STATUS of engine 802 (the example after R70). -/
theorem test_eng_status : { up with engines := [(802, ⟨0x0001, 0x4000⟩)] }.readReg (.engStatus 802) = 0x000040010000111E := by decide +kernel
/-- Its core's tile width (the same example). -/
theorem test_tile_width : { up with engines := [(802, ⟨0x0001, 0x4000⟩)] }.tileWidth 200 = 30 := by decide +kernel
/-- The address 0x0040_1234_5000 with H = 4 (the example after R178). -/
theorem test_lpddr6_map : lpddr6Map 4 0x004012345000 = (15, 0xC22000) := by decide +kernel
/-- Its sub-channel. -/
theorem test_lpddr6_sub_channel : lpddr6SubChannel 0xC22000 = 0 := by decide +kernel
/-- The check bits of a granule that holds 0x01 (the example after R181). -/
theorem test_check_bits : checkBits 1 = 0x2035 := by decide +kernel
/-- Element (70, 45) of a BF16 tensor in end-grain layout with P = 3 (the example after R101). -/
theorem test_end_grain : elemAt true 0 3 16 70 45 = (0x3996, 0) := by decide +kernel
/-- Three E4M3 products in one K-group (the example after R83): 1.875 + 0.046875. -/
theorem test_group_sum : (fmtOf 3).map (fun f => groupSum [(f.decode 0x3C).mul (f.decode 0x3A), (f.decode 0x2B).mul (f.decode 0x21),
    (f.decode 0x88).mul (f.decode 0x08)]) = some (0x3FF60000, false, false) := by decide +kernel
/-- One E4M3 output block with its scale byte (the example after R88). -/
theorem test_scale_block :
    (let r := scaleBlockOut 3 ([0x447A0000, 0x40400000, 0xBF400000, 0x3DCCCCCD, 0xC3480000, 0, 0x40E00000, 0x43E04000].map fun p => (val32 p, .even))
     (r.1, r.2.1)) = (0x80, [0x7E, 0x3C, 0xAC, 0x15, 0xEC, 0x00, 0x46, 0x76]) := by decide +kernel
/-- The checker of an accumulation of core 200 with r_s mod 384 = 203 (the example after R337). -/
theorem test_checker : up.walk false 32 203 [200] [] = some 208 := by decide +kernel
/-- Its referee (the same example). -/
theorem test_referee : up.walk false 32 11 [200, 208] [] = some 11 := by decide +kernel
/-- The rotations of duplicate and referee (the same example). -/
theorem test_rotations : (duplicateRotation { checkUnit with step := 1193046 } 32, refereeRotation { checkUnit with step := 1193046 } 32) =
    ((1, 2), (2, 5)) := by decide +kernel
/-- Offset and link delay from the four stamps of a time cell (the example after R252). -/
theorem test_time_cell :
    (let s := ({ withPort 5 { port with timeSent := 1000000 } up with ft := 1020130 + BitVec.ofNat 64 (Config.phyLatency 0 true) }.takeTime 5
        (fs [(8, 1020000), (8, 1000000), (8, 1000140), (1, 0), (1, 15)])).port 5
     (s.offset, s.delay)) = (5, 135) := by
  have h : State.stamp { withPort 5 { port with timeSent := 1000000 } up with ft := 1020130 + BitVec.ofNat 64 (Config.phyLatency 0 true) } true =
      1020130 := BitVec.add_sub_cancel _ _
  unfold State.takeTime
  rw [h]
  decide +kernel

/-! ### Single steps -/

/-- A state after a row that runs. -/
def after (i : Instr) (s : State) : State := match exec i s with | .next t => t | _ => s

/-- MEM_WRITE stores its bytes and no others (R433). -/
theorem test_mem_write : ([0x0FF, 0x100, 0x101, 0x102].map fun a =>
    (after .memWrite (atCmd 0x0301 (fs [(8, 0x100), (8, 2), (1, 7), (1, 9)]))).byte a) = [0, 7, 9, 0] := by decide +kernel
/-- REG_WRITE_MASKED writes only the bits of its mask (R431, R432). -/
theorem test_reg_write_masked :
    (after (.regWriteMasked []) (atCmd 0x0202 (fs [(8, 1), (8, Reg.sqCtrl.addr), (8, 0xF), (8, 0x1F3)]))).rf .sqCtrl 0 9 = 3 := by decide +kernel
/-- OWNER_RELEASE leaves no owner (R425). -/
theorem test_owner_release : (after .ownerRelease (atCmd 0x0006 [])).cmds.owner = none := by decide +kernel
/-- JUMP sets the pc to its address (R139). -/
theorem test_jump :
    ((after (.jump 0) (atIns 0x0F 0 0 0x80 item id)).core 0).item.map (·.pc) = some 0x80 := by decide +kernel
/-- DJNZ counts a loop register down and jumps while it is not 0 (R139): loop 0 holds 2. -/
theorem test_djnz :
    ((after (.djnz 0) (atIns 0x0D 0 0 0x80 item id)).core 0).item.map (fun it => (it.pc, it.loops.headD 0)) = some (0x80, 1) := by
  decide +kernel
/-- The next row of an empty queue is a tick: 0.8 ns pass (assumption log 1). -/
theorem test_empty_queue_ticks : (match step up with | .next t => t.now | _ => 0) = 1 := by decide +kernel


/-! ### Witnesses -/

theorem wit_StepRunsTheFrontCommand_1 : ∃ (i : Instr) (rest : List Instr) (s : State), s.pending = i :: rest :=
  ⟨.ping, [.attest], { up with pending := [.ping, .attest] }, by decide +kernel⟩

theorem wit_StepRunsTheFrontCommand_2 : ∃ (s : State), s.pending = [] :=
  ⟨up, by decide +kernel⟩

theorem wit_StepKeepsCanonical_1 : ∃ (s : State) (t : State), step s = .next t ∧ s.canonical = true :=
  ⟨{ up with pending := [.speasLinkUp 1] }, _, rfl, by decide +kernel⟩

theorem wit_CommandsKeepTheQueue_1 : ∃ (i : Instr) (s : State) (t : State), exec i s = .next t ∧ s.canonical = true :=
  ⟨.speasLinkUp 1, { up with pending := [.speasLinkUp 1] }, _, rfl, by decide +kernel⟩

theorem wit_WellFormedCommandsAlwaysRun_1 : ∃ (i : Instr), i.wellFormed = true :=
  ⟨.speasLinkUp 1, by decide +kernel⟩

theorem wit_WellFormedCommandsAlwaysRun_2 : ∃ (i : Instr), i.wellFormed = false :=
  ⟨.speasLinkUp 2, by decide +kernel⟩

theorem wit_QueriesChangeNothing_1 : ∃ (i : Instr), i ∈ ([.ping, .sessionList, .identity, .certRead, .attest, .regRead, .partitionGet, .ttRead, .stepStatus, .ledgerIndex, .ledgerRead, .journalSummary, .journalRead, .snapshotRead, .traceRead, .telemetryRead, .pwrStatus, .resetStatus, .alarmStatus] : List Instr) :=
  ⟨.alarmStatus, by decide +kernel⟩

theorem wit_UndefinedRegistersRefuse_1 : ∃ (a : Nat) (r : Reg), Reg.ofAddr a = some r :=
  ⟨Reg.ftEpoch.addr, .ftEpoch, by decide +kernel⟩

theorem wit_UndefinedRegistersRefuse_2 : ∃ (s : State) (u : State) (c : OpenCmd) (k : Nat), s.executes c 0x0200 u ∧ k < uAt c.params 0 4 ∧ (uAt c.params (8 + 8 * k) 8 % 8 ≠ 0 ∨ Reg.ofAddr (uAt c.params (8 + 8 * k) 8) = none) :=
  ⟨(atCmd 0x0200 (fs [(8, 1), (8, 4)])), _, (cmdOf 0x0200 (fs [(8, 1), (8, 4)])), 0, exec_ (by decide +kernel), by decide +kernel⟩

theorem wit_UndefinedRegistersRefuse_3 : ∃ (s : State) (u : State) (c : OpenCmd) (opcode : Nat) (a : Nat) (mask : Word) (value : Word) (before : List (Nat × Word × Word)) (after : List (Nat × Word × Word)) (sets : List (Nat × Word)), ({ s with colliding := sets } : State).executes c opcode u ∧ (opcode = 0x0201 ∨ opcode = 0x0202) ∧ writeTriples opcode c.params = before ++ (a, mask, value) :: after ∧ (∀ p ∈ before, u.pairRefusal p.1 p.2.1 p.2.2 = none) ∧ (a % 8 ≠ 0 ∨ Reg.ofAddr a = none) :=
  ⟨(atCmd 0x0201 (fs [(8, 1), (8, 4), (8, 0)])), _, (cmdOf 0x0201 (fs [(8, 1), (8, 4), (8, 0)])), 0x0201, 4, ~~~0, 0, [], [], [], exec_ (by decide +kernel), .inl rfl, by decide +kernel⟩

theorem wit_CommonRefusalsHaveNoEffect_1 : ∃ (s : State), s.front = none :=
  ⟨up, by decide +kernel⟩

theorem wit_CommonRefusalsHaveNoEffect_2 : ∃ (s : State) (c : OpenCmd) (opcode : Nat), s.front = some c ∧ c.opcode ≠ opcode :=
  ⟨(atCmd 0x0003 []), cmdOf 0x0003 [], 0x0004, by decide +kernel⟩

theorem wit_CommonRefusalsHaveNoEffect_3 : ∃ (s : State) (c : OpenCmd) (opcode : Nat), s.front = some c ∧ c.opcode = opcode ∧ s.benchUp = true ∧ s.boot.commandReady = true ∧ s.journal.fits 0 = false :=
  ⟨(atCmd 0x0003 ([]) fun s => { s with journal := { s.journal with writePos := 64, ring := [{ s.journal.padRec with offset := 128 }] } }), cmdOf 0x0003 ([]), 0x0003, by decide +kernel⟩

theorem wit_CommonRefusalsHaveNoEffect_4 : ∃ (s : State) (c : OpenCmd) (opcode : Nat), s.front = some c ∧ c.opcode = opcode ∧ s.benchUp = true ∧ s.boot.commandReady = true ∧ s.journal.fits 0 = true ∧ s.tooLate c = true :=
  ⟨(atCmd 0x0003 ([]) fun s => { s with now := ticksS 1 }), cmdOf 0x0003 ([]), 0x0003, by decide +kernel⟩

theorem wit_CommonRefusalsHaveNoEffect_5 : ∃ (s : State) (c : OpenCmd) (opcode : Nat), s.front = some c ∧ c.opcode = opcode ∧ s.benchUp = true ∧ s.boot.commandReady = true ∧ s.journal.fits 0 = true ∧ s.tooLate c = false ∧ s.halfOpenBad c.session opcode = false ∧ s.boot.trainingReady = false ∧ s.boot.stopStatus ≠ .clamped ∧ opcode / 256 ∈ [3, 5, 6, 7, 9] :=
  ⟨(atCmd 0x0504 ([]) fun s => { s with boot := { s.boot with trainingReady := false } }), cmdOf 0x0504 ([]), 0x0504, by decide +kernel⟩

theorem wit_CommonRefusalsHaveNoEffect_6 : ∃ (s : State) (c : OpenCmd) (opcode : Nat) (k : _), s.front = some c ∧ c.opcode = opcode ∧ s.benchUp = true ∧ s.boot.commandReady = true ∧ s.journal.fits 0 = true ∧ s.tooLate c = false ∧ s.halfOpenBad c.session opcode = false ∧ s.boot.trainingReady = false ∧ s.boot.stopStatus ≠ .clamped ∧ (opcode = 0x0201 ∨ opcode = 0x0202) ∧ (writeAddresses opcode c.params).findIdx? gatedBlock = some k :=
  ⟨(atCmd 0x0201 (fs [(8, 1), (8, (Reg.memCalCtrl).addr), (8, 0)]) fun s => { s with boot := { s.boot with trainingReady := false } }), cmdOf 0x0201 (fs [(8, 1), (8, (Reg.memCalCtrl).addr), (8, 0)]), 0x0201, 0, by decide +kernel⟩

theorem wit_LinkCommandsComplete_1 : ∃ (s : State) (u : State) (c : OpenCmd), s.executes c 0x0003 u :=
  ⟨(atCmd 0x0003 []), _, (cmdOf 0x0003 []), exec_ (by decide +kernel)⟩

theorem wit_LinkCommandsComplete_2 : ∃ (s : State) (u : State) (c : OpenCmd), s.executes c 0x0004 u :=
  ⟨(atCmd 0x0004 (fs [(8, 3)])), _, (cmdOf 0x0004 (fs [(8, 3)])), exec_ (by decide +kernel)⟩

theorem wit_LinkCommandsComplete_3 : ∃ (s : State) (u : State) (c : OpenCmd), s.executes c 0x0007 u :=
  ⟨(atCmd 0x0007 []), _, (cmdOf 0x0007 []), exec_ (by decide +kernel)⟩

theorem wit_OwnershipChanges_1 : ∃ (s : State) (u : State) (c : OpenCmd) (x : Session) (e : Sys2Proof.PrincipalEntry), s.executes c 0x0005 u ∧ u.session c.session = some x ∧ u.principal c.principal = some e ∧ e.ownerAllowed = true ∧ u.ownerSession = none :=
  ⟨(atCmd 0x0005 [0] fun s => { s with cmds := { s.cmds with owner := none } }), _, (cmdOf 0x0005 [0]), (sess 1 5), ⟨5, true, []⟩, exec_ (by decide +kernel), by decide +kernel⟩

theorem wit_OwnershipChanges_2 : ∃ (s : State) (u : State) (c : OpenCmd) (x : Session) (o : Session) (e : Sys2Proof.PrincipalEntry), s.executes c 0x0005 u ∧ u.session c.session = some x ∧ u.principal c.principal = some e ∧ e.ownerAllowed = true ∧ u.ownerSession = some o ∧ o.id = c.session :=
  ⟨(atCmd 0x0005 [0]), _, (cmdOf 0x0005 [0]), (sess 1 5), (sess 1 5), ⟨5, true, []⟩, exec_ (by decide +kernel), by decide +kernel⟩

theorem wit_OwnershipChanges_3 : ∃ (s : State) (u : State) (c : OpenCmd) (x : Session) (o : Session) (e : Sys2Proof.PrincipalEntry), s.executes c 0x0005 u ∧ u.session c.session = some x ∧ u.principal c.principal = some e ∧ e.ownerAllowed = true ∧ u.ownerSession = some o ∧ o.id ≠ c.session ∧ o.principal = c.principal ∧ uAt c.params 0 1 = 1 :=
  ⟨(atCmd 0x0005 [1] fun s => { s with cmds := { s.cmds with owner := some 2 } }), _, (cmdOf 0x0005 [1]), (sess 1 5), sess 2 5, ⟨5, true, []⟩, exec_ (by decide +kernel), by decide +kernel⟩

theorem wit_OwnershipChanges_4 : ∃ (s : State) (u : State) (c : OpenCmd) (x : Session) (o : Session) (e : Sys2Proof.PrincipalEntry), s.executes c 0x0005 u ∧ u.session c.session = some x ∧ u.principal c.principal = some e ∧ e.ownerAllowed = true ∧ u.ownerSession = some o ∧ o.id ≠ c.session ∧ (o.principal ≠ c.principal ∨ uAt c.params 0 1 ≠ 1) :=
  ⟨(atCmd 0x0005 [0] fun s => { s with cmds := { s.cmds with owner := some 2 } }), _, (cmdOf 0x0005 [0]), (sess 1 5), sess 2 5, ⟨5, true, []⟩, exec_ (by decide +kernel), by decide +kernel⟩

theorem wit_OwnershipChanges_5 : ∃ (s : State) (u : State) (c : OpenCmd), s.executes c 0x0006 u ∧ u.cmds.owner = some c.session :=
  ⟨(atCmd 0x0006 []), _, (cmdOf 0x0006 []), exec_ (by decide +kernel), by decide +kernel⟩

theorem wit_ClaimNeedsOwnerAllowed_1 : ∃ (s : State) (u : State) (c : OpenCmd) (e : Sys2Proof.PrincipalEntry), s.executes c 0x0005 u ∧ u.principal c.principal = some e ∧ e.ownerAllowed = false :=
  ⟨(putCmd ((fun s : State => s) up) ({ cmdOf 0x0005 [0] 3 with principal := 7 })), _, ({ cmdOf 0x0005 [0] 3 with principal := 7 }), ⟨7, false, []⟩, exec_ (by decide +kernel), by decide +kernel⟩

theorem wit_SessionsOpenAndExpire_1 : ∃ (s : State) (u : State) (c : OpenCmd) (e : Sys2Proof.PrincipalEntry), s.executes c 0x0001 u ∧ u.principal (uAt c.params 0 2) = some e ∧ u.security.noIdentity = false ∧ (u.cmds.sessions.filter (·.port == c.port)).length < 4 :=
  ⟨(atCmd 0x0001 (fs [(2, 5)] ++ zeros 0x646)), _, (cmdOf 0x0001 (fs [(2, 5)] ++ zeros 0x646)), ⟨5, true, []⟩, exec_ (by decide +kernel), by decide +kernel⟩

theorem wit_SessionsOpenAndExpire_2 : ∃ (s : State) (u : State) (c : OpenCmd) (x : Session), s.executes c 0x0002 u ∧ u.session c.session = some x ∧ c.facts.keyOk = true ∧ c.facts.sigOk = true :=
  ⟨(putCmd ((fun s : State => half s) up) (cmdOf 0x0002 confirm 2)), _, (cmdOf 0x0002 confirm 2), { sess 2 5 with confirmed := false }, exec_ (takes_half _), by decide +kernel⟩

theorem wit_SessionsOpenAndExpire_3 : ∃ (s : State) (u : State) (c : OpenCmd) (x : Session), s.executes c 0x0002 u ∧ u.session c.session = some x ∧ (c.facts.keyOk && c.facts.sigOk) = false :=
  ⟨(putCmd ((fun s : State => half s) up) (cmdOf 0x0002 confirm 2 bad)), _, (cmdOf 0x0002 confirm 2 bad), { sess 2 5 with confirmed := false }, exec_ (takes_half _), by decide +kernel⟩

theorem wit_SessionsOpenAndExpire_4 : ∃ (s : State) (x : Session) (n : Nat), s.session n = some x ∧ x.confirmed = false ∧ x.initAt + ticksS 1 ≤ s.now :=
  ⟨{ up with now := ticksS 1, cmds := { up.cmds with sessions := [{ sess 2 5 with confirmed := false }] } }, { sess 2 5 with confirmed := false }, 2, by decide +kernel⟩

theorem wit_SessionsOpenAndExpire_5 : ∃ (s : State) (x : Session) (n : Nat), s.session n = some x ∧ x.lastAt + ticksS (s.rf .cmdCtrl 0 16) ≤ s.now :=
  ⟨{ up with now := ticksS 3600 }, sess 2 5, 2, by decide +kernel⟩

theorem wit_IdentityQueriesComplete_1 : ∃ (s : State) (u : State) (c : OpenCmd), s.executes c 0x0100 u :=
  ⟨(atCmd 0x0100 []), _, (cmdOf 0x0100 []), exec_ (by decide +kernel)⟩

theorem wit_IdentityQueriesComplete_2 : ∃ (s : State) (u : State) (c : OpenCmd), s.executes c 0x0101 u ∧ uAt c.params 0 4 + uAt c.params 4 4 ≤ u.certLength :=
  ⟨(atCmd 0x0101 (fs [(4, 0), (4, 1)]) fun s => { s with security := { s.security with nor := [(0x2C00000, 0x30)] } }), _, (cmdOf 0x0101 (fs [(4, 0), (4, 1)])), exec_ (by decide +kernel), by decide +kernel⟩

theorem wit_IdentityQueriesComplete_3 : ∃ (s : State) (u : State) (c : OpenCmd), s.executes c 0x0102 u :=
  ⟨(atCmd 0x0102 (zeros 32)), _, (cmdOf 0x0102 (zeros 32)), exec_ (by decide +kernel)⟩

theorem wit_IdentityQueriesComplete_4 : ∃ (s : State) (u : State) (c : OpenCmd), s.executes c 0x0B04 u :=
  ⟨(atCmd 0x0B04 []), _, (cmdOf 0x0B04 []), exec_ (by decide +kernel)⟩

theorem wit_IdentityQueriesComplete_5 : ∃ (s : State) (u : State) (c : OpenCmd), s.executes c 0x0F02 u :=
  ⟨(atCmd 0x0F02 []), _, (cmdOf 0x0F02 []), exec_ (by decide +kernel)⟩

theorem wit_ImageUpdates_1 : ∃ (s : State) (u : State) (c : OpenCmd), s.executes c 0x0B02 u ∧ uAt c.params 0 1 < 6 ∧ uAt c.params 4 4 + uAt c.params 8 4 ≤ (norRegion (uAt c.params 0 1)).2 ∧ u.runningRegions.contains (uAt c.params 0 1) = false :=
  ⟨(atCmd 0x0B02 (fs [(4, 1), (4, 0), (4, 4), (4, 0), (4, 9)])), _, (cmdOf 0x0B02 (fs [(4, 1), (4, 0), (4, 4), (4, 0), (4, 9)])), exec_ (by decide +kernel), by decide +kernel⟩

theorem wit_ImageUpdates_2 : ∃ (s : State) (u : State) (c : OpenCmd), s.executes c 0x0B02 u ∧ uAt c.params 0 1 < 6 ∧ uAt c.params 4 4 + uAt c.params 8 4 ≤ (norRegion (uAt c.params 0 1)).2 ∧ u.runningRegions.contains (uAt c.params 0 1) = true :=
  ⟨(atCmd 0x0B02 (fs [(4, 2), (4, 0), (4, 4), (4, 0), (4, 9)])), _, (cmdOf 0x0B02 (fs [(4, 2), (4, 0), (4, 4), (4, 0), (4, 9)])), exec_ (by decide +kernel), by decide +kernel⟩

theorem wit_ImageUpdates_3 : ∃ (s : State) (u : State) (c : OpenCmd), s.executes c 0x0B02 u ∧ (6 ≤ uAt c.params 0 1 ∨ (norRegion (uAt c.params 0 1)).2 < uAt c.params 4 4 + uAt c.params 8 4) :=
  ⟨(atCmd 0x0B02 (fs [(4, 6), (4, 0), (4, 4), (4, 0), (4, 9)])), _, (cmdOf 0x0B02 (fs [(4, 6), (4, 0), (4, 4), (4, 0), (4, 9)])), exec_ (by decide +kernel), by decide +kernel⟩

theorem wit_ImageUpdates_4 : ∃ (s : State) (u : State) (c : OpenCmd), s.executes c 0x0B03 u ∧ uAt c.params 0 1 < 6 :=
  ⟨(atCmd 0x0B03 [1]), _, (cmdOf 0x0B03 [1]), exec_ (by decide +kernel), by decide +kernel⟩

theorem wit_KeysInstallAndErase_1 : ∃ (s : State) (u : State) (c : OpenCmd), s.executes c 0x0F00 u ∧ zeroFrom c.params 68 72 = true ∧ uAt c.params 0 4 = noticeKeyId ∧ c.facts.unwrapOk = true :=
  ⟨(atCmd 0x0F00 (fs [(4, noticeKeyId)] ++ zeros 68)), _, (cmdOf 0x0F00 (fs [(4, noticeKeyId)] ++ zeros 68)), exec_ (by decide +kernel), by decide +kernel⟩

theorem wit_KeysInstallAndErase_2 : ∃ (s : State) (u : State) (c : OpenCmd), s.executes c 0x0F00 u ∧ zeroFrom c.params 68 72 = true ∧ uAt c.params 0 4 = noticeKeyId ∧ c.facts.unwrapOk = false :=
  ⟨(putCmd ((fun s : State => s) up) (cmdOf 0x0F00 (fs [(4, noticeKeyId)] ++ zeros 68) 1 bad)), _, (cmdOf 0x0F00 (fs [(4, noticeKeyId)] ++ zeros 68) 1 bad), exec_ (by decide +kernel), by decide +kernel⟩

theorem wit_KeysInstallAndErase_3 : ∃ (s : State) (u : State) (c : OpenCmd) (slot : Nat), s.executes c 0x0F00 u ∧ zeroFrom c.params 68 72 = true ∧ uAt c.params 0 4 ≠ noticeKeyId ∧ u.security.keys.any (fun k => k.2.id == uAt c.params 0 4) = false ∧ u.freeSlot = some slot ∧ c.facts.unwrapOk = true ∧ u.security.highestKey < uAt c.params 0 4 :=
  ⟨(atCmd 0x0F00 (fs [(4, 6)] ++ zeros 68)), _, (cmdOf 0x0F00 (fs [(4, 6)] ++ zeros 68)), 0, exec_ (by decide +kernel), by decide +kernel⟩

theorem wit_KeysInstallAndErase_4 : ∃ (s : State) (u : State) (c : OpenCmd) (slot : Nat), s.executes c 0x0F00 u ∧ zeroFrom c.params 68 72 = true ∧ uAt c.params 0 4 ≠ noticeKeyId ∧ u.security.keys.any (fun k => k.2.id == uAt c.params 0 4) = false ∧ u.freeSlot = some slot ∧ c.facts.unwrapOk = false :=
  ⟨(putCmd ((fun s : State => s) up) (cmdOf 0x0F00 (fs [(4, 6)] ++ zeros 68) 1 bad)), _, (cmdOf 0x0F00 (fs [(4, 6)] ++ zeros 68) 1 bad), 0, exec_ (by decide +kernel), by decide +kernel⟩

theorem wit_KeysInstallAndErase_5 : ∃ (s : State) (u : State) (c : OpenCmd) (k : Nat × JobKey), s.executes c 0x0F01 u ∧ uAt c.params 0 4 ≠ noticeKeyId ∧ u.security.keys.find? (fun k => k.2.id == uAt c.params 0 4) = some k :=
  ⟨(atCmd 0x0F01 (fs [(4, 6)]) fun s => { s with security := { s.security with keys := [(0, ⟨6, [], false⟩)], noticeKey := some [] } }), _, (cmdOf 0x0F01 (fs [(4, 6)])), (0, ⟨6, [], false⟩), exec_ (by decide +kernel), by decide +kernel⟩

theorem wit_KeysInstallAndErase_6 : ∃ (s : State) (u : State) (c : OpenCmd), s.executes c 0x0F01 u ∧ uAt c.params 0 4 = noticeKeyId ∧ u.security.noticeKey.isSome = true :=
  ⟨(atCmd 0x0F01 (fs [(4, noticeKeyId)]) fun s => { s with security := { s.security with keys := [(0, ⟨6, [], false⟩)], noticeKey := some [] } }), _, (cmdOf 0x0F01 (fs [(4, noticeKeyId)])), exec_ (by decide +kernel), by decide +kernel⟩

theorem wit_AlarmActsAndClears_1 : ∃ (s : State) (src : BitVec 7), s.standby = true ∧ s.levelOf (s.watched src) ≤ s.security.level :=
  ⟨{ up with security := { up.security with level := 3 } }, 1, by decide +kernel⟩

theorem wit_AlarmActsAndClears_2 : ∃ (s : State) (src : BitVec 7), s.standby = true ∧ s.security.level < s.levelOf (s.watched src) ∧ s.power.rails = .on :=
  ⟨{ up with security := { up.security with config := { configImageReset with alarmMap := 0x3FFF } } }, 1, by decide +kernel⟩

theorem wit_AlarmActsAndClears_3 : ∃ (s : State), 2 ≤ s.security.level ∧ s.security.wipeDone = false ∧ s.power.rails = .on :=
  ⟨{ up with security := { up.security with level := 2 } }, by decide +kernel⟩

theorem wit_AlarmActsAndClears_4 : ∃ (s : State) (u : State) (c : OpenCmd), s.executes c 0x0F03 u ∧ 1 ≤ uAt c.params 0 1 ∧ uAt c.params 0 1 ≤ 2 ∧ u.security.level ≤ uAt c.params 0 1 ∧ (u.security.level = 2 → u.security.wipeDone = true) :=
  ⟨(atCmd 0x0F03 [1] fun s => { s with security := { s.security with level := 1 } }), _, (cmdOf 0x0F03 [1]), exec_ (by decide +kernel), by decide +kernel⟩

theorem wit_AlarmActsAndClears_5 : ∃ (s : State) (u : State) (c : OpenCmd), s.executes c 0x0F03 u ∧ uAt c.params 0 1 < u.security.level :=
  ⟨(atCmd 0x0F03 [1] fun s => { s with security := { s.security with level := 3 } }), _, (cmdOf 0x0F03 [1]), exec_ (by decide +kernel), by decide +kernel⟩

theorem wit_RegistersReadAndWritten_1 : ∃ (s : State) (u : State) (c : OpenCmd) (rs : List Reg), s.executes c 0x0200 u ∧ ((List.range (uAt c.params 0 4)).map fun i => Reg.ofAddr (uAt c.params (8 + 8 * i) 8)) = rs.map some :=
  ⟨(atCmd 0x0200 (fs [(8, 1), (8, Reg.ftEpoch.addr)])), _, (cmdOf 0x0200 (fs [(8, 1), (8, Reg.ftEpoch.addr)])), [.ftEpoch], exec_ (by decide +kernel), by decide +kernel⟩

theorem wit_RegistersReadAndWritten_2 : ∃ (s : State) (u : State) (c : OpenCmd), s.executes c 0x0200 u ∧ (∃ i < uAt c.params 0 4, Reg.ofAddr (uAt c.params (8 + 8 * i) 8) = none) :=
  ⟨(atCmd 0x0200 (fs [(8, 1), (8, 0)])), _, (cmdOf 0x0200 (fs [(8, 1), (8, 0)])), exec_ (by decide +kernel), by decide +kernel⟩

theorem wit_RegistersReadAndWritten_3 : ∃ (s : State) (u : State) (c : OpenCmd) (pairs : List (Nat × Word × Word)) (sets : List (Nat × Word)) (z : State), z = { s with colliding := sets } ∧ z.writes c u pairs ∧ c.opcode = 0x0201 :=
  ⟨(atCmd 0x0201 (fs [(8, 1), (8, Reg.hangCtrl.addr), (8, 0)])), _, (cmdOf 0x0201 (fs [(8, 1), (8, Reg.hangCtrl.addr), (8, 0)])), _, [], _, rfl, writes_ (.inl rfl) (by decide +kernel) (by decide +kernel), by decide +kernel⟩

theorem wit_RegistersReadAndWritten_4 : ∃ (s : State) (u : State) (c : OpenCmd) (pairs : List (Nat × Word × Word)) (sets : List (Nat × Word)) (z : State), z = { s with colliding := sets } ∧ z.writes c u pairs ∧ c.opcode = 0x0202 :=
  ⟨(atCmd 0x0202 (fs [(8, 1), (8, Reg.hangCtrl.addr), (8, 255), (8, 3)])), _, (cmdOf 0x0202 (fs [(8, 1), (8, Reg.hangCtrl.addr), (8, 255), (8, 3)])), _, [(Reg.memCalStatus.addr, 4)], _, rfl, writes_ (.inr rfl) (by decide +kernel) (by decide +kernel), by decide +kernel⟩

theorem wit_RegistersReadAndWritten_5 : ∃ (s : State) (u : State) (c : OpenCmd) (pre : List (Nat × Word × Word)) (post : List (Nat × Word × Word)) (p : Nat × Word × Word) (st : Status) (sets : List (Nat × Word)) (z : State), z = { s with colliding := sets } ∧ z.executes c c.opcode u ∧ writeTriples c.opcode c.params = pre ++ p :: post ∧ (∀ q ∈ pre, u.pairRefusal q.1 q.2.1 q.2.2 = none) ∧ u.pairRefusal p.1 p.2.1 p.2.2 = some st ∧ c.opcode = 0x0201 :=
  ⟨(atCmd 0x0201 (fs [(8, 2), (8, Reg.hangCtrl.addr), (8, 0), (8, 4), (8, 0)])), _, (cmdOf 0x0201 (fs [(8, 2), (8, Reg.hangCtrl.addr), (8, 0), (8, 4), (8, 0)])), [(Reg.hangCtrl.addr, ~~~0, 0)], [], (4, ~~~0, 0), .badParam, [], _, rfl, exec_ (by decide +kernel), by decide +kernel⟩

theorem wit_RegistersReadAndWritten_6 : ∃ (s : State) (u : State) (c : OpenCmd) (pre : List (Nat × Word × Word)) (post : List (Nat × Word × Word)) (p : Nat × Word × Word) (st : Status) (sets : List (Nat × Word)) (z : State), z = { s with colliding := sets } ∧ z.executes c c.opcode u ∧ writeTriples c.opcode c.params = pre ++ p :: post ∧ (∀ q ∈ pre, u.pairRefusal q.1 q.2.1 q.2.2 = none) ∧ u.pairRefusal p.1 p.2.1 p.2.2 = some st ∧ c.opcode = 0x0202 :=
  ⟨(atCmd 0x0202 (fs [(8, 1), (8, 4), (8, 0), (8, 0)])), _, (cmdOf 0x0202 (fs [(8, 1), (8, 4), (8, 0), (8, 0)])), [], [], (4, 0, 0), .badParam, [], _, rfl, exec_ (by decide +kernel), by decide +kernel⟩

theorem wit_RegisterRowsComplete_1 : ∃ (s : State) (u : State) (c : OpenCmd) (pairs : List (Nat × Word × Word)), s.writes c u pairs ∧ (∃ n, names pairs (.portAdmit n)) :=
  ⟨(atCmd 0x0202 (fs [(8, 1), (8, (.portAdmit 3 : Reg).addr), (8, 0), (8, 0)])), _, (cmdOf 0x0202 (fs [(8, 1), (8, (.portAdmit 3 : Reg).addr), (8, 0), (8, 0)])), _, writes_ (.inr rfl) (by decide +kernel) (by decide +kernel), ⟨3, names_ (by decide +kernel)⟩⟩

theorem wit_RegisterRowsComplete_2 : ∃ (s : State) (u : State) (c : OpenCmd) (pairs : List (Nat × Word × Word)), s.writes c u pairs ∧ (∃ n, ∃ p ∈ pairs, Reg.ofAddr p.1 = some (.portAdmit n) ∧ field (p.2.1 &&& p.2.2) 23 1 = 1) :=
  ⟨(atCmd 0x0202 (fs [(8, 1), (8, (.portAdmit 3 : Reg).addr), (8, 2 ^ 23), (8, 2 ^ 23)])), _, (cmdOf 0x0202 (fs [(8, 1), (8, (.portAdmit 3 : Reg).addr), (8, 2 ^ 23), (8, 2 ^ 23)])), _, writes_ (.inr rfl) (by decide +kernel) (by decide +kernel), ⟨3, ((Reg.portAdmit 3).addr, 2 ^ 23, 2 ^ 23), by decide +kernel, by decide +kernel, by decide +kernel⟩⟩

theorem wit_RegisterRowsComplete_3 : ∃ (s : State) (u : State) (c : OpenCmd) (pairs : List (Nat × Word × Word)), s.writes c u pairs ∧ names pairs .ftEpoch :=
  ⟨(atCmd 0x0202 (fs [(8, 1), (8, (.ftEpoch : Reg).addr), (8, 0), (8, 0)])), _, (cmdOf 0x0202 (fs [(8, 1), (8, (.ftEpoch : Reg).addr), (8, 0), (8, 0)])), _, writes_ (.inr rfl) (by decide +kernel) (by decide +kernel), names_ (by decide +kernel)⟩

theorem wit_RegisterRowsComplete_4 : ∃ (s : State) (u : State) (c : OpenCmd) (pairs : List (Nat × Word × Word)), s.writes c u pairs ∧ names pairs .ttCtrl :=
  ⟨(atCmd 0x0202 (fs [(8, 1), (8, (.ttCtrl : Reg).addr), (8, 0), (8, 0)])), _, (cmdOf 0x0202 (fs [(8, 1), (8, (.ttCtrl : Reg).addr), (8, 0), (8, 0)])), _, writes_ (.inr rfl) (by decide +kernel) (by decide +kernel), names_ (by decide +kernel)⟩

theorem wit_RegisterRowsComplete_5 : ∃ (s : State) (u : State) (c : OpenCmd) (pairs : List (Nat × Word × Word)), s.writes c u pairs ∧ names pairs .memDrwCarve :=
  ⟨(atCmd 0x0202 (fs [(8, 1), (8, (.memDrwCarve : Reg).addr), (8, 0), (8, 0)])), _, (cmdOf 0x0202 (fs [(8, 1), (8, (.memDrwCarve : Reg).addr), (8, 0), (8, 0)])), _, writes_ (.inr rfl) (by decide +kernel) (by decide +kernel), names_ (by decide +kernel)⟩

theorem wit_RegisterRowsComplete_6 : ∃ (s : State) (u : State) (c : OpenCmd) (pairs : List (Nat × Word × Word)), s.writes c u pairs ∧ (∃ core ring, names pairs (.wringBase core ring)) :=
  ⟨(atCmd 0x0202 (fs [(8, 1), (8, (.wringBase 2 1 : Reg).addr), (8, 0), (8, 0)])), _, (cmdOf 0x0202 (fs [(8, 1), (8, (.wringBase 2 1 : Reg).addr), (8, 0), (8, 0)])), _, writes_ (.inr rfl) (by decide +kernel) (by decide +kernel), ⟨2, 1, names_ (by decide +kernel)⟩⟩

theorem wit_RegisterRowsComplete_7 : ∃ (s : State) (u : State) (c : OpenCmd) (pairs : List (Nat × Word × Word)), s.writes c u pairs ∧ (∃ core ring, names pairs (.wringCtrl core ring)) :=
  ⟨(atCmd 0x0202 (fs [(8, 1), (8, (.wringCtrl 2 1 : Reg).addr), (8, 0), (8, 0)])), _, (cmdOf 0x0202 (fs [(8, 1), (8, (.wringCtrl 2 1 : Reg).addr), (8, 0), (8, 0)])), _, writes_ (.inr rfl) (by decide +kernel) (by decide +kernel), ⟨2, 1, names_ (by decide +kernel)⟩⟩

theorem wit_RegisterRowsComplete_8 : ∃ (s : State) (u : State) (c : OpenCmd) (pairs : List (Nat × Word × Word)), s.writes c u pairs ∧ (∃ core ring, names pairs (.wringPtr core ring)) :=
  ⟨(atCmd 0x0202 (fs [(8, 1), (8, (.wringPtr 2 1 : Reg).addr), (8, 0), (8, 0)])), _, (cmdOf 0x0202 (fs [(8, 1), (8, (.wringPtr 2 1 : Reg).addr), (8, 0), (8, 0)])), _, writes_ (.inr rfl) (by decide +kernel) (by decide +kernel), ⟨2, 1, names_ (by decide +kernel)⟩⟩

theorem wit_RegisterRowsComplete_9 : ∃ (s : State) (u : State) (c : OpenCmd) (pairs : List (Nat × Word × Word)), s.writes c u pairs ∧ (∃ n, names pairs (.cringBase n)) :=
  ⟨(atCmd 0x0202 (fs [(8, 1), (8, (.cringBase 2 : Reg).addr), (8, 0), (8, 0)])), _, (cmdOf 0x0202 (fs [(8, 1), (8, (.cringBase 2 : Reg).addr), (8, 0), (8, 0)])), _, writes_ (.inr rfl) (by decide +kernel) (by decide +kernel), ⟨2, names_ (by decide +kernel)⟩⟩

theorem wit_RegisterRowsComplete_10 : ∃ (s : State) (u : State) (c : OpenCmd) (pairs : List (Nat × Word × Word)), s.writes c u pairs ∧ (∃ n, names pairs (.cringCtrl n)) :=
  ⟨(atCmd 0x0202 (fs [(8, 1), (8, (.cringCtrl 2 : Reg).addr), (8, 0), (8, 0)])), _, (cmdOf 0x0202 (fs [(8, 1), (8, (.cringCtrl 2 : Reg).addr), (8, 0), (8, 0)])), _, writes_ (.inr rfl) (by decide +kernel) (by decide +kernel), ⟨2, names_ (by decide +kernel)⟩⟩

theorem wit_RegisterRowsComplete_11 : ∃ (s : State) (u : State) (c : OpenCmd) (pairs : List (Nat × Word × Word)), s.writes c u pairs ∧ (∃ n, names pairs (.cringPtr n)) :=
  ⟨(atCmd 0x0202 (fs [(8, 1), (8, (.cringPtr 2 : Reg).addr), (8, 0), (8, 0)])), _, (cmdOf 0x0202 (fs [(8, 1), (8, (.cringPtr 2 : Reg).addr), (8, 0), (8, 0)])), _, writes_ (.inr rfl) (by decide +kernel) (by decide +kernel), ⟨2, names_ (by decide +kernel)⟩⟩

theorem wit_RegisterRowsComplete_12 : ∃ (s : State) (u : State) (c : OpenCmd) (pairs : List (Nat × Word × Word)), s.writes c u pairs ∧ (∃ q, names pairs (.netSqPtr q)) :=
  ⟨(atCmd 0x0202 (fs [(8, 1), (8, (.netSqPtr 2 : Reg).addr), (8, 0), (8, 0)])), _, (cmdOf 0x0202 (fs [(8, 1), (8, (.netSqPtr 2 : Reg).addr), (8, 0), (8, 0)])), _, writes_ (.inr rfl) (by decide +kernel) (by decide +kernel), ⟨2, names_ (by decide +kernel)⟩⟩

theorem wit_RegisterRowsComplete_13 : ∃ (s : State) (u : State) (c : OpenCmd) (pairs : List (Nat × Word × Word)), s.writes c u pairs ∧ names pairs .netChip :=
  ⟨(atCmd 0x0202 (fs [(8, 1), (8, (.netChip : Reg).addr), (8, 0), (8, 0)])), _, (cmdOf 0x0202 (fs [(8, 1), (8, (.netChip : Reg).addr), (8, 0), (8, 0)])), _, writes_ (.inr rfl) (by decide +kernel) (by decide +kernel), names_ (by decide +kernel)⟩

theorem wit_RegisterRowsComplete_14 : ∃ (s : State) (u : State) (c : OpenCmd) (pairs : List (Nat × Word × Word)), s.writes c u pairs ∧ names pairs .netGeometry :=
  ⟨(atCmd 0x0202 (fs [(8, 1), (8, (.netGeometry : Reg).addr), (8, 0), (8, 0)])), _, (cmdOf 0x0202 (fs [(8, 1), (8, (.netGeometry : Reg).addr), (8, 0), (8, 0)])), _, writes_ (.inr rfl) (by decide +kernel) (by decide +kernel), names_ (by decide +kernel)⟩

theorem wit_RegisterRowsComplete_15 : ∃ (s : State) (u : State) (c : OpenCmd) (pairs : List (Nat × Word × Word)), s.writes c u pairs ∧ names pairs .netThrottle :=
  ⟨(atCmd 0x0202 (fs [(8, 1), (8, (.netThrottle : Reg).addr), (8, 0), (8, 0)])), _, (cmdOf 0x0202 (fs [(8, 1), (8, (.netThrottle : Reg).addr), (8, 0), (8, 0)])), _, writes_ (.inr rfl) (by decide +kernel) (by decide +kernel), names_ (by decide +kernel)⟩

theorem wit_RegisterRowsComplete_16 : ∃ (s : State) (u : State) (c : OpenCmd) (pairs : List (Nat × Word × Word)), s.writes c u pairs ∧ (∃ d, names pairs (.netBridge d)) :=
  ⟨(atCmd 0x0202 (fs [(8, 1), (8, (.netBridge 2 : Reg).addr), (8, 0), (8, 0)])), _, (cmdOf 0x0202 (fs [(8, 1), (8, (.netBridge 2 : Reg).addr), (8, 0), (8, 0)])), _, writes_ (.inr rfl) (by decide +kernel) (by decide +kernel), ⟨2, names_ (by decide +kernel)⟩⟩

theorem wit_RegisterRowsComplete_17 : ∃ (s : State) (u : State) (c : OpenCmd) (pairs : List (Nat × Word × Word)), s.writes c u pairs ∧ names pairs .retainCtrl :=
  ⟨(atCmd 0x0202 (fs [(8, 1), (8, (.retainCtrl : Reg).addr), (8, 0), (8, 0)])), _, (cmdOf 0x0202 (fs [(8, 1), (8, (.retainCtrl : Reg).addr), (8, 0), (8, 0)])), _, writes_ (.inr rfl) (by decide +kernel) (by decide +kernel), names_ (by decide +kernel)⟩

theorem wit_RegisterHoldsItsWrite_1 : ∃ (s : State) (r : Reg) (q : Reg) (a : Nat), (match r with | .ftEpoch | .ttCtrl | .portAdmit _ | .wringPtr _ _ | .netSqPtr _ | .cringPtr _ | .memDrwCarve | .netBridge _ | .noticeCtrl | .ftCtrl => False | _ => True) ∧ s.canonical = true ∧ Reg.ofAddr a = some r ∧ q.addr ≠ r.addr :=
  ⟨up, .hangCtrl, .memCalCtrl, Reg.hangCtrl.addr, trivial, by decide +kernel⟩

theorem wit_CounterRegistersReadLive_1 : ∃ (i : Nat) (s : State) (u : State) (c : OpenCmd), s.executes c 0x0200 u ∧ i < 1208 ∧ uAt c.params 0 4 = 1 ∧ uAt c.params 8 8 = 0x020000000000 + 0x17 * 0x1000000 + 0x10000 + 8 * i :=
  ⟨1207, (atCmd 0x0200 (fs [(8, 1), (8, 0x020000000000 + 0x17 * 0x1000000 + 0x10000 + 8 * 1207)])), _, (cmdOf 0x0200 (fs [(8, 1), (8, 0x020000000000 + 0x17 * 0x1000000 + 0x10000 + 8 * 1207)])), exec_ (by decide +kernel), by decide +kernel⟩

theorem wit_EngineStatusAgrees_1 : ∃ (p : _), p < 32 :=
  ⟨31, by decide +kernel⟩

theorem wit_EngineStatusAgrees_2 : ∃ (s : State) (e : Nat) (x : EngineState), x = s.engine e ∧ ones (x.manufacturing ||| x.boot) ≤ 15 :=
  ⟨{ up with engines := [(1, ⟨0x3, 0x80000001⟩)] }, 1, _, rfl, by decide +kernel⟩

theorem wit_MemoryRowsComplete_1 : ∃ (s : State) (u : State) (c : OpenCmd) (errs : Sys2Proof.BitErrors) (a : Nat) (n : Nat) (g : Nat) (v : State), v = (u.hit errs).fetch .bench a n ∧ s.executes c 0x0300 u ∧ a = uAt c.params 0 8 ∧ n = uAt c.params 8 4 ∧ u.memoryRefusal [(a, n)] [] = none ∧ v.firstPoison a n = some g :=
  ⟨(atCmd 0x0300 (fs [(8, 0x100), (4, 7)]) fun s => { s with mem := { s.mem with errors := [(0x100, poisonPattern)] } }), _, (cmdOf 0x0300 (fs [(8, 0x100), (4, 7)])), [], _, _, 0x100, _, rfl, exec_ (by decide +kernel), rfl, rfl, by decide +kernel⟩

theorem wit_MemoryRowsComplete_2 : ∃ (s : State) (u : State) (c : OpenCmd) (errs : Sys2Proof.BitErrors) (a : Nat) (n : Nat) (v : State), v = (u.hit errs).fetch .bench a n ∧ s.executes c 0x0300 u ∧ a = uAt c.params 0 8 ∧ n = uAt c.params 8 4 ∧ u.memoryRefusal [(a, n)] [] = none ∧ v.firstPoison a n = none :=
  ⟨(atCmd 0x0300 (fs [(8, 0x100), (4, 7)])), _, (cmdOf 0x0300 (fs [(8, 0x100), (4, 7)])), [], _, _, _, rfl, exec_ (by decide +kernel), rfl, rfl, by decide +kernel⟩

theorem wit_MemoryRowsComplete_3 : ∃ (s : State) (u : State) (c : OpenCmd) (a : Nat) (n : Nat), s.executes c 0x0302 u ∧ a = uAt c.params 0 8 ∧ n = uAt c.params 8 8 ∧ u.memoryRefusal [] [(a, n)] = none :=
  ⟨(atCmd 0x0302 (fs [(8, 0x100), (8, 32), (8, 1), (8, 2)])), _, (cmdOf 0x0302 (fs [(8, 0x100), (8, 32), (8, 1), (8, 2)])), _, _, exec_ (by decide +kernel), rfl, rfl, by decide +kernel⟩

theorem wit_MemoryRowsComplete_4 : ∃ (s : State) (u : State) (c : OpenCmd) (a : Nat) (b : Nat) (n : Nat), s.executes c 0x0303 u ∧ b = uAt c.params 0 8 ∧ a = uAt c.params 8 8 ∧ n = uAt c.params 16 8 ∧ u.memoryRefusal [(a, n)] [(b, n)] = none :=
  ⟨(atCmd 0x0303 (fs [(8, 0x100), (8, 0x004000000000), (8, 9)])), _, (cmdOf 0x0303 (fs [(8, 0x100), (8, 0x004000000000), (8, 9)])), _, _, _, exec_ (by decide +kernel), rfl, rfl, rfl, by decide +kernel⟩

theorem wit_MemoryRowsComplete_5 : ∃ (s : State) (u : State) (c : OpenCmd) (a : Nat) (n : Nat), s.executes c 0x0304 u ∧ a = uAt c.params 0 8 ∧ n = uAt c.params 8 8 ∧ u.memoryRefusal [(a, n)] [] = none :=
  ⟨(atCmd 0x0304 (fs [(8, 0x100), (8, 9)])), _, (cmdOf 0x0304 (fs [(8, 0x100), (8, 9)])), _, _, exec_ (by decide +kernel), rfl, rfl, by decide +kernel⟩

theorem wit_MemoryRowsComplete_6 : ∃ (s : State) (u : State) (c : OpenCmd) (a : Nat) (n : Nat) (st : Status), s.executes c 0x0301 u ∧ a = uAt c.params 0 8 ∧ n = uAt c.params 8 4 ∧ u.memoryRefusal [] [(a, n)] = some st :=
  ⟨(atCmd 0x0301 (fs [(8, 0xFFFFFFFFFFF0), (8, 1), (8, 0)])), _, (cmdOf 0x0301 (fs [(8, 0xFFFFFFFFFFF0), (8, 1), (8, 0)])), _, _, .badParam, exec_ (by decide +kernel), rfl, rfl, by decide +kernel⟩

theorem wit_MemoryRowsComplete_7 : ∃ (s : State) (a : Nat), s.scrubMay a = false :=
  ⟨State.reset, 0, by decide +kernel⟩

theorem wit_MemoryRowsComplete_8 : ∃ (s : State) (t : State) (a : Nat) (unit : Nat) (errs : BitErrors), t = s.hit errs ∧ unit = (t.scrubChannel a).2.1 ∧ s.scrubMay a = true ∧ ((granulesOf a 64).find? fun g => t.mem.isPoisoned g && t.inSealed g) = none ∧ (t.scrubChannel a).1 = .inlay :=
  ⟨up, _, 64, _, [], rfl, rfl, by decide +kernel⟩

theorem wit_MemoryRowsComplete_9 : ∃ (s : State) (t : State) (a : Nat) (errs : BitErrors), t = s.hit errs ∧ s.scrubMay a = true ∧ ((granulesOf a 64).find? fun g => t.mem.isPoisoned g && t.inSealed g) = none ∧ (t.scrubChannel a).1 = .lpddr6 :=
  ⟨up, _, 0x004000000040, [], rfl, by decide +kernel⟩

theorem wit_MemWriteStoresItsBytes_1 : ∃ (s : State) (u : State) (c : OpenCmd) (a : Nat) (n : Nat) (x : _), s.executes c 0x0301 u ∧ a = uAt c.params 0 8 ∧ n = uAt c.params 8 4 ∧ n = (slice c.params 16 n).length ∧ s.canonical = true ∧ u.memoryRefusal [] [(a, n)] = none ∧ (x < a ∨ a + n ≤ x) ∧ (granule x ∉ partialGranules a n ∨ s.mem.diff (granule x) = 0 ∨ s.mem.diff (granule x) = poisonPattern) :=
  ⟨(atCmd 0x0301 (fs [(8, 0x100), (8, 16), (8, 1), (8, 2)])), _, (cmdOf 0x0301 (fs [(8, 0x100), (8, 16), (8, 1), (8, 2)])), _, _, 0x110, exec_ (by decide +kernel), rfl, rfl, rfl, by decide +kernel⟩

theorem wit_MemWriteStoresItsBytes_2 : ∃ (s : State) (u : State) (c : OpenCmd) (a : Nat) (n : Nat) (g : _), s.executes c 0x0301 u ∧ a = uAt c.params 0 8 ∧ n = uAt c.params 8 4 ∧ n = (slice c.params 16 n).length ∧ s.canonical = true ∧ u.memoryRefusal [] [(a, n)] = none ∧ g ∈ granulesOf a n ∧ g ∉ partialGranules a n :=
  ⟨(atCmd 0x0301 (fs [(8, 0x100), (8, 16), (8, 1), (8, 2)])), _, (cmdOf 0x0301 (fs [(8, 0x100), (8, 16), (8, 1), (8, 2)])), _, _, 0x100, exec_ (by decide +kernel), rfl, rfl, rfl, by decide +kernel⟩

theorem wit_MemWriteStoresItsBytes_3 : ∃ (s : State) (u : State) (c : OpenCmd) (a : Nat) (n : Nat) (r : Reg), s.executes c 0x0301 u ∧ a = uAt c.params 0 8 ∧ n = uAt c.params 8 4 ∧ n = (slice c.params 16 n).length ∧ s.canonical = true ∧ u.memoryRefusal [] [(a, n)] = none ∧ r.addr ≠ Reg.memPoisonLog.addr :=
  ⟨(atCmd 0x0301 (fs [(8, 0x100), (8, 16), (8, 1), (8, 2)])), _, (cmdOf 0x0301 (fs [(8, 0x100), (8, 16), (8, 1), (8, 2)])), _, _, .hangCtrl, exec_ (by decide +kernel), rfl, rfl, rfl, by decide +kernel⟩

theorem wit_CodeCorrectsOneSymbol_1 : ∃ (s : State) (g : Nat) (i : Nat) (v : Nat) (h : _), s.canonical = true ∧ i < 36 ∧ 0 < v ∧ v < 16 ∧ s.mem.diff g = BitVec.ofNat 144 (v <<< (4 * i)) ∧ (∀ e ∈ s.mem.inflight, e.1 ≠ .transit ∨ e.2.1 ≠ g) ∧ h ≠ g :=
  ⟨{ up with mem := { up.mem with errors := [(0x70, 0x5 <<< 140)] } }, 0x70, 35, 5, 0x80, by decide +kernel⟩

theorem wit_RoundsToNearestEven_1 : ∃ (m : Nat) (k : Nat), 2 * (m % 2 ^ k) = 2 ^ k :=
  ⟨6, 2, by decide +kernel⟩

theorem wit_RoundsToNearestEven_2 : ∃ (m : Nat) (k : Nat), m % 2 ^ k = 0 :=
  ⟨8, 2, by decide +kernel⟩

theorem wit_IntegerSumsSaturate_1 : ∃ (acc : BitVec 32) (g : List Val) (x : BitVec 32 × Bool), x = satInt32 acc.toInt (g.map Val.toInt).sum :=
  ⟨0x7FFFFFFF, [.fin false 1 0], _, rfl⟩

theorem wit_FabricCommandsComplete_1 : ∃ (s : State) (u : State) (c : OpenCmd), s.executes c 0x0400 u ∧ u.partitionBad c.params = false ∧ u.partitionBusy = false :=
  ⟨(atCmd 0x0400 (zeros 48) fun s => { s with fabric := { s.fabric with partition := { s.fabric.partition with tag := 1 } } }), _, (cmdOf 0x0400 (zeros 48)), exec_ (by decide +kernel), by decide +kernel⟩

theorem wit_FabricCommandsComplete_2 : ∃ (s : State) (u : State) (c : OpenCmd), s.executes c 0x0400 u ∧ u.partitionBad c.params = true :=
  ⟨(atCmd 0x0400 (fs [(2, 0xFFF)] ++ zeros 46)), _, (cmdOf 0x0400 (fs [(2, 0xFFF)] ++ zeros 46)), exec_ (by decide +kernel), by decide +kernel⟩

theorem wit_FabricCommandsComplete_3 : ∃ (s : State) (u : State) (c : OpenCmd), s.executes c 0x0400 u ∧ u.partitionBad c.params = false ∧ u.partitionBusy = true :=
  ⟨(atCmd 0x0400 (zeros 48) fun s => withStep (stepRec 4 0 1) { s with fabric := { s.fabric with partition := { s.fabric.partition with tag := 1 } } }), _, (cmdOf 0x0400 (zeros 48)), exec_ (by decide +kernel), by decide +kernel⟩

theorem wit_FabricCommandsComplete_4 : ∃ (s : State) (u : State) (c : OpenCmd), s.executes c 0x0401 u :=
  ⟨(atCmd 0x0401 []), _, (cmdOf 0x0401 []), exec_ (by decide +kernel)⟩

theorem wit_FabricCommandsComplete_5 : ∃ (s : State) (u : State) (c : OpenCmd) (x : QueuePair), s.executes c 0x0402 u ∧ x = newQp c.params u.now ∧ x.windowLength ≠ 0 ∧ inStore x.windowBase x.windowLength = false :=
  ⟨(atCmd 0x0402 (zeros 40 ++ fs [(8, 0xFFFFFFFFFFF0), (8, 32)])), _, (cmdOf 0x0402 (zeros 40 ++ fs [(8, 0xFFFFFFFFFFF0), (8, 32)])), _, exec_ (by decide +kernel), rfl, by decide +kernel⟩

theorem wit_FabricCommandsComplete_6 : ∃ (s : State) (u : State) (c : OpenCmd) (x : QueuePair) (n : Nat) (q : Nat), s.executes c 0x0402 u ∧ n = uAt c.params 0 1 ∧ x = newQp c.params u.now ∧ (x.windowLength = 0 ∨ inStore x.windowBase x.windowLength = true) ∧ q < 4096 ∧ (u.eth n).qps.any (·.1 == q) = false ∧ (∀ r < q, (u.eth n).qps.any (·.1 == r) = true) :=
  ⟨(atCmd 0x0402 (zeros 40 ++ fs [(8, 0x100), (8, 32)]) fun s => { s with eths := [(0, { ethPortReset with qps := [(0, newQp (zeros 56) 0)] })] }), _, (cmdOf 0x0402 (zeros 40 ++ fs [(8, 0x100), (8, 32)])), _, _, 1, exec_ (by decide +kernel), rfl, rfl, by decide +kernel⟩

theorem wit_FabricCommandsComplete_7 : ∃ (s : State) (u : State) (c : OpenCmd) (x : QueuePair) (n : Nat), s.executes c 0x0402 u ∧ n = uAt c.params 0 1 ∧ x = newQp c.params u.now ∧ (∀ r < 4096, (u.eth n).qps.any (·.1 == r) = true) ∧ (x.windowLength = 0 ∨ inStore x.windowBase x.windowLength = true) :=
  ⟨(atCmd 0x0402 (zeros 56) fun s => { s with eths := [(0, { ethPortReset with qps := manyQps })] }), _, (cmdOf 0x0402 (zeros 56)), _, _, exec_ (by decide +kernel), rfl, rfl, fun q h => many_qps q h, by decide +kernel⟩

theorem wit_FabricCommandsComplete_8 : ∃ (s : State) (u : State) (c : OpenCmd) (n : Nat) (q : Nat), s.executes c 0x0403 u ∧ n = uAt c.params 0 1 ∧ q = uAt c.params 4 4 ∧ u.qpNamed n q = true :=
  ⟨(atCmd 0x0403 (fs [(4, 4), (4, 0)]) fun s => { s with regs := tabSet 0 s.regs (Reg.ckptTarget 0).addr 1 }), _, (cmdOf 0x0403 (fs [(4, 4), (4, 0)])), _, _, exec_ (by decide +kernel), rfl, rfl, by decide +kernel⟩

theorem wit_FabricCommandsComplete_9 : ∃ (s : State) (u : State) (c : OpenCmd) (n : Nat) (q : Nat), s.executes c 0x0403 u ∧ n = uAt c.params 0 1 ∧ q = uAt c.params 4 4 ∧ u.qpNamed n q = false ∧ u.qp n q = none :=
  ⟨(atCmd 0x0403 (fs [(4, 5), (4, 0)])), _, (cmdOf 0x0403 (fs [(4, 5), (4, 0)])), _, _, exec_ (by decide +kernel), rfl, rfl, by decide +kernel⟩

theorem wit_FabricCommandsComplete_10 : ∃ (s : State) (u : State) (c : OpenCmd) (x : QueuePair) (n : Nat) (q : Nat), s.executes c 0x0403 u ∧ n = uAt c.params 0 1 ∧ q = uAt c.params 4 4 ∧ u.qpNamed n q = false ∧ u.qp n q = some x :=
  ⟨(atCmd 0x0403 (fs [(4, 4), (4, 0)]) fun s => { s with eths := [(4, { ethPortReset with qps := [(0, newQp (zeros 56) 0)] })] }), _, (cmdOf 0x0403 (fs [(4, 4), (4, 0)])), newQp (zeros 56) 0, _, _, exec_ (by decide +kernel), rfl, rfl, by decide +kernel⟩

theorem wit_FabricCommandsComplete_11 : ∃ (s : State) (u : State) (c : OpenCmd) (first : Nat) (count : Nat), s.executes c 0x0404 u ∧ first = uAt c.params 0 4 ∧ count = uAt c.params 4 4 ∧ first + count ≤ 131072 ∧ (∀ i < count, word (uAt c.params (8 + 8 * i) 8) &&& ~~~(Reg.destEntry 0).writable = 0) :=
  ⟨(atCmd 0x0404 (fs [(4, 131071), (4, 1), (8, 1)])), _, (cmdOf 0x0404 (fs [(4, 131071), (4, 1), (8, 1)])), _, _, exec_ (by decide +kernel), rfl, rfl, by decide +kernel⟩

theorem wit_FabricCommandsComplete_12 : ∃ (s : State) (u : State) (c : OpenCmd) (first : Nat) (count : Nat), s.executes c 0x0404 u ∧ first = uAt c.params 0 4 ∧ count = uAt c.params 4 4 ∧ (131072 < first + count ∨ ∃ i < count, word (uAt c.params (8 + 8 * i) 8) &&& ~~~(Reg.destEntry 0).writable ≠ 0) :=
  ⟨(atCmd 0x0404 (fs [(4, 131071), (4, 2), (8, 1), (8, 1)])), _, (cmdOf 0x0404 (fs [(4, 131071), (4, 2), (8, 1), (8, 1)])), _, _, exec_ (by decide +kernel), rfl, rfl, by decide +kernel⟩

theorem wit_JobCommandsComplete_1 : ∃ (s : State) (u : State) (c : OpenCmd) (a : Nat) (n : Nat), s.executes c 0x0500 u ∧ a = uAt c.params 0 8 ∧ n = uAt c.params 8 1 ∧ u.accessStatus a 64 = .ok ∧ u.programBusy n = false :=
  ⟨(atCmd 0x0500 (fs [(8, 0), (1, 3)])), _, (cmdOf 0x0500 (fs [(8, 0), (1, 3)])), _, _, exec_ (by decide +kernel), rfl, rfl, by decide +kernel⟩

theorem wit_JobCommandsComplete_2 : ∃ (s : State) (u : State) (c : OpenCmd) (n : Nat) (p : Program), s.executes c 0x0501 u ∧ n = uAt c.params 0 1 ∧ u.programBusy n = false ∧ u.program n = some p :=
  ⟨(atCmd 0x0501 [3] fun s => { s with programs := [(3, program0)] }), _, (cmdOf 0x0501 [3]), _, program0, exec_ (by decide +kernel), rfl, by decide +kernel⟩

theorem wit_JobCommandsComplete_3 : ∃ (s : State) (u : State) (c : OpenCmd) (first : Nat) (count : Nat), s.executes c 0x0502 u ∧ first = uAt c.params 0 2 ∧ count = uAt c.params 2 2 ∧ first + count ≤ 4096 ∧ (∀ j < count, let raw := slice c.params (8 + 32 * j) 32; uAt raw 0x11 1 = 0 ∧ (parseEntry raw).fieldsOk = true ∧ u.guardEnd ≤ (parseEntry raw).startFt.toNat ∧ anchorOk (fun i => if within i first (first + count - 1) then some (parseEntry (slice c.params (8 + 32 * (i - first)) 32)) else (tabFind u.table.slots i).map (·.entry)) (parseEntry raw) = true ∧ u.entryBusy (first + j) = false) :=
  ⟨(atCmd 0x0502 (fs [(2, 7), (2, 1), (4, 0), (8, 2 ^ 40), (8, 0), (1, 4), (1, 0), (2, 1), (4, 0), (8, 0)])), _, (cmdOf 0x0502 (fs [(2, 7), (2, 1), (4, 0), (8, 2 ^ 40), (8, 0), (1, 4), (1, 0), (2, 1), (4, 0), (8, 0)])), _, _, exec_ (by decide +kernel), rfl, rfl, by decide +kernel⟩

theorem wit_JobCommandsComplete_4 : ∃ (s : State) (u : State) (c : OpenCmd) (first : Nat) (count : Nat), s.executes c 0x0503 u ∧ first = uAt c.params 0 2 ∧ count = uAt c.params 2 2 ∧ first + count ≤ 4096 ∧ (∀ j < count, u.entryBusy (first + j) = false) :=
  ⟨(atCmd 0x0503 (fs [(2, 7), (2, 2)])), _, (cmdOf 0x0503 (fs [(2, 7), (2, 2)])), _, _, exec_ (by decide +kernel), rfl, rfl, by decide +kernel⟩

theorem wit_JobCommandsComplete_5 : ∃ (s : State) (u : State) (c : OpenCmd) (first : Nat) (count : Nat), s.executes c 0x0504 u ∧ first = uAt c.params 0 2 ∧ count = uAt c.params 2 2 ∧ first + count ≤ 4096 :=
  ⟨(atCmd 0x0504 (fs [(2, 4095), (2, 1)])), _, (cmdOf 0x0504 (fs [(2, 4095), (2, 1)])), _, _, exec_ (by decide +kernel), rfl, rfl, by decide +kernel⟩

theorem wit_JobCommandsComplete_6 : ∃ (s : State) (u : State) (c : OpenCmd) (n : Nat), s.executes c 0x0505 u ∧ n = uAt c.params 0 6 ∧ (∀ m b, u.nextStep = some (m, b) → n ≤ m + 4) ∧ uAt c.params 6 2 = 0 ∧ (u.steps.sealedLetter = 3 ∨ u.steps.sealedStep < n) ∧ ((tabFind u.steps.params n).isSome = true → u.step? n = none ∧ u.steps.replays.any (·.1 == n) = false) ∧ ((tabFind u.steps.params n).isNone = true → u.steps.params.length < 4) :=
  ⟨(atCmd 0x0505 (fs [(6, 5), (2, 0)] ++ zeros 248)), _, (cmdOf 0x0505 (fs [(6, 5), (2, 0)] ++ zeros 248)), _, exec_ (by decide +kernel), rfl, (by intro m b h; cases (show (none : Option (Nat × Nat)) = some (m, b) from h)), by decide +kernel⟩

theorem wit_StepControlCompletes_1 : ∃ (s : State) (u : State) (c : OpenCmd), s.executes c 0x0506 u ∧ uAt c.params 0 1 = 0 ∧ u.stepOpen = false ∧ u.retentionBusy = false ∧ u.heldByCut = false :=
  ⟨(atCmd 0x0506 (fs [(1, 0), (1, 0), (1, 0), (1, 0), (4, 0), (8, 4), (8, 0)])), _, (cmdOf 0x0506 (fs [(1, 0), (1, 0), (1, 0), (1, 0), (4, 0), (8, 4), (8, 0)])), exec_ (by decide +kernel), by decide +kernel⟩

theorem wit_StepControlCompletes_2 : ∃ (s : State) (u : State) (c : OpenCmd), s.executes c 0x0506 u ∧ uAt c.params 0 1 = 0 ∧ u.heldByCut = true ∧ u.retentionBusy = false :=
  ⟨(atCmd 0x0506 (fs [(1, 0), (1, 0), (1, 0), (1, 0), (4, 0), (8, 4), (8, 0)]) fun s => heldStep s), _, (cmdOf 0x0506 (fs [(1, 0), (1, 0), (1, 0), (1, 0), (4, 0), (8, 4), (8, 0)])), exec_ (by decide +kernel), by decide +kernel⟩

theorem wit_StepControlCompletes_3 : ∃ (s : State) (u : State) (c : OpenCmd), s.executes c 0x0506 u ∧ uAt c.params 0 1 = 1 :=
  ⟨(atCmd 0x0506 (fs [(1, 1), (1, 0), (1, 0), (1, 0), (4, 0), (8, 4), (8, 0)])), _, (cmdOf 0x0506 (fs [(1, 1), (1, 0), (1, 0), (1, 0), (4, 0), (8, 4), (8, 0)])), exec_ (by decide +kernel), by decide +kernel⟩

theorem wit_StepControlCompletes_4 : ∃ (s : State) (u : State) (c : OpenCmd) (o : Outcome), s.executes c 0x0506 u ∧ o = commandOutcome c u false ∧ uAt c.params 0 1 = 2 ∧ u.matches_ o = true :=
  ⟨(atCmd 0x0506 (fs [(1, 2), (1, 0), (1, 0), (1, 0), (4, 0), (8, 4), (8, 0)]) fun s => withStep (stepRec 4 0 1) s), _, (cmdOf 0x0506 (fs [(1, 2), (1, 0), (1, 0), (1, 0), (4, 0), (8, 4), (8, 0)])), _, exec_ (by decide +kernel), rfl, by decide +kernel⟩

theorem wit_StepControlCompletes_5 : ∃ (s : State) (u : State) (c : OpenCmd) (o : Outcome), s.executes c 0x0506 u ∧ o = commandOutcome c u false ∧ uAt c.params 0 1 = 2 ∧ u.matches_ o = false ∧ u.arrived o = true :=
  ⟨(atCmd 0x0506 (fs [(1, 2), (1, 0), (1, 0), (1, 0), (4, 0), (8, 4), (8, 0)]) fun s => { s with steps := { s.steps with latest := some ⟨4, 0, 1, false, false, 0, 0, 0, 0⟩ } }), _, (cmdOf 0x0506 (fs [(1, 2), (1, 0), (1, 0), (1, 0), (4, 0), (8, 4), (8, 0)])), _, exec_ (by decide +kernel), rfl, by decide +kernel⟩

theorem wit_StepControlCompletes_6 : ∃ (s : State) (u : State) (c : OpenCmd) (o : Outcome), s.executes c 0x0506 u ∧ o = commandOutcome c u false ∧ uAt c.params 0 1 = 2 ∧ u.matches_ o = false ∧ u.arrived o = false :=
  ⟨(atCmd 0x0506 (fs [(1, 2), (1, 0), (1, 0), (1, 0), (4, 0), (8, 4), (8, 0)])), _, (cmdOf 0x0506 (fs [(1, 2), (1, 0), (1, 0), (1, 0), (4, 0), (8, 4), (8, 0)])), _, exec_ (by decide +kernel), rfl, by decide +kernel⟩

theorem wit_StepControlCompletes_7 : ∃ (s : State) (u : State) (c : OpenCmd) (o : Outcome), s.executes c 0x0506 u ∧ o = commandOutcome c u true ∧ uAt c.params 0 1 = 3 ∧ u.matches_ o = true :=
  ⟨(atCmd 0x0506 (fs [(1, 3), (1, 0), (1, 0), (1, 0), (4, 0), (8, 4), (8, 0)]) fun s => withStep (stepRec 4 0 1) s), _, (cmdOf 0x0506 (fs [(1, 3), (1, 0), (1, 0), (1, 0), (4, 0), (8, 4), (8, 0)])), _, exec_ (by decide +kernel), rfl, by decide +kernel⟩

theorem wit_StepControlCompletes_8 : ∃ (s : State) (u : State) (c : OpenCmd) (o : Outcome), s.executes c 0x0506 u ∧ o = commandOutcome c u true ∧ uAt c.params 0 1 = 3 ∧ u.matches_ o = false ∧ u.arrived o = true :=
  ⟨(atCmd 0x0506 (fs [(1, 3), (1, 0), (1, 0), (1, 0), (4, 0), (8, 4), (8, 0)]) fun s => { s with steps := { s.steps with latest := some ⟨4, 0, 1, true, false, 0, 0, 0, 0⟩ } }), _, (cmdOf 0x0506 (fs [(1, 3), (1, 0), (1, 0), (1, 0), (4, 0), (8, 4), (8, 0)])), _, exec_ (by decide +kernel), rfl, by decide +kernel⟩

theorem wit_StepControlCompletes_9 : ∃ (s : State) (u : State) (c : OpenCmd) (o : Outcome), s.executes c 0x0506 u ∧ o = commandOutcome c u true ∧ uAt c.params 0 1 = 3 ∧ u.matches_ o = false ∧ u.arrived o = false :=
  ⟨(atCmd 0x0506 (fs [(1, 3), (1, 0), (1, 0), (1, 0), (4, 0), (8, 4), (8, 0)])), _, (cmdOf 0x0506 (fs [(1, 3), (1, 0), (1, 0), (1, 0), (4, 0), (8, 4), (8, 0)])), _, exec_ (by decide +kernel), rfl, by decide +kernel⟩

theorem wit_StepControlCompletes_10 : ∃ (s : State) (u : State) (c : OpenCmd), s.executes c 0x0507 u :=
  ⟨(atCmd 0x0507 []), _, (cmdOf 0x0507 []), exec_ (by decide +kernel)⟩

theorem wit_SquareCommandsComplete_1 : ∃ (s : State) (u : State) (c : OpenCmd) (k : UnitKind) (n : Nat), s.executes c 0x0600 u ∧ k = unitKind (uAt c.params 0 1) ∧ n = uAt c.params 2 2 ∧ n < UnitKind.count k :=
  ⟨(atCmd 0x0600 (fs [(2, 0), (2, 383)])), _, (cmdOf 0x0600 (fs [(2, 0), (2, 383)])), _, _, exec_ (by decide +kernel), rfl, rfl, by decide +kernel⟩

theorem wit_SquareCommandsComplete_2 : ∃ (s : State) (u : State) (c : OpenCmd) (k : UnitKind) (n : Nat), s.executes c 0x0601 u ∧ k = unitKind (uAt c.params 0 1) ∧ n = uAt c.params 2 2 ∧ n < UnitKind.count k ∧ u.stepOpen = false ∧ (u.ownClamp k n).2 = true ∧ u.enclosedClamp k n = false :=
  ⟨(atCmd 0x0601 (fs [(2, 0), (2, 383)]) fun s => { s with cores := [(383, { coreReset with clampReason := 4, clampByCommand := true })] }), _, (cmdOf 0x0601 (fs [(2, 0), (2, 383)])), _, _, exec_ (by decide +kernel), rfl, rfl, by decide +kernel⟩

theorem wit_SquareCommandsComplete_3 : ∃ (s : State) (u : State) (c : OpenCmd) (k : UnitKind) (n : Nat), s.executes c 0x0601 u ∧ k = unitKind (uAt c.params 0 1) ∧ n = uAt c.params 2 2 ∧ n < UnitKind.count k ∧ u.stepOpen = true :=
  ⟨(atCmd 0x0601 (fs [(2, 1), (2, 0)]) fun s => withStep (stepRec 4 0 1) s), _, (cmdOf 0x0601 (fs [(2, 1), (2, 0)])), _, _, exec_ (by decide +kernel), rfl, rfl, by decide +kernel⟩

theorem wit_SquareCommandsComplete_4 : ∃ (s : State) (u : State) (c : OpenCmd), s.executes c 0x0602 u :=
  ⟨(atCmd 0x0602 []), _, (cmdOf 0x0602 []), exec_ (by decide +kernel)⟩

theorem wit_SquareCommandsComplete_5 : ∃ (s : State) (u : State) (c : OpenCmd) (i : Nat) (off : Nat) (len : Nat), s.executes c 0x0603 u ∧ i = uAt c.params 0 2 ∧ off = uAt c.params 4 4 ∧ len = uAt c.params 8 4 ∧ i < 512 ∧ off + len ≤ 2 ^ 20 :=
  ⟨(atCmd 0x0603 (fs [(4, 511), (4, 0), (4, 16)])), _, (cmdOf 0x0603 (fs [(4, 511), (4, 0), (4, 16)])), _, _, _, exec_ (by decide +kernel), rfl, rfl, rfl, by decide +kernel⟩

theorem wit_SquareCommandsComplete_6 : ∃ (s : State) (u : State) (c : OpenCmd) (i : Nat), s.executes c 0x0604 u ∧ i = uAt c.params 0 2 ∧ i < 512 ∧ (u.ledgerEntry i).state = 1 :=
  ⟨(atCmd 0x0604 (fs [(2, 0), (1, 1)]) fun s => { s with square := { s.square with ledger := [(0, { ledgerEntryReset with state := 1 })] } }), _, (cmdOf 0x0604 (fs [(2, 0), (1, 1)])), _, exec_ (by decide +kernel), rfl, by decide +kernel⟩

theorem wit_SquareCommandsComplete_7 : ∃ (s : State) (u : State) (c : OpenCmd) (n : Nat) (i : Nat), s.executes c 0x0605 u ∧ i = uAt c.params 0 2 ∧ n = uAt c.params 2 2 ∧ (i < 512 ∨ i = 0xFFFF) ∧ n < 384 ∧ u.faultClamped n = false ∧ u.stepOpen = false ∧ u.steps.evalSlot = none ∧ (u.core n).testing = false ∧ u.testEntries i n ≠ [] :=
  ⟨(atCmd 0x0605 (fs [(2, 0), (2, 3)]) fun s => { s with square := { s.square with ledger := [(0, { ledgerEntryReset with state := 1 })] } }), _, (cmdOf 0x0605 (fs [(2, 0), (2, 3)])), _, _, exec_ (by decide +kernel), rfl, rfl, by decide +kernel⟩

theorem wit_ControlInstructionsRun_1 : ∃ (s : State) (t : State) (c : Nat) (it : Item) (i : Ins), s.atOp c 0x00 t it i :=
  ⟨(atIns 0 0 0 0 (item) fun s => s), _, 0, item, _, atOp_ (by decide +kernel)⟩

theorem wit_ControlInstructionsRun_2 : ∃ (s : State) (t : State) (c : Nat) (it : Item) (i : Ins), s.atOp c 0x0C t it i :=
  ⟨(atIns 12 7 5 0 (item) fun s => s), _, 0, item, _, atOp_ (by decide +kernel)⟩

theorem wit_ControlInstructionsRun_3 : ∃ (s : State) (t : State) (c : Nat) (it : Item) (i : Ins), s.atOp c 0x0D t it i :=
  ⟨(atIns 13 0 0 128 (item) fun s => s), _, 0, item, _, atOp_ (by decide +kernel)⟩

theorem wit_ControlInstructionsRun_4 : ∃ (s : State) (t : State) (c : Nat) (it : Item) (i : Ins), s.atOp c 0x0F t it i :=
  ⟨(atIns 15 0 0 0x80 (item) fun s => s), _, 0, item, _, atOp_ (by decide +kernel)⟩

theorem wit_ControlInstructionsRun_5 : ∃ (s : State) (t : State) (c : Nat) (it : Item) (i : Ins), s.atOp c 0x0E t it i ∧ it.ops ≠ [] :=
  ⟨(atIns 14 0 0 trayBase ({ item with ops := [opOf .tile .ok] }) fun s => s), _, 0, { item with ops := [opOf .tile .ok] }, _, atOp_ (by decide +kernel), by decide +kernel⟩

theorem wit_ControlInstructionsRun_6 : ∃ (s : State) (t : State) (c : Nat) (p : Nat) (it : Item) (i : Ins), s.atOp c 0x0E t it i ∧ it.ops = [] ∧ regionSpan i.c 4 = .tray ∧ t.opAccess i.c 4 = .ok ∧ t.translate i.c = some p ∧ State.firstPoison (t.fetch (.core c) p 4) p 4 = none :=
  ⟨(atIns 14 0 0 trayBase (item) fun s => s), _, 0, trayBase, item, _, atOp_ (by decide +kernel), by decide +kernel⟩

theorem wit_ControlInstructionsRun_7 : ∃ (s : State) (t : State) (c : Nat) (it : Item) (i : Ins), s.atOp c 0x08 t it i :=
  ⟨(atIns 8 7 0 0 (item) fun s => s), _, 0, item, _, atOp_ (by decide +kernel)⟩

theorem wit_ControlInstructionsRun_8 : ∃ (s : State) (t : State) (c : Nat) (it : Item) (i : Ins), s.atOp c 0x0A t it i ∧ t.routerClosed = false :=
  ⟨(atIns 10 0 5 24575 (item) fun s => s), _, 0, item, _, atOp_ (by decide +kernel), by decide +kernel⟩

theorem wit_ControlInstructionsRun_9 : ∃ (s : State) (t : State) (c : Nat) (it : Item) (i : Ins), s.atOp c 0x09 t it i ∧ t.routerClosed = false ∧ it.restartable = false :=
  ⟨(atIns 9 0 5 24575 (item) fun s => s), _, 0, item, _, atOp_ (by decide +kernel), by decide +kernel⟩

theorem wit_ControlInstructionsRun_10 : ∃ (s : State) (t : State) (c : Nat) (it : Item) (i : Ins), s.atOp c 0x09 t it i ∧ t.routerClosed = false ∧ it.restartable = true :=
  ⟨(atIns 9 0 5 24575 ({ item with restartable := true }) fun s => s), _, 0, { item with restartable := true }, _, atOp_ (by decide +kernel), by decide +kernel⟩

theorem wit_ControlInstructionsRun_11 : ∃ (s : State) (t : State) (c : Nat) (it : Item) (i : Ins), s.atOp c 0x11 t it i :=
  ⟨(atIns 17 0 0 0 (item) fun s => s), _, 0, item, _, atOp_ (by decide +kernel)⟩

theorem wit_WaitsAndTrayInstructions_1 : ∃ (s : State) (c : Nat) (it : Item) (m : BitVec 3), c < 384 ∧ (s.core c).item = some it ∧ s.coreRuns c = true ∧ it.wait = .ops m ∧ it.waited m = true :=
  ⟨(onCore { item with wait := .ops 7 } up), 0, { item with wait := .ops 7 }, 7, by decide +kernel⟩

theorem wit_WaitsAndTrayInstructions_2 : ∃ (s : State) (c : Nat) (n : Nat) (it : Item), c < 384 ∧ (s.core c).item = some it ∧ s.coreRuns c = true ∧ it.wait = .bnz n ∧ it.ops = [] :=
  ⟨(onCore { item with wait := .bnz 64 } up), 0, 64, { item with wait := .bnz 64 }, by decide +kernel⟩

theorem wit_WaitsAndTrayInstructions_3 : ∃ (s : State) (c : Nat) (it : Item), c < 384 ∧ (s.core c).item = some it ∧ s.coreRuns c = true ∧ it.wait = .ending ∧ it.ops = [] :=
  ⟨(onCore { item with wait := .ending } up), 0, { item with wait := .ending }, by decide +kernel⟩

theorem wit_WaitsAndTrayInstructions_4 : ∃ (s : State) (c : Nat) (n : Nat) (it : Item) (v : BitVec 32), c < 384 ∧ (s.core c).item = some it ∧ s.coreRuns c = true ∧ it.wait = .counter n v ∧ v.toNat ≤ (s.counter n).toNat :=
  ⟨(onCore { item with wait := .counter 24575 0 } up), 0, 24575, { item with wait := .counter 24575 0 }, 0, by decide +kernel⟩

theorem wit_WaitsAndTrayInstructions_5 : ∃ (s : State) (t : State) (f : State) (c : Nat) (p : Nat) (it : Item) (i : Ins), s.atOp c 0x0B t it i ∧ f = t.fetch (.core c) p 64 ∧ t.translate i.c = some p ∧ t.opAccess i.c 64 = .ok ∧ f.firstPoison p 64 = none ∧ it.restartable = true :=
  ⟨(atIns 11 0 9 0x1000 ({ item with restartable := true }) fun s => s), _, _, 0, 0x1000, { item with restartable := true }, _, atOp_ (by decide +kernel), rfl, by decide +kernel⟩

theorem wit_WaitsAndTrayInstructions_6 : ∃ (s : State) (t : State) (f : State) (c : Nat) (p : Nat) (it : Item) (i : Ins), s.atOp c 0x0B t it i ∧ f = t.fetch (.core c) p 64 ∧ t.translate i.c = some p ∧ t.opAccess i.c 64 = .ok ∧ f.firstPoison p 64 = none ∧ it.restartable = false ∧ f.postStatus i.b 0 = .ok :=
  ⟨(atIns 0xB 0 9 0x1000 item fun s => { s with regs := tabSet 0 s.regs (Reg.wringCtrl 0 9).addr 0x8000003 }), _, _, 0, 0x1000, item, _, atOp_ (by decide +kernel), rfl, by decide +kernel⟩

theorem wit_WaitsAndTrayInstructions_7 : ∃ (s : State) (t : State) (c : Nat) (p : Nat) (it : Item) (i : Ins) (b : List Byte), s.atOp c 0x10 t it i ∧ t.paramBlock it = some b ∧ t.translate i.c = some p ∧ regionSpan i.c 256 = .tray ∧ t.opAccess i.c 256 = .ok :=
  ⟨(atIns 0x10 0 0 trayBase item fun s => { s with steps := { s.steps with params := [(4, zeros 256)] } }), _, 0, trayBase, item, _, zeros 256, atOp_ (by decide +kernel), by decide +kernel⟩

theorem wit_WaitsAndTrayInstructions_8 : ∃ (s : State) (t : State) (f : State) (c : Nat) (it : Item) (i : Ins) (pr : Program) (e : SlotEntry) (x : FusedSlot) (k : ClusterState), s.atOp c 0x06 t it i ∧ f = t.forgetLost (fun y => y == (it.logical, e.slot)) ∧ k = f.cluster (clusterOf c) ∧ ((tabFind k.slots e.slot = none ∧ x = { owners := [e.logical], function := e.function, rows := e.rows, chunks := [] }) ∨ (∃ y, tabFind k.slots e.slot = some y ∧ y.function = e.function ∧ y.rows = e.rows ∧ e.logical ∉ y.owners ∧ x = { y with owners := y.owners ++ [e.logical] })) ∧ t.itemProgram it = some pr ∧ pr.slots[i.a]? = some e ∧ e.logical = it.logical :=
  ⟨(atIns 6 0 0 0 item fun s => { s with programs := [(0, { program0 with slots := [⟨0, 3, 1, 4⟩] })] }), _, _, 0, item, _, { program0 with slots := [⟨0, 3, 1, 4⟩] }, ⟨0, 3, 1, 4⟩, ⟨[0], 1, 4, []⟩, _, atOp_ (by decide +kernel), rfl, rfl, .inl (by decide +kernel), by decide +kernel⟩

theorem wit_WaitsAndTrayInstructions_9 : ∃ (s : State) (t : State) (c : Nat) (p : Nat) (it : Item) (i : Ins) (b : List Byte) (x : FusedSlot) (k : ClusterState), s.atOp c 0x07 t it i ∧ k = t.cluster (clusterOf c) ∧ b = fusedBytes x.function x.stats ∧ tabFind k.slots i.a = some x ∧ t.translate i.c = some p ∧ regionSpan i.c b.length = .tray ∧ t.opAccess i.c b.length = .ok :=
  ⟨(atIns 7 3 0 trayBase item fun s => { s with clusters := [(0, { clusterReset with slots := [(3, ⟨[0], 1, 4, []⟩)] })] }), _, 0, trayBase, item, _, _, ⟨[0], 1, 4, []⟩, _, atOp_ (by decide +kernel), rfl, rfl, by decide +kernel⟩

theorem wit_WorkIsTakenAndIssued_1 : ∃ (s : State) (c : Nat) (it : Item) (rest : List Item), c < 384 ∧ s.takesWork c = true ∧ (s.core c).restarts = it :: rest :=
  ⟨{ up with hosts := [(0, 0)], cores := [(0, { coreReset with restarts := [item] })] }, 0, item, [], by decide +kernel⟩

theorem wit_WorkIsTakenAndIssued_2 : ∃ (s : State) (c : Nat) (r : Nat), c < 384 ∧ s.takesWork c = true ∧ (s.core c).restarts = [] ∧ s.arbitrate c = some r ∧ r ≠ checkQueue :=
  ⟨{ up with hosts := [(0, 0)], regs := tabSet 0 (tabSet 0 up.regs (Reg.wringCtrl 0 5).addr 0x10000003) (Reg.wringPtr 0 5).addr (1 <<< 32) }, 0, 5, by decide +kernel⟩

theorem wit_WorkIsTakenAndIssued_3 : ∃ (s : State) (t : State) (v : State) (c : Nat) (run : TileRun) (it : Item) (x : Item) (i : Ins) (errs : Sys2Proof.BitErrors) (wrong : List (Nat × Byte)), (s.hit errs).atOp c 0x01 t it i ∧ (it.run = some run ∨ it.run = none ∧ run = { base := i.c, count := if i.b = 0 then 65536 else i.b, next := 0, wrong := wrong }) ∧ (v, x) = State.fetchTiles c 9 t { it with run := some run } :=
  ⟨(atIns 1 0 1 0x1000 (item) fun s => s), _, _, 0, ⟨0x1000, 1, 0, []⟩, item, _, _, [], [], atOp_ (by decide +kernel), .inr (by decide +kernel), Prod.mk.eta⟩

theorem wit_WorkIsTakenAndIssued_4 : ∃ (s : State) (t : State) (v : State) (c : Nat) (it : Item) (x : Item) (i : Ins) (errs : Sys2Proof.BitErrors) (wrong : List (Nat × Byte)), (s.hit errs).atOp c 0x02 t it i ∧ (v, x) = t.issueRow c it i.c wrong :=
  ⟨(atIns 2 0 0 0x1000 (item) fun s => s), _, _, 0, item, _, _, [], [], atOp_ (by decide +kernel), Prod.mk.eta⟩

theorem wit_WorkIsTakenAndIssued_5 : ∃ (s : State) (t : State) (v : State) (w : State) (c : Nat) (it : Item) (x : Item) (i : Ins) (errs : Sys2Proof.BitErrors) (raw : List Byte), (s.hit errs).atOp c 0x03 t it i ∧ t.fetchBlock c it i.c 64 = (.ok, raw, v) ∧ v.copyOp c it (parseOp raw) = (w, some x) ∧ it.late = false :=
  ⟨(atIns 3 0 0 0x1000 (item) fun s => s), _, _, _, 0, item, _, _, [], _, atOp_ (by decide +kernel), fetched_ (by decide +kernel), some_ (by decide +kernel), by decide +kernel⟩

theorem wit_WorkIsTakenAndIssued_6 : ∃ (s : State) (t : State) (v : State) (w : State) (c : Nat) (it : Item) (x : Item) (i : Ins) (errs : Sys2Proof.BitErrors) (raw : List Byte), (s.hit errs).atOp c 0x04 t it i ∧ t.fetchBlock c it i.c 64 = (.ok, raw, v) ∧ v.listOp c it (parseOp raw) none = (w, some x) ∧ it.late = false :=
  ⟨(atIns 4 0 0 0x1000 (item) fun s => s), _, _, _, 0, item, _, _, [], _, atOp_ (by decide +kernel), fetched_ (by decide +kernel), some_ (by decide +kernel), by decide +kernel⟩

theorem wit_WorkIsTakenAndIssued_7 : ∃ (s : State) (t : State) (v : State) (w : State) (c : Nat) (it : Item) (x : Item) (i : Ins) (errs : Sys2Proof.BitErrors) (raw : List Byte), (s.hit errs).atOp c 0x05 t it i ∧ t.fetchBlock c it i.c 64 = (.ok, raw, v) ∧ v.listOp c it (parseOp raw) (some (i.a == 1)) = (w, some x) ∧ it.late = false ∧ (i.a ≠ 1 ∨ it.restartable = false) :=
  ⟨(atIns 5 0 0 0x1000 (item) fun s => s), _, _, _, 0, item, _, _, [], _, atOp_ (by decide +kernel), fetched_ (by decide +kernel), some_ (by decide +kernel), by decide +kernel⟩

theorem wit_WorkIsTakenAndIssued_8 : ∃ (s : State) (t : State) (v : State) (w : State) (c : Nat) (it : Item) (x : Item) (op : Op) (ops : List Op) (k : OpKind), (v, x) = State.closeOp (s.commit c op.writes op.poisoned) c { it with ops := ops } op op.status ∧ t = State.originalEnded v op.unit op.last op.status ∧ ((x.failed = none ∨ x.ops ≠ []) ∧ w = t.setItem c x ∨ (∃ f, x.failed = some f ∧ x.ops = [] ∧ w = t.endItem c x f.2)) ∧ k = .tile ∧ c < 384 ∧ (s.core c).item = some it ∧ takeOp k it.ops = some (op, ops) ∧ s.coreRuns c = true ∧ s.capturing op.unit = false :=
  ⟨(onCore { item with ops := [opOf .tile .ok] } up), _, _, _, 0, { item with ops := [opOf .tile .ok] }, _, opOf .tile .ok, [], .tile, Prod.mk.eta, rfl, .inl ⟨.inl (by decide +kernel), rfl⟩, rfl, by decide +kernel⟩

theorem wit_WorkIsTakenAndIssued_9 : ∃ (s : State) (t : State) (v : State) (w : State) (c : Nat) (it : Item) (x : Item) (op : Op) (ops : List Op) (k : OpKind), (v, x) = State.closeOp (s.commit c op.writes op.poisoned) c { it with ops := ops } op op.status ∧ t = State.originalEnded v op.unit op.last op.status ∧ ((x.failed = none ∨ x.ops ≠ []) ∧ w = t.setItem c x ∨ (∃ f, x.failed = some f ∧ x.ops = [] ∧ w = t.endItem c x f.2)) ∧ k = .row ∧ c < 384 ∧ (s.core c).item = some it ∧ takeOp k it.ops = some (op, ops) ∧ s.coreRuns c = true ∧ s.capturing op.unit = false :=
  ⟨(onCore { item with ops := [opOf .row .poison] } up), _, _, _, 0, { item with ops := [opOf .row .poison] }, _, opOf .row .poison, [], .row, Prod.mk.eta, rfl, .inr ⟨(0, .poison), by decide +kernel, by decide +kernel, rfl⟩, rfl, by decide +kernel⟩

theorem wit_WorkIsTakenAndIssued_10 : ∃ (s : State) (t : State) (v : State) (w : State) (c : Nat) (it : Item) (x : Item) (op : Op) (ops : List Op) (k : OpKind), (v, x) = State.closeOp (s.commit c op.writes op.poisoned) c { it with ops := ops } op op.status ∧ t = State.originalEnded v op.unit op.last op.status ∧ ((x.failed = none ∨ x.ops ≠ []) ∧ w = t.setItem c x ∨ (∃ f, x.failed = some f ∧ x.ops = [] ∧ w = t.endItem c x f.2)) ∧ k = .transfer ∧ c < 384 ∧ (s.core c).item = some it ∧ takeOp k it.ops = some (op, ops) ∧ s.coreRuns c = true ∧ s.capturing op.unit = false :=
  ⟨(onCore { item with ops := [opOf .transfer .ok] } up), _, _, _, 0, { item with ops := [opOf .transfer .ok] }, _, opOf .transfer .ok, [], .transfer, Prod.mk.eta, rfl, .inl ⟨.inl (by decide +kernel), rfl⟩, rfl, by decide +kernel⟩

theorem wit_CheckUnitsRun_1 : ∃ (k : UnitKind) (u : Nat), u < UnitKind.count k :=
  ⟨.core, 383, by decide +kernel⟩

theorem wit_CheckUnitsRun_2 : ∃ (s : State) (u : Nat) (x : CheckUnit), (x.checker.isSome = true ∨ (∃ y, (s.core x.original).acc = some y ∧ y.unit = some u)) ∧ s.unit u = some x ∧ x.capturing = true :=
  ⟨(withUnit { checkUnit with capturing := true } up), 2, { checkUnit with capturing := true }, .inl rfl, by decide +kernel⟩

theorem wit_CheckUnitsRun_3 : ∃ (s : State) (u : Nat) (x : CheckUnit), (∀ y, (s.core x.original).acc = some y → y.unit ≠ some u) ∧ s.unit u = some x ∧ x.capturing = true ∧ x.checker = none :=
  ⟨(withUnit { checkUnit with capturing := true, checker := none } up), 2, { checkUnit with capturing := true, checker := none }, (by intro y h; cases (show (none : Option Accumulation) = some y from h)), by decide +kernel⟩

theorem wit_CheckUnitsRun_4 : ∃ (s : State) (t : State) (u : Nat) (c : Nat) (errs : Sys2Proof.BitErrors), t = s.hit errs ∧ c < 384 ∧ t.takesWork c = true ∧ (t.core c).restarts = [] ∧ t.arbitrate c = some checkQueue ∧ t.headRun c = some (u, false) :=
  ⟨(withUnit checkUnit { up with cores := [(0, { coreReset with checks := [(2, false)] })] }), _, 2, 0, [], rfl, by decide +kernel⟩

theorem wit_CheckUnitsRun_5 : ∃ (s : State) (t : State) (u : Nat) (c : Nat) (errs : Sys2Proof.BitErrors), t = s.hit errs ∧ c < 384 ∧ t.takesWork c = true ∧ (t.core c).restarts = [] ∧ t.arbitrate c = some checkQueue ∧ t.headRun c = some (u, true) :=
  ⟨(withUnit checkUnit { up with cores := [(0, { coreReset with checks := [(2, true)] })] }), _, 2, 0, [], rfl, by decide +kernel⟩

theorem wit_CheckUnitsRun_6 : ∃ (s : State) (u : Nat) (x : CheckUnit) (a : Word) (b : Word), a = b ∧ s.unit u = some x ∧ x.fpOriginal = some a ∧ x.fpDuplicate = some b ∧ x.referee = none ∧ x.disagreedFt = 0 ∧ x.originalDone = true :=
  ⟨(withUnit { checkUnit with fpOriginal := some 7, fpDuplicate := some 7, originalDone := true } up), 2, { checkUnit with fpOriginal := some 7, fpDuplicate := some 7, originalDone := true }, 7, 7, rfl, by decide +kernel⟩

theorem wit_CheckUnitsRun_7 : ∃ (s : State) (u : Nat) (x : CheckUnit) (a : Word) (b : Word), s.unit u = some x ∧ x.fpOriginal = some a ∧ x.fpDuplicate = some b ∧ x.referee = none ∧ x.disagreedFt = 0 ∧ x.originalDone = true ∧ a ≠ b :=
  ⟨(withUnit { checkUnit with fpOriginal := some 7, fpDuplicate := some 8, originalDone := true } up), 2, { checkUnit with fpOriginal := some 7, fpDuplicate := some 8, originalDone := true }, 7, 8, by decide +kernel⟩

theorem wit_CellsReachTheirUnits_1 : ∃ (s : State) (v : State) (f : State) (n : Nat) (bs : List Byte) (c : Cell) (row : Nat → List Byte → Sys2Proof.Instr) (typ : Nat), v = s.count (1137 + 3 * n) 64 ∧ c = parseCell bs ∧ (typ = 0 ∧ row = .openCell ∨ typ = 1 ∧ row = .dataCell ∨ typ = 2 ∧ row = .ackCell ∨ typ = 3 ∧ row = .verdictCell ∨ typ = 4 ∧ row = .sealCell ∨ typ = 5 ∧ row = .recallCell ∨ typ = 6 ∧ row = .timeCell ∨ typ = 7 ∧ row = .linkDarkCell ∨ typ = 8 ∧ row = .creditCell) ∧ f = v.checkCell bs ∧ n < 16 ∧ bs.length = 64 ∧ ((s.port n).state = .discovered ∨ (s.port n).state = .admitted) ∧ cellCrcOk bs = true ∧ typeAllowed c.typ c.vc = true ∧ c.typ = typ ∧ (s.port n).state = .admitted ∧ f.routerClosed = false ∧ typ ≤ 5 ∧ c.ptag = f.fabric.partition.tag ∧ f.fabric.partition.tag ≠ 0 ∧ f.fabric.partition.tag < 0xFFF ∧ c.dest = f.chip ∧ c.spoilt = false :=
  ⟨(withPort 2 port up), _, _, 2, (cellOf 1 0 1 0).bytes, _, .dataCell, 1, rfl, rfl, .inr (.inl ⟨rfl, rfl⟩), rfl, by decide +kernel⟩

theorem wit_CellsReachTheirUnits_2 : ∃ (s : State) (v : State) (f : State) (n : Nat) (bs : List Byte) (c : Cell) (row : Nat → List Byte → Sys2Proof.Instr) (typ : Nat), v = s.count (1137 + 3 * n) 64 ∧ c = parseCell bs ∧ (typ = 0 ∧ row = .openCell ∨ typ = 1 ∧ row = .dataCell ∨ typ = 2 ∧ row = .ackCell ∨ typ = 3 ∧ row = .verdictCell ∨ typ = 4 ∧ row = .sealCell ∨ typ = 5 ∧ row = .recallCell ∨ typ = 6 ∧ row = .timeCell ∨ typ = 7 ∧ row = .linkDarkCell ∨ typ = 8 ∧ row = .creditCell) ∧ f = v.checkCell bs ∧ n < 16 ∧ bs.length = 64 ∧ ((s.port n).state = .discovered ∨ (s.port n).state = .admitted) ∧ cellCrcOk bs = true ∧ typeAllowed c.typ c.vc = true ∧ c.typ = typ ∧ (s.port n).state = .admitted ∧ f.routerClosed = false ∧ typ ≤ 5 ∧ c.ptag = f.fabric.partition.tag ∧ f.fabric.partition.tag ≠ 0 ∧ f.fabric.partition.tag < 0xFFF ∧ c.dest = f.chip ∧ c.spoilt = true :=
  ⟨(withPort 2 port up), _, _, 2, { cellOf 3 3 1 0 with poison := [0] }.bytes, _, .verdictCell, 3, rfl, rfl, .inr (.inr (.inr (.inl ⟨rfl, rfl⟩))), rfl, by decide +kernel⟩

theorem wit_CellsReachTheirUnits_3 : ∃ (s : State) (v : State) (f : State) (n : Nat) (bs : List Byte) (c : Cell) (row : Nat → List Byte → Sys2Proof.Instr) (typ : Nat), v = s.count (1137 + 3 * n) 64 ∧ c = parseCell bs ∧ (typ = 0 ∧ row = .openCell ∨ typ = 1 ∧ row = .dataCell ∨ typ = 2 ∧ row = .ackCell ∨ typ = 3 ∧ row = .verdictCell ∨ typ = 4 ∧ row = .sealCell ∨ typ = 5 ∧ row = .recallCell ∨ typ = 6 ∧ row = .timeCell ∨ typ = 7 ∧ row = .linkDarkCell ∨ typ = 8 ∧ row = .creditCell) ∧ f = v.checkCell bs ∧ n < 16 ∧ bs.length = 64 ∧ ((s.port n).state = .discovered ∨ (s.port n).state = .admitted) ∧ cellCrcOk bs = true ∧ typeAllowed c.typ c.vc = true ∧ c.typ = typ ∧ (s.port n).state = .admitted ∧ f.routerClosed = false ∧ typ ≤ 5 ∧ c.ptag = f.fabric.partition.tag ∧ f.fabric.partition.tag ≠ 0 ∧ f.fabric.partition.tag < 0xFFF ∧ c.dest ≠ f.chip :=
  ⟨(withPort 2 port up), _, _, 2, (cellOf 3 3 1 1).bytes, _, .verdictCell, 3, rfl, rfl, .inr (.inr (.inr (.inl ⟨rfl, rfl⟩))), rfl, by decide +kernel⟩

theorem wit_CellsReachTheirUnits_4 : ∃ (s : State) (v : State) (f : State) (n : Nat) (bs : List Byte) (c : Cell) (row : Nat → List Byte → Sys2Proof.Instr) (typ : Nat), v = s.count (1137 + 3 * n) 64 ∧ c = parseCell bs ∧ (typ = 0 ∧ row = .openCell ∨ typ = 1 ∧ row = .dataCell ∨ typ = 2 ∧ row = .ackCell ∨ typ = 3 ∧ row = .verdictCell ∨ typ = 4 ∧ row = .sealCell ∨ typ = 5 ∧ row = .recallCell ∨ typ = 6 ∧ row = .timeCell ∨ typ = 7 ∧ row = .linkDarkCell ∨ typ = 8 ∧ row = .creditCell) ∧ f = v.checkCell bs ∧ n < 16 ∧ bs.length = 64 ∧ ((s.port n).state = .discovered ∨ (s.port n).state = .admitted) ∧ cellCrcOk bs = true ∧ typeAllowed c.typ c.vc = true ∧ c.typ = typ ∧ (s.port n).state = .admitted ∧ f.routerClosed = false ∧ typ ≤ 5 ∧ c.ptag ≠ f.fabric.partition.tag :=
  ⟨(withPort 2 port up), _, _, 2, (cellOf 0 0 2 0).bytes, _, .openCell, 0, rfl, rfl, .inl ⟨rfl, rfl⟩, rfl, by decide +kernel⟩

theorem wit_CellsReachTheirUnits_5 : ∃ (s : State) (n : Nat) (bs : List Byte) (c : Cell) (row : Nat → List Byte → Sys2Proof.Instr) (typ : Nat), c = parseCell bs ∧ (typ = 0 ∧ row = .openCell ∨ typ = 1 ∧ row = .dataCell ∨ typ = 2 ∧ row = .ackCell ∨ typ = 3 ∧ row = .verdictCell ∨ typ = 4 ∧ row = .sealCell ∨ typ = 5 ∧ row = .recallCell ∨ typ = 6 ∧ row = .timeCell ∨ typ = 7 ∧ row = .linkDarkCell ∨ typ = 8 ∧ row = .creditCell) ∧ n < 16 ∧ bs.length = 64 ∧ ((s.port n).state = .discovered ∨ (s.port n).state = .admitted) ∧ cellCrcOk bs = true ∧ typeAllowed c.typ c.vc = true ∧ c.typ = typ ∧ 6 ≤ typ ∧ c.spoilt = true :=
  ⟨(withPort 2 port up), 2, { cellOf 8 6 0 0 with poison := [0] }.bytes, _, .creditCell, 8, rfl, .inr (.inr (.inr (.inr (.inr (.inr (.inr (.inr (⟨rfl, rfl⟩)))))))), by decide +kernel⟩

theorem wit_CellsReachTheirUnits_6 : ∃ (s : State) (n : Nat) (bs : List Byte) (c : Cell) (row : Nat → List Byte → Sys2Proof.Instr) (typ : Nat), c = parseCell bs ∧ (typ = 0 ∧ row = .openCell ∨ typ = 1 ∧ row = .dataCell ∨ typ = 2 ∧ row = .ackCell ∨ typ = 3 ∧ row = .verdictCell ∨ typ = 4 ∧ row = .sealCell ∨ typ = 5 ∧ row = .recallCell ∨ typ = 6 ∧ row = .timeCell ∨ typ = 7 ∧ row = .linkDarkCell ∨ typ = 8 ∧ row = .creditCell) ∧ typ = 6 ∧ n < 16 ∧ bs.length = 64 ∧ ((s.port n).state = .discovered ∨ (s.port n).state = .admitted) ∧ cellCrcOk bs = true ∧ typeAllowed c.typ c.vc = true ∧ c.typ = typ ∧ c.spoilt = false :=
  ⟨(withPort 2 port up), 2, (cellOf 6 3 0 0).bytes, _, .timeCell, 6, rfl, .inr (.inr (.inr (.inr (.inr (.inr (.inl ⟨rfl, rfl⟩)))))), rfl, by decide +kernel⟩

theorem wit_CellsReachTheirUnits_7 : ∃ (s : State) (n : Nat) (bs : List Byte) (c : Cell) (row : Nat → List Byte → Sys2Proof.Instr) (typ : Nat), c = parseCell bs ∧ (typ = 0 ∧ row = .openCell ∨ typ = 1 ∧ row = .dataCell ∨ typ = 2 ∧ row = .ackCell ∨ typ = 3 ∧ row = .verdictCell ∨ typ = 4 ∧ row = .sealCell ∨ typ = 5 ∧ row = .recallCell ∨ typ = 6 ∧ row = .timeCell ∨ typ = 7 ∧ row = .linkDarkCell ∨ typ = 8 ∧ row = .creditCell) ∧ typ = 7 ∧ n < 16 ∧ bs.length = 64 ∧ ((s.port n).state = .discovered ∨ (s.port n).state = .admitted) ∧ cellCrcOk bs = true ∧ typeAllowed c.typ c.vc = true ∧ c.typ = typ ∧ c.spoilt = false :=
  ⟨(withPort 2 port up), 2, (cellOf 7 6 0 0).bytes, _, .linkDarkCell, 7, rfl, .inr (.inr (.inr (.inr (.inr (.inr (.inr (.inl ⟨rfl, rfl⟩))))))), rfl, by decide +kernel⟩

theorem wit_CellsReachTheirUnits_8 : ∃ (s : State) (n : Nat) (bs : List Byte) (c : Cell) (row : Nat → List Byte → Sys2Proof.Instr) (typ : Nat), c = parseCell bs ∧ (typ = 0 ∧ row = .openCell ∨ typ = 1 ∧ row = .dataCell ∨ typ = 2 ∧ row = .ackCell ∨ typ = 3 ∧ row = .verdictCell ∨ typ = 4 ∧ row = .sealCell ∨ typ = 5 ∧ row = .recallCell ∨ typ = 6 ∧ row = .timeCell ∨ typ = 7 ∧ row = .linkDarkCell ∨ typ = 8 ∧ row = .creditCell) ∧ typ = 8 ∧ n < 16 ∧ bs.length = 64 ∧ ((s.port n).state = .discovered ∨ (s.port n).state = .admitted) ∧ cellCrcOk bs = true ∧ typeAllowed c.typ c.vc = true ∧ c.typ = typ ∧ c.spoilt = false :=
  ⟨(withPort 2 port up), 2, (cellOf 8 6 0 0).bytes, _, .creditCell, 8, rfl, .inr (.inr (.inr (.inr (.inr (.inr (.inr (.inr (⟨rfl, rfl⟩)))))))), rfl, by decide +kernel⟩

theorem wit_CellsReachTheirUnits_9 : ∃ (s : State) (n : Nat) (bs : List Byte) (row : Nat → List Byte → Sys2Proof.Instr) (typ : Nat), (typ = 0 ∧ row = .openCell ∨ typ = 1 ∧ row = .dataCell ∨ typ = 2 ∧ row = .ackCell ∨ typ = 3 ∧ row = .verdictCell ∨ typ = 4 ∧ row = .sealCell ∨ typ = 5 ∧ row = .recallCell ∨ typ = 6 ∧ row = .timeCell ∨ typ = 7 ∧ row = .linkDarkCell ∨ typ = 8 ∧ row = .creditCell) ∧ n < 16 ∧ bs.length = 64 ∧ ((s.port n).state = .discovered ∨ (s.port n).state = .admitted) ∧ cellCrcOk bs = false :=
  ⟨(withPort 2 port up), 2, zeros 64, .creditCell, 8, .inr (.inr (.inr (.inr (.inr (.inr (.inr (.inr (⟨rfl, rfl⟩)))))))), by decide +kernel⟩

theorem wit_RouterTimersRun_1 : ∃ (s : State) (n : Nat) (p : TensorPort), p = s.port n ∧ n < 16 ∧ p.state ≠ .down ∧ p.state ≠ .dark :=
  ⟨(withPort 2 port up), 2, _, rfl, by decide +kernel⟩

theorem wit_RouterTimersRun_2 : ∃ (s : State) (n : Nat) (corrected : List Nat) (p : TensorPort), p = s.port n ∧ n < 16 ∧ p.state ≠ .down ∧ p.state ≠ .dark ∧ corrected.sum ≤ 4 ∧ corrected.sum ≠ 0 ∧ (∀ i < 5, nth 0 (p.word1 corrected).laneSymbols i ≤ 64) :=
  ⟨(withPort 2 port up), 2, [4], _, rfl, by decide +kernel⟩

theorem wit_RouterTimersRun_3 : ∃ (s : State) (n : Nat) (corrected : List Nat) (p : TensorPort), p = s.port n ∧ n < 16 ∧ p.state ≠ .down ∧ p.state ≠ .dark ∧ p.state ≠ .training ∧ corrected.sum ≤ 4 :=
  ⟨(withPort 2 port up), 2, [], _, rfl, by decide +kernel⟩

theorem wit_RouterTimersRun_4 : ∃ (s : State) (z : State) (k : Nat) (vc : Nat) (o : Nat) (q : QueuedCell) (x : Cell) (detour : Bool) (hop : Nat), z = s.takeOut k q ∧ x = { parseCell q.origin with vc := 4, dateline := false } ∧ k < 41 ∧ vc ≤ 3 ∧ s.routerClosed = false ∧ s.oldHead k vc 32 = some q ∧ z.route x q.ingress true = .out o detour hop ∧ z.hasCredit o (z.leaving x q.ingress o detour hop).vc = true :=
  ⟨{ withPort 0 { port with egress := [⟨(cellOf 0 0 1 1).bytes, (cellOf 0 0 1 1).bytes, none, 0, false, 0, some 0⟩] } up with now := 32 }, _, 0, 0, 0, ⟨(cellOf 0 0 1 1).bytes, (cellOf 0 0 1 1).bytes, none, 0, false, 0, some 0⟩, _, false, 1, rfl, rfl, by decide +kernel⟩

theorem wit_RouterTimersRun_5 : ∃ (s : State) (k : Nat) (vc : Nat) (q : QueuedCell), k < 41 ∧ s.oldHead k vc (ticksUs (s.rf .netRouteCtrl 0 10)) = some q :=
  ⟨{ withPort 0 { port with egress := [⟨(cellOf 0 0 1 1).bytes, (cellOf 0 0 1 1).bytes, none, 0, false, 0, some 0⟩] } up with now := ticksUs 5 }, 0, 0, ⟨(cellOf 0 0 1 1).bytes, (cellOf 0 0 1 1).bytes, none, 0, false, 0, some 0⟩, by decide +kernel⟩

theorem wit_RouterTimersRun_6 : ∃ (s : State) (n : Nat) (p : TensorPort), p = s.port n ∧ n < 16 ∧ (p.state = .admitted ∨ p.state = .discovered) ∧ p.owed.all (· == 0) = false :=
  ⟨(withPort 2 { port with owed := [0, 3, 0, 0, 0, 0] } up), 2, _, rfl, by decide +kernel⟩

theorem wit_StreamsTimeOutAndStart_1 : ∃ (s : State) (n : Nat) (t : StreamTx), n < 16384 ∧ (s.context n).tx = some t ∧ s.routerClosed = false ∧ t.progressAt + s.streamTimeout ≤ s.now :=
  ⟨{ up with now := ticksS 1, regs := tabSet 0 up.regs Reg.netStreamCtrl.addr 0x30003, fabric := { up.fabric with contexts := [(16383, ⟨some { destChip := 1, address := 0, source := 0, length := 100, step := 4, attempt := 0, acked := 0, sent := 2, retries := 0, progressAt := 0, queue := none, cring := 0, rxCring := 0, tag := 0, transfer := false, digest := false, coll := none, twinCopy := false, issue := 0, via := none, content := none }, none⟩)] } }, 16383, { destChip := 1, address := 0, source := 0, length := 100, step := 4, attempt := 0, acked := 0, sent := 2, retries := 0, progressAt := 0, queue := none, cring := 0, rxCring := 0, tag := 0, transfer := false, digest := false, coll := none, twinCopy := false, issue := 0, via := none, content := none }, by decide +kernel⟩

theorem wit_StreamsTimeOutAndStart_2 : ∃ (s : State) (n : Nat) (r : StreamRx), n < 16384 ∧ (s.context n).rx = some r ∧ r.receiving = true ∧ s.routerClosed = false ∧ r.lastAt + s.streamTimeout * (s.streamRetries + 1) ≤ s.now ∧ s.transferContext n = true :=
  ⟨{ { up with twin := { up.twin with transfer := some ⟨false, 1, 0, 0, 0, 1, 16382, 9, false, []⟩ } } with now := ticksS 1, regs := tabSet 0 up.regs Reg.netStreamCtrl.addr 0x30003, fabric := { up.fabric with contexts := [(16383, ⟨none, some { completed := false, sender := 1, address := 0, length := 100, step := 4, attempt := 0, count := 0, beyond := [], cring := 0, poison := false, lastAt := 0, ring := false, taken := false, ackDue := false }⟩)] } }, 16383, { completed := false, sender := 1, address := 0, length := 100, step := 4, attempt := 0, count := 0, beyond := [], cring := 0, poison := false, lastAt := 0, ring := false, taken := false, ackDue := false }, by decide +kernel⟩

theorem wit_StreamsTimeOutAndStart_3 : ∃ (s : State) (n : Nat) (r : StreamRx), n < 16384 ∧ (s.context n).rx = some r ∧ r.receiving = true ∧ s.routerClosed = false ∧ r.lastAt + s.streamTimeout * (s.streamRetries + 1) ≤ s.now ∧ s.transferContext n = false ∧ s.digestContext n = true :=
  ⟨{ { up with now := ticksS 1, regs := tabSet 0 up.regs Reg.netStreamCtrl.addr 0x30003, fabric := { up.fabric with contexts := [(16383, ⟨none, some { completed := false, sender := 1, address := 0, length := 100, step := 4, attempt := 0, count := 0, beyond := [], cring := 0, poison := false, lastAt := 0, ring := false, taken := false, ackDue := false }⟩)] } } with regs := tabSet 0 (tabSet 0 up.regs Reg.netStreamCtrl.addr 0x30003) Reg.sqDigestCtrl.addr 5 }, 16383, { completed := false, sender := 1, address := 0, length := 100, step := 4, attempt := 0, count := 0, beyond := [], cring := 0, poison := false, lastAt := 0, ring := false, taken := false, ackDue := false }, by decide +kernel⟩

theorem wit_StreamsTimeOutAndStart_4 : ∃ (s : State) (v : State) (w : State) (n : Nat) (r : StreamRx), v = State.setRx (s.rxRecord n r .timeout) n none ∧ w = State.twinStreamFailed (v.streamVerdict r.step .timeout) r .timeout ∧ n < 16384 ∧ (s.context n).rx = some r ∧ r.receiving = true ∧ s.routerClosed = false ∧ r.lastAt + s.streamTimeout * (s.streamRetries + 1) ≤ s.now ∧ s.transferContext n = false ∧ s.digestContext n = false ∧ w.collOf n = none :=
  ⟨{ up with now := ticksS 1, regs := tabSet 0 up.regs Reg.netStreamCtrl.addr 0x30003, fabric := { up.fabric with contexts := [(16367, ⟨none, some { completed := false, sender := 1, address := 0, length := 100, step := 4, attempt := 0, count := 0, beyond := [], cring := 0, poison := false, lastAt := 0, ring := false, taken := false, ackDue := false }⟩)] } }, _, _, 16367, { completed := false, sender := 1, address := 0, length := 100, step := 4, attempt := 0, count := 0, beyond := [], cring := 0, poison := false, lastAt := 0, ring := false, taken := false, ackDue := false }, rfl, rfl, by decide +kernel⟩

theorem wit_StreamsTimeOutAndStart_5 : ∃ (s : State) (v : State) (w : State) (n : Nat) (base : Nat) (k : Collective) (r : StreamRx), v = State.setRx (s.rxRecord n r .timeout) n none ∧ w = State.twinStreamFailed (v.streamVerdict r.step .timeout) r .timeout ∧ w.coll base = some k ∧ n < 16384 ∧ (s.context n).rx = some r ∧ r.receiving = true ∧ s.routerClosed = false ∧ r.lastAt + s.streamTimeout * (s.streamRetries + 1) ≤ s.now ∧ s.transferContext n = false ∧ s.digestContext n = false ∧ w.collOf n = some base :=
  ⟨{ up with now := ticksS 1, regs := tabSet 0 up.regs Reg.netStreamCtrl.addr 0x30003, fabric := { up.fabric with collectives := [(4, ⟨0, le 1 2 ++ zeros 4 ++ le 1 1 ++ zeros 58, 4, 0, false, [], [], [], 0, none, false, false⟩)], contexts := [(7, ⟨none, some { completed := false, sender := 1, address := 0, length := 100, step := 4, attempt := 0, count := 0, beyond := [], cring := 0, poison := false, lastAt := 0, ring := false, taken := false, ackDue := false }⟩)] } }, _, _, 7, 4, _, { completed := false, sender := 1, address := 0, length := 100, step := 4, attempt := 0, count := 0, beyond := [], cring := 0, poison := false, lastAt := 0, ring := false, taken := false, ackDue := false }, rfl, rfl, rfl, by decide +kernel⟩

theorem wit_StreamsTimeOutAndStart_6 : ∃ (s : State) (d : Nat) (b : Nat × List QueuedCell × Nat), d < 8 ∧ s.fabric.bridges.find? (·.1 == d) = some b ∧ b.2.2 + 250 ≤ s.now :=
  ⟨{ up with now := 250, fabric := { up.fabric with bridges := [(7, [⟨zeros 64, zeros 64, none, 0, false, 0, none⟩], 0)] } }, 7, (7, [⟨zeros 64, zeros 64, none, 0, false, 0, none⟩], 0), by decide +kernel⟩

theorem wit_StreamsTimeOutAndStart_7 : ∃ (s : State) (q : Nat), q < 16 ∧ s.power.rails = .on ∧ s.routerClosed = false ∧ s.sqOpen q = true ∧ s.sqCount q ≠ 0 ∧ s.queueHeld q = false ∧ State.firstPoison (s.checkRange (s.sqEntry q 0) 64) (s.sqEntry q 0) 64 = none :=
  ⟨{ up with regs := tabSet 0 (tabSet 0 up.regs (Reg.netSqCtrl 15).addr 0x23) (Reg.netSqPtr 15).addr (1 <<< 32) }, 15, by decide +kernel⟩

theorem wit_PortsComeUpAndFall_1 : ∃ (s : State) (n : Nat) (lanes : Nat) (p : TensorPort), p = s.port n ∧ n < 16 ∧ (p.state = .down ∨ p.state = .dark) ∧ 4 ≤ lanes :=
  ⟨(withPort 15 (tensorPortReset) (up)), 15, 4, _, rfl, by decide +kernel⟩

theorem wit_PortsComeUpAndFall_2 : ∃ (s : State) (n : Nat) (p : TensorPort), p = s.port n ∧ n < 16 ∧ p.state = .down ∧ p.signal = true ∧ s.routerClosed = false ∧ s.power.rails = .on ∧ s.power.dark = false :=
  ⟨(withPort 15 ({ port with state := .down }) (up)), 15, _, rfl, by decide +kernel⟩

theorem wit_PortsComeUpAndFall_3 : ∃ (s : State) (n : Nat) (p : TensorPort), p = s.port n ∧ n < 16 ∧ p.state = .training ∧ p.trainingSince + ticksMs 20 ≤ s.now :=
  ⟨(withPort 15 ({ port with state := .training }) ({ up with now := ticksMs 20 })), 15, _, rfl, by decide +kernel⟩

theorem wit_PortsComeUpAndFall_4 : ∃ (s : State) (n : Nat) (p : TensorPort) (tx : BitVec 5) (rx : BitVec 5), p = s.port n ∧ n < 16 ∧ p.state = .training ∧ ((usableLanes tx).length < 3 ∨ (usableLanes rx).length < 3) :=
  ⟨(withPort 15 ({ port with state := .training }) (up)), 15, _, 3, 0x1F, rfl, by decide +kernel⟩

theorem wit_PortsComeUpAndFall_5 : ∃ (s : State) (n : Nat) (p : TensorPort) (tx : BitVec 5) (rx : BitVec 5), p = s.port n ∧ n < 16 ∧ p.state = .training ∧ 3 ≤ (usableLanes tx).length ∧ 3 ≤ (usableLanes rx).length :=
  ⟨(withPort 15 ({ port with state := .training }) (up)), 15, _, 7, 0x1D, rfl, by decide +kernel⟩

theorem wit_PortsComeUpAndFall_6 : ∃ (s : State) (v : State) (n : Nat) (p : TensorPort) (q : TensorPort) (w : Word) (slot : List (List Byte)), p = s.port n ∧ v = s.setPort n { p with rxWords := 0, laneSymbols := [0, 0, 0, 0, 0] } ∧ q = v.port n ∧ n < 16 ∧ slotWord slot = some w ∧ (q.state = .discovered ∨ q.state = .admitted) :=
  ⟨(withPort 15 (port) (up)), _, 15, _, _, 0, [markerBlock 0 0 0 0 0 0 0], rfl, rfl, rfl, by decide +kernel⟩

theorem wit_PortsComeUpAndFall_7 : ∃ (n : Nat) (slot : List (List Byte)), n < 16 ∧ validBlocks slot = [] :=
  ⟨15, [], by decide +kernel⟩

theorem wit_PortsComeUpAndFall_8 : ∃ (s : State) (n : Nat) (p : TensorPort), p = s.port n ∧ n < 16 ∧ p.state ≠ .down ∧ p.state ≠ .dark :=
  ⟨(withPort 15 (port) (up)), 15, _, rfl, by decide +kernel⟩

theorem wit_LanesRotate_1 : ∃ (s : State) (n : Nat) (p : TensorPort), p = s.port n ∧ n < 16 ∧ s.ft.toNat % ticksMs (max 10 (s.rf (.portJig n) 0 16)) = ticksMs (s.rf (.portJig n) 16 16 % max 10 (s.rf (.portJig n) 0 16)) ∧ p.state = .admitted ∧ p.threeLane = false ∧ p.txShim ≠ 7 ∧ s.rbit (.portJig n) 32 = true ∧ p.txRot = none :=
  ⟨{ withPort 15 port up with ft := word (ticksMs 3), regs := [((Reg.portJig 15).addr, word (2 ^ 32 + 3 * 2 ^ 16 + 10))] }, 15, _, rfl, by decide +kernel⟩

theorem wit_LanesRotate_2 : ∃ (s : State) (n : Nat) (p : TensorPort), p = s.port n ∧ n < 16 ∧ s.ft.toNat % ticksMs (max 10 (s.rf (.portJig n) 0 16)) = ticksMs (s.rf (.portJig n) 16 16 % max 10 (s.rf (.portJig n) 0 16)) ∧ (p.state ≠ .admitted ∨ p.threeLane = true ∨ p.txShim = 7 ∨ s.rbit (.portJig n) 32 = false ∨ p.txRot.isSome = true) :=
  ⟨{ withPort 15 { port with txShim := 7 } up with ft := word (ticksMs 3), regs := [((Reg.portJig 15).addr, word (2 ^ 32 + 3 * 2 ^ 16 + 10))] }, 15, _, rfl, by decide +kernel⟩

theorem wit_LanesRotate_3 : ∃ (s : State) (t : State) (n : Nat) (lane : Nat) (p : TensorPort) (slot : List (List Byte)), t = s.gotMarker n 1 lane ∧ p = t.port n ∧ n < 16 ∧ slotCode slot = some (1, lane) ∧ s.markersRun n = true ∧ lane < 4 ∧ p.rxShim ≠ 7 ∧ p.rxMirror ≠ some lane ∧ p.rxAnswer ≠ some (2, lane) ∧ p.rxAnswer ≠ some (3, lane) ∧ p.rxLaneFail.contains (nth 7 p.rxData lane) = false :=
  ⟨(withPort 15 (port) (up)), _, 15, 3, _, [markerBlock 0 0 0 1 3 0 0], rfl, rfl, by decide +kernel⟩

theorem wit_LanesRotate_4 : ∃ (s : State) (n : Nat) (lane : Nat) (p : TensorPort), p = s.port n ∧ n < 16 ∧ s.markersRun n = true ∧ p.rxMirror = some lane ∧ p.rxShim ≠ 7 :=
  ⟨(withPort 15 ({ port with rxMirror := some 3 }) (up)), 15, 3, _, rfl, by decide +kernel⟩

theorem wit_LanesRotate_5 : ∃ (s : State) (t : State) (n : Nat) (lane : Nat) (x : Nat) (p : TensorPort) (slot : List (List Byte)), t = s.gotMarker n 2 lane ∧ p = t.port n ∧ n < 16 ∧ slotCode slot = some (2, lane) ∧ s.markersRun n = true ∧ p.txRot = some (lane, x, .mirrorSent, false) ∧ p.txShim ≠ 7 :=
  ⟨(withPort 15 ({ port with txRot := some (1, 4, .mirrorSent, false) }) (up)), _, 15, 1, 4, _, [markerBlock 0 0 0 2 1 0 0], rfl, rfl, by decide +kernel⟩

theorem wit_LanesRotate_6 : ∃ (s : State) (t : State) (n : Nat) (lane : Nat) (x : Nat) (p : TensorPort) (slot : List (List Byte)), t = s.gotMarker n 3 lane ∧ p = t.port n ∧ n < 16 ∧ slotCode slot = some (3, lane) ∧ s.markersRun n = true ∧ p.txRot = some (lane, x, .mirrorSent, false) ∧ p.txShim ≠ 7 :=
  ⟨(withPort 15 ({ port with txRot := some (1, 4, .mirrorSent, false) }) (up)), _, 15, 1, 4, _, [markerBlock 0 0 0 3 1 0 0], rfl, rfl, by decide +kernel⟩

theorem wit_LanesRotate_7 : ∃ (s : State) (n : Nat) (lane : Nat) (x : Nat) (p : TensorPort), p = s.port n ∧ n < 16 ∧ p.txRot = some (lane, x, .mirrorSent, false) ∧ p.mirrorAt + 4 * 4097 * 2 ≤ s.now :=
  ⟨(withPort 15 ({ port with txRot := some (1, 4, .mirrorSent, false) }) ({ up with now := 4 * 4097 * 2 })), 15, 1, 4, _, rfl, by decide +kernel⟩

theorem wit_LanesRotate_8 : ∃ (s : State) (t : State) (n : Nat) (x : Nat) (p : TensorPort) (slot : List (List Byte)), t = s.gotMarker n 4 x ∧ p = t.port n ∧ n < 16 ∧ slotCode slot = some (4, x) ∧ s.markersRun n = true ∧ x < 5 ∧ p.rxTraining ≠ some x ∧ p.rxAnswer ≠ some (5, x) ∧ p.rxAnswer ≠ some (6, x) ∧ p.rxFailed.getLsbD x = false :=
  ⟨(withPort 15 (port) (up)), _, 15, 4, _, [markerBlock 0 0 0 4 4 0 0], rfl, rfl, by decide +kernel⟩

theorem wit_LanesRotate_9 : ∃ (s : State) (n : Nat) (x : Nat) (p : TensorPort), p = s.port n ∧ n < 16 ∧ s.markersRun n = true ∧ p.rxTraining = some x :=
  ⟨(withPort 15 ({ port with rxTraining := some 4 }) (up)), 15, 4, _, rfl, by decide +kernel⟩

theorem wit_LanesRotate_10 : ∃ (s : State) (t : State) (n : Nat) (lane : Nat) (x : Nat) (p : TensorPort) (slot : List (List Byte)), t = s.gotMarker n 5 x ∧ p = t.port n ∧ n < 16 ∧ slotCode slot = some (5, x) ∧ s.markersRun n = true ∧ p.txRot = some (lane, x, .trainSent, false) ∧ p.txData.contains 7 = false ∧ p.txData.length = 4 :=
  ⟨(withPort 15 ({ port with txRot := some (1, 4, .trainSent, false) }) (up)), _, 15, 1, 4, _, [markerBlock 0 0 0 5 4 0 0], rfl, rfl, by decide +kernel⟩

theorem wit_LanesRotate_11 : ∃ (s : State) (t : State) (n : Nat) (lane : Nat) (x : Nat) (p : TensorPort) (slot : List (List Byte)), t = s.gotMarker n 6 x ∧ p = t.port n ∧ n < 16 ∧ slotCode slot = some (6, x) ∧ s.markersRun n = true ∧ p.txRot = some (lane, x, .trainSent, false) :=
  ⟨(withPort 15 ({ port with txRot := some (1, 4, .trainSent, false) }) (up)), _, 15, 1, 4, _, [markerBlock 0 0 0 6 4 0 0], rfl, rfl, by decide +kernel⟩

theorem wit_LanesRotate_12 : ∃ (n : Nat) (slot : List (List Byte)) (c : Instr), n < 16 ∧ slotCode slot = none ∧ c ∈ [Instr.mirrorLane n slot, .steerAck n slot, .steerNak n slot, .trainLane n slot, .trainPass n slot, .trainFail n slot] :=
  ⟨15, [], .trainFail 15 [], by decide +kernel⟩

theorem wit_LanesFail_1 : ∃ (s : State) (n : Nat) (lane : Nat) (x : Nat) (p : TensorPort), p = s.port n ∧ n < 16 ∧ s.markersRun n = true ∧ x < 5 ∧ p.rxFailed.getLsbD x = false ∧ logicalOn p.rxData x = some lane ∧ p.rxMirror ≠ some lane ∧ p.rxShim ≠ x :=
  ⟨(withPort 15 (port) (up)), 15, 3, 3, _, rfl, by decide +kernel⟩

theorem wit_LanesFail_2 : ∃ (s : State) (n : Nat) (lane : Nat) (x : Nat) (p : TensorPort), p = s.port n ∧ n < 16 ∧ s.markersRun n = true ∧ x < 5 ∧ p.rxFailed.getLsbD x = false ∧ logicalOn p.rxData x = some lane ∧ p.rxMirror = some lane ∧ p.rxShim ≠ 7 :=
  ⟨(withPort 15 ({ port with rxMirror := some 3 }) (up)), 15, 3, 3, _, rfl, by decide +kernel⟩

theorem wit_LanesFail_3 : ∃ (s : State) (t : State) (n : Nat) (lane : Nat) (x : Nat) (p : TensorPort) (slot : List (List Byte)), t = s.gotMarker n 7 x ∧ p = t.port n ∧ n < 16 ∧ s.markersRun n = true ∧ slotCode slot = some (7, x) ∧ x < 5 ∧ p.txFailed.getLsbD x = false ∧ logicalOn p.txData x = some lane ∧ p.txRot = none ∧ p.txData.contains 7 = false ∧ p.txShim ≠ 7 :=
  ⟨(withPort 15 (port) (up)), _, 15, 3, 3, _, [markerBlock 0 0 0 7 3 0 0], rfl, rfl, by decide +kernel⟩

theorem wit_LanesFail_4 : ∃ (s : State) (t : State) (n : Nat) (lane : Nat) (x : Nat) (p : TensorPort) (slot : List (List Byte)), t = s.gotMarker n 7 x ∧ p = t.port n ∧ n < 16 ∧ s.markersRun n = true ∧ slotCode slot = some (7, x) ∧ x < 5 ∧ p.txFailed.getLsbD x = false ∧ logicalOn p.txData x = some lane ∧ p.txRot = none ∧ p.txData.contains 7 = false ∧ p.txShim = 7 :=
  ⟨(withPort 15 ({ port with txShim := 7 }) (up)), _, 15, 3, 3, _, [markerBlock 0 0 0 7 3 0 0], rfl, rfl, by decide +kernel⟩

theorem wit_LanesFail_5 : ∃ (s : State) (t : State) (n : Nat) (lane : Nat) (p : TensorPort) (slot : List (List Byte)), t = s.gotMarker n 1 lane ∧ p = t.port n ∧ n < 16 ∧ s.markersRun n = true ∧ slotCode slot = some (1, lane) ∧ lane < 4 ∧ p.rxShim ≠ 7 ∧ p.rxMirror ≠ some lane ∧ p.rxAnswer ≠ some (2, lane) ∧ p.rxAnswer ≠ some (3, lane) ∧ p.rxLaneFail.contains (nth 7 p.rxData lane) = true :=
  ⟨(withPort 15 ({ port with rxLaneFail := [3] }) (up)), _, 15, 3, _, [markerBlock 0 0 0 1 3 0 0], rfl, rfl, by decide +kernel⟩

theorem wit_LanesFail_6 : ∃ (s : State) (t : State) (n : Nat) (lane : Nat) (x : Nat) (p : TensorPort) (slot : List (List Byte)), t = s.gotMarker n 2 lane ∧ p = t.port n ∧ n < 16 ∧ s.markersRun n = true ∧ slotCode slot = some (2, lane) ∧ p.txRot = some (lane, x, .mirrorSent, true) ∧ p.txShim ≠ 7 :=
  ⟨(withPort 15 ({ port with txRot := some (1, 4, .mirrorSent, true) }) (up)), _, 15, 1, 4, _, [markerBlock 0 0 0 2 1 0 0], rfl, rfl, by decide +kernel⟩

theorem wit_LanesFail_7 : ∃ (s : State) (t : State) (n : Nat) (lane : Nat) (p : TensorPort) (slot : List (List Byte)), t = s.gotMarker n 8 lane ∧ p = t.port n ∧ n < 16 ∧ s.markersRun n = true ∧ slotCode slot = some (8, lane) ∧ lane < 4 ∧ p.rxData.contains 7 = false :=
  ⟨(withPort 15 (port) (up)), _, 15, 3, _, [markerBlock 0 0 0 8 3 0 0], rfl, rfl, by decide +kernel⟩

theorem wit_LanesFail_8 : ∃ (s : State) (t : State) (n : Nat) (lane : Nat) (x : Nat) (p : TensorPort) (slot : List (List Byte)), t = s.gotMarker n 9 x ∧ p = t.port n ∧ n < 16 ∧ s.markersRun n = true ∧ slotCode slot = some (9, x) ∧ x < 5 ∧ ((List.range 4).find? fun i => nth 0 p.rxData i == 7) = some lane :=
  ⟨(withPort 15 ({ port with rxData := [0, 1, 2, 7] }) (up)), _, 15, 3, 4, _, [markerBlock 0 0 0 9 4 0 0], rfl, rfl, by decide +kernel⟩

theorem wit_EthernetPortsRun_1 : ∃ (s : State) (n : Nat) (p : Sys2Proof.RdmaPacket) (e : EthPort), e = s.eth n ∧ n < 6 ∧ e.linkUp = true ∧ s.routerClosed = false ∧ (p.checksOk = false ∨ s.qp n p.qpn = none ∧ packetFits p [] = false) :=
  ⟨{ up with eths := [(5, { ethPortReset with linkUp := true, qps := [] })] }, 5, ⟨3, 0, .ack, 0, none, 0, false, false, false⟩, _, rfl, by decide +kernel⟩

theorem wit_EthernetPortsRun_2 : ∃ (s : State) (t : State) (n : Nat) (p : Sys2Proof.RdmaPacket) (x : QueuePair) (e : EthPort), e = s.eth n ∧ t = State.count (s.setEth n { e with framesIn := e.framesIn + 1 }) (1185 + 3 * n) (frameBytesOf x.remoteIp p.priority.isSome .ack) ∧ n < 6 ∧ e.linkUp = true ∧ s.routerClosed = false ∧ p.checksOk = true ∧ s.qp n p.qpn = some x ∧ packetFits p x.remoteIp = true ∧ x.error = false ∧ p.congestion = false ∧ p.kind = .ack ∧ t.qp n p.qpn = some x :=
  ⟨{ up with eths := [(5, { ethPortReset with linkUp := true, qps := [(3, newQp (zeros 56) 0)] })] }, _, 5, ⟨3, 0, .ack, 0, none, 0, false, true, false⟩, newQp (zeros 56) 0, _, rfl, rfl, by decide +kernel⟩

theorem wit_EthernetPortsRun_3 : ∃ (s : State) (n : Nat) (q : Nat) (x : QueuePair), n < 6 ∧ s.qp n q = some x ∧ x.error = false ∧ x.retained ≠ [] ∧ s.routerClosed = false ∧ x.progressAt + ticksUs (10 * s.rf (.ethRdma n) 0 14) ≤ s.now ∧ x.expiries + 1 < s.rf (.ethRdma n) 14 3 :=
  ⟨{ { up with now := ticksS 1, regs := tabSet 0 up.regs (Reg.ethRdma 5).addr 0x10001 } with eths := [(5, { ethPortReset with linkUp := true, qps := [(3, { newQp (zeros 56) 0 with  retained := [⟨3, 0, .ack, 0, none, 0, false, true, false⟩] })] })] }, 5, 3, { newQp (zeros 56) 0 with  retained := [⟨3, 0, .ack, 0, none, 0, false, true, false⟩] }, by decide +kernel⟩

theorem wit_EthernetPortsRun_4 : ∃ (s : State) (n : Nat) (q : Nat) (x : QueuePair), n < 6 ∧ s.qp n q = some x ∧ x.error = false ∧ x.retained ≠ [] ∧ s.routerClosed = false ∧ x.progressAt + ticksUs (10 * s.rf (.ethRdma n) 0 14) ≤ s.now ∧ s.selectiveOn n x = false :=
  ⟨{ { up with now := ticksS 1, regs := tabSet 0 up.regs (Reg.ethRdma 5).addr 0x10001 } with eths := [(5, { ethPortReset with linkUp := true, qps := [(3, { newQp (zeros 56) 0 with  retained := [⟨3, 0, .ack, 0, none, 0, false, true, false⟩] })] })] }, 5, 3, { newQp (zeros 56) 0 with  retained := [⟨3, 0, .ack, 0, none, 0, false, true, false⟩] }, by decide +kernel⟩

theorem wit_EthernetPortsRun_5 : ∃ (s : State) (n : Nat) (q : Nat) (x : QueuePair) (c : BitVec 24), n < 6 ∧ s.qp n q = some x ∧ x.error = false ∧ x.retained ≠ [] ∧ s.routerClosed = false ∧ x.progressAt + ticksUs (10 * s.rf (.ethRdma n) 0 14) ≤ s.now ∧ s.selectiveOn n x = true ∧ x.selectiveFrom = some c :=
  ⟨{ { up with now := ticksS 1, regs := tabSet 0 up.regs (Reg.ethRdma 5).addr 0x30001 } with eths := [(5, { ethPortReset with linkUp := true, qps := [(3, { newQp (zeros 56) 0 with selective := true, selectiveFrom := some 7,  retained := [⟨3, 0, .ack, 0, none, 0, false, true, false⟩] })] })] }, 5, 3, { newQp (zeros 56) 0 with selective := true, selectiveFrom := some 7,  retained := [⟨3, 0, .ack, 0, none, 0, false, true, false⟩] }, 7, by decide +kernel⟩

theorem wit_EthernetPortsRun_6 : ∃ (s : State) (n : Nat) (q : Nat) (x : QueuePair), n < 6 ∧ s.qp n q = some x ∧ x.error = false ∧ x.retained ≠ [] ∧ s.routerClosed = false ∧ x.progressAt + ticksUs (10 * s.rf (.ethRdma n) 0 14) ≤ s.now ∧ s.rf (.ethRdma n) 14 3 ≤ x.expiries + 1 :=
  ⟨{ { up with now := ticksS 1, regs := tabSet 0 up.regs (Reg.ethRdma 5).addr 0x10001 } with eths := [(5, { ethPortReset with linkUp := true, qps := [(3, { newQp (zeros 56) 0 with expiries := 3,  retained := [⟨3, 0, .ack, 0, none, 0, false, true, false⟩] })] })] }, 5, 3, { newQp (zeros 56) 0 with expiries := 3,  retained := [⟨3, 0, .ack, 0, none, 0, false, true, false⟩] }, by decide +kernel⟩

theorem wit_EthernetPortsRun_7 : ∃ (s : State) (n : Nat) (q : Nat) (x : QueuePair) (e : EthPort), e = s.eth n ∧ n < 6 ∧ s.qp n q = some x ∧ e.linkUp = true ∧ s.routerClosed = false :=
  ⟨{ up with eths := [(5, { ethPortReset with linkUp := true, qps := [(3, newQp (zeros 56) 0)] })] }, 5, 3, newQp (zeros 56) 0, _, rfl, by decide +kernel⟩

theorem wit_EthernetPortsRun_8 : ∃ (s : State) (n : Nat) (q : Nat) (x : QueuePair), n < 6 ∧ s.qp n q = some x ∧ x.notifiedAt + ticksUs 50 ≤ s.now :=
  ⟨{ { up with now := ticksUs 50 } with eths := [(5, { ethPortReset with linkUp := true, qps := [(3, newQp (zeros 56) 0)] })] }, 5, 3, newQp (zeros 56) 0, by decide +kernel⟩

theorem wit_EthernetPortsRun_9 : ∃ (s : State) (n : Nat) (e : EthPort) (prio : Nat), e = s.eth n ∧ n < 6 ∧ e.linkUp = true ∧ prio < 8 :=
  ⟨{ up with eths := [(5, { ethPortReset with linkUp := true, qps := [] })] }, 5, _, 5, rfl, by decide +kernel⟩

theorem wit_EthernetPortsRun_10 : ∃ (s : State) (n : Nat) (e : EthPort) (up : Bool), e = s.eth n ∧ n < 6 ∧ e.linkUp ≠ up ∧ (up = true → s.routerClosed = false) :=
  ⟨{ up with eths := [(5, { ethPortReset with linkUp := true, qps := [] })] }, 5, _, false, rfl, by decide +kernel⟩

theorem wit_SpeasPortsRun_1 : ∃ (s : State) (port : Nat) (w : Nat) (p : SpeasPort) (bs : List Byte), p = s.sp port ∧ port < 2 ∧ s.benchUp = true ∧ p.linkUp = true ∧ w < 3 ∧ (p.active.getLsbD w = true ∨ p.spare = some w) ∧ parseFrame bs = none :=
  ⟨{ up with speas := [(1, { speasPortReset with linkUp := true, active := 3 })] }, 1, 2, _, zeros 3, rfl, by decide +kernel⟩

theorem wit_SpeasPortsRun_2 : ∃ (s : State) (port : Nat) (w : Nat) (p : SpeasPort) (bs : List Byte) (f : Frame), p = s.sp port ∧ port < 2 ∧ s.benchUp = true ∧ p.linkUp = true ∧ w < 3 ∧ (p.active.getLsbD w = true ∨ p.spare = some w) ∧ parseFrame bs = some f :=
  ⟨{ up with speas := [(1, { speasPortReset with linkUp := true, active := 3 })] }, 1, 1, _, frameBytes 0 1 [1, 2] 0 0 0 0, ⟨0, 1, 0, 0, 0, 0, [1, 2]⟩, rfl, by decide +kernel⟩

theorem wit_SpeasPortsRun_3 : ∃ (s : State) (port : Nat) (p : SpeasPort), p = s.sp port ∧ port < 2 ∧ p.linkUp = true ∧ p.txUnacked ≠ [] ∧ p.progressAt + ticksUs 50 ≤ s.now ∧ p.expiries < 63 :=
  ⟨{ { up with now := ticksUs 50 } with speas := [(1, { speasPortReset with linkUp := true, active := 3, txUnacked := [(0, 0, [])], expiries := 62 })] }, 1, _, rfl, by decide +kernel⟩

theorem wit_SpeasPortsRun_4 : ∃ (s : State) (port : Nat) (p : SpeasPort), p = s.sp port ∧ port < 2 ∧ p.linkUp = true ∧ p.txUnacked ≠ [] ∧ p.progressAt + ticksUs 50 ≤ s.now ∧ 63 ≤ p.expiries :=
  ⟨{ { up with now := ticksUs 50 } with speas := [(1, { speasPortReset with linkUp := true, active := 3, txUnacked := [(0, 0, [])], expiries := 63 })] }, 1, _, rfl, by decide +kernel⟩

theorem wit_SpeasPortsRun_5 : ∃ (s : State) (port : Nat) (w : Nat) (p : SpeasPort), p = s.sp port ∧ port < 2 ∧ p.linkUp = true ∧ s.ft.toNat % ticksMs 250 = ticksMs 125 * port ∧ p.rotating = none ∧ p.spare = some w ∧ p.active.getLsbD ((w + 1) % 3) = true :=
  ⟨{ { up with ft := word (ticksMs 125) } with speas := [(1, { speasPortReset with linkUp := true, active := 3 })] }, 1, 2, _, rfl, by decide +kernel⟩

theorem wit_SpeasPortsRun_6 : ∃ (s : State) (port : Nat) (p : SpeasPort), p = s.sp port ∧ port < 2 ∧ s.benchUp = true ∧ s.boot.commandReady = true ∧ p.linkUp = false :=
  ⟨up, 1, _, rfl, by decide +kernel⟩

theorem wit_SpeasPortsRun_7 : ∃ (s : State) (port : Nat) (w : Nat) (p : SpeasPort), p = s.sp port ∧ port < 2 ∧ w < 3 ∧ p.linkUp = true ∧ p.failed.getLsbD w = false ∧ p.active.getLsbD w = true :=
  ⟨{ up with speas := [(1, { speasPortReset with linkUp := true, active := 3 })] }, 1, 0, _, rfl, by decide +kernel⟩

theorem wit_FabricTimeRuns_1 : ∃ (s : State) (n : Nat), n < 16 ∧ ((s.port n).state = .discovered ∨ (s.port n).state = .admitted) ∧ (s.port n).timeSentAt + ticksUs 16 ≤ s.now :=
  ⟨{ withPort 15 port up with now := ticksUs 16 }, 15, by decide +kernel⟩

theorem wit_FabricTimeRuns_2 : ∃ (s : State) (n : Nat) (m : Sys2Proof.PtpMessage), n < 6 ∧ s.rbit .ftCtrl 0 = true ∧ s.rf .ftCtrl 1 3 = n ∧ m.domain = s.rf .ftCtrl 4 8 ∧ (s.eth n).linkUp = true ∧ (m.inSync = false ∨ 125 < m.intervalMs) :=
  ⟨{ up with regs := tabSet 0 up.regs Reg.ftCtrl.addr (word (1 + 5 * 2 + 9 * 16)), eths := [(5, { ethPortReset with linkUp := true })], time := { up.time with source := .none, ptp := none } }, 5, ⟨9, 7, true, 126, .sync none⟩, by decide +kernel⟩

theorem wit_FabricTimeRuns_3 : ∃ (s : State) (n : Nat) (m : Sys2Proof.PtpMessage) (o : Nat × Nat), n < 6 ∧ s.rbit .ftCtrl 0 = true ∧ s.rf .ftCtrl 1 3 = n ∧ m.domain = s.rf .ftCtrl 4 8 ∧ (s.eth n).linkUp = true ∧ m.inSync = true ∧ m.intervalMs ≤ 125 ∧ m.kind = .sync (some o) :=
  ⟨{ up with regs := tabSet 0 up.regs Reg.ftCtrl.addr (word (1 + 5 * 2 + 9 * 16)), eths := [(5, { ethPortReset with linkUp := true })], time := { up.time with source := .none, ptp := none } }, 5, ⟨9, 7, true, 125, .sync (some (0, 9))⟩, (0, 9), by decide +kernel⟩

theorem wit_FabricTimeRuns_4 : ∃ (s : State) (n : Nat) (m : Sys2Proof.PtpMessage), n < 6 ∧ s.rbit .ftCtrl 0 = true ∧ s.rf .ftCtrl 1 3 = n ∧ m.domain = s.rf .ftCtrl 4 8 ∧ (s.eth n).linkUp = true ∧ m.inSync = true ∧ m.intervalMs ≤ 125 ∧ m.kind = .sync none :=
  ⟨{ up with regs := tabSet 0 up.regs Reg.ftCtrl.addr (word (1 + 5 * 2 + 9 * 16)), eths := [(5, { ethPortReset with linkUp := true })], time := { up.time with source := .none, ptp := none } }, 5, ⟨9, 7, true, 125, .sync none⟩, by decide +kernel⟩

theorem wit_FabricTimeRuns_5 : ∃ (s : State) (t : State) (u : State) (n : Nat) (m : Sys2Proof.PtpMessage) (o : Nat × Nat) (x : PtpExchange), t = s.count (1185 + 3 * n) (ptpBytes m.kind) ∧ u = State.reconsider { t with time := { t.time with ptpSync := some n } } ∧ n < 6 ∧ s.rbit .ftCtrl 0 = true ∧ s.rf .ftCtrl 1 3 = n ∧ m.domain = s.rf .ftCtrl 4 8 ∧ (s.eth n).linkUp = true ∧ m.inSync = true ∧ m.intervalMs ≤ 125 ∧ m.kind = .followUp o ∧ u.time.ptp = some x ∧ x.port = n ∧ x.seq = m.seq ∧ x.t1 = none :=
  ⟨{ up with regs := tabSet 0 up.regs Reg.ftCtrl.addr (word (1 + 5 * 2 + 9 * 16)), eths := [(5, { ethPortReset with linkUp := true })], time := { up.time with source := .none, ptp := some ⟨5, 7, none, 0, none⟩ } }, _, _, 5, ⟨9, 7, true, 125, .followUp (0, 9)⟩, (0, 9), ⟨5, 7, none, 0, none⟩, rfl, rfl, by decide +kernel⟩

theorem wit_FabricTimeRuns_6 : ∃ (s : State) (t : State) (u : State) (n : Nat) (m : Sys2Proof.PtpMessage) (o : Nat × Nat) (x : PtpExchange) (t1 : Word) (t3 : Word), t = s.count (1185 + 3 * n) (ptpBytes m.kind) ∧ u = State.reconsider { t with time := { t.time with ptpSync := some n } } ∧ n < 6 ∧ s.rbit .ftCtrl 0 = true ∧ s.rf .ftCtrl 1 3 = n ∧ m.domain = s.rf .ftCtrl 4 8 ∧ (s.eth n).linkUp = true ∧ m.inSync = true ∧ m.intervalMs ≤ 125 ∧ m.kind = .delayResponse o ∧ u.time.ptp = some x ∧ x.port = n ∧ x.seq = m.seq ∧ x.t1 = some t1 ∧ x.t3 = some t3 ∧ u.time.source = .ptp n :=
  ⟨{ up with regs := tabSet 0 up.regs Reg.ftCtrl.addr (word (1 + 5 * 2 + 9 * 16)), eths := [(5, { ethPortReset with linkUp := true })], time := { up.time with source := .ptp 5, ptp := some ⟨5, 7, some 0, 0, some 0⟩ } }, _, _, 5, ⟨9, 7, true, 125, .delayResponse (0, 9)⟩, (0, 9), ⟨5, 7, some 0, 0, some 0⟩, 0, 0, rfl, rfl, by decide +kernel⟩

theorem wit_FabricTimeRuns_7 : ∃ (s : State) (t : State) (off : Int), t = s.takeOffset off ∧ t.time.state = .acquiring ∧ t.time.stepped = false ∧ t.time.lockedOnce = false :=
  ⟨{ up with time := { up.time with state := .acquiring } }, _, 100, rfl, by decide +kernel⟩

theorem wit_FabricTimeRuns_8 : ∃ (s : State) (t : State) (off : Int), t = s.takeOffset off ∧ (t.time.state ≠ .acquiring ∨ t.time.stepped = true ∨ t.time.lockedOnce = true) :=
  ⟨up, _, 0, rfl, by decide +kernel⟩

theorem wit_FabricTimeRuns_9 : ∃ (s : State) (since : Nat), s.time.state = .acquiring ∧ s.time.withinSince = some since ∧ since + ticksS 1 ≤ s.now :=
  ⟨{ up with now := ticksS 1, time := { up.time with state := .acquiring, withinSince := some 0 } }, 0, by decide +kernel⟩

theorem wit_FabricTimeRuns_10 : ∃ (s : State), s.time.source = .none :=
  ⟨up, by decide +kernel⟩

theorem wit_FabricTimeRuns_11 : ∃ (s : State) (n : Nat), s.time.source = .ptp n :=
  ⟨{ up with time := { up.time with source := .ptp 5 } }, 5, by decide +kernel⟩

theorem wit_FabricTimeRuns_12 : ∃ (s : State) (n : Nat), s.time.source = .cells n :=
  ⟨{ up with time := { up.time with source := .cells 15 } }, 15, by decide +kernel⟩

theorem wit_FabricTimeRuns_13 : ∃ (s : State), s.time.state = .holdover ∧ s.time.holdoverSince + ticksMs (s.rf .ftCtrl 20 16) ≤ s.now :=
  ⟨{ up with now := ticksMs 65535, time := { up.time with state := .holdover } }, by decide +kernel⟩

theorem wit_SealsReplaysAndDigests_1 : ∃ (s : State) (step : Nat) (n : Nat) (r : StepRec) (tc : Word) (cs : List Nat), s.step? step = some r ∧ r.closed = some tc ∧ r.combinedSent = false ∧ (s.sealDeadlineAt tc).toNat ≤ s.ft.toNat ∧ s.fabric.partition.tag ≠ 0 ∧ s.missingChildren r = n :: cs :=
  ⟨(withPort 2 port (withStep ({ stepRec 4 0 7 with closed := some 0 }) { up with ft := word (ticksS 1) })), 4, 1, { stepRec 4 0 7 with closed := some 0 }, 0, [], by decide +kernel⟩

theorem wit_SealsReplaysAndDigests_2 : ∃ (s : State) (step : Nat) (r : StepRec) (tc : Word), s.step? step = some r ∧ r.closed = some tc ∧ r.combinedSent = false ∧ (s.sealDeadlineAt tc).toNat ≤ s.ft.toNat ∧ s.fabric.partition.tag ≠ 0 ∧ s.missingChildren r = [] ∧ s.isCoordinator = true :=
  ⟨(withPort 2 port (withStep ({ stepRec 4 0 7 with closed := some 0, children := [(1, 1, false, 0, 0)] }) { up with ft := word (ticksS 1) })), 4, { stepRec 4 0 7 with closed := some 0, children := [(1, 1, false, 0, 0)] }, 0, by decide +kernel⟩

theorem wit_SealsReplaysAndDigests_4 : ∃ (s : State) (step : Nat) (r : StepRec) (tc : Word), s.step? step = some r ∧ r.closed = some tc ∧ tc.toNat + ticksMs (s.rf .sqSealCtrl 40 16) ≤ s.ft.toNat ∧ s.steps.overdue.contains step = false :=
  ⟨(withPort 2 port (withStep ({ stepRec 4 0 7 with closed := some 0 }) { up with ft := word (ticksS 1) })), 4, { stepRec 4 0 7 with closed := some 0 }, 0, by decide +kernel⟩

theorem wit_SealsReplaysAndDigests_5 : ∃ (s : State) (m : Nat) (a : Nat) (ft : Word) (rest : List (Nat × Nat × Word)), s.steps.replays = (m, a, ft) :: rest ∧ ft.toNat ≤ s.ft.toNat ∧ s.mayOpen m = true :=
  ⟨{ up with ft := 9, steps := { up.steps with replays := [(4, 1, 9)] } }, 4, 1, 9, [], by decide +kernel⟩

theorem wit_SealsReplaysAndDigests_6 : ∃ (s : State) (n : Nat) (letter : Nat) (invalid : Bool), s.digests.running = some (n, letter, invalid) :=
  ⟨{ up with digests := { up.digests with running := some (4, 0, false) } }, 4, 0, false, by decide +kernel⟩

theorem wit_SealsReplaysAndDigests_7 : ∃ (s : State) (at_ : Nat), s.digests.endedAt = some at_ ∧ s.digestsIn = false ∧ s.now < at_ + ticksMs (s.rf .sqDigestCtrl 24 16) :=
  ⟨(withPort 2 port { up with regs := tabSet 0 up.regs Reg.sqDigestCtrl.addr (word (5 * 2 ^ 24 + 2 * 2 ^ 19)), digests := { up.digests with endedAt := some 0 } }), 0, by decide +kernel⟩

theorem wit_SealsReplaysAndDigests_8 : ∃ (s : State) (at_ : Nat) (value : List Byte), s.digests.endedAt = some at_ ∧ s.digestsIn = true ∧ s.twin.role ≠ 1 ∧ (∀ x ∈ s.groupDigests, x.2 = some (true, value)) :=
  ⟨{ up with digests := { up.digests with endedAt := some 0, ownValid := true, ownDigest := [1] } }, 0, [1], by decide +kernel⟩

theorem wit_HangsAreFound_1 : ∃ (s : State) (f : State) (c : Nat) (g : _), f = s.freezeFor (coreRings c) ∧ g = f.fault 0x0001 (.core c) .deadline (f.core c).tilesRetired.toNat (match (f.core c).item with | some it => it.tag.toNat | none => 0) ∧ s.power.rails = .on ∧ c < 384 ∧ s.coreExpired c = true ∧ ((f.hungCores (clusterOf c)).length < 3 ∨ f.inReset .bench 0 = true) :=
  ⟨{ up with now := ticksS 1, cores := [(0, { coreReset with item := some { item with ops := [opOf .tile .ok] } })] }, _, 0, _, rfl, rfl, by decide +kernel⟩

theorem wit_HangsAreFound_2 : ∃ (s : State) (f : State) (c : Nat), f = s.freezeFor (coreRings c) ∧ s.power.rails = .on ∧ c < 384 ∧ s.coreExpired c = true ∧ 3 ≤ (f.hungCores (clusterOf c)).length ∧ f.inReset .bench 0 = false :=
  ⟨{ up with now := ticksS 1, cores := [(0, { coreReset with item := some { item with ops := [opOf .tile .ok] } }), (1, { coreReset with item := some { item with ops := [opOf .tile .ok] } }), (2, { coreReset with item := some { item with ops := [opOf .tile .ok] } })] }, _, 0, rfl, by decide +kernel⟩

theorem wit_HangsAreFound_3 : ∃ (s : State) (c : Nat), s.power.rails = .on ∧ c < 384 ∧ s.coreExpired c = false :=
  ⟨{ up with now := ticksS 1, cores := [(0, { coreReset with item := some { item with ops := [opOf .tile .ok] } })] }, 1, by decide +kernel⟩

theorem wit_HangsAreFound_4 : ∃ (s : State) (e : Nat), s.power.rails = .on ∧ e < 4 ∧ s.engineExpired e = true :=
  ⟨{ up with now := ticksS 1, fabric := { up.fabric with contexts := [(3, ⟨some { destChip := 1, address := 0, source := 0, length := 100, step := 4, attempt := 0, acked := 0, sent := 2, retries := 0, progressAt := 0, queue := some 0, cring := 0, rxCring := 0, tag := 0, transfer := false, digest := false, coll := none, twinCopy := false, issue := 0, via := none, content := none }, none⟩)] } }, 0, by decide +kernel⟩

theorem wit_HangsAreFound_5 : ∃ (s : State) (n : Nat), s.power.rails = .on ∧ n < 16 ∧ s.portExpired n = true :=
  ⟨{ withPort 15 { port with egress := [⟨(cellOf 0 0 1 1).bytes, zeros 64, none, 0, false, 0, none⟩] } up with now := ticksS 1 }, 15, by decide +kernel⟩

theorem wit_HangsAreFound_6 : ∃ (s : State) (lapsed : BitVec 4), s.power.rails = .on ∧ s.boot.watchdogArmed = true ∧ s.underReset .bench 0 = false ∧ lapsed ≠ 0 :=
  ⟨{ up with boot := { up.boot with watchdogArmed := true } }, 8, by decide +kernel⟩

theorem wit_HangsAreFound_7 : ∃ (s : State), s.power.rails = .on ∧ s.boot.watchdogArmed = false ∧ s.underReset .bench 0 = false ∧ s.boot.stage = 0 ∧ s.boot.startedAt + ticksS 5 ≤ s.now :=
  ⟨{ State.reset with now := ticksS 5 }, by decide +kernel⟩

theorem wit_StepsAreOpenedByTable_1 : ∃ (s : State) (t : State) (i : Nat) (d : Nat) (k : Nat) (x : TTSlot), s.fallsNow i 5 t x d k ∧ (t.steps.halted = true ∨ t.steps.restoreFailed = true) :=
  ⟨(armedWith [(3, (slotOf 5 0 4))] ({ up with steps := { up.steps with halted := true } })), _, 3, _, _, _, falls_ (y := (slotOf 5 0 4)) (d := 0) (j := 3) (by decide +kernel), .inl rfl⟩

theorem wit_StepsAreOpenedByTable_2 : ∃ (s : State) (t : State) (i : Nat) (d : Nat) (k : Nat) (x : TTSlot), s.fallsNow i 5 t x d k ∧ (t.table.hold.isSome = true ∨ x.waiting.isSome = true) ∧ t.steps.halted = false ∧ t.steps.restoreFailed = false :=
  ⟨(armedWith [(3, (slotOf 5 0 4))] ({ up with table := { up.table with hold := some (4, 1, 0, false, false) } })), _, 3, _, _, _, falls_ (y := (slotOf 5 0 4)) (d := 0) (j := 3) (by decide +kernel), .inl rfl, by decide +kernel⟩

theorem wit_StepsAreOpenedByTable_3 : ∃ (s : State) (t : State) (u : State) (i : Nat) (d : Nat) (k : Nat) (m : Nat) (a : Nat) (x : TTSlot), s.fallsNow i 5 t x d k ∧ u = t.fired i x ∧ t.steps.halted = false ∧ t.steps.restoreFailed = false ∧ t.table.hold = none ∧ x.waiting = none ∧ u.openingOf x = (m, a) ∧ u.ready m = true :=
  ⟨(armedWith [(3, (slotOf 5 0 4))] ({ up with steps := { up.steps with params := [(4, [])] } })), _, _, 3, _, _, 4, 0, _, falls_ (y := (slotOf 5 0 4)) (d := 0) (j := 3) (by decide +kernel), rfl, by decide +kernel⟩

theorem wit_StepsAreOpenedByTable_4 : ∃ (s : State) (t : State) (u : State) (i : Nat) (d : Nat) (k : Nat) (m : Nat) (a : Nat) (x : TTSlot), s.fallsNow i 5 t x d k ∧ u = t.fired i x ∧ t.steps.halted = false ∧ t.steps.restoreFailed = false ∧ t.table.hold = none ∧ x.waiting = none ∧ u.openingOf x = (m, a) ∧ u.ready m = false :=
  ⟨(armedWith [(3, (slotOf 5 0 4))] (up)), _, _, 3, _, _, 4, 0, _, falls_ (y := (slotOf 5 0 4)) (d := 0) (j := 3) (by decide +kernel), rfl, by decide +kernel⟩

theorem wit_StepsAreOpenedByTable_5 : ∃ (u : State) (m : Nat) (p : List Byte), (∀ r ∈ u.steps.opened, r.phase = 7) ∧ u.steps.evalSlot = none ∧ u.steps.halted = false ∧ u.steps.restoreFailed = false ∧ u.benchUp = true ∧ (u.steps.sealedLetter ≠ 3 ∧ m ≤ u.steps.sealedStep + u.depth ∨ ∀ r ∈ u.steps.opened, m ≤ r.id + u.depth → m ≤ r.id) ∧ u.ckpt.frozen = none ∧ u.steps.replays = [] ∧ tabFind u.steps.params m = some p :=
  ⟨{ up with steps := { up.steps with params := [(4, [])] } }, 4, [], by decide +kernel⟩

theorem wit_StepsAreOpenedByTable_6 : ∃ (s : State) (i : Nat) (m : Nat) (a : Nat) (x : TTSlot) (w : Word), tabFind s.table.slots i = some x ∧ x.waiting = some w ∧ x.entry.action = 5 ∧ s.benchServes = true ∧ x.openExpired w s.ft.toNat = false ∧ s.openingOf x = (m, a) ∧ s.ready m = true :=
  ⟨{ up with steps := { up.steps with params := [(4, [])] }, table := { up.table with slots := [(3, { slotOf 5 0 4 with waiting := some 0 })] } }, 3, 4, 0, { slotOf 5 0 4 with waiting := some 0 }, 0, by decide +kernel⟩

theorem wit_StepsAreOpenedByTable_7 : ∃ (s : State) (i : Nat) (x : TTSlot) (w : Word), tabFind s.table.slots i = some x ∧ x.waiting = some w ∧ x.entry.action = 5 ∧ s.benchServes = true ∧ x.entry.windowUs ≠ 0 ∧ w.toNat + ticksUs x.entry.windowUs.toNat ≤ s.ft.toNat :=
  ⟨{ up with ft := word (ticksUs 10), table := { up.table with slots := [(3, { slotOf 5 0 4 with entry := ⟨0, 0, 10, 5, 1, 0, 4⟩, waiting := some 0 })] } }, 3, { slotOf 5 0 4 with entry := ⟨0, 0, 10, 5, 1, 0, 4⟩, waiting := some 0 }, 0, by decide +kernel⟩

theorem wit_StepsAreOpenedByTable_8 : ∃ (u : State), (u.mapBad u.nextReads || u.stashBad || u.storeBad) = false :=
  ⟨{ up with regs := tabSet 0 up.regs Reg.sqStoreLimit.addr 1 }, by decide +kernel⟩

theorem wit_StepsAreOpenedByTable_9 : ∃ (s : State) (t : State) (i : Nat) (d : Nat) (k : Nat) (x : TTSlot), s.fallsNow i 1 t x d k ∧ (t.addressed x k).1 = none :=
  ⟨(armedWith [(3, (slotOf 1 0x80000009 0))] (up)), _, 3, _, _, _, falls_ (y := (slotOf 1 0x80000009 0)) (d := 0) (j := 3) (by decide +kernel), by decide +kernel⟩

theorem wit_StepsAreOpenedByTable_10 : ∃ (s : State) (t : State) (i : Nat) (d : Nat) (k : Nat) (n : Nat) (x : TTSlot), s.fallsNow i 1 t x d k ∧ (t.addressed x k).1 = some n ∧ t.openedPast n = true :=
  ⟨(armedWith [(3, (slotOf 1 0 4))] (withStep (stepRec 5 0 2) up)), _, 3, _, _, 4, _, falls_ (y := (slotOf 1 0 4)) (d := 0) (j := 3) (by decide +kernel), by decide +kernel⟩

theorem wit_StepsAreOpenedByTable_11 : ∃ (s : State) (t : State) (u : State) (v : State) (i : Nat) (d : Nat) (k : Nat) (n : Nat) (x : TTSlot), s.fallsNow i 1 t x d k ∧ u = t.fired i x ∧ v = u.table.slots.foldl (fun t y => if y.2.entry.action = 5 ∧ y.2.waiting.isSome = true then (t.setSlot y.1 { y.2 with waiting := none }).ttSkip else t) u ∧ (t.addressed x k).1 = some n ∧ t.openedPast n = false ∧ v.table.hold = none :=
  ⟨(armedWith [(3, (slotOf 1 0 4))] (up)), _, _, _, 3, _, _, 4, _, falls_ (y := (slotOf 1 0 4)) (d := 0) (j := 3) (by decide +kernel), rfl, rfl, by decide +kernel⟩

theorem wit_StepsAreOpenedByTable_12 : ∃ (s : State) (t : State) (u : State) (v : State) (i : Nat) (d : Nat) (k : Nat) (n : Nat) (x : TTSlot) (w : Word) (h : Nat × Nat × Word × Bool × Bool), s.fallsNow i 1 t x d k ∧ u = t.fired i x ∧ v = u.table.slots.foldl (fun t y => if y.2.entry.action = 5 ∧ y.2.waiting.isSome = true then (t.setSlot y.1 { y.2 with waiting := none }).ttSkip else t) u ∧ w = (if h.2.2.1.toNat < (word (x.windowEnd d)).toNat then word (x.windowEnd d) else h.2.2.1) ∧ (t.addressed x k).1 = some n ∧ t.openedPast n = false ∧ v.table.hold = some h :=
  ⟨(armedWith [(3, (slotOf 1 0 4))] ({ up with table := { up.table with hold := some (4, 3, 0, false, false) } })), _, _, _, 3, _, _, 4, _, _, (4, 3, 0, false, false), falls_ (y := (slotOf 1 0 4)) (d := 0) (j := 3) (by decide +kernel), rfl, rfl, rfl, by decide +kernel⟩

theorem wit_StepsAreOpenedByTable_13 : ∃ (s : State) (n : Nat) (w : Word) (e : Nat) (started : Bool) (ended : Bool), s.table.hold = some (n, e, w, started, ended) ∧ s.benchServes = true ∧ w.toNat ≤ s.ft.toNat ∧ (ended = true ∨ started = false ∧ (s.steps.sealedLetter = 3 ∨ s.steps.sealedStep < n)) :=
  ⟨{ up with table := { up.table with hold := some (4, 3, 0, true, true) } }, 4, 0, 3, true, true, by decide +kernel⟩

theorem wit_StepsAreOpenedByTable_14 : ∃ (s : State) (n : Nat) (w : Word) (e : Nat) (started : Bool) (ended : Bool), s.table.hold = some (n, e, w, started, ended) ∧ (s.ft.toNat < w.toNat ∨ started = true ∧ ended = false) :=
  ⟨{ up with table := { up.table with hold := some (4, 3, 0, true, false) } }, 4, 0, 3, true, false, by decide +kernel⟩

theorem wit_StepsAreOpenedByTable_15 : ∃ (s : State) (t : State) (i : Nat) (d : Nat) (k : Nat) (x : TTSlot), s.fallsNow i 2 t x d k ∧ (t.addressed x k).1 = none :=
  ⟨(armedWith [(3, (slotOf 2 0x80000009 0))] (up)), _, 3, _, _, _, falls_ (y := (slotOf 2 0x80000009 0)) (d := 0) (j := 3) (by decide +kernel), by decide +kernel⟩

theorem wit_StepsAreOpenedByTable_16 : ∃ (s : State) (t : State) (u : State) (v : State) (i : Nat) (d : Nat) (k : Nat) (n : Nat) (x : TTSlot) (r : StepRec) (anchored : Bool), s.fallsNow i 2 t x d k ∧ u = t.fired i x ∧ v = u.setStep { r with closed := some u.ft } ∧ t.addressed x k = (some n, anchored) ∧ t.step? n = some r ∧ (anchored = true → r.attempt = 0) ∧ r.closed = none :=
  ⟨(armedWith [(3, (slotOf 2 0 4))] (withStep (stepRec 4 0 2) up)), _, _, _, 3, _, _, 4, _, stepRec 4 0 2, false, falls_ (y := (slotOf 2 0 4)) (d := 0) (j := 3) (by decide +kernel), rfl, rfl, by decide +kernel⟩

theorem wit_StepsAreOpenedByTable_17 : ∃ (s : State) (t : State) (i : Nat) (d : Nat) (k : Nat) (n : Nat) (x : TTSlot) (r : StepRec) (anchored : Bool), s.fallsNow i 2 t x d k ∧ t.addressed x k = (some n, anchored) ∧ t.step? n = some r ∧ (anchored = true ∧ r.attempt ≠ 0 ∨ r.closed.isSome = true) :=
  ⟨(armedWith [(3, (slotOf 2 0 4))] (withStep ({ stepRec 4 0 2 with closed := some 0 }) up)), _, 3, _, _, 4, _, { stepRec 4 0 2 with closed := some 0 }, false, falls_ (y := (slotOf 2 0 4)) (d := 0) (j := 3) (by decide +kernel), by decide +kernel⟩

theorem wit_StepsAreOpenedByTable_18 : ∃ (s : State) (t : State) (i : Nat) (d : Nat) (k : Nat) (n : Nat) (x : TTSlot) (anchored : Bool), s.fallsNow i 2 t x d k ∧ t.addressed x k = (some n, anchored) ∧ t.step? n = none ∧ (anchored = true ∨ t.steps.sealedLetter ≠ 3 ∧ n ≤ t.steps.sealedStep ∨ (tabFind t.steps.attempts n).isSome = true) :=
  ⟨(armedWith [(3, (slotOf 2 0 4))] ({ up with steps := { up.steps with sealedLetter := 0, sealedStep := 9 } })), _, 3, _, _, 4, _, false, falls_ (y := (slotOf 2 0 4)) (d := 0) (j := 3) (by decide +kernel), by decide +kernel⟩

theorem wit_StepsAreOpenedByTable_19 : ∃ (s : State) (t : State) (i : Nat) (d : Nat) (k : Nat) (n : Nat) (x : TTSlot), s.fallsNow i 2 t x d k ∧ t.addressed x k = (some n, false) ∧ t.step? n = none ∧ (t.steps.sealedLetter = 3 ∨ t.steps.sealedStep < n) ∧ t.steps.replays = [] ∧ tabFind t.steps.attempts n = none :=
  ⟨(armedWith [(3, (slotOf 2 0 4))] (up)), _, 3, _, _, 4, _, falls_ (y := (slotOf 2 0 4)) (d := 0) (j := 3) (by decide +kernel), by decide +kernel⟩

theorem wit_TimetableActions_1 : ∃ (s : State) (t : State) (i : Nat) (d : Nat) (k : Nat) (x : TTSlot), s.fallsNow i 3 t x d k ∧ t.stepOpen = false :=
  ⟨(armedWith [(3, (slotOf 3))] (up)), _, 3, _, _, _, falls_ (y := (slotOf 3)) (d := 0) (j := 3) (by decide +kernel), by decide +kernel⟩

theorem wit_TimetableActions_2 : ∃ (s : State) (t : State) (i : Nat) (d : Nat) (k : Nat) (x : TTSlot), s.fallsNow i 3 t x d k ∧ t.stepOpen = true :=
  ⟨(armedWith [(3, (slotOf 3))] (withStep (stepRec 4 0 2) up)), _, 3, _, _, _, falls_ (y := (slotOf 3)) (d := 0) (j := 3) (by decide +kernel), by decide +kernel⟩

theorem wit_TimetableActions_3 : ∃ (s : State) (t : State) (i : Nat) (d : Nat) (k : Nat) (x : TTSlot), s.fallsNow i 4 t x d k :=
  ⟨(armedWith [(3, (slotOf 4 9))] (up)), _, 3, _, _, _, falls_ (y := (slotOf 4 9)) (d := 0) (j := 3) (by decide +kernel)⟩

theorem wit_TimetableActions_4 : ∃ (s : State) (t : State) (i : Nat) (d : Nat) (k : Nat) (x : TTSlot), s.fallsNow i 9 t x d k :=
  ⟨(armedWith [(3, (slotOf 9 9))] (up)), _, 3, _, _, _, falls_ (y := (slotOf 9 9)) (d := 0) (j := 3) (by decide +kernel)⟩

theorem wit_TimetableActions_5 : ∃ (s : State) (t : State) (i : Nat) (d : Nat) (k : Nat) (x : TTSlot), s.fallsNow i 6 t x d k ∧ x.waiting = none :=
  ⟨(armedWith [(3, (slotOf 6 1))] (up)), _, 3, _, _, _, falls_ (y := (slotOf 6 1)) (d := 0) (j := 3) (by decide +kernel), by decide +kernel⟩

theorem wit_TimetableActions_6 : ∃ (s : State) (i : Nat) (d : Nat) (x : TTSlot), s.firstWaiting 6 (fun _ => true) = some (i, x, d) ∧ s.benchServes = true ∧ s.evalMayOpen = true ∧ s.ft.toNat < x.windowEnd d :=
  ⟨{ up with table := { up.table with slots := [(3, { slotOf 6 1 with entry := ⟨0, 0, 10, 6, 1, 1, 0⟩, waiting := some 0 })] } }, 3, 0, { slotOf 6 1 with entry := ⟨0, 0, 10, 6, 1, 1, 0⟩, waiting := some 0 }, by decide +kernel⟩

theorem wit_TimetableActions_7 : ∃ (s : State) (e : Nat × Nat × Word × Nat × Nat), s.steps.evalSlot = some e ∧ e.2.2.1.toNat ≤ s.ft.toNat :=
  ⟨{ up with steps := { up.steps with evalSlot := some (3, 1, 0, 0, 0) } }, (3, 1, 0, 0, 0), by decide +kernel⟩

theorem wit_TimetableActions_8 : ∃ (s : State) (i : Nat) (d : Nat) (x : TTSlot) (p : TTSlot → Bool), (∀ y, p y = true ↔ ∃ w, y.waiting = some w ∧ y.windowEnd w.toNat ≤ s.ft.toNat) ∧ s.steps.evalSlot = none ∧ s.firstWaiting 6 p = some (i, x, d) :=
  ⟨{ up with ft := word (ticksUs 10), table := { up.table with slots := [(3, { slotOf 6 1 with entry := ⟨0, 0, 10, 6, 1, 1, 0⟩, waiting := some 0 })] } }, 3, 0, { slotOf 6 1 with entry := ⟨0, 0, 10, 6, 1, 1, 0⟩, waiting := some 0 }, fun y => y.waiting.any fun w => decide (y.windowEnd w.toNat ≤ (word (ticksUs 10)).toNat), (by intro y; simp [Option.any_eq_true]), by decide +kernel⟩

theorem wit_TimetableActions_9 : ∃ (s : State) (t : State) (i : Nat) (d : Nat) (k : Nat) (u : Nat) (ch : Nat) (x : TTSlot) (c : CalKind), ((c = .lpddr6 ∧ s.fallsNow i 7 t x d k) ∨ (c = .inlay ∧ s.fallsNow i 8 t x d k)) ∧ x.entry.cal = (c, u, ch) ∧ calOk c u ch = true ∧ t.calServes c u = true ∧ x.waiting = none ∧ t.windowOpen c u = false :=
  ⟨(armedWith [(3, (slotOf 7 0x705))] (up)), _, 3, _, _, 5, 7, _, .lpddr6, .inl ⟨rfl, falls_ (y := (slotOf 7 0x705)) (d := 0) (j := 3) (by decide +kernel)⟩, by decide +kernel⟩

theorem wit_TimetableActions_10 : ∃ (s : State) (t : State) (i : Nat) (d : Nat) (k : Nat) (u : Nat) (ch : Nat) (x : TTSlot) (c : CalKind), ((c = .lpddr6 ∧ s.fallsNow i 7 t x d k) ∨ (c = .inlay ∧ s.fallsNow i 8 t x d k)) ∧ x.entry.cal = (c, u, ch) ∧ calOk c u ch = true ∧ t.calServes c u = true ∧ x.waiting = none ∧ t.windowOpen c u = true ∧ x.entry.windowUs ≠ 0 :=
  ⟨(armedWith [(3, ({ slotOf 7 0x705 with entry := ⟨0, 0, 10, 7, 1, 0x705, 0⟩ } : TTSlot))] ({ up with mem := { up.mem with windows := [(.lpddr6, 5, 0, 0, false)] } })), _, 3, _, _, 5, 7, _, .lpddr6, .inl ⟨rfl, falls_ (y := ({ slotOf 7 0x705 with entry := ⟨0, 0, 10, 7, 1, 0x705, 0⟩ } : TTSlot)) (d := 0) (j := 3) (by decide +kernel)⟩, by decide +kernel⟩

theorem wit_TimetableActions_11 : ∃ (s : State) (i : Nat) (x : TTSlot) (w : Word), (x.entry.action = 7 ∨ x.entry.action = 8) ∧ tabFind s.table.slots i = some x ∧ x.waiting = some w ∧ s.benchServes = true ∧ x.windowEnd w.toNat ≤ s.ft.toNat :=
  ⟨{ up with table := { up.table with slots := [(3, { slotOf 7 0x705 with waiting := some 0 })] } }, 3, { slotOf 7 0x705 with waiting := some 0 }, 0, .inl rfl, by decide +kernel⟩

theorem wit_TimetableActions_12 : ∃ (s : State) (u : Nat) (ch : Nat) (c : CalKind), s.mem.windows.any (fun w => w.1 == c && w.2.1 == u && w.2.2.1 == ch) = true :=
  ⟨{ up with mem := { up.mem with windows := [(.inlay, 23, 31, 0, false)] } }, 23, 31, .inlay, by decide +kernel⟩

theorem wit_TimetableActions_13 : ∃ (s : State) (u : Nat) (ch : Nat) (c : CalKind), calOk c u ch = true ∧ s.rbit .memCalCtrl 16 = true ∧ s.calServes c u = true ∧ s.windowOpen c u = false ∧ tabGet 0 s.mem.windowAt (calKey c u ch) + 2 * s.calInterval c ≤ s.now :=
  ⟨{ up with now := ticksS 1 }, 23, 31, .inlay, by decide +kernel⟩

theorem wit_TwinCommandsComplete_1 : ∃ (s : State) (u : State) (c : OpenCmd) (x : TwinTransfer), s.executes c 0x0700 u ∧ x = transferOf true c ∧ u.transferBad x = false ∧ x.generation = u.fabric.partition.generation ∧ u.retentionBusy = false ∧ u.stepOpen = false ∧ x.contexts.any (fun n => (u.context n).busy) = false ∧ u.twin.mirrorValid = true ∧ u.steps.restoreFailed = false ∧ x.step = u.steps.sealedStep ∧ x.letter = u.steps.sealedLetter :=
  ⟨(atCmd 0x0700 (fs [(4, 0), (4, 0), (8, 7), (1, 1), (1, 1), (2, 0)]) fun s => { s with twin := { s.twin with mirrorValid := true }, steps := { s.steps with sealedStep := 7, sealedLetter := 1 } }), _, (cmdOf 0x0700 (fs [(4, 0), (4, 0), (8, 7), (1, 1), (1, 1), (2, 0)])), _, exec_ (by decide +kernel), rfl, by decide +kernel⟩

theorem wit_TwinCommandsComplete_2 : ∃ (s : State) (u : State) (c : OpenCmd) (x : TwinTransfer), s.executes c 0x0701 u ∧ x = transferOf false c ∧ u.transferBad x = false ∧ u.retentionBusy = false ∧ u.stepOpen = false ∧ x.contexts.any (fun n => (u.context n).busy) = false :=
  ⟨(atCmd 0x0701 (fs [(4, 0), (4, 0), (8, 0), (1, 0), (1, 1), (2, 0)])), _, (cmdOf 0x0701 (fs [(4, 0), (4, 0), (8, 0), (1, 0), (1, 1), (2, 0)])), _, exec_ (by decide +kernel), rfl, by decide +kernel⟩

theorem wit_TwinCommandsComplete_3 : ∃ (s : State) (u : State) (c : OpenCmd), s.executes c 0x0702 u ∧ u.stepOpen = false ∧ u.retentionBusy = false ∧ u.twin.mirrorValid = true ∧ u.twin.role ≠ 2 :=
  ⟨(atCmd 0x0702 [] fun s => { s with twin := { s.twin with mirrorValid := true } }), _, (cmdOf 0x0702 []), exec_ (by decide +kernel), by decide +kernel⟩

theorem wit_TwinCommandsComplete_4 : ∃ (s : State) (u : State) (c : OpenCmd), s.executes c 0x0702 u ∧ u.stepOpen = false ∧ u.retentionBusy = false ∧ (u.twin.mirrorValid = false ∨ u.twin.role = 2) :=
  ⟨(atCmd 0x0702 []), _, (cmdOf 0x0702 []), exec_ (by decide +kernel), by decide +kernel⟩

theorem wit_TwinCommandsComplete_5 : ∃ (s : State) (u : State) (c : OpenCmd), s.executes c 0x0702 u ∧ (u.stepOpen = true ∨ u.retentionBusy = true) :=
  ⟨(atCmd 0x0702 [] fun s => withStep (stepRec 4 0 1) s), _, (cmdOf 0x0702 []), exec_ (by decide +kernel), by decide +kernel⟩

theorem wit_CheckpointCommandsComplete_1 : ∃ (s : State) (u : State) (c : OpenCmd) (r : StepRec), s.executes c 0x0703 u ∧ u.step? (uAt c.params 0 8) = some r ∧ u.retentionBusy = false ∧ (u.longOps.any fun o => o.2 == .ckptCut) = false ∧ (r.phase = 1 ∨ r.phase = 2) ∧ r.cut = none :=
  ⟨(atCmd 0x0703 (fs [(8, 4), (1, 1)]) fun s => withStep (stepRec 4 0 1) s), _, (cmdOf 0x0703 (fs [(8, 4), (1, 1)])), stepRec 4 0 1, exec_ (by decide +kernel), by decide +kernel⟩

theorem wit_CheckpointCommandsComplete_2 : ∃ (s : State) (u : State) (c : OpenCmd) (v : Nat), s.executes c 0x0704 u ∧ u.ckpt.writing = none ∧ u.ckpt.frozen = some (v, uAt c.params 0 8) :=
  ⟨(atCmd 0x0704 (fs [(8, 4)]) fun s => { s with ckpt := { s.ckpt with frozen := some (0, 4), state := 3 } }), _, (cmdOf 0x0704 (fs [(8, 4)])), 0, exec_ (by decide +kernel), by decide +kernel⟩

theorem wit_CheckpointCommandsComplete_3 : ∃ (s : State) (u : State) (c : OpenCmd), s.executes c 0x0704 u ∧ u.ckpt.writing.isSome = true :=
  ⟨(atCmd 0x0704 (fs [(8, 4)]) fun s => { s with ckpt := { s.ckpt with frozen := some (0, 4), writing := some imageWrite } }), _, (cmdOf 0x0704 (fs [(8, 4)])), exec_ (by decide +kernel), by decide +kernel⟩

theorem wit_CheckpointCommandsComplete_4 : ∃ (s : State) (u : State) (c : OpenCmd) (w : ImageWrite) (v : Nat) (n : Nat), s.executes c 0x0705 u ∧ n = uAt c.params 0 8 ∧ u.retentionBusy = false ∧ u.ckpt.last = some w ∧ u.ckpt.frozen = some (v, n) ∧ u.ckpt.state = 3 ∧ w.step = n :=
  ⟨(atCmd 0x0705 (fs [(8, 4)]) fun s => { s with ckpt := { s.ckpt with frozen := some (0, 4), state := 3, last := some imageWrite } }), _, (cmdOf 0x0705 (fs [(8, 4)])), imageWrite, 0, _, exec_ (by decide +kernel), rfl, by decide +kernel⟩

theorem wit_CheckpointCommandsComplete_5 : ∃ (s : State) (u : State) (c : OpenCmd), s.executes c 0x0706 u ∧ uAt c.params 0x14 1 ≤ 1 ∧ uAt c.params 0xC 4 < 2 ^ 17 ∧ uAt c.params 0 8 < 2 ^ 48 ∧ (u.stepOpen = false ∨ u.heldByCut = true) ∧ u.retentionBusy = false :=
  ⟨(atCmd 0x0706 (fs [(8, 4), (4, 0), (4, 0), (4, 1), (1, 0)])), _, (cmdOf 0x0706 (fs [(8, 4), (4, 0), (4, 0), (4, 1), (1, 0)])), exec_ (by decide +kernel), by decide +kernel⟩

theorem wit_JournalCommandsComplete_1 : ∃ (s : State) (u : State) (c : OpenCmd), s.executes c 0x0800 u :=
  ⟨(atCmd 0x0800 []), _, (cmdOf 0x0800 []), exec_ (by decide +kernel)⟩

theorem wit_JournalCommandsComplete_2 : ∃ (s : State) (u : State) (c : OpenCmd), s.executes c 0x0801 u ∧ uAt c.params 12 1 = 0 :=
  ⟨(atCmd 0x0801 (fs [(8, 0), (4, 64), (1, 0)])), _, (cmdOf 0x0801 (fs [(8, 0), (4, 64), (1, 0)])), exec_ (by decide +kernel), by decide +kernel⟩

theorem wit_JournalCommandsComplete_3 : ∃ (s : State) (u : State) (c : OpenCmd), s.executes c 0x0801 u ∧ uAt c.params 12 1 ≠ 0 :=
  ⟨(atCmd 0x0801 (fs [(8, 0), (4, 64), (1, 1)])), _, (cmdOf 0x0801 (fs [(8, 0), (4, 64), (1, 1)])), exec_ (by decide +kernel), by decide +kernel⟩

theorem wit_JournalCommandsComplete_4 : ∃ (s : State) (u : State) (c : OpenCmd), s.executes c 0x0802 u ∧ u.journal.compacting = none :=
  ⟨(atCmd 0x0802 []), _, (cmdOf 0x0802 []), exec_ (by decide +kernel), by decide +kernel⟩

theorem wit_JournalCommandsComplete_5 : ∃ (s : State) (u : State) (c : OpenCmd) (n : Nat) (cs : List Nat), s.executes c 0x0802 u ∧ u.journal.compacting = some (n, cs) :=
  ⟨(atCmd 0x0802 [] fun s => { s with journal := { s.journal with compacting := some (3, [9]) } }), _, (cmdOf 0x0802 []), 3, [9], exec_ (by decide +kernel), by decide +kernel⟩

theorem wit_JournalCommandsComplete_6 : ∃ (s : State) (n : Nat) (cs : List Nat), s.journal.compacting = some (n, cs) :=
  ⟨{ up with journal := { up.journal with compacting := some (3, [9]) } }, 3, [9], by decide +kernel⟩

theorem wit_JournalCommandsComplete_7 : ∃ (s : State), s.journal.compacting = none :=
  ⟨up, by decide +kernel⟩

theorem wit_ImagesAndTransfersEnd_1 : ∃ (s : State) (t : State) (w : ImageWrite), t = s.sourceRead w ∧ s.ckpt.writing = some w ∧ t.poisonedShard w = none :=
  ⟨{ up with ckpt := { up.ckpt with writing := some imageWrite } }, _, imageWrite, rfl, by decide +kernel⟩

theorem wit_ImagesAndTransfersEnd_2 : ∃ (s : State) (t : State) (w : ImageWrite) (k : Nat), t = s.sourceRead w ∧ s.ckpt.writing = some w ∧ t.poisonedShard w = some k :=
  ⟨{ { up with programs := [(0, { program0 with base := 0x00E000000000 })], mem := { up.mem with errors := [(0x00E000000000, poisonPattern)] } } with ckpt := { up.ckpt with writing := some { imageWrite with captured := [(4, zeros 64)] } } }, _, { imageWrite with captured := [(4, zeros 64)] }, 0, rfl, by decide +kernel⟩

theorem wit_ImagesAndTransfersEnd_3 : ∃ (s : State) (t : State) (w : ImageWrite) (shard : Nat), t = s.sourceRead w ∧ (∀ k, t.poisonedShard w = some k → shard ≤ k) ∧ s.ckpt.writing = some w ∧ t.ckpt.writing = some w :=
  ⟨{ up with ckpt := { up.ckpt with writing := some imageWrite } }, _, imageWrite, 0, rfl, fun _ _ => Nat.zero_le _, by decide +kernel⟩

theorem wit_ImagesAndTransfersEnd_4 : ∃ (s : State) (x : TwinTransfer), s.twin.transfer = some x ∧ s.transferDone x = true ∧ x.digesting = false ∧ x.sending = true :=
  ⟨{ up with twin := { up.twin with transfer := some ⟨true, 1, 0, 4, 0, 1, 200, 9, false, []⟩ } }, ⟨true, 1, 0, 4, 0, 1, 200, 9, false, []⟩, by decide +kernel⟩

theorem wit_ImagesAndTransfersEnd_5 : ∃ (s : State) (x : TwinTransfer), (∃ n ∈ x.contexts, ∃ p, (s.context n).rx = some p ∧ p.poison = true) ∧ s.twin.transfer = some x ∧ s.transferDone x = true ∧ x.digesting = false ∧ x.sending = false :=
  ⟨{ up with twin := { up.twin with transfer := some ⟨false, 1, 0, 4, 0, 1, 200, 9, false, []⟩ }, fabric := { up.fabric with contexts := [(200, ⟨none, some { completed := true, sender := 1, address := 0, length := 64, step := 4, attempt := 0, count := 64, beyond := [], cring := 0, poison := true, lastAt := 0, ring := false, taken := false, ackDue := false }⟩), (201, ⟨none, some { completed := true, sender := 1, address := 0, length := 64, step := 4, attempt := 0, count := 64, beyond := [], cring := 0, poison := true, lastAt := 0, ring := false, taken := false, ackDue := false }⟩)] } }, ⟨false, 1, 0, 4, 0, 1, 200, 9, false, []⟩, ⟨200, by decide +kernel, { completed := true, sender := 1, address := 0, length := 64, step := 4, attempt := 0, count := 64, beyond := [], cring := 0, poison := true, lastAt := 0, ring := false, taken := false, ackDue := false }, by decide +kernel, rfl⟩, by decide +kernel⟩

theorem wit_ImagesAndTransfersEnd_6 : ∃ (s : State) (x : TwinTransfer), (∀ n ∈ x.contexts, ∀ p, (s.context n).rx = some p → p.poison = false) ∧ s.twin.transfer = some x ∧ s.transferDone x = true ∧ x.digesting = false ∧ x.sending = false :=
  ⟨{ up with twin := { up.twin with transfer := some ⟨false, 1, 0, 4, 0, 1, 200, 9, false, []⟩ }, fabric := { up.fabric with contexts := [(200, ⟨none, some { completed := true, sender := 1, address := 0, length := 64, step := 4, attempt := 0, count := 64, beyond := [], cring := 0, poison := false, lastAt := 0, ring := false, taken := false, ackDue := false }⟩), (201, ⟨none, some { completed := true, sender := 1, address := 0, length := 64, step := 4, attempt := 0, count := 64, beyond := [], cring := 0, poison := false, lastAt := 0, ring := false, taken := false, ackDue := false }⟩)] } }, ⟨false, 1, 0, 4, 0, 1, 200, 9, false, []⟩, no_poison (by decide +kernel), by decide +kernel⟩

theorem wit_ImagesAndTransfersEnd_7 : ∃ (s : State) (t : State) (u : State) (x : TwinTransfer), s.twin.transfer = some x ∧ u = s.digestRead (s.ownMaster x.letter) ∧ t = u.digestRead (s.mirrorMaster x.letter) ∧ t.recordMatches x 0 (t.ownMaster x.letter) = true ∧ t.recordMatches x 1 (t.mirrorMaster x.letter) = true ∧ x.sending = false ∧ x.digesting = true :=
  ⟨{ up with twin := { up.twin with transfer := some transferIn } }, _, _, transferIn, rfl, rfl, rfl, matches_ (r := transferIn.records[0]) rfl rfl (by decide +kernel) rfl, matches_ (r := transferIn.records[1]) rfl rfl (by decide +kernel) rfl, by decide +kernel⟩

theorem wit_ImagesAndTransfersEnd_8 : ∃ (s : State) (t : State) (u : State) (x : TwinTransfer), u = s.digestRead (s.ownMaster x.letter) ∧ t = u.digestRead (s.mirrorMaster x.letter) ∧ (t.recordMatches x 0 (t.ownMaster x.letter) = false ∨ t.recordMatches x 1 (t.mirrorMaster x.letter) = false) ∧ s.twin.transfer = some x ∧ x.sending = false ∧ x.digesting = true :=
  ⟨{ up with twin := { up.twin with transfer := some ⟨false, 1, 0, 4, 0, 1, 200, 9, true, []⟩ } }, _, _, ⟨false, 1, 0, 4, 0, 1, 200, 9, true, []⟩, rfl, rfl, .inl rfl, by decide +kernel⟩

theorem wit_ImagesAndTransfersEnd_9 : ∃ (s : State) (t : State) (r : Restore) (st : Status) (off : List Nat) (hs : List (Option (List Byte))), t = (upFrom 1 (hs.length - 1)).foldl (fun t k => t.readObject r.slot k 0 4096) s ∧ s.ckpt.restore = some r ∧ r.headers = [] ∧ t.headerFault r hs = some (st, off) :=
  ⟨{ up with security := { up.security with keys := [(0, ⟨6, [], false⟩)] }, ckpt := { up.ckpt with restore := some ⟨4, 0, 0, 1, 0, 9, []⟩ } }, _, ⟨4, 0, 0, 1, 0, 9, []⟩, .timeout, [0], [none], rfl, by decide +kernel⟩

theorem wit_ImagesAndTransfersEnd_10 : ∃ (s : State) (t : State) (r : Restore) (hs : List (Option (List Byte))), t = (upFrom 1 (hs.length - 1)).foldl (fun t k => t.readObject r.slot k 0 4096) s ∧ s.ckpt.restore = some r ∧ r.headers = [] ∧ t.headerFault r hs = none :=
  ⟨{ up with security := { up.security with keys := [(0, ⟨6, [], false⟩)] }, ckpt := { up.ckpt with restore := some ⟨4, 0, 0, 1, 0, 9, []⟩ } }, _, ⟨4, 0, 0, 1, 0, 9, []⟩, [some (fs [(4, 0x5A474931), (2, 1), (1, 0), (1, 0), (6, 4), (2, 0), (4, 0), (4, 0), (4, 0), (4, 1), (4, 0), (4, 1)] ++ zeros 0x68)], rfl, by decide +kernel⟩

theorem wit_ImagesAndTransfersEnd_11 : ∃ (s : State) (r : Restore) (ps : List (Option (List Byte))), s.ckpt.restore = some r ∧ r.headers ≠ [] ∧ (s.payloadsPassed (r.headers.zipIdx.map fun h => (h.1, (ps[h.2]?).bind id))).2 = none :=
  ⟨{ up with security := { up.security with keys := [(0, ⟨6, [], false⟩)] }, ckpt := { up.ckpt with restore := some ⟨4, 0, 0, 1, 0, 9, [goodHeader]⟩ } }, ⟨4, 0, 0, 1, 0, 9, [goodHeader]⟩, [some []], rfl, by simp, goodPayload⟩

theorem wit_ImagesAndTransfersEnd_12 : ∃ (s : State) (r : Restore) (e : Status) (ps : List (Option (List Byte))), s.ckpt.restore = some r ∧ r.headers ≠ [] ∧ (s.payloadsPassed (r.headers.zipIdx.map fun h => (h.1, (ps[h.2]?).bind id))).2 = some e :=
  ⟨{ up with security := { up.security with keys := [(0, ⟨6, [], false⟩)] }, ckpt := { up.ckpt with restore := some ⟨4, 0, 0, 1, 0, 9, [goodHeader]⟩ } }, ⟨4, 0, 0, 1, 0, 9, [goodHeader]⟩, .timeout, [none], rfl, by simp, by decide +kernel⟩

theorem wit_SnapshotsLatchAndRead_1 : ∃ (s : State) (u : State) (c : OpenCmd) (x : CounterSnapshot) (tag : BitVec 32), s.executes c 0x0900 u ∧ tag = BitVec.ofNat 32 (uAt c.params 0 4) ∧ x = { tag := tag, ft := u.ft, takenAt := u.now, complete := false, generation := u.fabric.partition.generation, values := u.obs.counters } :=
  ⟨(atCmd 0x0900 (fs [(4, 3)])), _, (cmdOf 0x0900 (fs [(4, 3)])), _, _, exec_ (by decide +kernel), rfl, rfl⟩

theorem wit_SnapshotsLatchAndRead_2 : ∃ (s : State) (u : State) (c : OpenCmd) (x : CounterSnapshot), s.executes c 0x0901 u ∧ u.snapshot (uAt c.params 0 4) = some x ∧ uAt c.params 4 4 + uAt c.params 8 4 ≤ counterCount ∧ x.complete = true :=
  ⟨(atCmd 0x0901 (fs [(4, 3), (4, 1207), (4, 1)]) fun s => { s with obs := { s.obs with snapshots := [(0, snap 3 true)] } }), _, (cmdOf 0x0901 (fs [(4, 3), (4, 1207), (4, 1)])), snap 3 true, exec_ (by decide +kernel), by decide +kernel⟩

theorem wit_SnapshotsLatchAndRead_3 : ∃ (s : State) (u : State) (c : OpenCmd) (x : CounterSnapshot), s.executes c 0x0901 u ∧ u.snapshot (uAt c.params 0 4) = some x ∧ uAt c.params 4 4 + uAt c.params 8 4 ≤ counterCount ∧ x.complete = false :=
  ⟨(atCmd 0x0901 (fs [(4, 3), (4, 1207), (4, 1)]) fun s => { s with obs := { s.obs with snapshots := [(0, snap 3 false)] } }), _, (cmdOf 0x0901 (fs [(4, 3), (4, 1207), (4, 1)])), snap 3 false, exec_ (by decide +kernel), by decide +kernel⟩

theorem wit_SnapshotsLatchAndRead_4 : ∃ (s : State) (u : State) (c : OpenCmd), s.executes c 0x0901 u ∧ (u.snapshot (uAt c.params 0 4) = none ∨ counterCount < uAt c.params 4 4 + uAt c.params 8 4) :=
  ⟨(atCmd 0x0901 (fs [(4, 3), (4, 1207), (4, 2)]) fun s => { s with obs := { s.obs with snapshots := [(0, snap 3 false)] } }), _, (cmdOf 0x0901 (fs [(4, 3), (4, 1207), (4, 2)])), exec_ (by decide +kernel), by decide +kernel⟩

theorem wit_SnapshotsLatchAndRead_5 : ∃ (s : State) (x : CounterSnapshot) (tag : BitVec 32) (i : Nat) (mine : List Nat), mine = [] ∧ s.obs.snapshots.find? (fun e => e.2.tag == tag) = some (i, x) ∧ x.complete = false ∧ x.takenAt + ticksUs 1 ≤ s.now ∧ s.obs.waitingReads.filter (fun j => match s.openCmd j with | some d => uAt d.params 0 4 == tag.toNat | none => false) = mine :=
  ⟨{ up with now := ticksUs 1, obs := { up.obs with snapshots := [(0, snap 3 false)] } }, snap 3 false, 3, 0, _, rfl, by decide +kernel⟩

theorem wit_SnapshotsLatchAndRead_6 : ∃ (s : State) (c : OpenCmd) (x : CounterSnapshot) (tag : BitVec 32) (i : Nat) (j : Nat) (mine : List Nat), mine = [j] ∧ s.obs.snapshots.find? (fun e => e.2.tag == tag) = some (i, x) ∧ x.complete = false ∧ x.takenAt + ticksUs 1 ≤ s.now ∧ s.obs.waitingReads.filter (fun j => match s.openCmd j with | some d => uAt d.params 0 4 == tag.toNat | none => false) = mine ∧ s.openCmd j = some c ∧ c.long = false ∧ c.notBefore = none ∧ s.tooLate c = false :=
  ⟨{ putCmd up { cmdOf 0x0901 (fs [(4, 3), (4, 0), (4, 1)]) with phase := .running, long := false } with now := ticksUs 1, obs := { up.obs with snapshots := [(0, snap 3 false)], waitingReads := [9] } }, { cmdOf 0x0901 (fs [(4, 3), (4, 0), (4, 1)]) with phase := .running, long := false }, snap 3 false, 3, 0, 9, _, rfl, by decide +kernel⟩

theorem wit_SnapshotsLatchAndRead_7 : ∃ (s : State) (c : OpenCmd) (x : CounterSnapshot) (tag : BitVec 32) (i : Nat) (j : Nat) (mine : List Nat), mine = [j] ∧ s.obs.snapshots.find? (fun e => e.2.tag == tag) = some (i, x) ∧ x.complete = false ∧ x.takenAt + ticksUs 1 ≤ s.now ∧ s.obs.waitingReads.filter (fun j => match s.openCmd j with | some d => uAt d.params 0 4 == tag.toNat | none => false) = mine ∧ s.openCmd j = some c ∧ c.long = true :=
  ⟨{ putCmd up { cmdOf 0x0901 (fs [(4, 3), (4, 0), (4, 1)]) with phase := .running, long := true } with now := ticksUs 1, obs := { up.obs with snapshots := [(0, snap 3 false)], waitingReads := [9] } }, { cmdOf 0x0901 (fs [(4, 3), (4, 0), (4, 1)]) with phase := .running, long := true }, snap 3 false, 3, 0, 9, _, rfl, by decide +kernel⟩

theorem wit_SnapshotsLatchAndRead_8 : ∃ (s : State) (x : CounterSnapshot) (tag : BitVec 32) (i : Nat), s.obs.snapshots.find? (fun e => e.2.tag == tag) = some (i, x) ∧ (x.complete = true ∨ s.now < x.takenAt + ticksUs 1) :=
  ⟨{ up with obs := { up.obs with snapshots := [(0, snap 3 false)] } }, snap 3 false, 3, 0, by decide +kernel⟩

theorem wit_TraceAndPowerCommands_1 : ∃ (s : State) (u : State) (c : OpenCmd) (rs : List Nat), s.executes c 0x0902 u ∧ ringsOf (uAt c.params 0 4) true = some rs ∧ uAt c.params 4 1 = 0 :=
  ⟨(atCmd 0x0902 (fs [(4, 5 * 2 ^ 28), (1, 0)])), _, (cmdOf 0x0902 (fs [(4, 5 * 2 ^ 28), (1, 0)])), [1944], exec_ (by decide +kernel), by decide +kernel⟩

theorem wit_TraceAndPowerCommands_2 : ∃ (s : State) (u : State) (c : OpenCmd) (rs : List Nat), s.executes c 0x0902 u ∧ ringsOf (uAt c.params 0 4) true = some rs ∧ uAt c.params 4 1 = 1 :=
  ⟨(atCmd 0x0902 (fs [(4, 5 * 2 ^ 28), (1, 1)])), _, (cmdOf 0x0902 (fs [(4, 5 * 2 ^ 28), (1, 1)])), [1944], exec_ (by decide +kernel), by decide +kernel⟩

theorem wit_TraceAndPowerCommands_3 : ∃ (s : State) (u : State) (c : OpenCmd) (rs : List Nat), s.executes c 0x0902 u ∧ ringsOf (uAt c.params 0 4) true = some rs ∧ uAt c.params 4 1 = 2 :=
  ⟨(atCmd 0x0902 (fs [(4, 5 * 2 ^ 28), (1, 2)])), _, (cmdOf 0x0902 (fs [(4, 5 * 2 ^ 28), (1, 2)])), [1944], exec_ (by decide +kernel), by decide +kernel⟩

theorem wit_TraceAndPowerCommands_4 : ∃ (s : State) (u : State) (c : OpenCmd) (rs : List Nat), s.executes c 0x0902 u ∧ ringsOf (uAt c.params 0 4) true = some rs ∧ uAt c.params 4 1 = 3 :=
  ⟨(atCmd 0x0902 (fs [(4, 5 * 2 ^ 28), (1, 3)])), _, (cmdOf 0x0902 (fs [(4, 5 * 2 ^ 28), (1, 3)])), [1944], exec_ (by decide +kernel), by decide +kernel⟩

theorem wit_TraceAndPowerCommands_5 : ∃ (s : State) (u : State) (c : OpenCmd) (r : Nat) (first : Nat) (count : Nat), s.executes c 0x0903 u ∧ first = uAt c.params 4 4 ∧ count = uAt c.params 8 4 ∧ ringsOf (uAt c.params 0 4) false = some [r] ∧ (tabGet traceRingReset u.obs.rings r).state ≠ 1 ∧ first + count ≤ (tabGet traceRingReset u.obs.rings r).entries.length :=
  ⟨(atCmd 0x0903 (fs [(4, 5 * 2 ^ 28), (4, 0), (4, 1)]) fun s => { s with obs := { s.obs with rings := [(1944, ⟨0, [zeros 32], 1⟩)] } }), _, (cmdOf 0x0903 (fs [(4, 5 * 2 ^ 28), (4, 0), (4, 1)])), 1944, _, _, exec_ (by decide +kernel), rfl, rfl, by decide +kernel⟩

theorem wit_TraceAndPowerCommands_6 : ∃ (s : State) (u : State) (c : OpenCmd) (r : Nat), s.executes c 0x0903 u ∧ ringsOf (uAt c.params 0 4) false = some [r] ∧ (tabGet traceRingReset u.obs.rings r).state = 1 :=
  ⟨(atCmd 0x0903 (fs [(4, 5 * 2 ^ 28), (4, 0), (4, 1)]) fun s => { s with obs := { s.obs with rings := [(1944, ⟨1, [zeros 32], 1⟩)] } }), _, (cmdOf 0x0903 (fs [(4, 5 * 2 ^ 28), (4, 0), (4, 1)])), 1944, exec_ (by decide +kernel), by decide +kernel⟩

theorem wit_TraceAndPowerCommands_7 : ∃ (s : State) (u : State) (c : OpenCmd), s.executes c 0x0904 u :=
  ⟨(atCmd 0x0904 []), _, (cmdOf 0x0904 []), exec_ (by decide +kernel)⟩

theorem wit_TraceAndPowerCommands_8 : ∃ (s : State) (u : State) (c : OpenCmd), s.executes c 0x0A00 u :=
  ⟨(atCmd 0x0A00 []), _, (cmdOf 0x0A00 []), exec_ (by decide +kernel)⟩

theorem wit_TraceAndPowerCommands_9 : ∃ (s : State) (u : State) (c : OpenCmd), s.executes c 0x0A01 u ∧ uAt c.params 4 1 = 0 ∧ 1000 ≤ uAt c.params 0 4 ∧ uAt c.params 0 4 ≤ 3800 :=
  ⟨(atCmd 0x0A01 (fs [(4, 3800), (1, 0)])), _, (cmdOf 0x0A01 (fs [(4, 3800), (1, 0)])), exec_ (by decide +kernel), by decide +kernel⟩

theorem wit_TraceAndPowerCommands_10 : ∃ (s : State) (u : State) (c : OpenCmd), s.executes c 0x0A01 u ∧ uAt c.params 4 1 ≠ 0 ∧ (uAt c.params 0 4 = 0 ∨ 30 ≤ uAt c.params 0 4 ∧ uAt c.params 0 4 ≤ 140) :=
  ⟨(atCmd 0x0A01 (fs [(4, 140), (1, 24)])), _, (cmdOf 0x0A01 (fs [(4, 140), (1, 24)])), exec_ (by decide +kernel), by decide +kernel⟩

theorem wit_TraceAndPowerCommands_11 : ∃ (s : State) (u : State) (c : OpenCmd), s.executes c 0x0A01 u ∧ capOk (uAt c.params 4 1 != 0) (uAt c.params 0 4) = false :=
  ⟨(atCmd 0x0A01 (fs [(4, 999), (1, 0)])), _, (cmdOf 0x0A01 (fs [(4, 999), (1, 0)])), exec_ (by decide +kernel), by decide +kernel⟩

theorem wit_ResetCommandsComplete_1 : ∃ (s : State) (u : State) (c : OpenCmd) (d : DomainCode) (i : Nat) (row : Sys2Proof.Instr), s.executes c 0x0B00 u ∧ i = uAt c.params 2 2 ∧ ((uAt c.params 0 1 = 0 ∧ d = .core ∧ row = .resetCore) ∨ (uAt c.params 0 1 = 1 ∧ d = .cluster ∧ row = .resetCluster) ∨ (uAt c.params 0 1 = 2 ∧ d = .die ∧ row = .resetComputeDie) ∨ (uAt c.params 0 1 = 3 ∧ d = .router ∧ row = .resetCarcassRouter) ∨ (uAt c.params 0 1 = 4 ∧ d = .memory ∧ row = .resetCarcassMemory) ∨ (uAt c.params 0 1 = 5 ∧ d = .bench ∧ row = .resetBench)) ∧ i < instances d ∧ u.resetClamped d i = false ∧ u.resetBusy d i = false :=
  ⟨(atCmd 0x0B00 (fs [(2, 2), (2, 23)])), _, (cmdOf 0x0B00 (fs [(2, 2), (2, 23)])), .die, _, .resetComputeDie, exec_ (by decide +kernel), rfl, by decide +kernel⟩

theorem wit_ResetCommandsComplete_2 : ∃ (s : State) (u : State) (c : OpenCmd) (d : DomainCode) (i : Nat) (row : Sys2Proof.Instr), s.executes c 0x0B00 u ∧ i = uAt c.params 2 2 ∧ ((uAt c.params 0 1 = 0 ∧ d = .core ∧ row = .resetCore) ∨ (uAt c.params 0 1 = 1 ∧ d = .cluster ∧ row = .resetCluster) ∨ (uAt c.params 0 1 = 2 ∧ d = .die ∧ row = .resetComputeDie) ∨ (uAt c.params 0 1 = 3 ∧ d = .router ∧ row = .resetCarcassRouter) ∨ (uAt c.params 0 1 = 4 ∧ d = .memory ∧ row = .resetCarcassMemory) ∨ (uAt c.params 0 1 = 5 ∧ d = .bench ∧ row = .resetBench)) ∧ instances d ≤ i :=
  ⟨(atCmd 0x0B00 (fs [(2, 2), (2, 24)])), _, (cmdOf 0x0B00 (fs [(2, 2), (2, 24)])), .die, _, .resetComputeDie, exec_ (by decide +kernel), rfl, by decide +kernel⟩

theorem wit_ResetCommandsComplete_3 : ∃ (s : State) (u : State) (c : OpenCmd) (d : DomainCode) (i : Nat) (row : Sys2Proof.Instr), s.executes c 0x0B00 u ∧ i = uAt c.params 2 2 ∧ ((uAt c.params 0 1 = 0 ∧ d = .core ∧ row = .resetCore) ∨ (uAt c.params 0 1 = 1 ∧ d = .cluster ∧ row = .resetCluster) ∨ (uAt c.params 0 1 = 2 ∧ d = .die ∧ row = .resetComputeDie) ∨ (uAt c.params 0 1 = 3 ∧ d = .router ∧ row = .resetCarcassRouter) ∨ (uAt c.params 0 1 = 4 ∧ d = .memory ∧ row = .resetCarcassMemory) ∨ (uAt c.params 0 1 = 5 ∧ d = .bench ∧ row = .resetBench)) ∧ i < instances d ∧ u.resetClamped d i = true :=
  ⟨(atCmd 0x0B00 (fs [(2, 2), (2, 23)]) fun s => { s with dies := [(23, { dieReset with clampReason := 4 })] }), _, (cmdOf 0x0B00 (fs [(2, 2), (2, 23)])), .die, _, .resetComputeDie, exec_ (by decide +kernel), rfl, by decide +kernel⟩

theorem wit_ResetCommandsComplete_4 : ∃ (s : State) (u : State) (c : OpenCmd) (d : DomainCode) (i : Nat) (row : Sys2Proof.Instr), s.executes c 0x0B00 u ∧ i = uAt c.params 2 2 ∧ ((uAt c.params 0 1 = 0 ∧ d = .core ∧ row = .resetCore) ∨ (uAt c.params 0 1 = 1 ∧ d = .cluster ∧ row = .resetCluster) ∨ (uAt c.params 0 1 = 2 ∧ d = .die ∧ row = .resetComputeDie) ∨ (uAt c.params 0 1 = 3 ∧ d = .router ∧ row = .resetCarcassRouter) ∨ (uAt c.params 0 1 = 4 ∧ d = .memory ∧ row = .resetCarcassMemory) ∨ (uAt c.params 0 1 = 5 ∧ d = .bench ∧ row = .resetBench)) ∧ i < instances d ∧ u.resetClamped d i = false ∧ u.resetBusy d i = true :=
  ⟨(atCmd 0x0B00 (fs [(2, 2), (2, 23)]) fun s => { s with resets := [⟨.die, 23, .fenced 0, none, false⟩] }), _, (cmdOf 0x0B00 (fs [(2, 2), (2, 23)])), .die, _, .resetComputeDie, exec_ (by decide +kernel), rfl, by decide +kernel⟩

theorem wit_ResetCommandsComplete_5 : ∃ (s : State) (u : State) (c : OpenCmd), s.executes c 0x0B01 u :=
  ⟨(atCmd 0x0B01 (fs [(4, 0xC01D)])), _, (cmdOf 0x0B01 (fs [(4, 0xC01D)])), exec_ (by decide +kernel)⟩

theorem wit_ResetsRunTheirCourse_1 : ∃ (s : State) (d : DomainCode) (i : Nat) (since : Nat) (r : ResetRun), i < instances d ∧ s.resetRun d i = some r ∧ r.phase = .fenced since ∧ d ≠ .router ∧ since + s.drainTicks d ≤ s.now :=
  ⟨(resetting .core 3 (.fenced 0) (ticksUs 100)), .core, 3, 0, ⟨.core, 3, .fenced 0, none, false⟩, by decide +kernel⟩

theorem wit_ResetsRunTheirCourse_2 : ∃ (s : State) (d : DomainCode) (i : Nat) (since : Nat) (r : ResetRun), i < instances d ∧ s.resetRun d i = some r ∧ r.phase = .fenced since ∧ d ≠ .router ∧ s.now < since + s.drainTicks d :=
  ⟨(resetting .core 3 (.fenced 0) (5)), .core, 3, 0, ⟨.core, 3, .fenced 0, none, false⟩, by decide +kernel⟩

theorem wit_ResetsRunTheirCourse_3 : ∃ (s : State) (d : DomainCode) (i : Nat) (since : Nat) (r : ResetRun), d = .router ∧ i = 0 ∧ i < instances d ∧ s.resetRun d i = some r ∧ r.phase = .fenced since ∧ since + ticksUs 100 ≤ s.now :=
  ⟨(resetting .router 0 (.fenced 0) (ticksUs 100)), _, _, 0, ⟨.router, 0, .fenced 0, none, false⟩, rfl, rfl, by decide +kernel⟩

theorem wit_ResetsRunTheirCourse_4 : ∃ (s : State) (d : DomainCode) (i : Nat) (since : Nat) (r : ResetRun), d = .router ∧ i = 0 ∧ i < instances d ∧ s.resetRun d i = some r ∧ r.phase = .ingressClosed since ∧ since + ticksUs 150 ≤ s.now :=
  ⟨(resetting .router 0 (.ingressClosed 0) (ticksUs 150)), _, _, 0, ⟨.router, 0, .ingressClosed 0, none, false⟩, rfl, rfl, by decide +kernel⟩

theorem wit_ResetsRunTheirCourse_5 : ∃ (s : State) (d : DomainCode) (i : Nat) (since : Nat) (r : ResetRun), i < instances d ∧ s.resetRun d i = some r ∧ r.phase = .asserted since ∧ s.resets.any (fun x => (x.domain != d || x.inst != i) && contains_ x.domain x.inst d i) = false ∧ d ≠ .router ∧ d ≠ .bench ∧ since + ticksMs 1 ≤ s.now :=
  ⟨(resetting .core 3 (.asserted 0) (ticksMs 1)), .core, 3, 0, ⟨.core, 3, .asserted 0, none, false⟩, by decide +kernel⟩

theorem wit_ResetsRunTheirCourse_6 : ∃ (s : State) (d : DomainCode) (i : Nat) (since : Nat) (r : ResetRun), d = .bench ∧ i < instances d ∧ s.resetRun d i = some r ∧ r.phase = .asserted since ∧ s.resets.any (fun x => (x.domain != d || x.inst != i) && contains_ x.domain x.inst d i) = false ∧ since + ticksMs 1 ≤ s.now :=
  ⟨(resetting .bench 0 (.asserted 0) (ticksMs 1)), _, 0, 0, ⟨.bench, 0, .asserted 0, none, false⟩, rfl, by decide +kernel⟩

theorem wit_ResetsRunTheirCourse_7 : ∃ (s : State) (d : DomainCode) (i : Nat) (since : Nat) (r : ResetRun), d = .router ∧ i < instances d ∧ s.resetRun d i = some r ∧ r.phase = .asserted since ∧ s.resets.any (fun x => (x.domain != d || x.inst != i) && contains_ x.domain x.inst d i) = false ∧ since + ticksMs 5 ≤ s.now :=
  ⟨(resetting .router 0 (.asserted 0) (ticksMs 5)), _, 0, 0, ⟨.router, 0, .asserted 0, none, false⟩, rfl, by decide +kernel⟩

theorem wit_ResetsRunTheirCourse_8 : ∃ (s : State) (d : DomainCode) (i : Nat) (since : Nat) (r : ResetRun), i < instances d ∧ s.resetRun d i = some r ∧ r.phase = .returning since ∧ (s.portsTrain = false ∨ since + ticksMs 20 ≤ s.now) :=
  ⟨(resetting .router 0 (.returning 0) (ticksMs 20)), .router, 0, 0, ⟨.router, 0, .returning 0, none, false⟩, by decide +kernel⟩

theorem wit_HeldAndLongCommandsEnd_1 : ∃ (s : State) (c : OpenCmd), s.nextHeld = some c ∧ c.heldFt ≤ s.ft.toNat ∧ s.tableFirst c.heldFt = false ∧ s.benchUp = true ∧ s.boot.commandReady = true ∧ s.journal.fits 0 = true ∧ s.commonRefusal c.session c.opcode c.params = none :=
  ⟨{ putCmd up ({ cmdOf 0x0003 [] with notBefore := some 4, phase := .held false }) with ft := 4 }, { cmdOf 0x0003 [] with notBefore := some 4, phase := .held false }, by decide +kernel⟩

theorem wit_HeldAndLongCommandsEnd_2 : ∃ (s : State), (∀ c, s.nextHeld = some c → s.ft.toNat < c.heldFt) :=
  ⟨(putCmd up ({ cmdOf 0x0003 [] with notBefore := some 4, phase := .held false })), (by intro c h; cases (show some ({ cmdOf 0x0003 [] with notBefore := some 4, phase := .held false }) = some c from h); decide +kernel)⟩

theorem wit_HeldAndLongCommandsEnd_3 : ∃ (s : State), s.benchUp = true ∧ s.boot.commandReady = true ∧ s.time.lockedOnce = false ∧ s.boot.readyAt + ticksS 60 ≤ s.now :=
  ⟨{ up with now := ticksS 60 }, by decide +kernel⟩

theorem wit_HeldAndLongCommandsEnd_4 : ∃ (s : State) (c : OpenCmd) (errs : Sys2Proof.BitErrors) (j : Nat) (op : LongOp), op = .stepHalt ∧ s.openCmd j = some c ∧ tabFind s.longOps j = some op ∧ c.phase = .running ∧ s.power.rails = .on ∧ (s.hit errs).benchUp = true :=
  ⟨(running (.stepHalt)), { cmdOf 0x0B03 [0] with phase := .running }, [], 9, _, rfl, by decide +kernel⟩

theorem wit_HeldAndLongCommandsEnd_5 : ∃ (s : State) (c : OpenCmd) (errs : Sys2Proof.BitErrors) (j : Nat) (op : LongOp) (a : _) (b : _) (x : _) (y : _), op = .stepRecall a b x y ∧ s.openCmd j = some c ∧ tabFind s.longOps j = some op ∧ c.phase = .running ∧ s.power.rails = .on ∧ (s.hit errs).benchUp = true :=
  ⟨(running (.stepRecall 4 0 false 0)), { cmdOf 0x0B03 [0] with phase := .running }, [], 9, _, 4, 0, false, 0, rfl, by decide +kernel⟩

theorem wit_HeldAndLongCommandsEnd_6 : ∃ (s : State) (c : OpenCmd) (errs : Sys2Proof.BitErrors) (j : Nat) (op : LongOp) (st : _) (data : _), op = .done st data ∧ s.openCmd j = some c ∧ tabFind s.longOps j = some op ∧ c.phase = .running ∧ s.power.rails = .on ∧ (s.hit errs).benchUp = true :=
  ⟨(running (.done .ok [])), { cmdOf 0x0B03 [0] with phase := .running }, [], 9, _, .ok, [], rfl, by decide +kernel⟩

theorem wit_HeldAndLongCommandsEnd_7 : ∃ (s : State) (c : OpenCmd) (errs : Sys2Proof.BitErrors) (j : Nat) (op : LongOp) (r : _) (w : _), op = .imageCommit r w ∧ s.openCmd j = some c ∧ tabFind s.longOps j = some op ∧ c.phase = .running ∧ s.power.rails = .on ∧ (s.hit errs).benchUp = true :=
  ⟨(running (.imageCommit 1 [5])), { cmdOf 0x0B03 [0] with phase := .running }, [], 9, _, 1, [5], rfl, by decide +kernel⟩

theorem wit_HeldAndLongCommandsEnd_8 : ∃ (s : State) (c : OpenCmd) (errs : Sys2Proof.BitErrors) (j : Nat) (op : LongOp) (a : _) (n : _), op = .programLoad a n ∧ s.openCmd j = some c ∧ tabFind s.longOps j = some op ∧ c.phase = .running ∧ s.power.rails = .on ∧ (s.hit errs).benchUp = true :=
  ⟨(running (.programLoad 0 1)), { cmdOf 0x0B03 [0] with phase := .running }, [], 9, _, 0, 1, rfl, by decide +kernel⟩

theorem wit_HeldAndLongCommandsEnd_9 : ∃ (s : State) (c : OpenCmd) (errs : Sys2Proof.BitErrors) (j : Nat) (op : LongOp) (i : _) (k : _) (l : _), op = .fieldTest i k l ∧ s.openCmd j = some c ∧ tabFind s.longOps j = some op ∧ c.phase = .running ∧ s.power.rails = .on ∧ (s.hit errs).benchUp = true :=
  ⟨(running (.fieldTest 0 3 [])), { cmdOf 0x0B03 [0] with phase := .running }, [], 9, _, 0, 3, [], rfl, by decide +kernel⟩

theorem wit_HeldAndLongCommandsEnd_10 : ∃ (s : State) (c : OpenCmd) (errs : Sys2Proof.BitErrors) (j : Nat) (op : LongOp) (a : _) (n : _) (b : _), op = .memFill a n b ∧ s.openCmd j = some c ∧ tabFind s.longOps j = some op ∧ c.phase = .running ∧ s.power.rails = .on ∧ (s.hit errs).inReset .memory 0 = false ∧ (s.hit errs).clampedUnder [(a, n)] = false :=
  ⟨(running (.memFill 0 16 [])), { cmdOf 0x0B03 [0] with phase := .running }, [], 9, _, 0, 16, [], rfl, by decide +kernel⟩

theorem wit_HeldAndLongCommandsEnd_11 : ∃ (s : State) (c : OpenCmd) (errs : Sys2Proof.BitErrors) (j : Nat) (op : LongOp) (d : Nat) (a : Nat) (n : Nat) (f : State), op = .memCopy d a n ∧ f = (s.hit errs).fetch .carcass a n ∧ s.openCmd j = some c ∧ tabFind s.longOps j = some op ∧ c.phase = .running ∧ s.power.rails = .on ∧ (s.hit errs).inReset .memory 0 = false ∧ (s.hit errs).clampedUnder [(a, n), (d, n)] = false :=
  ⟨(running (.memCopy 64 0 16)), { cmdOf 0x0B03 [0] with phase := .running }, [], 9, _, 64, 0, 16, _, rfl, rfl, by decide +kernel⟩

theorem wit_HeldAndLongCommandsEnd_12 : ∃ (s : State) (c : OpenCmd) (errs : Sys2Proof.BitErrors) (j : Nat) (op : LongOp) (a : Nat) (n : Nat) (f : State), op = .memDigest a n ∧ f = (s.hit errs).fetch .carcass a n ∧ s.openCmd j = some c ∧ tabFind s.longOps j = some op ∧ c.phase = .running ∧ s.power.rails = .on ∧ (s.hit errs).inReset .memory 0 = false ∧ (s.hit errs).clampedUnder [(a, n)] = false :=
  ⟨(running (.memDigest 0 16)), { cmdOf 0x0B03 [0] with phase := .running }, [], 9, _, 0, 16, _, rfl, rfl, by decide +kernel⟩

theorem wit_EarlyBootStagesEnd_1 : ∃ (s : State), s.benchUp = true ∧ s.boot.stopAfter = none ∧ s.inStage 0 = true ∧ s.security.level ≠ 3 :=
  ⟨State.reset, by decide +kernel⟩

theorem wit_EarlyBootStagesEnd_2 : ∃ (s : State) (cfg : ConfigImage), s.benchUp = true ∧ s.boot.stopAfter = none ∧ s.inStage 1 = true ∧ pairingOk (if 1 < s.boot.frontier then s.security.config.pairing else cfg.pairing) = true ∧ s.security.noIdentity = false :=
  ⟨{ State.reset with boot := { bootReset with stage := 1 } }, { configImageReset with pairing := fs [(2, 0), (1, 2), (5, 0), (1, 1), (1, 0xA0), (1, 3), (5, 0), (8, 0xFF), (1, 2), (1, 0xA0), (1, 3), (5, 0), (8, 0xFF)] }, by decide +kernel⟩

theorem wit_EarlyBootStagesEnd_3 : ∃ (s : State), s.benchUp = true ∧ s.inStage 2 = true :=
  ⟨{ State.reset with boot := { bootReset with stage := 2 } }, by decide +kernel⟩

theorem wit_EarlyBootStagesEnd_4 : ∃ (s : State) (cs : BitVec 8) (bs : BitVec 8) (c : Nat × Nat) (b : Nat × Nat), s.benchUp = true ∧ s.inStage 3 = true ∧ pairingOf s.security.config.pairing 1 cs.toNat = some c ∧ pairingOf s.security.config.pairing 2 bs.toNat = some b :=
  ⟨{ State.reset with boot := { bootReset with stage := 3 }, security := { securityReset with config := { configImageReset with pairing := fs [(2, 0), (1, 2), (5, 0), (1, 1), (1, 0xA0), (1, 3), (5, 0), (8, 0xFF), (1, 2), (1, 0xA0), (1, 3), (5, 0), (8, 0xFF)] } } }, 0xA0, 0xA0, (3, 0xFF), (3, 0xFF), by decide +kernel⟩

theorem wit_EarlyBootStagesEnd_5 : ∃ (s : State) (cs : BitVec 8) (bs : BitVec 8) (c : Nat × Nat), s.benchUp = true ∧ s.inStage 3 = true ∧ pairingOf s.security.config.pairing 1 cs.toNat = some c ∧ pairingOf s.security.config.pairing 2 bs.toNat = none :=
  ⟨{ State.reset with boot := { bootReset with stage := 3 }, security := { securityReset with config := { configImageReset with pairing := fs [(2, 0), (1, 2), (5, 0), (1, 1), (1, 0xA0), (1, 3), (5, 0), (8, 0xFF), (1, 2), (1, 0xA0), (1, 3), (5, 0), (8, 0xFF)] } } }, 0xA0, 0xB0, (3, 0xFF), by decide +kernel⟩

theorem wit_LateBootStagesEnd_1 : ∃ (s : State), s.benchUp = true ∧ s.boot.commandReady = false ∧ s.boot.stage = 4 :=
  ⟨{ State.reset with boot := { bootReset with stage := 4 } }, by decide +kernel⟩

theorem wit_LateBootStagesEnd_2 : ∃ (s : State), s.benchUp = true ∧ s.boot.stage = 5 ∧ s.boot.stopStatus ≠ .clamped :=
  ⟨{ State.reset with boot := { bootReset with stage := 5 } }, by decide +kernel⟩

theorem wit_LateBootStagesEnd_3 : ∃ (s : State), s.benchUp = true ∧ s.boot.stage = 6 :=
  ⟨{ State.reset with boot := { bootReset with stage := 6 } }, by decide +kernel⟩

theorem wit_LateBootStagesEnd_4 : ∃ (s : State), s.benchUp = true ∧ s.boot.stage = 7 ∧ s.boot.trainingReady = false :=
  ⟨{ State.reset with boot := { bootReset with stage := 7 } }, by decide +kernel⟩

theorem wit_RailsRiseAndFall_1 : ∃ (s : State) (feed : Nat) (die : Nat), feed < 2 ∧ die < 26 ∧ s.power.qualified feed = false ∧ s.power.rails = .off ∧ s.power.coldResetHeld = false ∧ s.power.tripped = false ∧ s.power.svcEn = false :=
  ⟨{ up with now := 0, power := { up.power with qualified1 := false, rails := .off } }, 1, 25, by decide +kernel⟩

theorem wit_RailsRiseAndFall_2 : ∃ (s : State) (feed : Nat) (die : Nat), feed < 2 ∧ die < 26 ∧ s.power.qualified feed = false ∧ s.power.rails = .on ∧ s.power.feedLost feed = true :=
  ⟨{ up with now := 0, power := { up.power with qualified1 := false, feedLost1 := true } }, 1, 25, by decide +kernel⟩

theorem wit_RailsRiseAndFall_3 : ∃ (s : State) (feed : Nat) (other : Nat) (die : Nat), other = 1 - feed ∧ feed < 2 ∧ die < 26 ∧ s.power.qualified feed = true ∧ s.power.qualified other = true ∧ s.power.rails = .on :=
  ⟨{ up with now := 0, power := { up.power with dark := false } }, 1, _, 25, rfl, by decide +kernel⟩

theorem wit_RailsRiseAndFall_4 : ∃ (s : State) (feed : Nat) (other : Nat) (die : Nat), other = 1 - feed ∧ feed < 2 ∧ die < 26 ∧ s.power.qualified feed = true ∧ s.power.qualified other = false ∧ s.power.rails = .on :=
  ⟨{ up with now := 0, power := { up.power with qualified0 := false } }, 1, _, 25, rfl, by decide +kernel⟩

theorem wit_RailsRiseAndFall_5 : ∃ (s : State) (feed : Nat) (since : Nat) (die : Nat), feed < 2 ∧ die < 26 ∧ s.power.rails = .rising since ∧ since + ticksMs 16 ≤ s.now :=
  ⟨{ up with now := ticksMs 16, power := { up.power with rails := .rising 0 } }, 1, 0, 25, by decide +kernel⟩

theorem wit_RailsRiseAndFall_6 : ∃ (s : State) (feed : Nat) (ns : Nat) (die : Nat), feed < 2 ∧ die < 26 ∧ s.power.rails = .on ∧ 10000 ≤ ns :=
  ⟨{ up with now := 0, power := { up.power with dark := false } }, 1, 10000, 25, by decide +kernel⟩

theorem wit_RailsRiseAndFall_7 : ∃ (s : State) (feed : Nat) (ns : Nat) (die : Nat), feed < 2 ∧ die < 26 ∧ s.power.rails = .on ∧ ns < 1000 :=
  ⟨{ up with now := 0, power := { up.power with dark := false } }, 1, 999, 25, by decide +kernel⟩

theorem wit_RailsRiseAndFall_8 : ∃ (s : State) (feed : Nat) (die : Nat), feed < 2 ∧ die < 26 ∧ s.power.rails ≠ .off :=
  ⟨{ up with now := 0, power := { up.power with dark := false } }, 1, 25, by decide +kernel⟩

theorem wit_PowerFailRunsItsCourse_1 : ∃ (s : State) (since : Nat), s.power.bothLostAt = some since ∧ s.power.rails = .on ∧ since + ticksUs 20 ≤ s.now :=
  ⟨{ up with now := ticksUs 20, power := { up.power with bothLostAt := some 0 } }, 0, by decide +kernel⟩

theorem wit_PowerFailRunsItsCourse_2 : ∃ (s : State) (since : Nat), s.power.rails = .failing since ∧ since + ticksUs 20 ≤ s.now ∧ s.power.noticed = false :=
  ⟨{ up with now := ticksUs 20, power := { up.power with rails := .failing 0 } }, 0, by decide +kernel⟩

theorem wit_PowerFailRunsItsCourse_3 : ∃ (s : State) (since : Nat), s.power.rails = .failing since ∧ since + ticksUs 120 ≤ s.now ∧ s.power.dark = false :=
  ⟨{ up with now := ticksUs 120, power := { up.power with rails := .failing 0 } }, 0, by decide +kernel⟩

theorem wit_PowerFailRunsItsCourse_4 : ∃ (s : State) (since : Nat), s.power.rails = .failing since ∧ since + ticksUs 180 ≤ s.now :=
  ⟨{ up with now := ticksUs 180, power := { up.power with rails := .failing 0 } }, 0, by decide +kernel⟩

theorem wit_PowerFailRunsItsCourse_5 : ∃ (s : State), s.benchUp = true :=
  ⟨up, by decide +kernel⟩

theorem wit_PowerFailRunsItsCourse_6 : ∃ (s : State) (o : Output) (at_ : Nat) (rest : List (Output × Nat)), s.notices.repeats = (o, at_) :: rest ∧ at_ + ticksUs 10 ≤ s.now :=
  ⟨{ up with now := ticksUs 10, notices := { up.notices with repeats := [(.marker 0 [], 0)] } }, .marker 0 [], 0, [], by decide +kernel⟩

end Sys2Proof.Tests
end

/-! PROOFS. The statements of the family of chapter 0: which commands run at all (R8), and what a register access reads, writes
and refuses (R9 to R12, R432). -/

namespace Sys2Proof.Machine

/-! ### Which commands run -/

/-- A command whose units exist if `ok` holds answers a next state then, and stops with noSuchUnit otherwise
(assumption log 101). -/
def RunsIff (ok : Bool) (o : Host.Outcome State Fault Refusal) : Prop :=
  (ok = true → ∃ t, o = .next t) ∧ (ok = false → o = .fault .noSuchUnit)

/-- A row that names no unit always runs. -/
theorem runsIff_next {t : State} : RunsIff true (.next t) := ⟨fun _ => ⟨t, rfl⟩, fun h => by cases h⟩

/-- A row guarded by a decidable check on its units runs where the check passes. -/
theorem runsIff_guard {p : Prop} [Decidable p] {t : State} :
    RunsIff (decide p) (if p then .next t else .fault .noSuchUnit) :=
  ⟨fun h => ⟨t, if_pos (of_decide_eq_true h)⟩, fun h => if_neg (of_decide_eq_false h)⟩

/-- A row of one unit runs where the unit is within its number (R8). -/
theorem runsIff_onUnit {n limit : Nat} {t : State} : RunsIff (decide (n < limit)) (onUnit n limit t) := runsIff_guard

/-- A reset domain has the instances that R462 gives it, in the rows and in the check of a command's form. -/
theorem instances_eq_units (d : DomainCode) : instances d = d.units := by cases d <;> rfl

/-- The kinds of units that can be clamped have the same numbers in the rows and in the check of a command's form (R8, R64). -/
theorem UnitKind.count_eq_units (k : UnitKind) : UnitKind.count k = k.units := by cases k <;> rfl

/-- Each command's row guards the units that the command names with the check of `Instr.wellFormed`, and no others. -/
theorem exec_runsIff_wellFormed (i : Instr) (s : State) : RunsIff i.wellFormed (exec i s) := by
  cases i with
  -- Speas ports (R232)
  | speasFrame | speasRetransmitTimeout | speasRotation | speasLinkUp => exact runsIff_onUnit
  | speasWavelengthFail => exact runsIff_guard
  -- cores and their instructions (R8)
  | workItemStart | nop | tileRun | rowOp | copyOp | gatherOp | scatterOp | bindSlot | closeSlot | waitOps | waitSatisfied
  | signalCounter | waitc | waitcSatisfied | postEntry | loopset | djnz | bnz | jump | paramBlock | endItem | tileComplete
  | rowOpComplete | transferComplete | duplicateRun | refereeRun | coreHang => exact runsIff_onUnit
  | unitFieldFault kind unit =>
    show RunsIff (decide (unit < kind.units)) (onUnit unit (UnitKind.count kind) _)
    rw [UnitKind.count_eq_units]
    exact runsIff_onUnit
  -- tensor ports, their cells, markers and queues (R202, R299, R315)
  | openCell | dataCell | ackCell | verdictCell | sealCell | recallCell | timeCell | linkDarkCell | creditCell | codeword
  | creditReturn | timeCellSend | signalDetect | bringUpAttempt | trainingTimeout | portLock | discoveryWord | lossOfSignal
  | jigRotation | mirrorLane | mirrorCompareEnd | steerAck | steerNak | steerAckTimeout | trainLane | laneTrainingEnd
  | trainPass | trainFail | markerLockLoss | laneFail | restripe3 | restripe4 | portStall => exact runsIff_onUnit
  | cellEscape | cellStallDiscard | streamDescriptorStart | streamRetryTimeout | streamReceiveTimeout | bridgePackTimeout
  | streamStall => exact runsIff_onUnit
  -- Ethernet ports
  | rdmaPacket | rdmaRetransmitTimeout | congestionNotification | rateRecovery | priorityFlowControl | ptpMessage
  | ethernetLinkChange => exact runsIff_onUnit
  -- reset domains (R462)
  | drainWindowEnd domain inst =>
    show RunsIff (decide (inst < domain.units)) (onUnit inst (instances domain) _)
    rw [instances_eq_units]
    exact runsIff_onUnit
  | resetRelease domain inst =>
    show RunsIff (decide (inst < domain.units)) (onUnit inst (instances domain) _)
    rw [instances_eq_units]
    exact runsIff_onUnit
  -- feeds and dies
  | feedQualified | feedLeavesRange | thermalTrip => exact runsIff_onUnit
  -- every other command names no unit
  | _ => exact runsIff_next

/-- Settles O5: by cases on the command, whose row makes the check that its form asks for. -/
theorem wellFormedCommandsAlwaysRun : Obligations.WellFormedCommandsAlwaysRun := exec_runsIff_wellFormed

/-! ### Addresses that name no register -/

theorem Reg.aligned_of_ofAddr {a : Nat} {r : Reg} (h : Reg.ofAddr a = some r) : a % 8 = 0 := by
  by_contra ha
  rw [ofAddr_aligned ha] at h
  cases h

/-- An unaligned or undefined address names no register (R9). -/
theorem Reg.ofAddr_eq_none {a : Nat} (h : a % 8 ≠ 0 ∨ Reg.ofAddr a = none) : Reg.ofAddr a = none :=
  h.elim ofAddr_aligned id

/-- A pair at an address that names no register refuses with BAD_PARAM (R9). -/
theorem State.pairRefusal_of_ofAddr_none {u : State} {a : Nat} {mask value : Word} (h : Reg.ofAddr a = none) :
    u.pairRefusal a mask value = some .badParam := by
  simp only [State.pairRefusal, h]

/-- A REG_READ whose list names an address that names no register reads nothing (R431). -/
theorem doRegRead_bad {u : State} {c : OpenCmd} {k : Nat} (hk : k < uAt c.params 0 4)
    (h : Reg.ofAddr (uAt c.params (8 + 8 * k) 8) = none) : doRegRead c u = refuse u .badParam := by
  have hany : (((List.range (uAt c.params 0 4)).map fun i => Reg.ofAddr (uAt c.params (8 + 8 * i) 8)).any (·.isNone)) = true :=
    List.any_eq_true.2 ⟨none, List.mem_map.2 ⟨k, List.mem_range.2 hk, h⟩, rfl⟩
  exact if_pos hany

/-- A command that is turned away leaves the registers and memory of the state in which it began. -/
theorem State.begun_turnedAway_regs_mem (s : State) (c : OpenCmd) (st : Status) (data : List Byte) :
    ((s.begun c).turnedAway c st data).regs = s.regs ∧ ((s.begun c).turnedAway c st data).mem = s.mem :=
  regs_of_rest ((turnedAway_rest _ c st data).trans (begun_rest s c))

/-- A REG_READ that names an undefined address is turned away with BAD_PARAM. -/
theorem execRegRead_bad {s u : State} {c : OpenCmd} {k : Nat} (h : s.executes c 0x0200 u) (hk : k < uAt c.params 0 4)
    (ha : Reg.ofAddr (uAt c.params (8 + 8 * k) 8) = none) : execRegRead s = .next (u.turnedAway c .badParam []) := by
  obtain ⟨ht, rfl⟩ := h
  unfold execRegRead
  rw [State.run_of_takes ht, doRegRead_bad hk ha]
  rfl

/-- A register write is turned away with the status of the first pair that refuses, and with its index (R432). -/
theorem State.run_doRegWrite_bad {s u : State} {c : OpenCmd} {opcode : Nat} {before after : List (Nat × Word × Word)}
    {p : Nat × Word × Word} {st : Status} (h : s.executes c opcode u) (hw : writeTriples opcode c.params = before ++ p :: after)
    (hb : ∀ q ∈ before, u.pairRefusal q.1 q.2.1 q.2.2 = none) (hp : u.pairRefusal p.1 p.2.1 p.2.2 = some st) :
    s.run opcode doRegWrite = u.turnedAway c st (le 4 before.length) := by
  obtain ⟨ht, rfl⟩ := h
  rw [State.run_of_takes ht, doRegWrite_bad (by rw [takes_opcode ht]; exact hw) hb hp]
  rfl

/-- Both rows of a register write, by opcode: the write, then what settles by itself. -/
theorem exec_regWrite_of_opcode {opcode : Nat} (ho : opcode = 0x0201 ∨ opcode = 0x0202) (s : State) (sets : List (Nat × Word)) :
    exec (if opcode = 0x0201 then .regWrite sets else .regWriteMasked sets) s =
      .next ((({ s with colliding := sets } : State).run opcode doRegWrite).uncollide).settle := by
  rcases ho with rfl | rfl <;> rfl

/-- Settles O7: an address that names no register refuses its read or its pair, and a command that is turned away changes
nothing but its record and reply. -/
theorem undefinedRegistersRefuse : Obligations.UndefinedRegistersRefuse := by
  refine ⟨fun a r => Reg.aligned_of_ofAddr, fun s r => (s.readReg r).isLt, ?_, ?_⟩
  · intro s u c k h hk ha
    have hbad := execRegRead_bad h hk (Reg.ofAddr_eq_none ha)
    obtain ⟨-, rfl⟩ := h
    exact ⟨_, hbad, rfl, s.begun_turnedAway_regs_mem c .badParam []⟩
  · intro s u c opcode k a mask value before after sets h ho hw hk hb ha
    have hrun := State.run_doRegWrite_bad h hw hb (State.pairRefusal_of_ofAddr_none (Reg.ofAddr_eq_none ha))
    obtain ⟨-, rfl⟩ := h
    subst hk
    refine ⟨_, ?_, rfl, State.begun_turnedAway_regs_mem _ c .badParam _⟩
    rw [exec_regWrite_of_opcode ho, hrun]

/-! ### What a register holds after a write -/

/-- The register's write has no effect but setting its bits. -/
def Reg.plain : Reg → Prop
  | .ftEpoch | .ttCtrl | .portAdmit _ | .wringPtr _ _ | .netSqPtr _ | .cringPtr _ | .memDrwCarve | .netBridge _ | .noticeCtrl
  | .ftCtrl => False
  | _ => True

/-- A write to a register without an effect of its own only sets its bits. -/
theorem State.writePair_of_plain {r : Reg} (h : r.plain) (s : State) (mask value : Word) :
    s.writePair r mask value = s.setReg r (s.written r mask value) := by
  cases r with
  | ftEpoch | ttCtrl | portAdmit | wringPtr | netSqPtr | cringPtr | memDrwCarve | netBridge | noticeCtrl | ftCtrl => exact h.elim
  | _ => rfl

/-- A write of one pair writes the register that its address names. -/
theorem State.writePairs_singleton {a : Nat} {r : Reg} (h : Reg.ofAddr a = some r) (s : State) (mask value : Word) :
    s.writePairs [(a, mask, value)] = s.writePair r mask value := by
  simp only [State.writePairs, List.foldl_cons, List.foldl_nil, h]

/-- The bits of a register after a write: RW1C bits written as 1 clear but for those that hardware sets in the same cycle, and
writable bits under the mask take the value (R10, R11). -/
theorem State.written_eq (s : State) (r : Reg) (mask value : Word) :
    s.written r mask value =
      r.norm ((((s.reg r &&& ~~~(value &&& mask &&& r.w1c)) ||| (((tabFind s.colliding r.addr).getD 0) &&& r.w1c)) &&&
        ~~~(r.writable &&& mask)) ||| (value &&& (r.writable &&& mask))) :=
  congrArg r.norm (BitVec.or_comm _ _)

theorem State.regs_rise_of_canonical {s : State} (h : s.canonical = true) : keysRise s.regs = true :=
  (kept_of_canonical h).2.2

/-- Settles O19: such a write is one update of the register bank, which reads back what was set and leaves every other entry. -/
theorem registerHoldsItsWrite : Obligations.RegisterHoldsItsWrite := by
  intro s r q a mask value hs ha hr
  have hw : s.writePairs [(a, mask, value)] = s.setReg r (s.written r mask value) :=
    (State.writePairs_singleton ha s mask value).trans (State.writePair_of_plain hr s mask value)
  refine ⟨_, hw, ?_, State.setReg_other s r q _, fun _ => rfl, rfl⟩
  exact (State.setReg_self s r _ (State.regs_rise_of_canonical hs)).trans (State.written_eq s r mask value)

/-! ### Registers with a row of their own -/

/-- The row of a register takes a write, none of whose pairs refuses, that names the register. -/
theorem runWrite_of_names {s u : State} {c : OpenCmd} {pairs : List (Nat × Word × Word)} {r : Reg} {f : Reg → Word → Bool}
    (h : s.writes c u pairs) (hn : names pairs r) (hf : ∀ v, f r v = true) :
    s.runWrite f = .next (State.ended (u.writePairs pairs) c (le 4 0xFFFFFFFF) id).settle := by
  obtain ⟨p, hp, hr⟩ := hn
  exact runWrite_of_writes h f ⟨p, hp, r, hr, hf _⟩

/-- Settles O18: each row is a register write that asks for a pair on its register, RETRAIN for one that sets bit 23. -/
theorem registerRowsComplete : Obligations.RegisterRowsComplete := by
  intro s u t c pairs h ht
  rw [ht]
  simp only [exec, execPortTnAdmit, execRetrain, execFtEpoch, execTtCtrl, execMemDrwCarve, execCoreWringBase, execCoreWringCtrl,
    execCoreWringPtr, execNetCringBase, execNetCringCtrl, execNetCringPtr, execNetSqPtr, execNetChip, execNetGeometry,
    execNetThrottle, execNetBridge, execStepRetainCtrl]
  refine ⟨?portTnAdmit, ?retrain, ?ftEpoch, ?ttCtrl, ?memDrwCarve, ?wringBase, ?wringCtrl, ?wringPtr, ?cringBase, ?cringCtrl,
    ?cringPtr, ?netSqPtr, ?netChip, ?netGeometry, ?netThrottle, ?netBridge, ?retainCtrl⟩
  case retrain =>
    rintro ⟨n, p, hp, hr, hbit⟩
    exact runWrite_of_writes h _ ⟨p, hp, _, hr, beq_iff_eq.2 hbit⟩
  case ftEpoch | ttCtrl | memDrwCarve | netChip | netGeometry | netThrottle | retainCtrl =>
    exact fun hn => runWrite_of_names h hn fun _ => rfl
  case portTnAdmit | cringBase | cringCtrl | cringPtr | netSqPtr | netBridge =>
    exact fun ⟨_, hn⟩ => runWrite_of_names h hn fun _ => rfl
  case wringBase | wringCtrl | wringPtr =>
    exact fun ⟨_, _, hn⟩ => runWrite_of_names h hn fun _ => rfl

end Sys2Proof.Machine

/-! PROOFS. The statements of the family of chapter 1: what the end of each boot stage does (R483, R484, R486). -/

namespace Sys2Proof.Machine

/-! ### The row and the stage in progress -/

/-- BOOT_STAGE_END with the Bench running: the stage ends, then what settles by itself. -/
theorem exec_bootStageEnd_of_stageEnds {s t : State} {o : Sys2Proof.StageOutcome} (hb : s.benchUp = true)
    (h : s.stageEnds o = t) : exec (.bootStageEnd o) s = .next t.settle := by
  show Host.Outcome.next (if s.benchUp then (s.stageEnds o).settle else s) = _
  rw [if_pos hb, h]

theorem State.stageEnds_rom {s : State} {grainOk stage1Ok : Bool} (h : s.inStage 0 = true) :
    s.stageEnds (.rom grainOk stage1Ok) = s.romEnds grainOk stage1Ok := if_pos h

theorem State.stageEnds_images {s : State} {stage2Ok configOk rollbackOk : Bool} {running keys : Nat × Nat × Nat}
    {versions : BitVec 32 × BitVec 32 × BitVec 32} {revoke : BitVec 4} {config : ConfigImage} (h : s.inStage 1 = true) :
    s.stageEnds (.images stage2Ok configOk rollbackOk running versions revoke keys config) =
      s.imagesEnd stage2Ok configOk rollbackOk running versions revoke keys config := if_pos h

theorem State.stageEnds_journal {s : State} (h : s.inStage 2 = true) : s.stageEnds .journal = s.journalEnds := if_pos h

theorem State.stageEnds_dies {s : State} {steppings : List (BitVec 8)} {carcass bench : BitVec 8}
    {laneFail spareFail meshFail : BitVec 24} (h : s.inStage 3 = true) :
    s.stageEnds (.dies steppings carcass bench laneFail spareFail meshFail) =
      s.diesEnd steppings carcass bench laneFail spareFail meshFail := if_pos h

theorem State.stageEnds_commandReady {s : State} (hc : s.boot.commandReady = false) (hs : s.boot.stage = 4) :
    s.stageEnds .commandReady = s.commandReadyEnds := if_pos (by simp [hc, hs])

theorem State.stageEnds_memory {s : State} {lpFail : List (Nat × BitVec 8)} {inlayFail : BitVec 24}
    (hs : s.boot.stage = 5) (hc : s.boot.stopStatus ≠ .clamped) :
    s.stageEnds (.memory lpFail inlayFail) = s.memoryEnds lpFail inlayFail := if_pos (by simp [hs, hc])

theorem State.stageEnds_compute {s : State} {columns : List (Nat × BitVec 32)} {rowPath clusters : List Nat}
    (hs : s.boot.stage = 6) :
    s.stageEnds (.compute columns rowPath clusters) = s.computeEnds columns rowPath clusters := if_pos (by simp [hs])

theorem State.stageEnds_trainingReady {s : State} (hs : s.boot.stage = 7) (ht : s.boot.trainingReady = false) :
    s.stageEnds .trainingReady = s.trainingReadyEnds := if_pos (by simp [hs, ht])

/-! ### Stages 0 and 1 -/

/-- Unless a level 3 alarm has overwritten the helper data, the end of stage 0 notes what the Grain gave, and goes on only
with a stage-1 image (R486, R496). -/
theorem State.romEnds_eq {s : State} (hl : s.security.level ≠ 3) (grainOk stage1Ok : Bool) :
    s.romEnds grainOk stage1Ok =
      if stage1Ok then State.nextStage { s with security := { s.security with noIdentity := !grainOk } } 1
      else { s with security := { s.security with noIdentity := !grainOk } } := by
  have hl' : (s.security.level == 3) = false := beq_eq_false_iff_ne.2 hl
  unfold State.romEnds
  rw [hl', Bool.or_false]

/-- Loading the images touches the security block only. -/
theorem State.loadImages_boot (s : State) (configOk : Bool) (running keys : Nat × Nat × Nat)
    (versions : BitVec 32 × BitVec 32 × BitVec 32) (revoke : BitVec 4) (config : ConfigImage) :
    (s.loadImages configOk running versions revoke keys config).boot = s.boot := rfl

theorem State.loadImages_noIdentity (s : State) (configOk : Bool) (running keys : Nat × Nat × Nat)
    (versions : BitVec 32 × BitVec 32 × BitVec 32) (revoke : BitVec 4) (config : ConfigImage) :
    (s.loadImages configOk running versions revoke keys config).security.noIdentity = s.security.noIdentity := rfl

/-- Stage 1 with its watchdog armed, and with its images loaded unless no module cold reset has come since they were (R501). -/
def State.imagesLoaded (s : State) (running : Nat × Nat × Nat) (versions : BitVec 32 × BitVec 32 × BitVec 32)
    (revoke : BitVec 4) (keys : Nat × Nat × Nat) (config : ConfigImage) : State :=
  let u : State := { s with boot := { s.boot with watchdogArmed := true } }
  if 1 < s.boot.frontier then u else u.loadImages true running versions revoke keys config

theorem State.imagesLoaded_boot (s : State) (running keys : Nat × Nat × Nat)
    (versions : BitVec 32 × BitVec 32 × BitVec 32) (revoke : BitVec 4) (config : ConfigImage) :
    (s.imagesLoaded running versions revoke keys config).boot = { s.boot with watchdogArmed := true } := by
  unfold State.imagesLoaded
  split
  · rfl
  · exact State.loadImages_boot ..

theorem State.imagesLoaded_noIdentity (s : State) (running keys : Nat × Nat × Nat)
    (versions : BitVec 32 × BitVec 32 × BitVec 32) (revoke : BitVec 4) (config : ConfigImage) :
    (s.imagesLoaded running versions revoke keys config).security.noIdentity = s.security.noIdentity := by
  unfold State.imagesLoaded
  split
  · rfl
  · exact State.loadImages_noIdentity ..

/-- With every image verified and a table and record that are valid, stage 1 neither stops boot nor raises an alarm. -/
theorem State.imagesEnd_of_verified {s : State} {config : ConfigImage} (running keys : Nat × Nat × Nat)
    (versions : BitVec 32 × BitVec 32 × BitVec 32) (revoke : BitVec 4)
    (hp : pairingOk (if 1 < s.boot.frontier then s.security.config.pairing else config.pairing) = true)
    (hi : s.security.noIdentity = false) :
    s.imagesEnd true true true running versions revoke keys config =
      State.nextStage { s.imagesLoaded running versions revoke keys config with
        security := { (s.imagesLoaded running versions revoke keys config).security with recordValid := true } } 2 := by
  have hn := (s.imagesLoaded_noIdentity running keys versions revoke config).trans hi
  unfold State.imagesLoaded at hn ⊢
  unfold State.imagesEnd
  simp only [hp, hn, Bool.not_true, Bool.not_false, Bool.false_eq_true, if_false, Bool.and_self, Bool.true_or,
    if_true]

/-! ### Stage 3 -/

/-- Stage 3 up to the pairing evaluation: the stepping codes are read, a die that is absent or without an entry is clamped,
and the pairing registers show the table (R28, R32, R39). -/
def State.diesRead (s : State) (steppings : List (BitVec 8)) (carcass bench : BitVec 8) : State :=
  State.pairTable ((List.range 24).foldl (fun u d =>
    let u := u.setDie d { u.die d with stepping := nth 0 steppings d, present := nth 0 steppings d != 0 }
    if nth 0 steppings d = 0 then u.clampDie d 5 false
    else if (pairingOf s.security.config.pairing 0 (nth 0 steppings d).toNat).isNone then u.clampDie d 1 false else u)
    { s with boot := { s.boot with carcassStepping := carcass, benchStepping := bench } }) steppings

/-- Dies whose Dovetail lanes or mesh fail are clamped; a failed lane is remapped to a spare where the package has DVT_SPARE
(R33). -/
def State.clampFailing (s : State) (laneFail spareFail meshFail : BitVec 24) : State :=
  (List.range 24).foldl (fun u d =>
    if (laneFail.getLsbD d && (!s.boot.features.getLsbD 2 || spareFail.getLsbD d)) || meshFail.getLsbD d
    then u.clampDie d 2 false else u) s

/-- With entries for the Carcass and the Bench, stage 3 evaluates the pairing and makes its tests. -/
theorem State.diesEnd_of_paired {s : State} {steppings : List (BitVec 8)} {carcass bench : BitVec 8} {c b : Nat × Nat}
    (laneFail spareFail meshFail : BitVec 24) (hc : pairingOf s.security.config.pairing 1 carcass.toNat = some c)
    (hb : pairingOf s.security.config.pairing 2 bench.toNat = some b) :
    s.diesEnd steppings carcass bench laneFail spareFail meshFail =
      State.nextStage ((State.pairDies (s.diesRead steppings carcass bench) steppings c b).clampFailing
        laneFail spareFail meshFail) 4 := by
  unfold State.diesEnd
  simp only [hc, hb]
  rfl

/-- Without an entry for the Carcass or the Bench, boot stops with BAD_PARAM and neither test runs (R32, R486; assumption
log 106). -/
theorem State.diesEnd_of_unpaired {s : State} {steppings : List (BitVec 8)} {carcass bench : BitVec 8}
    (laneFail spareFail meshFail : BitVec 24) (h : pairingOf s.security.config.pairing 1 carcass.toNat = none ∨
      pairingOf s.security.config.pairing 2 bench.toNat = none) :
    s.diesEnd steppings carcass bench laneFail spareFail meshFail =
      ((s.diesRead steppings carcass bench).stopAt 3 .badParam).nextStage 4 := by
  unfold State.diesEnd
  dsimp only
  split
  · next c b hc hb =>
    rw [hc, hb] at h
    simp at h
  · rfl

/-! ### Stage 5 -/

/-- Stage 5 goes on to stage 6, unless an LPDDR6 device fails (R25, R486). -/
theorem State.memoryEnds_eq {s t u : State} {lpFail : List (Nat × BitVec 8)} {inlayFail : BitVec 24}
    (ht : t = State.calibrated { s with mem := { (if s.boot.coldCause = 0 ∨ s.boot.coldCause = 5
      then s.mem.clear lpddr6Base lpddr6End else s.mem).clear 0 lpddr6Base with drawers := [] } })
    (hu : u = (List.range 24).foldl (fun t d => if inlayFail.getLsbD d then t.clampDie d 2 false else t) t) :
    s.memoryEnds lpFail inlayFail =
      if (lpFail.filter fun e => e.2 != 0 && decide (e.1 < 24)) = [] then u.nextStage 6
      else u.lpddr6Fails (lpFail.filter fun e => e.2 != 0 && decide (e.1 < 24)) := by
  subst hu ht
  unfold State.memoryEnds
  simp only [List.isEmpty_iff]

/-! ### The statements -/

/-- Settles O57: each of the stages 0 to 3 is in progress, so its end is the one that the model gives it, and where boot is
not to stop the next stage begins. -/
theorem earlyBootStagesEnd : Obligations.EarlyBootStagesEnd := by
  intro s t u v w g1 g k vs rv cfg st cs bs lf sf mf c b hb
  refine ⟨?rom, ?images, ?journal, ?dies⟩
  case rom =>
    intro hstop hs hl
    have hrom (i : Bool) := (State.stageEnds_rom hs).trans (State.romEnds_eq hl g1 i)
    exact ⟨exec_bootStageEnd_of_stageEnds hb ((hrom true).trans (nextStage_begins (n := 1) hstop (by decide))),
      exec_bootStageEnd_of_stageEnds hb (hrom false)⟩
  case images =>
    rintro hstop hs hp hi rfl ht
    obtain rfl : t = s.imagesLoaded g vs rv k cfg := ht
    have hboot := s.imagesLoaded_boot g k vs rv cfg
    refine exec_bootStageEnd_of_stageEnds hb ((State.stageEnds_images hs).trans ?_)
    rw [State.imagesEnd_of_verified g k vs rv hp hi, nextStage_begins (by simp only [hboot, hstop]) (by decide)]
    simp only [hboot]
  case journal =>
    rintro hs rfl rfl rfl rfl
    exact exec_bootStageEnd_of_stageEnds hb (State.stageEnds_journal hs)
  case dies =>
    rintro hs rfl hc
    refine ⟨?_, fun hn => ?_⟩
    · rintro hbench rfl rfl
      exact exec_bootStageEnd_of_stageEnds hb ((State.stageEnds_dies hs).trans (State.diesEnd_of_paired lf sf mf hc hbench))
    · exact exec_bootStageEnd_of_stageEnds hb ((State.stageEnds_dies hs).trans (State.diesEnd_of_unpaired lf sf mf (.inr hn)))

/-- Settles O58: command-ready and the stages 5 to 7 each end as the model says, the stage being the one in progress. -/
theorem lateBootStagesEnd : Obligations.LateBootStagesEnd := by
  intro s t u v w il lp col rp cl hb
  refine ⟨?commandReady, ?memory, ?compute, ?trainingReady⟩
  case commandReady =>
    rintro hc hs rfl rfl rfl
    exact exec_bootStageEnd_of_stageEnds hb (State.stageEnds_commandReady hc hs)
  case memory =>
    intro hs hc ht hu
    exact exec_bootStageEnd_of_stageEnds hb ((State.stageEnds_memory hs hc).trans (State.memoryEnds_eq ht hu))
  case compute =>
    rintro hs rfl rfl rfl rfl
    exact exec_bootStageEnd_of_stageEnds hb (State.stageEnds_compute hs)
  case trainingReady =>
    rintro hs htr rfl
    exact exec_bootStageEnd_of_stageEnds hb (State.stageEnds_trainingReady hs htr)

end Sys2Proof.Machine

/-! PROOFS. The statements of the family of chapter 2: what ENG_STATUS reads (R67), the rounding and the integer addition of
accumulation (R46, R48), and the rows of the check units (R64, R332 to R340). -/

namespace Sys2Proof.Machine

/-! ### ENG_STATUS -/

theorem EngineState.width_add_ones (x : EngineState) : x.width + ones (x.manufacturing ||| x.boot) = 32 :=
  Nat.sub_add_cancel (ones_le _)

/-- An effective width fits its field of ENG_STATUS. -/
theorem EngineState.width_lt (x : EngineState) : x.width < 2 ^ 6 := (Nat.sub_le _ _).trans_lt (by decide)

/-- Software sets no bit of ENG_STATUS, so it reads what the hardware drives. -/
theorem State.readReg_engStatus (s : State) (e : Nat) : s.readReg (.engStatus e) = s.engStatus e :=
  show (s.reg (.engStatus e) &&& (0 ||| 0)) ||| s.engStatus e = s.engStatus e by
    rw [show (0 ||| 0 : Word) = 0#64 from rfl, BitVec.and_zero, BitVec.zero_or]

/-- A field of a register value is the bits of that value, where the field lies within the register. -/
theorem field_word {v lo n : Nat} (h : lo + n ≤ 64) : field (word v) lo n = v / 2 ^ lo % 2 ^ n := by
  have hsplit : 2 ^ 64 = 2 ^ lo * 2 ^ (64 - lo) := by rw [← pow_add]; congr 1; omega
  rw [field, bits, word, BitVec.toNat_ofNat, Nat.shiftRight_eq_div_pow, hsplit, Nat.mod_mul_right_div_self,
    Nat.mod_mod_of_dvd _ (Nat.pow_dvd_pow 2 (by omega))]

/-- A bit of a register value above bit 32 is the bit of the value's upper half. -/
theorem getLsbD_word_upper {v p : Nat} (h : p < 32) : (word v).getLsbD (32 + p) = (v / 2 ^ 32).testBit p := by
  rw [word, BitVec.getLsbD_ofNat, Nat.add_comm 32 p, Nat.testBit_add]
  simp only [show p + 32 < 64 by omega, decide_true, Bool.true_and]

/-- ENG_STATUS with an effective width, the two counts and a bypass map in it, each at its place (R67). -/
def engStatusWord (width mfg boot map : Nat) : Word := word (width + 2 ^ 8 * mfg + 2 ^ 12 * boot + 2 ^ 32 * map)

section
variable {width mfg boot : Nat} (hwidth : width < 2 ^ 6) (hmfg : mfg < 2 ^ 4) (hboot : boot < 2 ^ 4) (map : Nat)
include hwidth hmfg hboot

/-- Each field of ENG_STATUS reads what was put at its place, and the reserved bits between them read as zero. -/
theorem field_engStatusWord :
    field (engStatusWord width mfg boot map) 0 6 = width ∧ field (engStatusWord width mfg boot map) 6 2 = 0 ∧
    field (engStatusWord width mfg boot map) 8 4 = mfg ∧ field (engStatusWord width mfg boot map) 12 4 = boot ∧
    field (engStatusWord width mfg boot map) 16 16 = 0 := by
  unfold engStatusWord
  refine ⟨?_, ?_, ?_, ?_, ?_⟩
  all_goals rw [field_word (by decide)]; omega

/-- The upper half of ENG_STATUS is the bypass map. -/
theorem getLsbD_engStatusWord_upper {p : Nat} (hp : p < 32) :
    (engStatusWord width mfg boot map).getLsbD (32 + p) = map.testBit p :=
  (getLsbD_word_upper hp).trans (congrArg (Nat.testBit · p) (by omega))

end

/-- ENG_STATUS of an engine (R67): its counts wrap where their fields do not hold them. -/
theorem State.engStatus_eq (s : State) (e : Nat) {x : EngineState} (hx : x = s.engine e) :
    s.engStatus e = engStatusWord x.width (ones x.manufacturing % 2 ^ 4)
      ((ones (x.manufacturing ||| x.boot) - ones x.manufacturing) % 2 ^ 4) (x.manufacturing ||| x.boot).toNat := by
  subst hx
  simp only [State.engStatus, engStatusWord, place, Nat.shiftLeft_eq, Nat.mod_eq_of_lt (EngineState.width_lt _), Nat.mod_eq_of_lt (BitVec.isLt _),
    Nat.mul_comm, pow_zero, one_mul]

/-- Settles O21: each field reads its own value, and the counts add up because the manufacturing map is part of the bypass map. -/
theorem engineStatusAgrees : Obligations.EngineStatusAgrees := by
  rintro s e x w hx rfl
  have hcount (n : Nat) : n % 2 ^ 4 < 2 ^ 4 := Nat.mod_lt n (by decide)
  have hsum := x.width_add_ones
  have hpart := ones_mono x.manufacturing x.boot
  rw [State.readReg_engStatus, State.engStatus_eq s e hx]
  obtain ⟨hw, hlow, hmfg, hboot, hhigh⟩ := field_engStatusWord x.width_lt (hcount _) (hcount _) _
  refine ⟨hw, hlow, hhigh, fun p hp => ?map, (congrArg (· + _) hw).trans hsum, fun hfit => ?counts⟩
  case map => rw [getLsbD_engStatusWord_upper x.width_lt (hcount _) (hcount _) _ hp, BitVec.testBit_toNat, BitVec.getLsbD_or]
  case counts =>
    rw [hw, hmfg, hboot]
    omega

/-! ### Rounding to nearest even -/

/-- Round to nearest even takes the integer below where the dropped bits are under half a unit, the one above where they are over,
and the even one of the two half-way (R46, R82). -/
theorem roundShift_even_cases (m k : Nat) :
    (roundShift .even m k = m / 2 ^ k ∧
      (2 * (m % 2 ^ k) < 2 ^ k ∨ 2 * (m % 2 ^ k) = 2 ^ k ∧ m / 2 ^ k % 2 = 0)) ∨
    (roundShift .even m k = m / 2 ^ k + 1 ∧
      (2 ^ k < 2 * (m % 2 ^ k) ∨ 2 * (m % 2 ^ k) = 2 ^ k ∧ m / 2 ^ k % 2 = 1)) := by
  have hpos : 0 < 2 ^ k := Nat.two_pow_pos k
  simp only [roundShift, Nat.shiftRight_eq_div_pow]
  generalize 2 ^ k = unit at *
  split
  case isTrue exact => left; omega
  case isFalse => split <;> omega

/-- Settles O25: in each case of the rounding, from m = q·2^k + r with r the dropped bits. -/
theorem roundsToNearestEven : Obligations.RoundsToNearestEven := by
  intro m k
  have hdiv := Nat.div_add_mod' m (2 ^ k)
  have hlt := Nat.mod_lt m (Nat.two_pow_pos k)
  obtain ⟨heq, hrem⟩ | ⟨heq, hrem⟩ := roundShift_even_cases m k
  case inl => rw [heq]; omega
  case inr =>
    rw [heq, Nat.add_one_mul (m / 2 ^ k)]
    omega

/-! ### Integer accumulation -/

/-- The saturating addition clamps a sum above the range or below it, and says so; any other sum it keeps (R48). -/
theorem satInt32_cases (a b : Int) :
    (2 ^ 31 - 1 < a + b ∧ satInt32 a b = (0x7FFFFFFF, true)) ∨ (a + b < -(2 ^ 31) ∧ satInt32 a b = (0x80000000, true)) ∨
    (-(2 ^ 31) ≤ a + b ∧ a + b ≤ 2 ^ 31 - 1 ∧ satInt32 a b = (BitVec.ofInt 32 (a + b), false)) := by
  by_cases above : 2 ^ 31 - 1 < a + b
  · exact .inl ⟨above, if_pos above⟩
  by_cases below : a + b < -(2 ^ 31)
  · exact .inr (.inl ⟨below, (if_neg above).trans (if_pos below)⟩)
  · exact .inr (.inr ⟨not_lt.1 below, not_lt.1 above, (if_neg above).trans (if_neg below)⟩)

theorem satInt32_toInt (a b : Int) : (satInt32 a b).1.toInt = max (-(2 ^ 31)) (min (2 ^ 31 - 1) (a + b)) := by
  obtain ⟨above, h⟩ | ⟨below, h⟩ | ⟨hlo, hhi, h⟩ := satInt32_cases a b
  · rw [h, show (0x7FFFFFFF : BitVec 32).toInt = 2 ^ 31 - 1 by decide]; omega
  · rw [h, show (0x80000000 : BitVec 32).toInt = -(2 ^ 31) by decide]; omega
  · rw [h, BitVec.toInt_ofInt_eq_self (by decide) hlo (Int.lt_of_le_sub_one hhi), min_eq_right hhi, max_eq_right hlo]

theorem satInt32_saturates (a b : Int) : (satInt32 a b).2 = true ↔ (a + b < -(2 ^ 31) ∨ 2 ^ 31 - 1 < a + b) := by
  obtain ⟨above, h⟩ | ⟨below, h⟩ | ⟨hlo, hhi, h⟩ := satInt32_cases a b
  · exact iff_of_true (congrArg Prod.snd h) (.inr above)
  · exact iff_of_true (congrArg Prod.snd h) (.inl below)
  · exact iff_of_false (by rw [h]; exact Bool.false_ne_true) (by omega)

/-- The exact sum of a group, as the accumulator takes it. -/
theorem foldl_add_toInt (g : List Val) : g.foldl (fun x p => x + p.toInt) 0 = (g.map Val.toInt).sum := by
  rw [List.sum_eq_foldl, List.foldl_map]

theorem intChain_cons (acc : BitVec 32) (g : List Val) (gs : List (List Val)) :
    intChain acc (g :: gs) =
      ((intChain (satInt32 acc.toInt (g.map Val.toInt).sum).1 gs).1,
        (satInt32 acc.toInt (g.map Val.toInt).sum).2 || (intChain (satInt32 acc.toInt (g.map Val.toInt).sum).1 gs).2) := by
  rw [← foldl_add_toInt]
  rfl

/-- Settles O26: one addition by its three cases, a list of groups by its first group. -/
theorem integerSumsSaturate : Obligations.IntegerSumsSaturate := by
  refine ⟨fun a b => ⟨satInt32_toInt a b, satInt32_saturates a b⟩, ?_⟩
  rintro acc g gs _ rfl
  exact intChain_cons acc g gs

/-! ### Check units -/

/-- A field fault of a core has reason 4, one of a cluster or die reason 3 (R38, R68, R70). -/
theorem fieldFaultReason_eq (k : UnitKind) : fieldFaultReason k = if k = .core then 4 else 3 := by cases k <;> rfl

theorem exec_unitFieldFault {k : UnitKind} {u : Nat} (h : u < UnitKind.count k) (s : State) :
    exec (.unitFieldFault k u) s = .next (s.clampUnit k u (if k = .core then 4 else 3) false).settle := by
  rw [← fieldFaultReason_eq]
  exact onUnit_of_lt (decide_eq_true h)

theorem exec_captureEnd (u : Nat) (s : State) : exec (.captureEnd u) s = .next (s.captureEnd u).settle := rfl

theorem exec_fingerprintCompare (u : Nat) (s : State) : exec (.fingerprintCompare u) s = .next (s.compareUnit u).settle := rfl

/-- The end of a capture places the unit's duplicate, unless the accumulation of its original is still the unit's own or it has a
checker (R332, R334). -/
theorem State.captureEnd_of_capturing {s : State} {u : Nat} {x : CheckUnit} (hu : s.unit u = some x) (hc : x.capturing = true) :
    s.captureEnd u =
      if ((s.core x.original).acc.any fun y => y.unit == some u) || x.checker.isSome then s.setUnit u { x with capturing := false }
      else State.placeDuplicate (s.setUnit u { x with capturing := false }) u { x with capturing := false } := by
  have hcore : (s.setUnit u { x with capturing := false }).core x.original = s.core x.original := rfl
  unfold State.captureEnd
  simp only [hu, hc, Bool.not_true, Bool.false_eq_true, if_false, hcore]
  cases (s.core x.original).acc <;> rfl

/-- The arbiter of a core turns to the run at the head of its queue where that run is of the asked kind (R336). -/
theorem State.checkTurn_of_headRun {t : State} {c u : Nat} {referee : Bool} (hw : t.takesWork c = true)
    (hr : (t.core c).restarts = []) (ha : t.arbitrate c = some checkQueue) (hh : t.headRun c = some (u, referee)) :
    t.checkTurn c referee = some u := by
  simp only [State.checkTurn, hw, hr, ha, hh, List.isEmpty_nil, BEq.rfl, Bool.and_self, if_true, Option.bind_some]

/-- Before a referee, a comparison settles the unit where the fingerprints are equal, and places a referee where they differ
(R339). -/
theorem State.compareUnit_of_both {s : State} {u : Nat} {x : CheckUnit} {a b : Word} (hu : s.unit u = some x)
    (ho : x.fpOriginal = some a) (hd : x.fpDuplicate = some b) (hr : x.referee = none) (hft : x.disagreedFt = 0)
    (hdone : x.originalDone = true) :
    s.compareUnit u =
      if a = b then s.settleUnit u x
      else State.placeReferee { s with square := { s.square with disagreed := satAdd s.square.disagreed 1 } } u
        { x with used := [], disagreedFt := s.ft } := by
  unfold State.compareUnit
  simp only [hu, ho, hd, hr, hft, hdone, Option.isSome_none, Bool.false_eq_true, ne_eq, not_true_eq_false, Bool.not_true, or_self,
    if_false]

/-- Settles O34: each row is the operation of the model that its unit or core asks for, then what settles by itself. -/
theorem checkUnitsRun : Obligations.CheckUnitsRun := by
  intro s t k u c x wrong a b errs
  refine ⟨fun h => exec_unitFieldFault h s, ?capture, ?runs, ?compare⟩
  case capture =>
    intro hu hc
    rw [exec_captureEnd, State.captureEnd_of_capturing hu hc]
    refine ⟨fun h => ?keeps, fun hck hacc => ?duplicate⟩
    case keeps =>
      rw [if_pos]
      obtain h | ⟨y, hy, hyu⟩ := h
      · rw [h, Bool.or_true]
      · rw [hy, Option.any_some, hyu, BEq.rfl, Bool.true_or]
    case duplicate =>
      rw [if_neg]
      simpa only [hck, Option.isSome_none, Bool.or_false, Option.any_eq_true, beq_iff_eq, not_exists, not_and] using hacc
  case runs =>
    rintro hlt rfl hw hr ha
    have hcore (t : State) : onCore c t = .next t.settle := onUnit_of_lt (decide_eq_true hlt)
    refine ⟨fun hh => ?_, fun hh => ?_⟩
    · show execDuplicateRun c errs wrong s = _
      simp only [execDuplicateRun, State.checkTurn_of_headRun hw hr ha hh, hcore]
    · show execRefereeRun c errs wrong s = _
      simp only [execRefereeRun, State.checkTurn_of_headRun hw hr ha hh, hcore]
  case compare =>
    intro hu ho hd hr hft hdone
    rw [exec_fingerprintCompare, State.compareUnit_of_both hu ho hd hr hft hdone]
    exact ⟨fun h => by rw [if_pos h], fun h => by rw [if_neg h]⟩

end Sys2Proof.Machine

/-! PROOFS. The statements of the family of chapter 4: the waits and the instructions that use a Tray, a POST ring or a fused slot
(R107, R136, R139 to R141, R150), and the actions of the timetable (R131, R193, R194, R258, R262, R532). -/

namespace Sys2Proof.Machine

/-! ### Rows of a core -/

theorem onCore_of_lt {c : Nat} (h : c < 384) (s : State) : onCore c s = .next s.settle := onUnit_of_lt (decide_eq_true h)

/-- The row of an instruction has that instruction's effect where the core has come to it, and then what settles by itself. -/
theorem onCore_atInstr_of_atOp {s t : State} {c op : Nat} {it : Item} {i : Ins} (h : s.atOp c op t it i)
    (f : State → Item → Ins → State) : onCore c (s.atInstr c op f) = .next (f t it i).settle := by
  rw [State.atInstr_of_atOp h]
  obtain ⟨hc, -⟩ := h
  exact onCore_of_lt hc _

/-! ### Waits that are met -/

section
variable {s : State} {c : Nat} {it : Item} (hitem : (s.core c).item = some it) (hruns : s.coreRuns c = true)
include hitem hruns

theorem State.waitSatisfied_ops {m : BitVec 3} (hw : it.wait = .ops m) (hm : it.waited m = true) :
    s.waitSatisfied c = (s.traceWait c it).setItem c { it.onward with wait := .none } := by
  simp only [State.waitSatisfied, hitem, hruns, hw, hm, Bool.not_true, Bool.false_eq_true, if_false, if_true]

theorem State.waitSatisfied_bnz {n : Nat} (hw : it.wait = .bnz n) (ho : it.ops = []) :
    s.waitSatisfied c = (s.traceWait c it).branch c { it with wait := .none } n := by
  simp only [State.waitSatisfied, hitem, hruns, hw, ho, List.isEmpty_nil, Bool.not_true, Bool.false_eq_true, if_false, if_true]

theorem State.waitSatisfied_ending (hw : it.wait = .ending) (ho : it.ops = []) : s.waitSatisfied c = s.finishItem c it := by
  simp only [State.waitSatisfied, hitem, hruns, hw, ho, List.isEmpty_nil, Bool.not_true, Bool.false_eq_true, if_false, if_true]

theorem State.waitcSatisfied_counter {n : Nat} {v : BitVec 32} (hw : it.wait = .counter n v)
    (hv : v.toNat ≤ (s.counter n).toNat) :
    s.waitcSatisfied c = (s.traceWait c it).setItem c { it.onward with wait := .none } := by
  simp only [State.waitcSatisfied, hitem, hruns, hw, hv, and_self, if_true]

end

/-! ### POST -/

section
variable {t : State} {c p : Nat} {i : Ins} (ht : t.translate i.c = some p) (ha : t.opAccess i.c 64 = .ok)
  (hp : (t.fetch (.core c) p 64).firstPoison p 64 = none) {it : Item}
include ht ha hp

/-- A restartable item keeps its POST, with the entry as it was read, until it ends (R156). -/
theorem State.doPost_restartable (hr : it.restartable = true) :
    t.doPost c it i = (t.fetch (.core c) p 64).setItem c
      { it.onward with deferred := it.deferred ++ [.post i.b ((t.fetch (.core c) p 64).bytesAt p 64)] } := by
  simp only [State.doPost, ht, ha, hp, hr, ne_eq, not_true_eq_false, Option.isSome_none, Bool.false_eq_true, if_false, if_true]

/-- Any other item copies the entry into a POST ring that is open and has room (R136). -/
theorem State.doPost_direct (hr : it.restartable = false) (hs : (t.fetch (.core c) p 64).postStatus i.b 0 = .ok) :
    t.doPost c it i = ((t.fetch (.core c) p 64).post c i.b ((t.fetch (.core c) p 64).bytesAt p 64)).setItem c it.onward := by
  simp only [State.doPost, ht, ha, hp, hr, hs, ne_eq, not_true_eq_false, Option.isSome_none, Bool.false_eq_true, if_false,
    if_true]

end

/-! ### PARAM -/

theorem State.doParam_known {t : State} {c p : Nat} {it : Item} {i : Ins} {b : List Byte} (hb : t.paramBlock it = some b)
    (ht : t.translate i.c = some p) (hr : regionSpan i.c 256 = .tray) (ha : t.opAccess i.c 256 = .ok) :
    t.doParam c it i = (t.store (.core c) p (exactly 256 b)).setItem c it.onward := by
  simp only [State.doParam, hb, ht, hr, ha, ne_eq, not_true_eq_false, if_false]

/-! ### BIND and CLOSE -/

/-- A slot that nobody has bound starts with fresh rows. -/
theorem FusedSlot.bound_none (e : SlotEntry) :
    FusedSlot.bound none e = { owners := [e.logical], function := e.function, rows := e.rows, chunks := [] } := rfl

/-- A slot that other cores have bound with the same function and rows takes one more owner (R63). -/
theorem FusedSlot.bound_joins {y : FusedSlot} {e : SlotEntry} (hf : y.function = e.function) (hr : y.rows = e.rows)
    (ho : e.logical ∉ y.owners) : FusedSlot.bound (some y) e = { y with owners := y.owners ++ [e.logical] } :=
  if_pos ⟨hf, hr, by rwa [Bool.not_eq_true', List.contains_eq_mem, decide_eq_false_iff_not]⟩

theorem State.doBind_own {t f : State} {c : Nat} {it : Item} {i : Ins} {pr : Program} {e : SlotEntry}
    (hp : t.itemProgram it = some pr) (he : pr.slots[i.a]? = some e) (hl : e.logical = it.logical)
    (hf : f = t.forgetLost (fun y => y == (it.logical, e.slot))) :
    t.doBind c it i = (f.setCluster (clusterOf c) { f.cluster (clusterOf c) with
      slots := tabPut (f.cluster (clusterOf c)).slots e.slot
        (FusedSlot.bound (tabFind (f.cluster (clusterOf c)).slots e.slot) e) }).setItem c it.onward := by
  subst hf
  simp only [State.doBind, hp, Option.bind_some, he, hl, ne_eq, not_true_eq_false, if_false]

theorem State.doClose_bound {t f : State} {c p : Nat} {it : Item} {i : Ins} {x : FusedSlot} {b : List Byte}
    (hx : tabFind (t.cluster (clusterOf c)).slots i.a = some x) (hb : b = fusedBytes x.function x.stats)
    (ht : t.translate i.c = some p) (hr : regionSpan i.c b.length = .tray) (ha : t.opAccess i.c b.length = .ok)
    (hf : f = (t.store (.core c) p b).setCluster (clusterOf c) { t.cluster (clusterOf c) with
      slots := tabDel (t.cluster (clusterOf c)).slots i.a }) :
    t.doClose c it i = (f.keepForward it (f.lastSegment it) false 0 ((upFrom p b.length).zip b)).setItem c it.onward := by
  subst hf hb
  simp only [State.doClose, hx, ht, hr, ha, ne_eq, not_true_eq_false, if_false]

/-- Settles O32: each row is the wait or the instruction that its core has come to, in the case that the hypotheses name. -/
theorem waitsAndTrayInstructions : Obligations.WaitsAndTrayInstructions := by
  intro s t f c p n it i m v b pr e x k
  refine ⟨?waits, ?post, ?param, ?bind, ?close⟩
  case waits =>
    intro hc hitem hruns
    have hrow (u : State) := onCore_of_lt hc u
    exact ⟨fun hw hm => (hrow _).trans (by rw [State.waitSatisfied_ops hitem hruns hw hm]),
      fun hw ho => (hrow _).trans (by rw [State.waitSatisfied_bnz hitem hruns hw ho]),
      fun hw ho => (hrow _).trans (by rw [State.waitSatisfied_ending hitem hruns hw ho]),
      fun hw hv => (hrow _).trans (by rw [State.waitcSatisfied_counter hitem hruns hw hv])⟩
  case post =>
    rintro h ht ha rfl hp
    have hrow := onCore_atInstr_of_atOp h fun t it i => t.doPost c it i
    exact ⟨fun hr => hrow.trans (by rw [State.doPost_restartable ht ha hp hr]),
      fun hr hs => hrow.trans (by rw [State.doPost_direct ht ha hp hr hs]; rfl)⟩
  case param =>
    intro h hb ht hr ha
    exact (onCore_atInstr_of_atOp h _).trans (by rw [State.doParam_known hb ht hr ha])
  case bind =>
    rintro h hp he hl hf rfl hx
    have hbound : FusedSlot.bound (tabFind (f.cluster (clusterOf c)).slots e.slot) e = x := by
      obtain ⟨hnone, rfl⟩ | ⟨y, hy, hfun, hrows, hown, rfl⟩ := hx
      · rw [hnone, FusedSlot.bound_none]
      · rw [hy, FusedSlot.bound_joins hfun hrows hown]
    exact (onCore_atInstr_of_atOp h _).trans (by rw [State.doBind_own hp he hl hf, hbound])
  case close =>
    rintro h rfl hx hb ht hr ha hf
    exact (onCore_atInstr_of_atOp h _).trans (by rw [State.doClose_bound hx hb ht hr ha hf])

/-! ### CLOCK and EVAL -/

/-- The row of an action has the effect of the occurrence that falls, and then what settles by itself. -/
theorem falls_of_fallsNow {s t : State} {i action d k : Nat} {x : TTSlot} (h : s.fallsNow i action t x d k)
    (f : Nat → State → TTSlot → Nat → Nat → State) : falls i action f s = .next (f i t x d k).settle :=
  congrArg (fun u : State => Host.Outcome.next u.settle) (State.fire_of_fallsNow h)

theorem State.clockFalls_closed {t : State} (h : t.stepOpen = false) (i : Nat) (x : TTSlot) (d k : Nat) :
    State.clockFalls i t x d k =
      { t.fired i x with power := { t.power with clock := bits x.entry.paramA.toNat 0 2 } } := by
  simp only [State.clockFalls, h, Bool.false_eq_true, if_false]

theorem State.clockFalls_open {t : State} (h : t.stepOpen = true) (i : Nat) (x : TTSlot) (d k : Nat) :
    State.clockFalls i t x d k = t.ttMiss i x d := if_pos h

theorem State.evalFalls_notWaiting {x : TTSlot} (h : x.waiting = none) (t : State) (i d k : Nat) :
    State.evalFalls i t x d k = if t.evalMayOpen = true then (t.fired i x).openEval i x d
      else (t.fired i x).setSlot i { x with waiting := some (word d) } := by
  simp only [State.evalFalls, h, Option.isSome_none, Bool.false_eq_true, if_false]

/-! ### The EVAL slot -/

theorem State.evalOpens_waiting {s : State} {i d : Nat} {x : TTSlot} (hw : s.firstWaiting 6 (fun _ => true) = some (i, x, d))
    (hb : s.benchServes = true) (he : s.evalMayOpen = true) (ht : s.ft.toNat < x.windowEnd d) :
    s.evalOpens = s.openEval i x d := by
  simp only [State.evalOpens, hw, hb, he, ht, decide_true, Bool.and_self, if_true]

theorem State.evalCloses_ended {s : State} {e : Nat × Nat × Word × Nat × Nat} (he : s.steps.evalSlot = some e)
    (ht : e.2.2.1.toNat ≤ s.ft.toNat) :
    s.evalCloses = { s.closeEval with steps := { s.closeEval.steps with evalSlot := none } } := by
  simp only [State.evalCloses, he, ht, if_true]

/-- The occurrence that a slot keeps waiting has waited to the end of its window. -/
def State.waitedOut (s : State) (y : TTSlot) : Bool :=
  match y.waiting with | some w => decide (y.windowEnd w.toNat ≤ s.ft.toNat) | none => false

theorem State.waitedOut_iff (s : State) (y : TTSlot) :
    s.waitedOut y = true ↔ ∃ w, y.waiting = some w ∧ y.windowEnd w.toNat ≤ s.ft.toNat := by
  unfold State.waitedOut
  cases y.waiting with
  | none => simp
  | some w => simp

/-- With no slot open, the first EVAL that has waited out its window is missed. -/
theorem State.evalCloses_missed {s : State} {i d : Nat} {x : TTSlot} (he : s.steps.evalSlot = none)
    (hw : s.firstWaiting 6 s.waitedOut = some (i, x, d)) :
    s.evalCloses = (s.setSlot i { x with waiting := none }).ttMiss i x d := by
  simp only [State.evalCloses, he]
  split
  next h => cases h.symm.trans hw; rfl
  next h => cases h.symm.trans hw

/-! ### Calibration -/

/-- What a calibration action of a channel in service does where its entry does not wait already: its window opens, or waits while
another of its device or die is open (R262). -/
theorem State.calFalls_inService {t : State} {x : TTSlot} {c : CalKind} {u ch : Nat} (hcal : x.entry.cal = (c, u, ch))
    (hok : calOk c u ch = true) (hs : t.calServes c u = true) (hw : x.waiting = none) (i d k : Nat) :
    State.calFalls i t x d k =
      if t.windowOpen c u then
        if x.entry.windowUs = 0 then t.ttMiss i x d else (t.fired i x).setSlot i { x with waiting := some (word d) }
      else (t.fired i x).openWindow c u ch false := by
  simp only [State.calFalls, hcal, hok, hs, hw, Bool.not_true, Option.isSome_none, Bool.or_self, Bool.false_eq_true, if_false]

/-- The row of a calibration action of either kind. -/
theorem exec_calRow_of_fallsNow {s t : State} {c : CalKind} {i d k : Nat} {x : TTSlot}
    (h : (c = .lpddr6 ∧ s.fallsNow i 7 t x d k) ∨ (c = .inlay ∧ s.fallsNow i 8 t x d k)) :
    exec (if c = .lpddr6 then .calLp i else .calInl i) s = .next (State.calFalls i t x d k).settle := by
  obtain ⟨rfl, h⟩ | ⟨rfl, h⟩ := h
  · exact falls_of_fallsNow h State.calFalls
  · exact falls_of_fallsNow h State.calFalls

theorem State.calExpires_waitedOut {s : State} {i : Nat} {x : TTSlot} {w : Word} (hx : tabFind s.table.slots i = some x)
    (hw : x.waiting = some w) (ha : x.entry.action = 7 ∨ x.entry.action = 8) (hb : s.benchServes = true)
    (ht : x.windowEnd w.toNat ≤ s.ft.toNat) :
    s.calExpires i = (s.setSlot i { x with waiting := none }).ttMiss i x w.toNat := by
  simp only [State.calExpires, hx, hw, ha, hb, ht, and_self, if_true]

section
variable {s t : State} {c : CalKind} {u ch : Nat}
  (hopen : s.mem.windows.any (fun w => w.1 == c && w.2.1 == u && w.2.2.1 == ch) = true)
  (ht : t = { s with mem := { s.mem with windows := s.mem.windows.filter fun w => !(w.1 == c && w.2.1 == u && w.2.2.1 == ch) } })
include hopen ht

theorem State.windowEnds_passed : s.windowEnds c u ch true = t.calNext c u := by
  subst ht
  simp only [State.windowEnds, hopen, Bool.not_true, Bool.false_eq_true, if_false, if_true]

/-- Below margin the channel is noted, the failure bit of its kind set and a fault reported (R194). -/
theorem State.windowEnds_failed : s.windowEnds c u ch false =
    State.calNext (State.fault (State.setBits { t with mem := { t.mem with failUnit := u, failChannel := ch } } .memCalStatus
        (if c = .lpddr6 then 1 else 2)) 0x000B
      (if c = .lpddr6 then .lpChannel (8 * u + ch) else .inlayChannel (32 * u + ch)) .ok 0 0) c u := by
  subst ht
  simp only [State.windowEnds, hopen, Bool.not_true, Bool.false_eq_true, if_false]
  cases c with
  | lpddr6 => rfl
  | inlay => rfl

end

theorem State.forceWindow_overdue {s : State} {c : CalKind} {u ch : Nat} (hok : calOk c u ch = true)
    (he : s.rbit .memCalCtrl 16 = true) (hs : s.calServes c u = true) (hw : s.windowOpen c u = false)
    (ht : tabGet 0 s.mem.windowAt (calKey c u ch) + 2 * s.calInterval c ≤ s.now) :
    s.forceWindow c u ch = (s.setBits .memCalStatus 4).openWindow c u ch true := by
  simp only [State.forceWindow, hok, he, hs, hw, ht, Bool.not_false, decide_true, Bool.and_self, if_true]

/-- Settles O47: each row is the action whose occurrence falls, or the wait, slot or window that comes to its end. -/
theorem timetableActions : Obligations.TimetableActions := by
  intro s t i d k u ch x w c e
  refine ⟨?clock, ?snapshot, ?mark, ?eval, ?evalOpens, ?evalEnds, ?evalMissed, ?cal, ?calExpires, ?windowEnds, ?forced⟩
  case clock =>
    intro h
    have hrow := falls_of_fallsNow h State.clockFalls
    exact ⟨fun hs => hrow.trans (by rw [State.clockFalls_closed hs]), fun hs => hrow.trans (by rw [State.clockFalls_open hs])⟩
  case snapshot => exact fun h => falls_of_fallsNow h State.snapshotFalls
  case mark => exact fun h => falls_of_fallsNow h State.markFalls
  case eval => exact fun h hw => (falls_of_fallsNow h State.evalFalls).trans (by rw [State.evalFalls_notWaiting hw])
  case evalOpens =>
    intro hw hb he ht
    rw [← State.evalOpens_waiting hw hb he ht]
    rfl
  case evalEnds =>
    intro he ht
    rw [← State.evalCloses_ended he ht]
    rfl
  case evalMissed =>
    intro he p hp hw
    obtain rfl : p = s.waitedOut := funext fun y => Bool.eq_iff_iff.2 ((hp y).trans (s.waitedOut_iff y).symm)
    rw [← State.evalCloses_missed he hw]
    rfl
  case cal =>
    rintro h hcal hok hs hw _ rfl
    rw [exec_calRow_of_fallsNow h, State.calFalls_inService hcal hok hs hw]
    exact ⟨fun ho => by rw [if_neg (by rw [ho]; exact Bool.false_ne_true)], fun ho hn => by rw [if_pos ho, if_neg hn]⟩
  case calExpires => exact fun hx hw ha hb ht => congrArg Host.Outcome.next (State.calExpires_waitedOut hx hw ha hb ht)
  case windowEnds =>
    exact fun ho ht => ⟨congrArg Host.Outcome.next (State.windowEnds_passed ho ht),
      congrArg Host.Outcome.next (State.windowEnds_failed ho ht)⟩
  case forced => exact fun hok he hs hw ht => congrArg Host.Outcome.next (State.forceWindow_overdue hok he hs hw ht)

end Sys2Proof.Machine

/-! PROOFS. The statements of the family of chapter 5: the control instructions of an item (R139 to R142, R156), and how a core
takes work, issues its ops and completes them (R137, R139, R140, R142, R153, R156). -/

namespace Sys2Proof.Machine

/-! ### Control instructions -/

section
variable (t : State) (c : Nat) (it : Item) (i : Ins)

/-- WAIT sets the item to what it goes on as: past the instruction, or waiting for the ops of its mask (R140). -/
theorem State.doWait_eq :
    t.doWait c it i = t.setItem c (if it.waited (BitVec.ofNat 3 i.a) = true then it.onward
      else { it with wait := .ops (BitVec.ofNat 3 i.a) }) :=
  (apply_ite (t.setItem c) _ _ _).symm

/-- WAITC, while the router is not in reset, goes on from the counter's value on (R141). -/
theorem State.doWaitc_open (h : t.routerClosed = false) :
    t.doWaitc c it i = t.setItem c (if i.b ≤ (t.counter i.c).toNat then it.onward
      else { it with wait := .counter i.c (BitVec.ofNat 32 i.b) }) :=
  (if_neg (Bool.eq_false_iff.1 h)).trans (apply_ite (t.setItem c) _ _ _).symm

/-- SIGNAL, while the router is not in reset, is put off by a restartable item and takes effect at once in any other (R141,
R156). -/
theorem State.doSignal_open (h : t.routerClosed = false) :
    t.doSignal c it i =
      if it.restartable = true then
        t.setItem c { it.onward with deferred := it.deferred ++ [.signal i.c (BitVec.ofNat 32 i.b)] }
      else (t.signal i.c (BitVec.ofNat 32 i.b)).setItem c it.onward :=
  if_neg (Bool.eq_false_iff.1 h)

/-- BNZ waits while any op is out (R139). -/
theorem State.doBnz_waits (h : it.ops ≠ []) : t.doBnz c it i = t.setItem c { it with wait := .bnz i.c } :=
  if_neg (mt List.isEmpty_iff.1 h)

/-- BNZ branches at once where no op is out (R139). -/
theorem State.doBnz_branches (h : it.ops = []) : t.doBnz c it i = t.branch c it i.c := if_pos (List.isEmpty_iff.2 h)

/-- END finishes the item once no op is out (R140, R142). -/
theorem State.doEnd_eq :
    t.doEnd c it i = if it.ops = [] then t.finishItem c it else t.setItem c { it with wait := .ending } := by
  simp only [State.doEnd, List.isEmpty_iff]

end

/-- A branch on a Tray word that can be read goes on where the word is zero, and jumps to the first argument where it is not
(R139). -/
theorem State.branch_of_readable {t : State} {c a p : Nat} {it : Item} (hr : regionSpan a 4 = .tray) (ha : t.opAccess a 4 = .ok)
    (ht : t.translate a = some p) (hp : (t.fetch (.core c) p 4).firstPoison p 4 = none) :
    t.branch c it a = (t.fetch (.core c) p 4).setItem c
      (if uAt ((t.fetch (.core c) p 4).bytesAt p 4) 0 4 = 0 then { it.onward with wait := .none }
        else { it.jump (nth 0 it.args 0) with wait := .none }) := by
  simp only [State.branch, hr, ha, ht, hp, ne_eq, not_true_eq_false, Option.isSome_none, Bool.false_eq_true, if_false]
  exact (apply_ite (State.setItem _ c) _ _ _).symm

/-- Settles O31: each row is the instruction that its core has come to, in the case that the hypotheses name. -/
theorem controlInstructionsRun : Obligations.ControlInstructionsRun := by
  intro s t c p it i
  refine ⟨?nop, ?loopset, ?djnz, ?jump, ?bnz, ?wait, ?waitc, ?signal, ?ending⟩
  case nop => exact fun h => onCore_atInstr_of_atOp h _
  case loopset => exact fun h => onCore_atInstr_of_atOp h _
  case djnz =>
    rintro h _ _ rfl rfl
    exact onCore_atInstr_of_atOp h _
  case jump => exact fun h => onCore_atInstr_of_atOp h _
  case bnz =>
    intro h
    have hrow := onCore_atInstr_of_atOp h fun t it i => t.doBnz c it i
    exact ⟨fun ho => hrow.trans (by rw [State.doBnz_waits t c it i ho]), fun ho hr ha ht hp =>
      hrow.trans (by rw [State.doBnz_branches t c it i ho, State.branch_of_readable hr ha ht hp])⟩
  case wait => exact fun h => (onCore_atInstr_of_atOp h _).trans (by rw [State.doWait_eq])
  case waitc => exact fun h ho => (onCore_atInstr_of_atOp h _).trans (by rw [State.doWaitc_open t c it i ho])
  case signal =>
    intro h ho
    have hrow := onCore_atInstr_of_atOp h fun t it i => t.doSignal c it i
    rw [State.doSignal_open t c it i ho] at hrow
    exact ⟨fun hr => hrow.trans (by rw [if_neg (Bool.eq_false_iff.1 hr)]; rfl),
      fun hr => hrow.trans (by rw [if_pos hr])⟩
  case ending => exact fun h => (onCore_atInstr_of_atOp h _).trans (by rw [State.doEnd_eq])

/-! ### Taking work -/

section
variable {s : State} {c : Nat} (hw : s.takesWork c = true)
include hw

/-- An item that runs again comes before any ring (R156). -/
theorem State.startWork_restarts {it : Item} {rest : List Item} (hr : (s.core c).restarts = it :: rest) :
    s.startWork c =
      ((s.setCore c { s.core c with restarts := rest }).setItem c it).trace c 0x0001 (it.ring % 128) it.tag.toNat := by
  simp only [State.startWork, hw, hr, Bool.not_true, Bool.false_eq_true, if_false]

/-- With no item to run again the core takes an entry of the ring that its arbiter chooses (R137). -/
theorem State.startWork_takesEntry {r : Nat} (hr : (s.core c).restarts = []) (ha : s.arbitrate c = some r)
    (hq : r ≠ checkQueue) : s.startWork c = s.takeEntry c r := by
  simp only [State.startWork, hw, hr, ha, hq, Bool.not_true, Bool.false_eq_true, if_false]

end

/-! ### Issuing ops -/

/-- The row of an instruction that reads memory under bit errors: its effect, then the end of the read, and then what settles by
itself. -/
theorem onCore_atInstr_unhit_of_atOp {s t : State} {c op : Nat} {it : Item} {i : Ins} (h : s.atOp c op t it i)
    (f : State → Item → Ins → State) : onCore c (s.atInstr c op f).unhit = .next (f t it i).unhit.settle := by
  rw [State.atInstr_of_atOp h]
  obtain ⟨hc, -⟩ := h
  exact onCore_of_lt hc _

/-- TILE fetches descriptors from where its run stands, or from the first where it has none (R139, R140). -/
theorem State.doTile_of_run {t : State} {c : Nat} {it : Item} {i : Ins} {wrong : List (Nat × Byte)} {run : TileRun}
    (h : it.run = some run ∨
      it.run = none ∧ run = { base := i.c, count := if i.b = 0 then 65536 else i.b, next := 0, wrong := wrong }) :
    t.doTile c it i wrong = (State.fetchTiles c 9 t { it with run := some run }).1.setItem c
      (State.fetchTiles c 9 t { it with run := some run }).2 := by
  unfold State.doTile
  obtain hrun | ⟨hrun, rfl⟩ := h
  · rw [hrun]
  · rw [hrun]

/-- A transfer whose block has been read issues the op that its instruction gives, and the item goes on (R139). -/
theorem State.doTransfer_issues {t v w : State} {c : Nat} {it x : Item} {i : Ins} {raw : List Byte}
    {f : State → OpBlock → State × Option Item} (hl : it.late = false) (hb : t.fetchBlock c it i.c 64 = (.ok, raw, v))
    (hf : f v (parseOp raw) = (w, some x)) : t.doTransfer c it i f = w.setItem c x.onward := by
  simp only [State.doTransfer, hl, hb, hf, Bool.false_eq_true, if_false]

/-- SCATTER is refused to a restartable item only where it adds (R156). -/
theorem State.doScatter_runs {t : State} {c : Nat} {it : Item} {i : Ins} (h : i.a ≠ 1 ∨ it.restartable = false) :
    t.doScatter c it i = t.doTransfer c it i fun u o => u.listOp c it o (some (i.a == 1)) :=
  if_neg fun ⟨ha, hr⟩ => h.elim (· ha) (Bool.eq_false_iff.1 · hr)

/-! ### Completing ops -/

/-- The oldest op of a kind completes where its unit is not being captured: its bytes, its record, its unit; then the item goes on
without it, or ends where it has failed and this was its last op (R140, R142, R153). -/
theorem State.completeOp_oldest {s t v w : State} {c : Nat} {it x : Item} {op : Op} {ops : List Op} {k : OpKind}
    (hitem : (s.core c).item = some it) (hop : takeOp k it.ops = some (op, ops)) (hruns : s.coreRuns c = true)
    (hcap : s.capturing op.unit = false)
    (hclose : (v, x) = (s.commit c op.writes op.poisoned).closeOp c { it with ops := ops } op op.status)
    (hend : t = v.originalEnded op.unit op.last op.status)
    (hw : ((x.failed = none ∨ x.ops ≠ []) ∧ w = t.setItem c x) ∨ ∃ f, x.failed = some f ∧ x.ops = [] ∧ w = t.endItem c x f.2) :
    s.completeOp c k = w := by
  simp only [State.completeOp, hitem, hop, hruns, hcap, ← hclose, ← hend, Bool.not_true, Bool.false_eq_true, or_self,
    if_false]
  obtain ⟨hgoes, rfl⟩ | ⟨f, hfailed, hops, rfl⟩ := hw
  · exact if_neg fun ⟨hf, ho⟩ => hgoes.elim (Option.isSome_iff_ne_none.1 hf) (· (List.isEmpty_iff.1 ho))
  · simp only [hfailed, hops, Option.isSome_some, List.isEmpty_nil, and_self, if_true]

/-- Where the item of a core has a tile out, that tile retires, and then every core fetches on (R140). -/
theorem State.completeTile_of_op {s : State} {c : Nat} {it : Item} {x : Op × List Op} (hitem : (s.core c).item = some it)
    (hop : takeOp .tile it.ops = some x) :
    s.completeTile c = (List.range 384).foldl (fun y n => y.moreTiles n) (s.completeOp c .tile) := by
  simp only [State.completeTile, hitem, hop, Option.bind_some]

/-- Settles O33: each row is the taking, the issuing or the completing that its core has come to, in the case that the hypotheses
name. -/
theorem workIsTakenAndIssued : Obligations.WorkIsTakenAndIssued := by
  intro s t v w c r run it x i errs wrong raw rest op ops k
  refine ⟨?start, ?tile, ?row, ?copy, ?gather, ?scatter, ?complete⟩
  case start =>
    intro hc hw
    have hrow (u : State) := onCore_of_lt hc u
    exact ⟨fun hr => (hrow _).trans (by rw [State.startWork_restarts hw hr]),
      fun hr ha hq => (hrow _).trans (by rw [State.startWork_takesEntry hw hr ha hq])⟩
  case tile =>
    intro h hrun hfetch
    exact (onCore_atInstr_unhit_of_atOp h _).trans (by rw [State.doTile_of_run hrun, ← hfetch])
  case row =>
    intro h hissue
    exact (onCore_atInstr_unhit_of_atOp h _).trans (by rw [State.doRow, ← hissue])
  case copy =>
    intro h hl hb hf
    exact (onCore_atInstr_unhit_of_atOp h _).trans (by rw [State.doTransfer_issues hl hb hf])
  case gather =>
    intro h hl hb hf
    exact (onCore_atInstr_unhit_of_atOp h _).trans (by rw [State.doTransfer_issues hl hb hf])
  case scatter =>
    intro h hl hadd hb hf
    exact (onCore_atInstr_unhit_of_atOp h _).trans (by rw [State.doScatter_runs hadd, State.doTransfer_issues hl hb hf])
  case complete =>
    intro hc hitem hop hruns hcap hclose hend hw
    have hdone := State.completeOp_oldest hitem hop hruns hcap hclose hend hw
    have hrow (u : State) := onCore_of_lt hc u
    refine ⟨?tileDone, ?rowDone, ?transferDone⟩
    case tileDone =>
      rintro rfl
      exact (hrow _).trans (by rw [State.completeTile_of_op hitem hop, hdone])
    case rowDone =>
      rintro rfl
      exact (hrow _).trans (by rw [hdone])
    case transferDone =>
      rintro rfl
      exact (hrow _).trans (by rw [hdone])

end Sys2Proof.Machine

/-! PROOFS. The statements of the family of chapter 6: the one form in which every step keeps memory and the register bank (R169,
R188), what MEM_WRITE stores (R169, R188, R433), the correction of one symbol (R180 to R182), the values after reset, the memory
commands and the scrub (R174, R190, R196, R433), and the ends of images, twin transfers and restores (R383, R391 to R399). -/

namespace Sys2Proof.Machine

/-! ### Every step keeps the canonical form -/

/-- The row of every command keeps the queue and the canonical form: each by the lemma of its own meaning. -/
theorem exec_keeps {q : List Instr} {s : State} (h : Kept q s) : ∀ i : Instr, KeptO q (exec i s)
  | .speasFrame .. => execSpeasFrame_keeps _ _ _ s h
  | .speasRetransmitTimeout .. => execSpeasRetransmitTimeout_keeps _ s h
  | .speasRotation .. => execSpeasRotation_keeps _ s h
  | .sessionInit => execSessionInit_keeps s h
  | .sessionConfirm => execSessionConfirm_keeps s h
  | .sessionHalfOpenExpiry .. => execSessionHalfOpenExpiry_keeps _ s h
  | .sessionIdleExpiry .. => execSessionIdleExpiry_keeps _ s h
  | .sessionClose => execSessionClose_keeps s h
  | .ping => execPing_keeps s h
  | .ownerClaim => execOwnerClaim_keeps s h
  | .ownerRelease => execOwnerRelease_keeps s h
  | .sessionList => execSessionList_keeps s h
  | .identity => execIdentity_keeps s h
  | .certRead => execCertRead_keeps s h
  | .attest => execAttest_keeps s h
  | .regRead => execRegRead_keeps s h
  | .regWrite .. => execRegWrite_keeps _ s h
  | .regWriteMasked .. => execRegWriteMasked_keeps _ s h
  | .memRead .. => execMemRead_keeps _ s h
  | .memWrite => execMemWrite_keeps s h
  | .memFill => execMemFill_keeps s h
  | .memCopy => execMemCopy_keeps s h
  | .memDigest => execMemDigest_keeps s h
  | .partitionSet => execPartitionSet_keeps s h
  | .partitionGet => execPartitionGet_keeps s h
  | .qpCreate => execQpCreate_keeps s h
  | .qpDestroy => execQpDestroy_keeps s h
  | .destTableLoad => execDestTableLoad_keeps s h
  | .programLoad => execProgramLoad_keeps s h
  | .programUnload => execProgramUnload_keeps s h
  | .ttWrite => execTtWrite_keeps s h
  | .ttRemove => execTtRemove_keeps s h
  | .ttRead => execTtRead_keeps s h
  | .stepParam => execStepParam_keeps s h
  | .stepControlResume => execStepControlResume_keeps s h
  | .stepControlHalt => execStepControlHalt_keeps s h
  | .stepControlSeal => execStepControlSeal_keeps s h
  | .stepControlRecall => execStepControlRecall_keeps s h
  | .stepStatus => execStepStatus_keeps s h
  | .clamp => execClamp_keeps s h
  | .unclamp => execUnclamp_keeps s h
  | .ledgerIndex => execLedgerIndex_keeps s h
  | .ledgerRead => execLedgerRead_keeps s h
  | .ledgerPin => execLedgerPin_keeps s h
  | .fieldTest .. => execFieldTest_keeps _ s h
  | .twinSend => execTwinSend_keeps s h
  | .twinReceive => execTwinReceive_keeps s h
  | .twinAdopt => execTwinAdopt_keeps s h
  | .ckptCut => execCkptCut_keeps s h
  | .checkpointRelease => execCheckpointRelease_keeps s h
  | .ckptRetry => execCkptRetry_keeps s h
  | .restoreImage => execRestore_keeps s h
  | .journalSummary => execJournalSummary_keeps s h
  | .journalRead => execJournalRead_keeps s h
  | .journalCompact => execJournalCompact_keeps s h
  | .journalCompactionEnd => execJournalCompactionEnd_keeps s h
  | .snapshotNow => execSnapshotNow_keeps s h
  | .snapshotRead => execSnapshotRead_keeps s h
  | .traceOff => execTraceOff_keeps s h
  | .traceOn => execTraceOn_keeps s h
  | .traceFreeze => execTraceFreeze_keeps s h
  | .traceClear => execTraceClear_keeps s h
  | .traceRead => execTraceRead_keeps s h
  | .telemetryRead => execTelemetryRead_keeps s h
  | .pwrStatus => execPwrStatus_keeps s h
  | .pwrCap => execPwrCap_keeps s h
  | .resetCore => execResetCore_keeps s h
  | .resetCluster => execResetCluster_keeps s h
  | .resetComputeDie => execResetComputeDie_keeps s h
  | .resetCarcassRouter => execResetCarcassRouter_keeps s h
  | .resetCarcassMemory => execResetCarcassMemory_keeps s h
  | .resetBench => execResetBench_keeps s h
  | .coldReset => execColdReset_keeps s h
  | .imageWrite => execImageWrite_keeps s h
  | .imageCommit .. => execImageCommit_keeps _ s h
  | .resetStatus => execResetStatus_keeps s h
  | .jobKeyInstall => execJobKeyInstall_keeps s h
  | .jobKeyErase => execJobKeyErase_keeps s h
  | .alarmStatus => execAlarmStatus_keeps s h
  | .alarmClear => execAlarmClear_keeps s h
  | .notBeforeExecute .. => execNotBeforeExecute_keeps _ _ _ s h
  | .notBeforeLockTimeout => execNotBeforeLockTimeout_keeps s h
  | .longOperationEnd .. => execLongOperationEnd_keeps _ _ s h
  | .workItemStart .. => execWorkItemStart_keeps _ s h
  | .nop .. => execNop_keeps _ s h
  | .tileRun .. => execTile_keeps _ _ _ s h
  | .rowOp .. => execRow_keeps _ _ _ s h
  | .copyOp .. => execCopy_keeps _ _ s h
  | .gatherOp .. => execGather_keeps _ _ s h
  | .scatterOp .. => execScatter_keeps _ _ s h
  | .bindSlot .. => execBind_keeps _ s h
  | .closeSlot .. => execClose_keeps _ s h
  | .waitOps .. => execWait_keeps _ s h
  | .waitSatisfied .. => execWaitSatisfied_keeps _ s h
  | .signalCounter .. => execSignal_keeps _ s h
  | .waitc .. => execWaitc_keeps _ s h
  | .waitcSatisfied .. => execWaitcSatisfied_keeps _ s h
  | .postEntry .. => execPost_keeps _ s h
  | .loopset .. => execLoopset_keeps _ s h
  | .djnz .. => execDjnz_keeps _ s h
  | .bnz .. => execBnz_keeps _ s h
  | .jump .. => execJump_keeps _ s h
  | .paramBlock .. => execParam_keeps _ s h
  | .endItem .. => execEnd_keeps _ s h
  | .tileComplete .. => execTileComplete_keeps _ s h
  | .rowOpComplete .. => execRowOpComplete_keeps _ s h
  | .transferComplete .. => execTransferComplete_keeps _ s h
  | .unitFieldFault .. => execUnitFieldFault_keeps _ _ s h
  | .captureEnd .. => execCaptureEnd_keeps _ s h
  | .duplicateRun .. => execDuplicateRun_keeps _ _ _ s h
  | .fingerprintCompare .. => execFingerprintCompare_keeps _ s h
  | .refereeRun .. => execRefereeRun_keeps _ _ _ s h
  | .streamDescriptorStart .. => execStreamDescriptorStart_keeps _ s h
  | .openCell .. => execOpen_keeps _ _ s h
  | .dataCell .. => execData_keeps _ _ s h
  | .ackCell .. => execAck_keeps _ _ s h
  | .verdictCell .. => execVerdict_keeps _ _ s h
  | .sealCell .. => execSeal_keeps _ _ s h
  | .recallCell .. => execRecall_keeps _ _ s h
  | .timeCell .. => execTime_keeps _ _ s h
  | .linkDarkCell .. => execLinkDark_keeps _ _ s h
  | .creditCell .. => execCredit_keeps _ _ s h
  | .codeword .. => execCodeword_keeps _ _ _ _ _ s h
  | .cellEscape .. => execCellEscape_keeps _ _ s h
  | .cellStallDiscard .. => execCellStallDiscard_keeps _ _ s h
  | .creditReturn .. => execCreditReturn_keeps _ s h
  | .throttleRecovery => execThrottleRecovery_keeps s h
  | .timeCellSend .. => execTimeCellSend_keeps _ s h
  | .streamRetryTimeout .. => execStreamRetryTimeout_keeps _ s h
  | .streamReceiveTimeout .. => execStreamReceiveTimeout_keeps _ s h
  | .bridgePackTimeout .. => execBridgePackTimeout_keeps _ s h
  | .signalDetect .. => execSignalDetect_keeps _ _ s h
  | .bringUpAttempt .. => execBringUpAttempt_keeps _ s h
  | .trainingTimeout .. => execTrainingTimeout_keeps _ s h
  | .portLock .. => execPortLock_keeps _ _ _ s h
  | .discoveryWord .. => execDiscoveryWord_keeps _ _ s h
  | .lossOfSignal .. => execLossOfSignal_keeps _ s h
  | .portTnAdmit => execPortTnAdmit_keeps s h
  | .retrain => execRetrain_keeps s h
  | .jigRotation .. => execJigRotation_keeps _ s h
  | .mirrorLane .. => execMirror_keeps _ _ s h
  | .mirrorCompareEnd .. => execMirrorCompareEnd_keeps _ _ s h
  | .steerAck .. => execSteerAck_keeps _ _ s h
  | .steerNak .. => execSteerNak_keeps _ _ s h
  | .steerAckTimeout .. => execSteerAckTimeout_keeps _ s h
  | .trainLane .. => execTrain_keeps _ _ s h
  | .laneTrainingEnd .. => execLaneTrainingEnd_keeps _ _ _ s h
  | .trainPass .. => execTrainPass_keeps _ _ s h
  | .trainFail .. => execTrainFail_keeps _ _ s h
  | .markerLockLoss .. => execMarkerLockLoss_keeps _ _ s h
  | .laneFail .. => execLaneFail_keeps _ _ s h
  | .restripe3 .. => execRestripe3_keeps _ _ s h
  | .restripe4 .. => execRestripe4_keeps _ _ s h
  | .rdmaPacket .. => execRdmaPacket_keeps _ _ s h
  | .rdmaRetransmitTimeout .. => execRdmaRetransmitTimeout_keeps _ _ s h
  | .congestionNotification .. => execCongestionNotification_keeps _ _ s h
  | .rateRecovery .. => execRateRecovery_keeps _ _ s h
  | .priorityFlowControl .. => execPriorityFlowControl_keeps _ _ _ s h
  | .ptpMessage .. => execPtpMessage_keeps _ _ s h
  | .ftLock => execFtLock_keeps s h
  | .ftSourceLost => execFtSourceLost_keeps s h
  | .ftHoldoverExpiry => execFtHoldoverExpiry_keeps s h
  | .ftEpoch => execFtEpoch_keeps s h
  | .ttCtrl => execTtCtrl_keeps s h
  | .stepOpen .. => execStepOpen_keeps _ s h
  | .loadOpen .. => execLoadOpen_keeps _ s h
  | .stepOpenWindowEnd .. => execStepOpenWindowEnd_keeps _ s h
  | .holdEntry .. => execHold_keeps _ s h
  | .holdEnd => execHoldEnd_keeps s h
  | .checkClose .. => execCheckClose_keeps _ s h
  | .clockEntry .. => execClock_keeps _ s h
  | .snapshotEntry .. => execSnapshot_keeps _ s h
  | .evalEntry .. => execEval_keeps _ s h
  | .evalSlotOpen => execEvalSlotOpen_keeps s h
  | .evalSlotClose => execEvalSlotClose_keeps s h
  | .calLp .. => execCalLp_keeps _ s h
  | .calInl .. => execCalInl_keeps _ s h
  | .calWaitExpiry .. => execCalWaitExpiry_keeps _ s h
  | .calibrationWindowEnd .. => execCalibrationWindowEnd_keeps _ _ _ _ s h
  | .forcedWindow .. => execForcedWindow_keeps _ _ _ s h
  | .markEntry .. => execMark_keeps _ s h
  | .sealDeadline .. => execSealDeadline_keeps _ s h
  | .sealCopyResend => execSealCopyResend_keeps s h
  | .outcomeOverdue .. => execOutcomeOverdue_keeps _ s h
  | .replayOpen => execReplayOpen_keeps s h
  | .weightDigestEnd => execWeightDigestEnd_keeps s h
  | .digestCompare => execDigestCompare_keeps s h
  | .drawerCarveDone => execDrawerCarveDone_keeps s h
  | .memDrwCarve => execMemDrwCarve_keeps s h
  | .scrubRequest .. => execScrubRequest_keeps _ _ s h
  | .coreWringBase => execCoreWringBase_keeps s h
  | .coreWringCtrl => execCoreWringCtrl_keeps s h
  | .coreWringPtr => execCoreWringPtr_keeps s h
  | .netCringBase => execNetCringBase_keeps s h
  | .netCringCtrl => execNetCringCtrl_keeps s h
  | .netCringPtr => execNetCringPtr_keeps s h
  | .netSqPtr => execNetSqPtr_keeps s h
  | .netChip => execNetChip_keeps s h
  | .netGeometry => execNetGeometry_keeps s h
  | .netThrottle => execNetThrottle_keeps s h
  | .netBridge => execNetBridge_keeps s h
  | .stepRetainCtrl => execStepRetainCtrl_keeps s h
  | .coreHang .. => execCoreHang_keeps _ s h
  | .streamStall .. => execStreamStall_keeps _ s h
  | .portStall .. => execPortStall_keeps _ s h
  | .benchHang .. => execBenchHang_keeps _ s h
  | .romTimer => execRomTimer_keeps s h
  | .drainWindowEnd .. => execDrainWindowEnd_keeps _ _ s h
  | .routerIngressClose => execRouterIngressClose_keeps s h
  | .routerAssert => execRouterAssert_keeps s h
  | .resetRelease .. => execResetRelease_keeps _ _ _ s h
  | .bootStageEnd .. => execBootStageEnd_keeps _ s h
  | .feedQualified .. => execFeedQualified_keeps _ s h
  | .feedLeavesRange .. => execFeedLeavesRange_keeps _ s h
  | .powerGood => execPowerGood_keeps s h
  | .powerFail => execPowerFail_keeps s h
  | .darkFtReached => execDarkFtReached_keeps s h
  | .powerFailRailsOff => execPowerFailRailsOff_keeps s h
  | .coldResetN .. => execColdResetN_keeps _ _ s h
  | .thermalTrip .. => execThermalTrip_keeps _ s h
  | .thermalTripClear => execThermalTripClear_keeps s h
  | .svcEn .. => execSvcEn_keeps _ s h
  | .powerEvaluation .. => execPowerEvaluation_keeps _ s h
  | .alarmTrigger .. => execAlarmTrigger_keeps _ _ _ s h
  | .wipeEnd => execWipeEnd_keeps s h
  | .noticeUdpRepeat => execNoticeUdpRepeat_keeps s h
  | .glueUpWriteEnd => execGlueUpWriteEnd_keeps s h
  | .objectWriteFail .. => execObjectWriteFail_keeps _ _ s h
  | .twinTransferEnd => execTwinTransferEnd_keeps s h
  | .twinDigestEnd => execTwinDigestEnd_keeps s h
  | .restoreHeaderPassEnd .. => execRestoreHeaderPassEnd_keeps _ s h
  | .restorePayloadPassEnd .. => execRestorePayloadPassEnd_keeps _ s h
  | .speasLinkUp .. => execSpeasLinkUp_keeps _ s h
  | .speasWavelengthFail .. => execSpeasWavelengthFail_keeps _ _ s h
  | .ethernetLinkChange .. => execEthernetLinkChange_keeps _ _ s h
  | .auxiliaryInputChange .. => execAuxiliaryInputChange_keeps _ s h
  | .powerFailNotice => execPowerFailNotice_keeps s h
  | .snapshotComplete .. => execSnapshotComplete_keeps _ s h

/-- Settles O2: a step is a tick, or the row of the front command on the state with the queue's rest, and each keeps the canonical
form. -/
theorem stepKeepsCanonical : Obligations.StepKeepsCanonical := by
  intro s t hs hstep
  have hkept := kept_of_canonical hs
  cases hp : s.pending with
  | nil =>
    obtain rfl : s.tick = t := by simpa only [step, hp, Host.Outcome.next.injEq] using hstep
    exact canonical_of_kept (s.tick_keeps hkept)
  | cons i rest =>
    have hexec : exec i { s with pending := rest } = .next t := by simpa only [step, hp] using hstep
    have hrest : Kept rest { s with pending := rest } := ⟨rfl, hkept.2⟩
    exact canonical_of_kept (exec_keeps hrest i t hexec)

/-! ### One wrong symbol -/

/-- Writing bytes corrects nothing. -/
theorem Memory.setBytes_corrected (m : Memory) (a : Nat) (bs : List Byte) : (m.setBytes a bs).corrected = m.corrected := by
  induction bs generalizing m a with
  | nil => rfl
  | cons b r ih => exact ih (m.setByte a b) (a + 1)

/-- A granule that no error meets on its way is checked where it is stored and nowhere else. -/
theorem State.checkTransit_of_noneInflight {s : State} {g : Nat} (h : ∀ e ∈ s.mem.inflight, e.1 ≠ .transit ∨ e.2.1 ≠ g) :
    s.checkTransit g = s := by
  have hnone : s.mem.inflight.filter (fun e => e.1 == .transit && e.2.1 == g) = [] := by
    simpa [List.filter_eq_nil_iff, imp_iff_not_or] using h
  simp only [State.checkTransit, hnone, List.foldl_nil]

/-- `m` once a corrected granule has been written back clean, and the correction counted. -/
def Memory.writtenBack (m : Memory) (g : Nat) : Memory := { m.setDiff g 0 with corrected := satAdd m.corrected 1 }

@[simp] theorem Memory.writtenBack_inflight (m : Memory) (g : Nat) : (m.writtenBack g).inflight = m.inflight := rfl
@[simp] theorem Memory.writtenBack_corrected (m : Memory) (g : Nat) : (m.writtenBack g).corrected = satAdd m.corrected 1 := rfl

theorem Memory.writtenBack_diff_self {m : Memory} (h : m.wf = true) (g : Nat) : (m.writtenBack g).diff g = 0 := by
  simp only [Memory.wf, tabWf, Bool.and_eq_true] at h
  obtain ⟨-, hrise, -⟩ := h
  exact tabGet_tabSet_self hrise

theorem Memory.writtenBack_diff_other (m : Memory) {g h : Nat} (hh : h ≠ g) : (m.writtenBack g).diff h = m.diff h :=
  tabGet_tabSet_other hh

/-- Flipping data bits changes neither the difference patterns nor what is under way nor the count of corrections. -/
theorem Memory.flip_rest (m : Memory) (g : Nat) (d : BitVec 144) :
    (m.flip g d).errors = m.errors ∧ (m.flip g d).inflight = m.inflight ∧ (m.flip g d).corrected = m.corrected :=
  ⟨flip_errors m g d, Memory.setBytes_inflight _ _ _, Memory.setBytes_corrected _ _ _⟩

/-- A stored granule that is wrong in one symbol is put right: no data bit stays flipped (R181, R182, R198). -/
theorem State.checkStored_oneSymbol {s : State} {g i v : Nat} (hi : i < 36) (hv : 0 < v) (hv16 : v < 16)
    (hd : s.mem.diff g = BitVec.ofNat 144 (v <<< (4 * i))) :
    s.checkStored g = { s with mem := (s.mem.flip g 0#144).writtenBack g } := by
  obtain ⟨hclean, hpoison, hdecode⟩ := code_one_symbol i hi v hv16 hv
  obtain ⟨-, -, hcount⟩ := s.mem.flip_rest g 0#144
  rw [Memory.writtenBack, hcount]
  simp only [State.checkStored, hd, hclean, hpoison, hdecode, or_self, if_false, BitVec.xor_self]

/-- Settles O24: the check finds the one wrong symbol, and nothing but the granule's pattern and the count of corrections changes. -/
theorem codeCorrectsOneSymbol : Obligations.CodeCorrectsOneSymbol := by
  intro s g i v hs hi hv hv16 hd htransit
  have hwf := wf_of_kept (kept_of_canonical hs)
  obtain ⟨herrors, hinflight, hcount⟩ := s.mem.flip_rest g 0#144
  have hbytes := fun a => flip_zero s.mem g a hwf
  have hflip : (s.mem.flip g 0#144).wf = true := Memory.wf_flip hwf
  rw [State.checkGranule, State.checkStored_oneSymbol hi hv hv16 hd]
  generalize s.mem.flip g 0#144 = m at *
  rw [State.checkTransit_of_noneInflight (by rw [Memory.writtenBack_inflight, hinflight]; exact htransit)]
  refine ⟨hbytes, Memory.writtenBack_diff_self hflip g, fun h hh => ?_, ?_, rfl, rfl, rfl⟩
  · exact (m.writtenBack_diff_other hh).trans (congrArg (tabGet 0 · h) herrors)
  · rw [Memory.writtenBack_corrected, hcount]

/-! ### What a store does -/

/-- `s` once a write of `n` bytes from `a` has checked the granules that it covers only in part (R169). -/
def State.edgesChecked (s : State) (a n : Nat) : State := (partialGranules a n).foldl (fun t g => t.checkGranule g) s

/-- `m` once a write of `n` bytes from `a` has encoded afresh the granules that it covers whole (R188). -/
def Memory.encodedAfresh (m : Memory) (a n : Nat) : Memory :=
  (granulesOf a n).foldl (fun m g => if g ∈ partialGranules a n then m else m.setDiff g 0) m

/-- Only granules at the edges of the write are checked. -/
theorem State.edgesChecked_sameOut (s : State) (a n : Nat) : SameOut (partialGranules a n) s (s.edgesChecked a n) :=
  sameOut_fold _ (fun g hg => granulesOf_mod a n g (List.mem_of_mem_filter hg)) s

/-- A store checks the edges, encodes the whole granules afresh and sets its bytes; its accounting touches none of this. -/
theorem State.sameM_store (s : State) (r : Requester) (a : Nat) (bs : List Byte) :
    SameM { s.edgesChecked a bs.length with
        mem := ((s.edgesChecked a bs.length).mem.encodedAfresh a bs.length).setBytes a bs } (s.store r a bs) := by
  obtain ⟨hb, he, hr, -⟩ := sameM_account { s.edgesChecked a bs.length with
    mem := ((s.edgesChecked a bs.length).mem.encodedAfresh a bs.length).setBytes a bs } r a bs.length true
  exact ⟨hb, he, hr, (s.edgesChecked_sameOut a bs.length).p.symm⟩

theorem State.wf_edgesChecked {s : State} (hs : s.canonical = true) (a n : Nat) : (s.edgesChecked a n).mem.wf = true :=
  wf_of_kept (wf_check _ (kept_of_canonical hs))

/-- The bytes stored read as written. -/
theorem State.store_byte_inside {s : State} (hs : s.canonical = true) (r : Requester) (a : Nat) {bs : List Byte} {i : Nat}
    (hi : i < bs.length) : (s.store r a bs).byte (a + i) = bs[i] := by
  rw [State.byte, (s.sameM_store r a bs).b]
  exact Memory.setBytes_inside _ a bs (clearFold_wf _ _ _ (State.wf_edgesChecked hs a bs.length)) i hi

section
variable {s : State} (r : Requester) {a n : Nat} {bs : List Byte} (hn : n = bs.length)
include hn

/-- A byte outside those stored reads as before, unless it shares an edge granule that held an error to correct. -/
theorem State.store_byte_outside {x : Nat} (hx : x < a ∨ a + n ≤ x)
    (hg : granule x ∉ partialGranules a n ∨ s.mem.diff (granule x) = 0 ∨ s.mem.diff (granule x) = poisonPattern) :
    (s.store r a bs).byte x = s.byte x := by
  subst hn
  rw [State.byte, (s.sameM_store r a bs).b]
  calc tabGet 0 (((s.edgesChecked a bs.length).mem.encodedAfresh a bs.length).setBytes a bs).bytes x
      = tabGet 0 ((s.edgesChecked a bs.length).mem.encodedAfresh a bs.length).bytes x := Memory.setBytes_outside _ a bs x hx
    _ = (s.edgesChecked a bs.length).byte x := congrArg (tabGet 0 · x) (clearFold_bytes _ _ _)
    _ = s.byte x := (s.edgesChecked_sameOut a bs.length).b x hg

/-- A granule that the write covers whole holds no error. -/
theorem State.store_diff_whole (hs : s.canonical = true) {g : Nat} (hg : g ∈ granulesOf a n) (hw : g ∉ partialGranules a n) :
    (s.store r a bs).mem.diff g = 0 := by
  subst hn
  rw [Memory.diff, (s.sameM_store r a bs).e]
  show tabGet 0 (((s.edgesChecked a bs.length).mem.encodedAfresh a bs.length).setBytes a bs).errors g = 0
  rw [Memory.setBytes_errors]
  exact clearFold_zero _ _ _ (State.wf_edgesChecked hs a bs.length) g (.inr ⟨hg, hw⟩)

end

/-- A store changes no register but the error capture. -/
theorem State.store_reg (s : State) (q : Requester) (a : Nat) (bs : List Byte) {r : Reg} (hr : r.addr ≠ Reg.memPoisonLog.addr) :
    (s.store q a bs).reg r = s.reg r := by
  rw [State.reg, (s.sameM_store q a bs).r]
  exact (s.edgesChecked_sameOut a bs.length).r r hr

theorem State.store_pending (s : State) (r : Requester) (a : Nat) (bs : List Byte) : (s.store r a bs).pending = s.pending := rfl

/-! ### MEM_WRITE -/

theorem State.begun_canonical (s : State) (c : OpenCmd) : (s.begun c).canonical = s.canonical := by
  rw [State.canonical, s.begun_mem, s.begun_regs, State.canonical]

/-- A MEM_WRITE that no refusal meets stores its bytes and ends with OK. -/
theorem exec_memWrite_of_executes {s u : State} {c : OpenCmd} {a n : Nat} (h : s.executes c 0x0301 u) (ha : a = uAt c.params 0 8)
    (hn : n = uAt c.params 8 4) (hr : u.memoryRefusal [] [(a, n)] = none) :
    exec .memWrite s = .next (State.ended (u.store .bench a (slice c.params 16 n)) c [] id).settle := by
  obtain ⟨ht, rfl⟩ := h
  subst ha hn
  show Host.Outcome.next (s.run 0x0301 doMemWrite).settle = _
  rw [State.run_of_takes ht]
  simp only [doMemWrite, hr]
  rfl

theorem decodeSyndrome_syndrome_zero : decodeSyndrome (syndrome 0) = .clean := by decide +kernel

/-- Settles O23: the store has the effect asked for, and the command's reply touches neither memory nor a register. -/
theorem memWriteStoresItsBytes : Obligations.MemWriteStoresItsBytes := by
  intro s u c a n hs hexec ha hn hlen hr
  have hrow := exec_memWrite_of_executes hexec ha hn hr
  obtain ⟨-, rfl⟩ := hexec
  have hb : (s.begun c).canonical = true := (s.begun_canonical c).trans hs
  obtain ⟨ebytes, eerrors, eregs, epending⟩ := sameM_ended ((s.begun c).store .bench a (slice c.params 16 n)) c []
  refine ⟨_, hrow, fun i hi => ?inside, fun x hx hg => ?outside, fun g hg hw => ?whole, fun r hne => ?regs, ?queue⟩
  case inside =>
    rw [State.byte, ebytes]
    exact State.store_byte_inside hb .bench a hi
  case outside =>
    rw [State.byte, ebytes]
    rw [← s.begun_mem c] at hg
    exact (State.store_byte_outside .bench hlen hx hg).trans (congrArg (fun m : Memory => tabGet 0 m.bytes x) (s.begun_mem c))
  case whole =>
    have hzero : (State.ended ((s.begun c).store .bench a (slice c.params 16 n)) c [] id).mem.diff g = 0 := by
      rw [Memory.diff, eerrors]
      exact State.store_diff_whole .bench hlen hb hg hw
    exact ⟨hzero, by rw [hzero, decodeSyndrome_syndrome_zero]⟩
  case regs =>
    rw [State.reg, eregs]
    exact ((s.begun c).store_reg .bench a _ hne).trans (congrArg (tabGet r.reset · r.addr) (s.begun_regs c))
  case queue =>
    obtain ⟨-, -, -, -, hpending⟩ := parts_of_rest (begun_rest s c)
    rw [epending, State.store_pending, hpending]

/-! ### The values after reset -/

/-- Settles O4: the state after reset is written out, so each of its parts is read off. -/
theorem resetHoldsTheSpecsValues : Obligations.ResetHoldsTheSpecsValues := by
  refine ⟨⟨rfl, rfl, rfl, rfl, rfl, rfl, rfl, rfl, rfl, rfl, ⟨State.reset.tick, rfl⟩⟩, ?registers⟩
  case registers => decide

/-! ### Memory commands -/

/-- Two rows that reach the same state go on alike as what settles by itself follows. -/
theorem next_settle_congr {a b : State} (h : a = b) :
    (.next a.settle : Host.Outcome State Fault Refusal) = .next b.settle := by rw [h]

section
variable {errs : BitErrors} {u v : State} {c : OpenCmd} {a n : Nat} (ha : a = uAt c.params 0 8) (hn : n = uAt c.params 8 4)
  (hr : u.memoryRefusal [(a, n)] [] = none) (hv : v = (u.hit errs).fetch .bench a n)
include ha hn hr hv

/-- A MEM_READ that meets poison answers the address of the first poisoned granule (R184, R433). -/
theorem doMemRead_poisoned {g : Nat} (hg : v.firstPoison a n = some g) :
    doMemRead errs c u = refuseWith v.unhit .poison (le 8 g) := by
  subst ha hn hv
  simp only [doMemRead, hr, hg]

/-- A MEM_READ that meets no poison answers the bytes (R433). -/
theorem doMemRead_clean (hg : v.firstPoison a n = none) : doMemRead errs c u = done v.unhit (v.bytesAt a n) := by
  subst ha hn hv
  simp only [doMemRead, hr, hg]

end

/-- A command that begins a memory operation, which no refusal meets, starts it while fewer than four run (R433). -/
theorem State.run_of_beginMemory {s : State} {c : OpenCmd} {opcode : Nat} {f : OpenCmd → State → Result}
    {reads writes : List (Nat × Nat)} {op : LongOp} (ht : s.takes c opcode = true)
    (hf : f c (s.begun c) = (s.begun c).beginMemory reads writes op) (hr : (s.begun c).memoryRefusal reads writes = none) :
    s.run opcode f =
      if (s.begun c).memoryOps < 4 then (s.begun c).started c op id else (s.begun c).turnedAway c .noResource [] := by
  rw [State.run_of_takes ht, hf, State.beginMemory, hr]
  by_cases hfree : (s.begun c).memoryOps < 4
  · rw [if_pos hfree]
    exact congrArg (State.conclude c false) (if_neg (by omega))
  · rw [if_neg hfree]
    exact congrArg (State.conclude c false) (if_pos (by omega))

/-- A MEM_WRITE that a refusal meets gives that refusal. -/
theorem doMemWrite_of_memoryRefusal_some {u : State} {c : OpenCmd} {a n : Nat} {st : Status} (ha : a = uAt c.params 0 8)
    (hn : n = uAt c.params 8 4) (hr : u.memoryRefusal [] [(a, n)] = some st) : doMemWrite c u = refuse u st := by
  subst ha hn
  simp only [doMemWrite, hr]

/-! ### The scrub -/

/-- A scrub that finds no poison in a sealed Veneer counts its 64 bytes at the channel's device and checks them (R190, R196). -/
theorem State.scrub_of_noPoison {s t : State} {a unit : Nat} {errs : BitErrors} (ht : t = s.hit errs)
    (hu : unit = (t.scrubChannel a).2.1)
    (hp : ((granulesOf a 64).find? fun g => t.mem.isPoisoned g && t.inSealed g) = none) :
    s.scrub a errs = State.unhit (State.checkRange
      (t.count (if (t.scrubChannel a).1 = .inlay then 772 + 2 * unit else 1088 + 2 * unit) 64) a 64) := by
  subst ht hu
  unfold State.scrub
  dsimp only
  split
  case h_1 g hg => exact absurd (hg.symm.trans hp) (by simp)
  case h_2 => cases (State.scrubChannel (s.hit errs) a).1 <;> rfl

theorem exec_scrubRequest_may {s : State} {a : Nat} {errs : BitErrors} (h : s.scrubMay a = true) :
    exec (.scrubRequest a errs) s = .next (s.scrub a errs).settle := by
  show Host.Outcome.next (if s.scrubMay a = true then s.scrub a errs else s).settle = _
  rw [if_pos h]

theorem exec_scrubRequest_mayNot {s : State} {a : Nat} {errs : BitErrors} (h : s.scrubMay a = false) :
    exec (.scrubRequest a errs) s = .next s.settle := by
  show Host.Outcome.next (if s.scrubMay a = true then s.scrub a errs else s).settle = _
  rw [if_neg (Bool.eq_false_iff.1 h)]

/-- Settles O22: each command executes as its meaning says, in the case that the refusals and the poison name; a scrub request is
the scrub where it may run. -/
theorem memoryRowsComplete : Obligations.MemoryRowsComplete := by
  refine ⟨fun s u c errs a b n st => ⟨?read, ?fill, ?copy, ?digest, ?write⟩, fun s t a unit errs => ⟨rfl, ?mayNot, ?may⟩⟩
  case read =>
    rintro ⟨ht, rfl⟩ ha hn hr
    have hrow : exec (.memRead errs) s = .next (State.conclude c false (doMemRead errs c (s.begun c))).settle :=
      next_settle_congr (State.run_of_takes ht)
    refine ⟨_, rfl, fun g hg => ?_, fun hg => ?_⟩
    · rw [hrow, doMemRead_poisoned ha hn hr rfl hg]
      rfl
    · rw [hrow, doMemRead_clean ha hn hr rfl hg]
      rfl
  case fill =>
    rintro ⟨ht, rfl⟩ rfl rfl hr
    exact congrArg Host.Outcome.next (State.run_of_beginMemory ht rfl hr)
  case copy =>
    rintro ⟨ht, rfl⟩ rfl rfl rfl hr
    exact congrArg Host.Outcome.next (State.run_of_beginMemory ht rfl hr)
  case digest =>
    rintro ⟨ht, rfl⟩ rfl rfl hr
    exact congrArg Host.Outcome.next (State.run_of_beginMemory ht rfl hr)
  case write =>
    rintro ⟨ht, rfl⟩ ha hn hr
    have hrun : s.run 0x0301 doMemWrite = (s.begun c).turnedAway c st [] :=
      (State.run_of_takes ht).trans (congrArg (State.conclude c false) (doMemWrite_of_memoryRefusal_some ha hn hr))
    exact next_settle_congr hrun
  case mayNot => exact exec_scrubRequest_mayNot
  case may =>
    intro h ht hu hp
    have hscrub := (exec_scrubRequest_may h).trans (next_settle_congr (State.scrub_of_noPoison ht hu hp))
    exact ⟨fun hk => by rw [hscrub, if_pos hk], fun hk => by rw [hscrub, if_neg (by simp [hk])]⟩

/-! ### Image writes -/

section
variable {s t : State} {w : ImageWrite} (hw : s.ckpt.writing = some w) (ht : t = s.sourceRead w)
include hw ht

/-- An image write that ends with a poisoned shard fails there (R185, R393). -/
theorem State.imageWritten_poisoned {k : Nat} (hp : t.poisonedShard w = some k) : s.imageWritten = t.imageFailed k .poison := by
  subst ht
  simp only [State.imageWritten, hw, hp]

/-- An image write whose source holds no poison seals and writes every shard, flushes every target and flips NEXT_SLOT (R391). -/
theorem State.imageWritten_clean {u v y : State} {xs : List ((List Byte × List Byte) × Nat)} (hp : t.poisonedShard w = none)
    (hxs : xs = (shardsOf (t.sections w)).zipIdx.map fun e => (t.sealShard w e.2 e.1, e.2))
    (hy : y = xs.foldl (fun t e => t.writeObject w e.2 e.1) t)
    (hu : u = y.targets.foldl (fun t i => t.send (.flush (t.targetAt i).1 (t.targetAt i).2.1 (t.targetAt i).2.2)) y)
    (hv : v = { u with ckpt := { u.ckpt with state := 2, writing := none, last := some w, engineKeys := [] } }) :
    s.imageWritten = State.cutEnded (State.holdImageEnded (State.ckptDone (v.setReg .ckptCtrl (v.reg .ckptCtrl ^^^ 1)) w .ok
      0xFFFFFFFF (Config.shake256 (xs.flatMap fun e => e.1.1) 32)) w) w := by
  subst ht hxs hy hu hv
  simp only [State.imageWritten, hw, hp]

/-- An object that fails with no poisoned shard before it fails the image at its own shard (R393). -/
theorem State.objectFailed_first {shard : Nat} (cause : Sys2Proof.ObjectFault)
    (hfirst : ∀ k, t.poisonedShard w = some k → shard ≤ k) : s.objectFailed shard cause = t.imageFailed shard cause := by
  subst ht
  simp only [State.objectFailed, hw]
  split
  case h_1 k hk => exact if_neg (Nat.not_lt.2 (hfirst k hk))
  case h_2 => rfl

end

/-- A failed image has written the objects before the failed shard, and reports it; NEXT_SLOT stays (R393). -/
theorem State.imageFailed_writing {t u v : State} {w : ImageWrite} {shard : Nat} {cause : Sys2Proof.ObjectFault}
    (hw : t.ckpt.writing = some w)
    (hu : u = (((shardsOf (t.sections w)).zipIdx.take shard).map fun e => (t.sealShard w e.2 e.1, e.2)).foldl
      (fun t e => t.writeObject w e.2 e.1) t)
    (hv : v = { u with ckpt := { u.ckpt with state := 3, writing := none, last := some w, engineKeys := [] } }) :
    t.imageFailed shard cause =
      State.cutEnded (State.holdImageEnded (v.ckptDone w (faultStatus cause) shard []) w) w := by
  subst hu hv
  simp only [State.imageFailed, hw]

/-! ### Twin transfers -/

section
variable {s : State} {x : TwinTransfer} (hx : s.twin.transfer = some x) (hdone : s.transferDone x = true)
  (hdig : x.digesting = false)
include hx hdone hdig

/-- The sender of a transfer is done once its streams are (R383). -/
theorem State.transferEnd_sender (hs : x.sending = true) : s.transferEnd = s.endTransfer x .ok := by
  simp only [State.transferEnd, hx, hdone, hdig, hs, Bool.not_true, Bool.false_eq_true, or_self, if_false, if_true]

/-- The spare fails a transfer that brought poison (R183, R383). -/
theorem State.transferEnd_poisoned (hs : x.sending = false)
    (hp : ∃ n ∈ x.contexts, ∃ p, (s.context n).rx = some p ∧ p.poison = true) : s.transferEnd = s.failTransfer .poison := by
  obtain ⟨n, hn, p, hrx, hpoison⟩ := hp
  simp only [State.transferEnd, hx, hdone, hdig, hs, Bool.not_true, Bool.false_eq_true, or_self, if_false]
  exact if_pos (List.any_eq_true.2 ⟨n, hn, by simp only [hrx, hpoison]⟩)

/-- The spare takes its digests of a transfer that brought no poison (R383). -/
theorem State.transferEnd_clean (hs : x.sending = false)
    (hp : ∀ n ∈ x.contexts, ∀ p, (s.context n).rx = some p → p.poison = false) :
    s.transferEnd = { s with twin := { s.twin with transfer := some { x with digesting := true } } } := by
  simp only [State.transferEnd, hx, hdone, hdig, hs, Bool.not_true, Bool.false_eq_true, or_self, if_false]
  refine if_neg fun hany => ?_
  obtain ⟨n, hn, hpoison⟩ := List.any_eq_true.1 hany
  cases hrx : (s.context n).rx with
  | none => simp only [hrx, Bool.false_eq_true] at hpoison
  | some p => simp only [hrx, hp n hn p hrx, Bool.false_eq_true] at hpoison

end

/-- The spare's digests decide: where both arrays match their records the received state is the sealed one, else the transfer fails
(R358, R383). -/
theorem State.transferDigested_spare {s t u : State} {x : TwinTransfer} (hx : s.twin.transfer = some x) (hs : x.sending = false)
    (hdig : x.digesting = true) (hu : u = s.digestRead (s.ownMaster x.letter)) (ht : t = u.digestRead (s.mirrorMaster x.letter)) :
    s.transferDigested =
      if (t.recordMatches x 0 (t.ownMaster x.letter) && t.recordMatches x 1 (t.mirrorMaster x.letter)) = true then
        State.endTransfer { t with
          steps := { t.steps with sealedLetter := x.letter, sealedStep := x.step, sealedSince := false, sealedParams := none }
          twin := { t.twin with role := 1, peer := x.peer, mirrorValid := true, newPairing := false } } x .ok
      else t.failTransfer .badTag := by
  subst hu ht
  simp only [State.transferDigested, hx, hs, hdig, Bool.not_true, Bool.false_eq_true, or_self, if_false]

/-! ### Restores -/

section
variable {s t : State} {r : Restore} {hs : List (Option (List Byte))} (hr : s.ckpt.restore = some r) (hh : r.headers = [])
  (ht : t = (upFrom 1 (hs.length - 1)).foldl (fun t k => t.readObject r.slot k 0 4096) s)
include hr hh ht

/-- A header pass that finds a fault ends the restore (R396). -/
theorem State.headerPass_fault {st : Status} {off : List Nat} (hf : t.headerFault r hs = some (st, off)) :
    s.headerPass hs = t.endRestore r st off := by
  subst ht
  simp only [State.headerPass, hr, hh, hf, List.isEmpty_nil, Bool.not_true, Bool.false_eq_true, if_false]

/-- A header pass without fault keeps the headers and reads the payloads (R396, R398). -/
theorem State.headerPass_ok {u : State} (hf : t.headerFault r hs = none)
    (hu : u = (hs.filterMap id).zipIdx.foldl
      (fun t h => t.readObject r.slot h.2 4096 (roundUp (uAt h.1 0x30 8) 4096)) t) :
    s.headerPass hs = { u with ckpt := { u.ckpt with restore := some { r with headers := hs.filterMap id } } } := by
  subst ht hu
  simp only [State.headerPass, hr, hh, hf, List.isEmpty_nil, Bool.not_true, Bool.false_eq_true, if_false]

end

section
variable {s u z : State} {r : Restore} {ps : List (Option (List Byte))} {qs : List (List Byte)} {programs : List (Nat × Nat)}
  {res : List (List Byte) × Option Status} (hr : s.ckpt.restore = some r) (hh : r.headers ≠ [])
  (hres : s.payloadsPassed (r.headers.zipIdx.map fun h => (h.1, (ps[h.2]?).bind id)) = res) (hqs : qs = res.1)
  (hz : z = s.imageMap r.headers qs) (hp : programs = programRanges 16 (sectionBytes r.headers qs 4))
  (hu : u = (r.headers.zip qs).foldl (fun t e => t.restoreShard z programs e.1 e.2) s)
include hr hh hres hqs hz hp hu

/-- A payload pass whose payloads all pass writes them and activates the image (R398, R399). -/
theorem State.payloadPass_ok (hok : res.2 = none) : s.payloadPass ps = (u.activate r qs).endRestore r .ok [] := by
  subst hqs hz hp hu
  have hne : r.headers.isEmpty = false := List.isEmpty_eq_false_iff.2 hh
  simp only [State.payloadPass, hr, hne, hres, hok, Bool.false_eq_true, if_false]

/-- A payload pass that fails writes what passed before, and leaves the module in state restore failed (R398, R399). -/
theorem State.payloadPass_failed {e : Status} (hbad : res.2 = some e) :
    s.payloadPass ps =
      State.endRestore { u with steps := { u.steps with restoreFailed := true, opened := [] } } r e [qs.length] := by
  subst hqs hz hp hu
  have hne : r.headers.isEmpty = false := List.isEmpty_eq_false_iff.2 hh
  simp only [State.payloadPass, hr, hne, hres, hbad, Bool.false_eq_true, if_false]

end

/-- Settles O51: each row is the end of the image, transfer or pass, in the case that the hypotheses name. -/
theorem imagesAndTransfersEnd : Obligations.ImagesAndTransfersEnd := by
  intro s t u v y z w x r xs shard k cause hs ps qs st e off programs
  refine ⟨?written, ?poisoned, ?failed, ?transfer, ?digests, ?headers, ?payloads⟩
  case written => exact fun hw ht hp hxs hy hu hv => next_settle_congr (State.imageWritten_clean hw ht hp hxs hy hu hv)
  case poisoned => exact fun hw ht hp => next_settle_congr (State.imageWritten_poisoned hw ht hp)
  case failed =>
    intro hw ht htw hfirst hu hv
    exact next_settle_congr ((State.objectFailed_first hw ht cause hfirst).trans (State.imageFailed_writing htw hu hv))
  case transfer =>
    exact fun hx hdone hdig => ⟨fun hs => next_settle_congr (State.transferEnd_sender hx hdone hdig hs),
      fun hs hp => next_settle_congr (State.transferEnd_poisoned hx hdone hdig hs hp),
      fun hs hp => next_settle_congr (State.transferEnd_clean hx hdone hdig hs hp)⟩
  case digests =>
    intro hx hspare hdig hu ht
    have hend := State.transferDigested_spare hx hspare hdig hu ht
    refine ⟨fun hown hmirror => next_settle_congr (hend.trans (if_pos ?_)), fun hbad => next_settle_congr (hend.trans (if_neg ?_))⟩
    · rw [hown, hmirror]; rfl
    · obtain hown | hmirror := hbad
      · simp [hown]
      · simp [hmirror]
  case headers =>
    exact fun hr hh ht => ⟨fun hf => next_settle_congr (State.headerPass_fault hr hh ht hf),
      fun hf hu => next_settle_congr (State.headerPass_ok hr hh ht hf hu)⟩
  case payloads =>
    exact fun hr hh hqs hz hp hu => ⟨fun hok => next_settle_congr (State.payloadPass_ok hr hh rfl hqs hz hp hu hok),
      fun hbad => next_settle_congr (State.payloadPass_failed hr hh rfl hqs hz hp hu hbad)⟩

end Sys2Proof.Machine

/-! PROOFS. The statements of the family of chapter 7: tensor ports with their codewords, queues and lanes (R202 to R224, R279 to
R292), the Ethernet ports (R225 to R231) and the Speas ports (R232 to R235). -/

namespace Sys2Proof.Machine

/-! ### Rows of a port -/

/-- The row of a tensor port whose operation reaches `u`: that, then what settles by itself. -/
theorem onPort_of_eq {n : Nat} (hn : n < 16) {t u : State} (h : t = u) : onPort n t = .next u.settle :=
  h ▸ onUnit_of_lt (decide_eq_true hn)

/-- The row of a unit whose operation reaches `u`. -/
theorem onUnit_of_eq {n l : Nat} (hn : n < l) {t u : State} (h : t = u) : onUnit n l t = .next u :=
  h ▸ onUnit_of_lt (decide_eq_true hn)

/-- Markers count on a port in service (R211). -/
theorem State.markersRun_iff {s : State} {n : Nat} :
    s.markersRun n = true ↔ (s.port n).state = .admitted ∨ (s.port n).state = .discovered := by
  rw [State.markersRun, Bool.or_eq_true, beq_iff_eq, beq_iff_eq]

/-- A port that has left DOWN, DARK and TRAINING is in service. -/
theorem State.markersRun_of_ne {s : State} {n : Nat} (hdown : (s.port n).state ≠ .down) (hdark : (s.port n).state ≠ .dark)
    (htrain : (s.port n).state ≠ .training) : s.markersRun n = true := by
  rw [State.markersRun_iff]
  cases h : (s.port n).state with
  | down => exact absurd h hdown
  | dark => exact absurd h hdark
  | training => exact absurd h htrain
  | discovered => exact .inr rfl
  | admitted => exact .inl rfl

/-! ### Codewords -/

/-- Counting the symbols of a codeword by lane leaves the port's count of corrected codewords. -/
@[simp] theorem TensorPort.word1_fecCorrected (p : TensorPort) (corrected : List Nat) :
    (p.word1 corrected).fecCorrected = p.fecCorrected := by
  dsimp only [TensorPort.word1]
  split <;> rfl

/-- A codeword that is not corrected loses the cells that it touches (R209, R241). -/
theorem State.takeCodeword_uncorrectable {s : State} {n cells : Nat} {corrected : List Nat} {bad : Bool}
    (h : bad = true ∨ 4 < corrected.sum) :
    s.takeCodeword n corrected bad cells = State.count (s.setPort n { (s.port n).word1 [] with
      fecUncorrectable := satAdd (s.port n).fecUncorrectable 1, discardFec := satAdd (s.port n).discardFec (min 3 cells) })
      (1138 + 3 * n) (min 3 cells) := if_pos h

/-- A corrected codeword after which no lane exceeds 64 corrected symbols is only counted (R219, R241). -/
theorem State.takeCodeword_corrected {s : State} {n cells : Nat} {corrected : List Nat} (hmax : corrected.sum ≤ 4)
    (hsome : corrected.sum ≠ 0) (hlanes : ∀ i < 5, nth 0 ((s.port n).word1 corrected).laneSymbols i ≤ 64) :
    s.takeCodeword n corrected false cells =
      s.setPort n { (s.port n).word1 corrected with fecCorrected := satAdd (s.port n).fecCorrected 1 } := by
  have hnone : ((List.range 5).filter fun i => decide (64 < nth 0 ((s.port n).word1 corrected).laneSymbols i)) = [] :=
    List.filter_eq_nil_iff.2 fun i hi => by simpa using hlanes i (List.mem_range.1 hi)
  simp only [State.takeCodeword, Bool.false_eq_true, false_or, Nat.not_lt.2 hmax, if_false, hsome, hnone, List.foldl_nil,
    TensorPort.word1_fecCorrected]

/-- A codeword on a port that has left DOWN and DARK is taken, and a decoder without lock takes a port in service DOWN (R211). -/
theorem exec_codeword {s : State} {n cells : Nat} {corrected : List Nat} {bad lost : Bool} (hn : n < 16)
    (hdown : (s.port n).state ≠ .down) (hdark : (s.port n).state ≠ .dark) :
    exec (.codeword n corrected bad lost cells) s = .next (State.settle
      (if lost = true ∧ s.markersRun n = true then (s.takeCodeword n corrected bad cells).portTo n .down
        else s.takeCodeword n corrected bad cells)) :=
  onPort_of_eq hn (if_neg (not_or.2 ⟨hdown, hdark⟩))

/-! ### Queues of the router -/

/-- The head of a channel that has waited moves to the escape channel where its route there has a credit (R280). -/
theorem exec_cellEscape_of_credit {s z : State} {k vc o hop : Nat} {q : QueuedCell} {x : Cell} {detour : Bool} (hk : k < 41)
    (hvc : vc ≤ 3) (hopen : s.routerClosed = false) (hq : s.oldHead k vc 32 = some q) (hz : z = s.takeOut k q)
    (hx : x = { parseCell q.origin with vc := 4, dateline := false }) (hroute : z.route x q.ingress true = .out o detour hop)
    (hcredit : z.hasCredit o (z.leaving x q.ingress o detour hop).vc = true) :
    exec (.cellEscape k vc) s = .next (State.settle (z.withRouter (z.enqueue o
      { q with bytes := (z.leaving x q.ingress o detour hop).bytes, origin := x.bytes }))) := by
  subst hz hx
  show execCellEscape k vc s = _
  simp only [execCellEscape, Nat.not_lt.2 hvc, hopen, Bool.false_eq_true, or_self, if_false, hq, hroute, hcredit, if_true]
  exact onUnit_of_lt (decide_eq_true hk)

/-- The head of a channel that has waited for the stall time is discarded (R290). -/
theorem exec_cellStallDiscard_of_oldHead {s : State} {k vc : Nat} {q : QueuedCell} (hk : k < 41)
    (hq : s.oldHead k vc (ticksUs (s.rf .netRouteCtrl 0 10)) = some q) :
    exec (.cellStallDiscard k vc) s = .next (State.settle (State.unroutable (s.takeOut k q) q)) := by
  show execCellStallDiscard k vc s = _
  simp only [execCellStallDiscard, hq]
  exact onUnit_of_lt (decide_eq_true hk)

/-- A port in service that owes credits sends them, up to 255 of a channel (R276, R279). -/
theorem exec_creditReturn_of_owed {s z : State} {n : Nat} (hn : n < 16)
    (hst : (s.port n).state = .admitted ∨ (s.port n).state = .discovered) (howed : (s.port n).owed.all (· == 0) = false)
    (hz : z = s.setPort n { s.port n with owed := (s.port n).owed.map (fun k => k - min 255 k), owedSince := s.now }) :
    exec (.creditReturn n) s = .next (State.settle (z.putCell n
      (z.linkCell n 8 6 (((s.port n).owed.map fun k => min 255 k).flatMap (le 1))).bytes)) := by
  subst hz
  refine onPort_of_eq hn (if_neg ?_)
  rw [howed, not_or, not_and_or, not_not, not_not]
  exact ⟨hst, Bool.false_ne_true⟩

/-- Settles O36: each row is the one operation that its codeword, queue or port asks for; THROTTLE_RECOVERY is its own meaning. -/
theorem routerTimersRun : Obligations.RouterTimersRun := by
  intro s z n k cells vc o corrected p q x detour hop
  refine ⟨?codeword, exec_cellEscape_of_credit, exec_cellStallDiscard_of_oldHead, ?credits, rfl⟩
  case codeword =>
    rintro hn rfl hdown hdark
    refine ⟨fun bad hbad => ?_, fun hmax hsome hlanes => ?_, fun htrain _ => ?_⟩
    · rw [exec_codeword hn hdown hdark, if_neg (by simp), State.takeCodeword_uncorrectable hbad]
    · rw [exec_codeword hn hdown hdark, if_neg (by simp), State.takeCodeword_corrected hmax hsome hlanes]
    · rw [exec_codeword hn hdown hdark, if_pos ⟨rfl, State.markersRun_of_ne hdown hdark htrain⟩]
  case credits =>
    rintro hn rfl
    exact exec_creditReturn_of_owed hn

/-! ### Bring-up, discovery and loss of signal -/

/-- A bring-up starts where signal is present, the port's router is open, the rails are on and the module is not dark (R211). -/
theorem State.bringUp_eq (s : State) (n : Nat) :
    s.bringUp n = if (s.port n).signal = true ∧ s.routerClosed = false ∧ s.power.rails = .on ∧ s.power.dark = false then
      s.portTo n .training else s := by
  simp only [State.bringUp, Bool.not_eq_true']

/-- Signal on at least four lanes of a port that is down or dark is noted, and a bring-up starts (R211, R214). -/
theorem exec_signalDetect_of_down {s : State} {n lanes : Nat} (hn : n < 16)
    (hst : (s.port n).state = .down ∨ (s.port n).state = .dark) (hlanes : 4 ≤ lanes) :
    exec (.signalDetect n lanes) s =
      .next (State.settle (State.bringUp (s.setPort n { s.port n with signal := true }) n)) :=
  onPort_of_eq hn (if_pos ⟨hst, hlanes⟩)

/-- A bring-up attempt of a port that is down (R211). -/
theorem exec_bringUpAttempt_of_down {s : State} {n : Nat} (hn : n < 16) (hst : (s.port n).state = .down) :
    exec (.bringUpAttempt n) s = .next (s.bringUp n).settle := onPort_of_eq hn (if_pos hst)

/-- 20 ms of training without lock (R211). -/
theorem exec_trainingTimeout_of_late {s : State} {n : Nat} (hn : n < 16) (hst : (s.port n).state = .training)
    (hlate : (s.port n).trainingSince + ticksMs 20 ≤ s.now) :
    exec (.trainingTimeout n) s = .next (s.portTo n .down).settle := onPort_of_eq hn (if_pos ⟨hst, hlate⟩)

/-- The lane maps that a lock gives a port: the usable lanes in rising order, the fifth the shim lane (R202, R224). -/
def TensorPort.locked (p : TensorPort) (tx rx : BitVec 5) : TensorPort :=
  TensorPort.withMode { p with
    txData := (lanesOf tx).1, txShim := (lanesOf tx).2, rxData := (lanesOf rx).1, rxShim := (lanesOf rx).2
    txFailed := ~~~tx, rxFailed := ~~~rx }

/-- A lock of a port in training leads on with at least three usable lanes each way, and else back to DOWN (R211). -/
theorem exec_portLock_of_training {s : State} {n : Nat} {tx rx : BitVec 5} (hn : n < 16) (hst : (s.port n).state = .training) :
    exec (.portLock n tx rx) s = .next (State.settle
      (if (usableLanes tx).length < 3 ∨ (usableLanes rx).length < 3 then s.portTo n .down
        else State.portTo (s.setPort n ((s.port n).locked tx rx)) n .discovered)) :=
  onPort_of_eq hn (if_neg (not_not.2 hst))

/-- A discovery word on a port in service is stored in its defined bits, and the admission test follows (R212, R239). -/
theorem State.takeWord_inService {s : State} {n : Nat} {p : TensorPort} {w : Word} (hp : p = s.port n)
    (hst : p.state = .discovered ∨ p.state = .admitted) :
    s.takeWord n w = State.reroute (State.admitTest (s.setPort n { p with peer := w &&& peerMask, peerValid := true }) n
      (!p.peerValid || field (w &&& peerMask) 0 17 != field p.peer 0 17 || field (w &&& peerMask) 32 4 != field p.peer 32 4)) := by
  subst hp
  exact if_neg (not_and_or.2 (hst.imp not_not.2 not_not.2))

/-- The discovery word of a slot ends the period of corrected symbols and is taken (R208, R219). -/
theorem exec_discoveryWord_of_slotWord {s : State} {n : Nat} {w : Word} {slot : List (List Byte)} (hn : n < 16)
    (hw : slotWord slot = some w) :
    exec (.discoveryWord n slot) s =
      .next (State.settle (State.takeWord (s.setPort n { s.port n with rxWords := 0, laneSymbols := [0, 0, 0, 0, 0] }) n w)) := by
  refine onPort_of_eq hn ?_
  rw [hw]

/-- A slot without a valid block has no discovery word (R207, R208). -/
theorem slotWord_of_noValidBlock {slot : List (List Byte)} (h : validBlocks slot = []) : slotWord slot = none := by
  rw [slotWord, h, List.getLast?_nil, Option.map_none]

theorem exec_discoveryWord_of_none {s : State} {n : Nat} {slot : List (List Byte)} (hn : n < 16) (hw : slotWord slot = none) :
    exec (.discoveryWord n slot) s = .next s.settle := by
  refine onPort_of_eq hn ?_
  rw [hw]

/-- Loss of signal on a port that has left DOWN and DARK: DARK after a notice, else a fault and DOWN (R214, R288). -/
theorem exec_lossOfSignal_of_up {s v : State} {n : Nat} {p : TensorPort} (hn : n < 16) (hp : p = s.port n)
    (hdown : p.state ≠ .down) (hdark : p.state ≠ .dark) (hv : v = s.setPort n { p with signal := false }) :
    exec (.lossOfSignal n) s = .next (State.settle (if p.darkNotice.isSome = true then v.portTo n .dark
      else (v.fault 0x0007 (.port n) .timeout (field p.peer 0 17) 0).portTo n .down)) := by
  subst hp hv
  exact onPort_of_eq hn (if_neg (not_or.2 ⟨hdown, hdark⟩))

/-- Settles O38: each row is the operation of the port's state that its hypotheses name. -/
theorem portsComeUpAndFall : Obligations.PortsComeUpAndFall := by
  rintro s v n lanes p q tx rx w slot hn rfl
  refine ⟨?signal, ?attempt, exec_trainingTimeout_of_late hn, ?fewLanes, ?lock, ?word,
    fun h => exec_discoveryWord_of_none hn (slotWord_of_noValidBlock h),
    exec_lossOfSignal_of_up hn rfl⟩
  case signal =>
    rintro hst hlanes rfl
    rw [exec_signalDetect_of_down hn hst hlanes, State.bringUp_eq]
  case attempt =>
    intro hst hsig hopen hrails hdark
    rw [exec_bringUpAttempt_of_down hn hst, State.bringUp_eq, if_pos ⟨hsig, hopen, hrails, hdark⟩]
  case fewLanes =>
    intro hst hfew
    rw [exec_portLock_of_training hn hst, if_pos hfew]
  case lock =>
    intro hst htx hrx
    rw [exec_portLock_of_training hn hst, if_neg (not_or.2 ⟨Nat.not_lt.2 htx, Nat.not_lt.2 hrx⟩)]
    rfl
  case word =>
    rintro hw rfl hq hst
    rw [exec_discoveryWord_of_slotWord hn hw, State.takeWord_inService hq hst]

/-! ### Markers -/

/-- A row of a marker slot acts on the code of the slot, which is traced (R208, R526). -/
theorem State.onMarker_of_slotCode {s : State} {n code arg : Nat} {slot : List (List Byte)}
    {f : State → TensorPort → Nat → State} (hc : slotCode slot = some (code, arg)) (hr : s.markersRun n = true) :
    s.onMarker n code slot f = f (s.gotMarker n code arg) ((s.gotMarker n code arg).port n) arg := by
  simp only [State.onMarker, hc, hr, and_self, if_true]

/-- A slot whose valid blocks disagree does nothing (R208). -/
theorem State.onMarker_of_noCode {s : State} {n code : Nat} {slot : List (List Byte)} {f : State → TensorPort → Nat → State}
    (hc : slotCode slot = none) : s.onMarker n code slot f = s := by
  simp only [State.onMarker, hc]

/-- The row of a marker slot on a port in service whose operation reaches `u`. -/
theorem onPort_onMarker_of_eq {s u : State} {n code arg : Nat} {slot : List (List Byte)} {f : State → TensorPort → Nat → State}
    (hn : n < 16) (hc : slotCode slot = some (code, arg)) (hr : s.markersRun n = true)
    (h : f (s.gotMarker n code arg) ((s.gotMarker n code arg).port n) arg = u) :
    onPort n (s.onMarker n code slot f) = .next u.settle :=
  onPort_of_eq hn ((State.onMarker_of_slotCode hc hr).trans h)

/-! ### The transmitter of a rotation -/

/-- At its instant of the rotation period a port that can rotate mirrors its next lane, and another counts an abandoned rotation
(R215, R218). -/
theorem State.rotateLane_eq (s : State) (n : Nat) :
    s.rotateLane n =
      if (s.port n).state = .admitted ∧ (s.port n).threeLane = false ∧ (s.port n).txShim ≠ 7 ∧ s.rbit (.portJig n) 32 = true ∧
          (s.port n).txRot = none then
        s.startMirror n (s.port n).nextLogical (nth 7 (s.port n).txData (s.port n).nextLogical) false
      else s.setPort n (s.port n).abort := by
  simp only [State.rotateLane, Bool.not_eq_true', Option.isNone_iff_eq_none]

theorem exec_jigRotation_of_instant {s : State} {n : Nat} (hn : n < 16)
    (hdue : s.ft.toNat % ticksMs (max 10 (s.rf (.portJig n) 0 16)) =
      ticksMs (s.rf (.portJig n) 16 16 % max 10 (s.rf (.portJig n) 0 16))) :
    exec (.jigRotation n) s = .next (s.rotateLane n).settle := onPort_of_eq hn (if_pos (beq_iff_eq.2 hdue))

section
variable {t : State} {n lane x : Nat} {p : TensorPort}

/-- STEER_ACK of the lane mirrored moves it to the shim lane; the lane left trains, unless it has failed (R216, R220). -/
theorem State.takeSteerAck_mirrored {fail : Bool} (hrot : p.txRot = some (lane, x, .mirrorSent, fail)) (hshim : p.txShim ≠ 7) :
    t.takeSteerAck n lane p =
      if fail = true then t.setPort n { p with
        txData := setNth p.txData lane p.txShim, txShim := 7, txFailed := p.txFailed ||| laneBit x, txRot := none }
      else State.sendMarker (t.setPort n { p with
        txData := setNth p.txData lane p.txShim, txShim := 7, txRot := some (lane, x, .trainSent, false) }) n 4 x := by
  simp only [State.takeSteerAck, hrot, hshim, ne_eq, not_true_eq_false, or_self, if_false]

/-- STEER_NAK of the lane mirrored abandons the rotation; the shim lane trains in place (R218). -/
theorem State.takeSteerNak_mirrored (hrot : p.txRot = some (lane, x, .mirrorSent, false)) (hshim : p.txShim ≠ 7) :
    t.takeSteerNak n lane p = State.sendMarker (t.setPort n { p.abort.nextLane with
      txRot := some (lane, p.txShim, .retrain, false), txShim := 7 }) n 4 p.txShim := by
  simp only [State.takeSteerNak, hrot, hshim, ne_eq, not_true_eq_false, or_self, if_false]

/-- TRAIN_PASS of the lane that trains, where no data lane is missing, ends the rotation with that lane as shim lane (R216). -/
theorem State.takeTrainPass_fourLanes (hrot : p.txRot = some (lane, x, .trainSent, false)) (hfull : p.txData.contains 7 = false)
    (hlen : p.txData.length = 4) :
    t.takeTrainPass n x p = t.setPort n { p.nextLane with done := p.done + 1, txShim := x } := by
  have hnone : ((List.range 4).find? fun i => nth 0 p.txData i == 7) = none := by
    refine List.find?_eq_none.2 fun i hi => ?_
    have hi : i < p.txData.length := hlen ▸ List.mem_range.1 hi
    have hget : nth 0 p.txData i ∈ p.txData := by
      rw [nth, List.getD_eq_getElem _ _ hi]
      exact List.getElem_mem hi
    rw [beq_iff_eq]
    intro h7
    rw [h7, ← List.contains_iff_mem, hfull] at hget
    exact Bool.false_ne_true hget
  have hdata : p.nextLane.txData = p.txData := rfl
  simp only [State.takeTrainPass, hrot, ne_eq, not_true_eq_false, reduceCtorEq, or_self, if_false, if_true, hdata, hnone]

/-- TRAIN_FAIL of the lane that trains marks it failed (R216). -/
theorem State.takeTrainFail_rotating (hrot : p.txRot = some (lane, x, .trainSent, false)) :
    t.takeTrainFail n x p = t.setPort n { p.nextLane with txFailed := p.nextLane.txFailed ||| laneBit x } := by
  simp only [State.takeTrainFail, hrot, ne_eq, not_true_eq_false, reduceCtorEq, or_self, if_false, if_true]

end

/-- A rotation without an answer in 4 marker slots is abandoned (R218). -/
theorem exec_steerAckTimeout_of_late {s : State} {n lane x : Nat} (hn : n < 16)
    (hrot : (s.port n).txRot = some (lane, x, .mirrorSent, false)) (hlate : (s.port n).mirrorAt + 4 * 4097 * 2 ≤ s.now) :
    exec (.steerAckTimeout n) s = .next (s.setPort n (s.port n).abort.nextLane).settle := by
  refine onPort_of_eq hn ?_
  rw [hrot]
  exact if_pos hlate

/-! ### The receiver of a rotation -/

/-- MIRROR of a lane that is neither under comparison nor answered: steered at once where the lane was declared failed, and else
compared (R216, R220). -/
theorem State.takeMirror_new {t : State} {n lane : Nat} {p : TensorPort} (hlane : lane < 4) (hshim : p.rxShim ≠ 7)
    (hmirror : p.rxMirror ≠ some lane) (hack : p.rxAnswer ≠ some (2, lane)) (hnak : p.rxAnswer ≠ some (3, lane)) :
    t.takeMirror n lane p =
      if p.rxLaneFail.contains (nth 7 p.rxData lane) = true then
        State.answerMarker (t.setPort n { p.steer lane with
          rxLaneFail := p.rxLaneFail.filter (· != nth 7 p.rxData lane) }) n 2 lane
      else t.setPort n { p with rxMirror := some lane, rxAnswer := none } := by
  simp only [State.takeMirror, Nat.not_le.2 hlane, hshim, hmirror, hack, hnak, or_self, if_false]

/-- A comparison that matches steers the lane to the shim lane, one that does not is dropped, and either is answered (R216). -/
theorem State.compared_mirror {s : State} {n lane : Nat} {matched : Bool} (hmirror : (s.port n).rxMirror = some lane)
    (hshim : (s.port n).rxShim ≠ 7) :
    s.compared n matched =
      if matched = true then State.answerMarker (s.setPort n ((s.port n).steer lane)) n 2 lane
      else State.answerMarker (s.setPort n { s.port n with rxMirror := none }) n 3 lane := by
  simp only [State.compared, hmirror, hshim, ne_eq, not_false_eq_true, and_true]

/-- The end of a comparison on a port in service. -/
theorem exec_mirrorCompareEnd_of_markersRun {s : State} {n : Nat} {matched : Bool} (hn : n < 16) (hr : s.markersRun n = true) :
    exec (.mirrorCompareEnd n matched) s = .next (s.compared n matched).settle := onPort_of_eq hn (if_pos hr)

/-- TRAIN of a lane that has not failed and is neither in training nor answered starts its training (R216). -/
theorem State.takeTrain_new {t : State} {n x : Nat} {p : TensorPort} (hx : x < 5) (htrain : p.rxTraining ≠ some x)
    (hpass : p.rxAnswer ≠ some (5, x)) (hfail : p.rxAnswer ≠ some (6, x)) (hok : p.rxFailed.getLsbD x = false) :
    t.takeTrain n x p = t.setPort n { p with
      rxTraining := some x, rxAnswer := none, rxShim := if p.rxShim = x then 7 else p.rxShim } := by
  simp only [State.takeTrain, Nat.not_le.2 hx, htrain, hpass, hfail, or_self, if_false, hok, Bool.false_eq_true]

/-- The end of a training on a port in service answers TRAIN_PASS or TRAIN_FAIL (R216). -/
theorem exec_laneTrainingEnd_of_training {s : State} {n x : Nat} {pass : Bool} {margin : Word} {p : TensorPort} (hn : n < 16)
    (hr : s.markersRun n = true) (hp : p = s.port n) (htrain : p.rxTraining = some x) :
    exec (.laneTrainingEnd n pass margin) s = .next (State.settle
      (if pass = true then State.answerMarker (s.setPort n { p with
        rxTraining := none, margin := margin, rxShim := if p.rxData.contains 7 = true then 7 else x }) n 5 x
      else State.answerMarker (s.setPort n { p with
        rxTraining := none, margin := margin, rxFailed := p.rxFailed ||| laneBit x }) n 6 x)) := by
  subst hp
  refine onPort_of_eq hn ((if_pos hr).trans ?_)
  simp only [State.trained, htrain]

/-- Settles O39: each row is the operation of the transmitter or the receiver that the marker, or the end of a wait, asks for. -/
theorem lanesRotate : Obligations.LanesRotate := by
  intro s t n lane x p margin slot hn
  refine ⟨?instant, ?mirror, ?compare, ?steerAck, ?steerNak, ?timeout, ?train, ?trained, ?trainPass, ?trainFail, ?disagree⟩
  case instant =>
    rintro rfl hdue
    rw [exec_jigRotation_of_instant hn hdue, State.rotateLane_eq]
    refine ⟨fun hst hthree hshim hjig hrot => ?_, fun hnot => ?_⟩
    · rw [if_pos ⟨hst, hthree, hshim, hjig, hrot⟩]
      rfl
    · rw [if_neg]
      rintro ⟨hst, hthree, hshim, hjig, hrot⟩
      simp [hst, hthree, hshim, hjig, hrot] at hnot
  case mirror =>
    rintro hc hr rfl rfl hlane hshim hmirror hack hnak hfail
    exact onPort_onMarker_of_eq hn hc hr
      ((State.takeMirror_new hlane hshim hmirror hack hnak).trans (if_neg (Bool.eq_false_iff.1 hfail)))
  case compare =>
    rintro hr rfl hmirror hshim
    constructor <;> rw [exec_mirrorCompareEnd_of_markersRun hn hr, State.compared_mirror hmirror hshim] <;> rfl
  case steerAck =>
    rintro hc hr rfl rfl hrot hshim
    exact onPort_onMarker_of_eq hn hc hr ((State.takeSteerAck_mirrored hrot hshim).trans (if_neg Bool.false_ne_true))
  case steerNak =>
    rintro hc hr rfl rfl hrot hshim
    exact onPort_onMarker_of_eq hn hc hr (State.takeSteerNak_mirrored hrot hshim)
  case timeout =>
    rintro rfl
    exact exec_steerAckTimeout_of_late hn
  case train =>
    rintro hc hr rfl rfl hx htrain hpass hfail hok
    exact onPort_onMarker_of_eq hn hc hr (State.takeTrain_new hx htrain hpass hfail hok)
  case trained =>
    intro hr hp htrain
    exact ⟨exec_laneTrainingEnd_of_training hn hr hp htrain, exec_laneTrainingEnd_of_training hn hr hp htrain⟩
  case trainPass =>
    rintro hc hr rfl rfl hrot hfull hlen
    exact onPort_onMarker_of_eq hn hc hr (State.takeTrainPass_fourLanes hrot hfull hlen)
  case trainFail =>
    rintro hc hr rfl rfl hrot
    exact onPort_onMarker_of_eq hn hc hr (State.takeTrainFail_rotating hrot)
  case disagree =>
    intro hc
    simp only [List.forall_mem_cons]
    refine ⟨?_, ?_, ?_, ?_, ?_, ?_, fun c hc => absurd hc List.not_mem_nil⟩ <;> exact onPort_of_eq hn (State.onMarker_of_noCode hc)

/-! ### A lane fails at the receiver -/

/-- Loss of marker lock on a lane of a port in service. -/
theorem exec_markerLockLoss_of_markersRun {s : State} {n x : Nat} (hn : n < 16) (hr : s.markersRun n = true) (hx : x < 5) :
    exec (.markerLockLoss n x) s = .next (s.loseLane n x).settle := onPort_of_eq hn (if_pos ⟨hr, hx⟩)

section
variable {s f : State} {n x lane : Nat} {p : TensorPort} (hp : p = s.port n) (hok : p.rxFailed.getLsbD x = false)
  (hlane : logicalOn p.rxData x = some lane) (hf : f = s.fault 0x0008 (.port n) .ok x 1)
include hp hok hlane hf

/-- A data lane that fails while it is compared with the shim lane is left for its copy at once (R219). -/
theorem State.loseLane_compared (hmirror : p.rxMirror = some lane) (hshim : p.rxShim ≠ 7) :
    s.loseLane n x = State.answerMarker (f.setPort n { p with
      rxFailed := p.rxFailed ||| laneBit x, rxData := setNth p.rxData lane p.rxShim, rxShim := 7, rxMirror := none }) n 2 lane := by
  subst hp hf
  simp only [State.loseLane, hok, hlane, hmirror, hshim, Bool.false_eq_true, Option.isNone_some, Option.isSome_some, ne_eq,
    not_false_eq_true, false_and, and_self, if_false, if_true]
  rfl

/-- Any other data lane that fails is declared, and the port goes DOWN where more are lost than the rules absorb (R211, R219). -/
theorem State.loseLane_declared {q : TensorPort} {t : State} (hmirror : p.rxMirror ≠ some lane) (hshim : p.rxShim ≠ x)
    (hq : q = { p with rxFailed := p.rxFailed ||| laneBit x, rxLaneFail := p.rxLaneFail ++ [x] })
    (ht : t = (f.setPort n q).sendMarker n 7 x) :
    s.loseLane n x = if q.absorbs < q.lost then t.portTo n .down else t := by
  subst hp hf hq ht
  simp only [State.loseLane, hok, hlane, hmirror, hshim, Bool.false_eq_true, Option.isNone_some, false_and, and_false, if_false]

end

/-! ### A lane fails at the transmitter -/

section
variable {t f : State} {n x lane : Nat} {p q : TensorPort} (hok : p.txFailed.getLsbD x = false)
  (hlane : logicalOn p.txData x = some lane) (hrot : p.txRot = none) (hfull : p.txData.contains 7 = false)
  (hf : f = t.fault 0x0008 (.port n) .ok x 0) (hq : q = f.port n)
include hok hlane hrot hfull hf hq

/-- LANE_FAIL of a data lane with a free shim lane mirrors the lane onto it (R220). -/
theorem State.takeLaneFail_shim (hshim : p.txShim ≠ 7) :
    t.takeLaneFail n x p = State.sendMarker (f.setPort n { q with
      txRot := some (lane, x, .mirrorSent, true), mirrorAt := f.now }) n 1 lane := by
  subst hf hq
  simp only [State.takeLaneFail, hok, hlane, hrot, hfull, hshim, TensorPort.rotating, Bool.false_eq_true, false_and, ne_eq,
    not_false_eq_true, Bool.not_false, and_self, if_false, if_true]
  rfl

/-- LANE_FAIL of a data lane with no shim lane takes the port to three lanes (R221). -/
theorem State.takeLaneFail_noShim (hshim : p.txShim = 7) :
    t.takeLaneFail n x p = State.sendMarker (f.setPort n (TensorPort.withMode { q with
      txOnce := some (8, lane), txData := setNth q.txData lane 7, txFailed := q.txFailed ||| laneBit x })) n 8 lane := by
  subst hf hq
  simp only [State.takeLaneFail, hok, hlane, hrot, hfull, hshim, TensorPort.rotating, Bool.false_eq_true, false_and, and_false,
    ne_eq, not_true_eq_false, if_false]
  rfl

end

/-- Settles O40: each row is the operation of the receiver or the transmitter that the lost lane or the marker asks for. -/
theorem lanesFail : Obligations.LanesFail := by
  intro s t f n lane x p q slot hn hr
  refine ⟨?lockLoss, ?laneFail, ?mirror, ?steerAck, ?restripe3, ?restripe4⟩
  case lockLoss =>
    intro hp hx hok hlane hf
    rw [exec_markerLockLoss_of_markersRun hn hr hx]
    exact ⟨fun hmirror hshim hq ht => next_settle_congr (State.loseLane_declared hp hok hlane hf hmirror hshim hq ht),
      fun hmirror hshim => next_settle_congr (State.loseLane_compared hp hok hlane hf hmirror hshim)⟩
  case laneFail =>
    rintro hc rfl rfl hx hok hlane hrot hfull hf hq
    exact ⟨fun hshim => onPort_onMarker_of_eq hn hc hr
        ((if_pos hx).trans (State.takeLaneFail_shim hok hlane hrot hfull hf hq hshim)),
      fun hshim => onPort_onMarker_of_eq hn hc hr
        ((if_pos hx).trans (State.takeLaneFail_noShim hok hlane hrot hfull hf hq hshim))⟩
  case mirror =>
    rintro hc rfl rfl hlane hshim hmirror hack hnak hfail
    exact onPort_onMarker_of_eq hn hc hr ((State.takeMirror_new hlane hshim hmirror hack hnak).trans (if_pos hfail))
  case steerAck =>
    rintro hc rfl rfl hrot hshim
    exact onPort_onMarker_of_eq hn hc hr ((State.takeSteerAck_mirrored hrot hshim).trans (if_pos rfl))
  case restripe3 =>
    rintro hc rfl rfl hlane hfull
    exact onPort_onMarker_of_eq hn hc hr (if_neg (not_or.2 ⟨Nat.not_le.2 hlane, Bool.eq_false_iff.1 hfull⟩))
  case restripe4 =>
    rintro hc rfl rfl hx hmissing
    refine onPort_onMarker_of_eq hn hc hr ?_
    rw [hmissing]
    exact if_neg (Nat.not_le.2 hx)

/-! ### Packets of an Ethernet port -/

/-- The address that a frame for queue pair `q` of a port is measured with: that of its peer, none where there is none. -/
def State.peerIp (s : State) (n q : Nat) : List Byte := match s.qp n q with | some x => x.remoteIp | none => []

theorem State.peerIp_some {s : State} {n q : Nat} {x : QueuePair} (h : s.qp n q = some x) : s.peerIp n q = x.remoteIp := by
  rw [State.peerIp, h]

theorem State.peerIp_none {s : State} {n q : Nat} (h : s.qp n q = none) : s.peerIp n q = [] := by
  rw [State.peerIp, h]

section
variable {s : State} {n : Nat} {p : Sys2Proof.RdmaPacket} {e : EthPort} (hn : n < 6) (he : e = s.eth n) (hup : e.linkUp = true)
  (hopen : s.routerClosed = false)
include hn he hup hopen

/-- On a link that is up, a packet that fails its checks or is too long is counted as bad (R225, R231). -/
theorem exec_rdmaPacket_bad (hbad : p.checksOk = false ∨ packetFits p (s.peerIp n p.qpn) = false) :
    exec (.rdmaPacket n p) s =
      .next (State.settle (State.count (s.setEth n { e with framesBad := e.framesBad + 1 }) (1186 + 3 * n) 1)) := by
  subst he
  refine onUnit_of_eq hn (congrArg State.settle ((if_neg ?_).trans (if_pos ?_)))
  · rw [hup, hopen]
    decide
  · exact hbad.imp (fun h => by rw [h]; rfl) (Eq.mpr (Bool.not_eq_true' _))

/-- On a link that is up, any other packet is counted and reaches its queue pair (R228, R521). -/
theorem exec_rdmaPacket_good (hok : p.checksOk = true) (hfits : packetFits p (s.peerIp n p.qpn) = true) :
    exec (.rdmaPacket n p) s = .next (State.settle (State.rdmaArrives
      (State.count (s.setEth n { e with framesIn := e.framesIn + 1 }) (1185 + 3 * n)
        (frameBytesOf (s.peerIp n p.qpn) p.priority.isSome p.kind)) n p)) := by
  subst he
  refine onUnit_of_eq hn (congrArg State.settle ((if_neg ?_).trans (if_neg ?_)))
  · rw [hup, hopen]
    decide
  · rw [hok]
    exact not_or.2 ⟨Bool.false_ne_true, fun h => Bool.false_ne_true ((Eq.mp (Bool.not_eq_true' _) h).symm.trans hfits)⟩

end

/-- An acknowledgement without a congestion mark releases what it covers (R227, R228). -/
theorem State.rdmaArrives_ack {t : State} {n : Nat} {p : Sys2Proof.RdmaPacket} {x : QueuePair} (hx : t.qp n p.qpn = some x)
    (herr : x.error = false) (hmark : p.congestion = false) (hk : p.kind = .ack) :
    t.rdmaArrives n p = State.setQp (t.setQp n p.qpn x) n p.qpn (x.acked p.psn t.now) := by
  simp only [State.rdmaArrives, hx, herr, hmark, hk, Bool.false_and, Bool.false_eq_true, if_false]
  rfl

/-! ### Retransmission -/

/-- A queue pair that has made no progress for the timeout resends, or at the last expiry enters the error state (R228). -/
theorem exec_rdmaRetransmitTimeout_of_late {s : State} {n q : Nat} {x : QueuePair} (hn : n < 6) (hx : s.qp n q = some x)
    (herr : x.error = false) (hkept : x.retained ≠ []) (hopen : s.routerClosed = false)
    (hlate : x.progressAt + ticksUs (10 * s.rf (.ethRdma n) 0 14) ≤ s.now) :
    exec (.rdmaRetransmitTimeout n q) s = .next (State.settle
      (if s.rf (.ethRdma n) 14 3 ≤ x.expiries + 1 then (s.qpError n q).reroute
        else State.rdmaResend (s.setQp n q { x with expiries := x.expiries + 1, progressAt := s.now }) n q
          (s.timeoutResends n x))) := by
  refine onUnit_of_eq hn (congrArg State.settle ?_)
  simp only [hx, herr, hopen, List.isEmpty_iff, hkept, Nat.not_lt.2 hlate, Bool.false_eq_true, or_self, if_false]

theorem State.qpError_some {s : State} {n q : Nat} {x : QueuePair} (hx : s.qp n q = some x) :
    s.qpError n q = s.setQp n q { x.drop with error := true } := by
  rw [State.qpError, hx]

/-- Without selective repeat, a timeout resends everything retained (R228). -/
theorem State.timeoutResends_all {s : State} {n : Nat} {x : QueuePair} (h : s.selectiveOn n x = false) :
    s.timeoutResends n x = x.retained := by
  rw [State.timeoutResends, h]

/-- Under selective repeat, a timeout resends what the last bitmap shows missing and what is older (R229). -/
theorem State.timeoutResends_selective {s : State} {n : Nat} {x : QueuePair} {c : BitVec 24} (h : s.selectiveOn n x = true)
    (hc : x.selectiveFrom = some c) :
    s.timeoutResends n x =
      x.retained.filter fun r => !psnFrom r.psn (c + 1) || decide (psnPast r.psn (c + 1) < 128) := by
  rw [State.timeoutResends, h, hc]

/-! ### Pacing, pauses and the link -/

/-- A congestion notification on a link that is up halves the rate of its queue pair and counts its bytes (R230). -/
theorem exec_congestionNotification_of_qp {s : State} {n q : Nat} {x : QueuePair} (hn : n < 6) (hx : s.qp n q = some x)
    (hup : (s.eth n).linkUp = true) (hopen : s.routerClosed = false) :
    exec (.congestionNotification n q) s =
      .next ((s.setQp n q { x with rate := max 1 (x.rate / 2), notifiedAt := s.now }).count (1185 + 3 * n)
        (notificationBytes x.remoteIp)) := by
  refine onUnit_of_eq hn ?_
  simp only [hup, hopen, Bool.not_true, Bool.false_eq_true, or_self, if_false, hx]

/-- 50 µs without a notification raise the rate of a queue pair (R230). -/
theorem exec_rateRecovery_of_late {s : State} {n q : Nat} {x : QueuePair} (hn : n < 6) (hx : s.qp n q = some x)
    (hlate : x.notifiedAt + ticksUs 50 ≤ s.now) :
    exec (.rateRecovery n q) s = .next (s.setQp n q { x with rate := min lineRate (x.rate + 1), notifiedAt := s.now }) := by
  refine onUnit_of_eq hn ?_
  simp only [hx, hlate, if_true]

/-- Priority flow control on a link that is up notes whether the priority is paused (R225, R230). -/
theorem exec_priorityFlowControl_of_up {s : State} {n prio : Nat} {pause : Bool} {e : EthPort} {bit : BitVec 8} (hn : n < 6)
    (he : e = s.eth n) (hup : e.linkUp = true) (hprio : prio < 8) (hbit : bit = BitVec.ofNat 8 (2 ^ prio)) :
    exec (.priorityFlowControl n prio pause) s = .next (State.settle ((s.setEth n { e with
      paused := if pause = true then e.paused ||| bit else e.paused &&& ~~~bit }).count (1185 + 3 * n) pauseBytes)) := by
  have hplace : placeB true (prio % 8) = 2 ^ prio := by rw [placeB, if_pos rfl, Nat.mod_eq_of_lt hprio]
  subst he hbit
  refine onUnit_of_eq hn ((if_pos ⟨hup, hprio⟩).trans ?_)
  rw [hplace]

/-- A link that changes is noted and traced with no priority paused; one that goes down ends a PTP source there (R242). -/
theorem exec_ethernetLinkChange_of_ne {s t : State} {n : Nat} {up : Bool} {e : EthPort} (hn : n < 6) (he : e = s.eth n)
    (hne : e.linkUp ≠ up) (hopen : up = true → s.routerClosed = false)
    (ht : t = State.trace (s.setEth n { e with linkUp := up, pcsLock := up, paused := 0, held := [] }) (1936 + n) 0x0020
      (if up = true then 1 else 0) 0) :
    exec (.ethernetLinkChange n up) s =
      .next (State.settle (if up = true then t.releaseHeld else (t.ptpLost n).reroute)) := by
  subst he ht
  refine onUnit_of_eq hn (congrArg State.settle ((if_neg ?_).trans ?_))
  · rintro (h | ⟨hup, hclosed⟩)
    · exact hne h
    · exact Bool.false_ne_true ((hopen hup).symm.trans hclosed)
  · cases up <;> rfl

/-- Settles O41: each row is the operation of the port or of its queue pair that the hypotheses name. -/
theorem ethernetPortsRun : Obligations.EthernetPortsRun := by
  intro s t n q p x e pause up prio bit hn he
  refine ⟨?bad, ?ack, ?timeout, ?congestion, exec_rateRecovery_of_late hn, exec_priorityFlowControl_of_up hn he,
    exec_ethernetLinkChange_of_ne hn he⟩
  case bad =>
    intro hup hopen hbad
    exact exec_rdmaPacket_bad hn he hup hopen (hbad.imp_right fun ⟨hqp, hlong⟩ => by rw [State.peerIp_none hqp, hlong])
  case ack =>
    intro hup hopen hok hx hfits herr hmark hk ht htx
    have hip := State.peerIp_some hx
    rw [exec_rdmaPacket_good hn he hup hopen hok (by rw [hip, hfits]), hip, hk, ← ht, State.rdmaArrives_ack htx herr hmark hk]
  case timeout =>
    intro hx herr hkept hopen hlate
    rw [exec_rdmaRetransmitTimeout_of_late hn hx herr hkept hopen hlate]
    refine ⟨fun hmore => ?_, State.timeoutResends_all, fun _ => State.timeoutResends_selective, fun hlast => ?_⟩
    · rw [if_neg (Nat.not_le.2 hmore)]
    · rw [if_pos hlast, State.qpError_some hx]
  case congestion =>
    subst he
    exact exec_congestionNotification_of_qp hn

/-! ### Speas ports -/

section
variable {s t : State} {port w : Nat} {p : SpeasPort} {bs : List Byte} (hport : port < 2) (hp : p = s.sp port)
include hport hp

/-- A frame on a wavelength in use of a link that is up, with the Bench up, is counted and, where it parses, taken (R233). -/
theorem exec_speasFrame_of_up (hb : s.benchUp = true) (hup : p.linkUp = true) (hw : w < 3)
    (huse : p.active.getLsbD w = true ∨ p.spare = some w) (ht : t = s.count (1203 + 3 * port) bs.length) :
    exec (.speasFrame port w bs) s =
      .next ((parseFrame bs).elim (t.count (1204 + 3 * port) 1) fun f => (t.takeFrame port f).closeWorn) := by
  subst hp ht
  have huse : ((s.sp port).active.getLsbD w || (s.sp port).spare == some w) = true := by
    rw [Bool.or_eq_true, beq_iff_eq]
    exact huse
  refine onUnit_of_eq hport ((if_neg ?_).trans ?_)
  · rw [hb, hup, huse, decide_eq_true hw]
    decide
  · cases parseFrame bs <;> rfl

/-- A window without progress for 50 µs is resent, and its 64th expiry takes the link down (R234). -/
theorem exec_speasRetransmitTimeout_of_late (hup : p.linkUp = true) (hsent : p.txUnacked ≠ [])
    (hlate : p.progressAt + ticksUs 50 ≤ s.now) :
    exec (.speasRetransmitTimeout port) s = .next (if 64 ≤ p.expiries + 1 then s.speasDown port
      else State.resend (s.setSp port { p with expiries := p.expiries + 1, progressAt := s.now }) port) := by
  subst hp
  refine onUnit_of_eq hport (if_neg ?_)
  rw [hup, decide_eq_false (Nat.not_lt.2 hlate), List.isEmpty_eq_false_iff.2 hsent]
  decide

/-- At its instant a link with no rotation under way asks for a mirror of the wavelength after the spare (R235). -/
theorem exec_speasRotation_of_instant (hup : p.linkUp = true) (hdue : s.ft.toNat % ticksMs 250 = ticksMs 125 * port)
    (hfree : p.rotating = none) (hspare : p.spare = some w) (hactive : p.active.getLsbD ((w + 1) % 3) = true)
    (ht : t = s.control port 0x01 ((w + 1) % 3)) :
    exec (.speasRotation port) s = .next (t.setSp port { t.sp port with rotating := some ((w + 1) % 3, .mirrorSent) }) := by
  subst hp ht
  refine onUnit_of_eq hport ((if_neg ?_).trans ?_)
  · rw [hup, Bool.not_true, Bool.false_or, decide_eq_true_iff]
    exact not_not.2 hdue
  · simp only [hfree, hspare, hactive, if_true]

/-- A link that is down comes up with the Bench up and the module command-ready (R235). -/
theorem exec_speasLinkUp_of_down (hb : s.benchUp = true) (hready : s.boot.commandReady = true) (hdown : p.linkUp = false) :
    exec (.speasLinkUp port) s = .next (s.speasUp port) := by
  subst hp
  refine onUnit_of_eq hport (if_pos ?_)
  rw [hb, hready, hdown]
  rfl

/-- A wavelength that fails is marked and the spare takes its place; the last one takes the link down (R235). -/
theorem exec_speasWavelengthFail_of_active {a : BitVec 3} (hw : w < 3) (hup : p.linkUp = true) (hok : p.failed.getLsbD w = false)
    (hactive : p.active.getLsbD w = true)
    (ha : a = (match p.spare with | some sp => (p.active &&& ~~~waveBit w) ||| waveBit sp | none => p.active &&& ~~~waveBit w))
    (ht : t = s.setSp port { p with failed := p.failed ||| waveBit w, rotating := none, active := a }) :
    exec (.speasWavelengthFail port w) s = .next (if a = 0 then t.speasDown port else t) := by
  subst hp ha ht
  refine (if_pos ⟨hport, hw⟩).trans (congrArg Host.Outcome.next ((if_neg ?_).trans (if_pos hactive)))
  rw [hup, hok]
  decide

end

/-- Settles O42: each row is the operation of the link that its frame, its timer or its wavelength asks for. -/
theorem speasPortsRun : Obligations.SpeasPortsRun := by
  intro s t port w p bs f a hport hp
  refine ⟨?frame, ?timeout, exec_speasRotation_of_instant hport hp, ?linkUp, exec_speasWavelengthFail_of_active hport hp⟩
  case frame =>
    intro hb hup hw huse ht
    rw [exec_speasFrame_of_up hport hp hb hup hw huse ht]
    exact ⟨fun hnone => by rw [hnone, Option.elim_none], fun hsome => by rw [hsome, Option.elim_some]⟩
  case timeout =>
    intro hup hsent hlate
    rw [exec_speasRetransmitTimeout_of_late hport hp hup hsent hlate]
    exact ⟨fun hmore => by rw [if_neg (by omega)], fun hlast => by rw [if_pos (by omega)]⟩
  case linkUp =>
    intro hb hready hdown
    rw [exec_speasLinkUp_of_down hport hp hb hready hdown, hp]
    rfl

end Sys2Proof.Machine

/-! PROOFS. The statements of the family of chapter 8: the commands of programs and of the timetable (R437, R438), fabric time
(R245 to R252), snapshots (R521 to R523), held commands and the ends of long operations (R253, R422, R434). -/

namespace Sys2Proof.Machine

/-! ### A row of one opcode -/

/-- The row of a command that executes ends as what its meaning answers says. -/
theorem next_run_of_executes {s u : State} {c : OpenCmd} {opcode : Nat} {f : OpenCmd → State → Result} {r : Result}
    (h : s.executes c opcode u) (hf : f c u = r) :
    (.next (s.run opcode f) : Host.Outcome State Fault Refusal) = .next (State.conclude c false r) := by
  obtain ⟨ht, rfl⟩ := h
  rw [State.run_of_takes ht, hf]

/-! ### Programs -/

section
variable {u : State} {c : OpenCmd} {a n : Nat}

/-- PROGRAM_LOAD starts where its header can be read and its program is not busy (R437). -/
theorem doProgramLoad_of_free (ha : a = uAt c.params 0 8) (hn : n = uAt c.params 8 1) (hok : u.accessStatus a 64 = .ok)
    (hfree : u.programBusy n = false) : doProgramLoad c u = began u (.programLoad a n) := by
  subst ha hn
  simp [doProgramLoad, hok, hfree]

/-- PROGRAM_UNLOAD removes a loaded program that is not busy, and with program 0 the hosts (R437). -/
theorem doProgramUnload_of_free {p : Program} (hn : n = uAt c.params 0 1) (hfree : u.programBusy n = false)
    (hp : u.program n = some p) : doProgramUnload c u = done { u with
      programs := tabDel u.programs n
      hosts := if n = 0 then [] else u.hosts
      noHost := if n = 0 then [] else u.noHost } [] := by
  subst hn
  refine (if_neg (Bool.eq_false_iff.1 hfree)).trans ((if_neg ?_).trans ?_)
  · rw [hp]
    exact Bool.false_ne_true
  · by_cases hzero : uAt c.params 0 1 = 0
    · simp only [if_pos hzero]
    · simp only [if_neg hzero]

end

/-! ### The timetable's commands -/

/-- Entry `i` of the table as a TT_WRITE of `count` entries from `first` on leaves it (DEDUCED, assumption log 77). -/
def State.entryAfterWrite (u : State) (params : List Byte) (first count i : Nat) : Option TTEntry :=
  if within i first (first + count - 1) then some (parseEntry (slice params (8 + 32 * (i - first)) 32))
  else (tabFind u.table.slots i).map (·.entry)

/-- TT_WRITE finds no fault in an entry's bytes, in a table that will hold `entryAt` (R256, R257, R260). -/
def State.entryFaultless (u : State) (entryAt : Nat → Option TTEntry) (raw : List Byte) : Prop :=
  uAt raw 0x11 1 = 0 ∧ (parseEntry raw).fieldsOk = true ∧ u.guardEnd ≤ (parseEntry raw).startFt.toNat ∧
    anchorOk entryAt (parseEntry raw) = true

/-- The check that TT_WRITE makes of an entry passes one without fault. -/
theorem State.entryFaultless.check {u : State} {entryAt : Nat → Option TTEntry} {raw : List Byte}
    (h : u.entryFaultless entryAt raw) :
    (uAt raw 0x11 1 != 0 || !(parseEntry raw).fieldsOk || decide ((parseEntry raw).startFt.toNat < u.guardEnd) ||
      !anchorOk entryAt (parseEntry raw)) = false := by
  obtain ⟨hreserved, hfields, hstart, hanchor⟩ := h
  rw [hreserved, hfields, hanchor, decide_eq_false (Nat.not_lt.2 hstart)]
  rfl

section
variable {u : State} {c : OpenCmd} {first count : Nat} (hfirst : first = uAt c.params 0 2) (hcount : count = uAt c.params 2 2)
  (hroom : first + count ≤ 4096)
include hfirst hcount hroom

/-- TT_WRITE of entries without fault, none of them busy, sets each afresh (R257, R438). -/
theorem doTtWrite_of_faultless
    (hok : ∀ j < count, u.entryFaultless (u.entryAfterWrite c.params first count) (slice c.params (8 + 32 * j) 32))
    (hfree : ∀ j < count, u.entryBusy (first + j) = false) :
    doTtWrite c u = done ((List.range count).foldl (fun t j =>
      t.setSlot (first + j) (freshSlot (parseEntry (slice c.params (8 + 32 * j) 32)))) u) noEntry := by
  subst hfirst hcount
  have hbad := List.find?_range_eq_none.2 fun j hj => congrArg (!·) (hok j hj).check
  have hbusy := List.find?_range_eq_none.2 fun j hj => congrArg (!·) (hfree j hj)
  unfold State.entryAfterWrite at hbad
  refine (if_neg (Nat.not_lt.2 hroom)).trans ?_
  rw [hbad, hbusy]

/-- TT_REMOVE of entries none of which is busy removes them (R257, R438). -/
theorem doTtRemove_of_free (hfree : ∀ j < count, u.entryBusy (first + j) = false) :
    doTtRemove c u = done { u with table := { u.table with
      slots := u.table.slots.filter fun e => !(decide (first ≤ e.1) && decide (e.1 < first + count)) } } noEntry := by
  subst hfirst hcount
  refine (if_neg (Nat.not_lt.2 hroom)).trans ?_
  rw [List.find?_range_eq_none.2 fun j hj => congrArg (!·) (hfree j hj)]

end

/-! ### Step parameters -/

/-- STEP_PARAM of a step in range, with no attempt of it under way that uses its parameters, stores them (R438). -/
theorem doStepParam_of_room {u : State} {c : OpenCmd} {n : Nat} (hn : n = uAt c.params 0 6) (hreserved : uAt c.params 6 2 = 0)
    (hbelow : u.steps.sealedLetter = 3 ∨ u.steps.sealedStep < n) (habove : ∀ m b, u.nextStep = some (m, b) → n ≤ m + 4)
    (hknown : (tabFind u.steps.params n).isSome = true → u.step? n = none ∧ u.steps.replays.any (·.1 == n) = false)
    (hroom : (tabFind u.steps.params n).isNone = true → u.steps.params.length < 4) :
    doStepParam c u = done { u with steps := { u.steps with params := tabPut u.steps.params n c.params } } [] := by
  subst hn
  have hidle : ((tabFind u.steps.params (uAt c.params 0 6)).isSome &&
      ((u.step? (uAt c.params 0 6)).isSome || u.steps.replays.any (·.1 == uAt c.params 0 6))) = false := by
    cases hk : (tabFind u.steps.params (uAt c.params 0 6)).isSome
    · rfl
    · obtain ⟨hstep, hreplay⟩ := hknown hk
      rw [hstep, hreplay]
      rfl
  have hlow : (u.steps.sealedLetter != 3 && decide (uAt c.params 0 6 ≤ u.steps.sealedStep)) = false := by
    rcases hbelow with h | h
    · rw [h]
      rfl
    · rw [decide_eq_false (Nat.not_le.2 h), Bool.and_false]
  have hfits : ¬((tabFind u.steps.params (uAt c.params 0 6)).isNone = true ∧ 4 ≤ u.steps.params.length) :=
    fun ⟨hnew, hfull⟩ => Nat.not_le.2 (hroom hnew) hfull
  refine (if_neg (not_not.2 hreserved)).trans ((if_neg (Bool.eq_false_iff.1 hidle)).trans ((if_neg ?range).trans (if_neg hfits)))
  rw [hlow]
  cases hnext : u.nextStep with
  | none => exact Bool.false_ne_true
  | some e => exact Bool.eq_false_iff.1 (decide_eq_false (Nat.not_lt.2 (habove e.1 e.2 hnext)))

/-- Settles O28: each command executes as its meaning says, in the case that the hypotheses name (assumption log 35 and 77). -/
theorem jobCommandsComplete : Obligations.JobCommandsComplete := by
  intro s u c a n first count p
  refine ⟨?load, ?unload, ?write, ?remove, ?read, ?param⟩
  case load => exact fun h ha hn hok hfree => next_run_of_executes h (doProgramLoad_of_free ha hn hok hfree)
  case unload => exact fun h hn hfree hp => next_run_of_executes h (doProgramUnload_of_free hn hfree hp)
  case write =>
    intro h hfirst hcount hroom hok
    refine next_run_of_executes h (doTtWrite_of_faultless hfirst hcount hroom (fun j hj => ?_) fun j hj => ?_)
    · obtain ⟨hreserved, hfields, hstart, hanchor, -⟩ := hok j hj
      exact ⟨hreserved, hfields, hstart, hanchor⟩
    · obtain ⟨-, -, -, -, hbusy⟩ := hok j hj
      exact hbusy
  case remove => exact fun h hfirst hcount hroom hfree => next_run_of_executes h (doTtRemove_of_free hfirst hcount hroom hfree)
  case read =>
    intro h hfirst hcount hroom
    subst hfirst hcount
    exact next_run_of_executes h (if_neg (Nat.not_lt.2 hroom))
  case param =>
    exact fun h hn hreserved hbelow habove hknown hroom =>
      next_run_of_executes h (doStepParam_of_room hn hreserved hbelow habove hknown hroom)

/-! ### Messages of a PTP source -/

/-- A message of the enabled port and domain on a link that is up is counted; out of sync, or of a longer interval than 125 ms,
it loses the source, else the source is chosen anew and the exchange takes it (R249, R250). -/
theorem exec_ptpMessage_of_ours {s t : State} {n : Nat} {m : Sys2Proof.PtpMessage} (hn : n < 6) (hon : s.rbit .ftCtrl 0 = true)
    (hport : s.rf .ftCtrl 1 3 = n) (hdomain : m.domain = s.rf .ftCtrl 4 8) (hup : (s.eth n).linkUp = true)
    (ht : t = s.count (1185 + 3 * n) (ptpBytes m.kind)) :
    exec (.ptpMessage n m) s = .next (State.settle (if !(m.inSync && decide (m.intervalMs ≤ 125)) then t.ptpLost n
      else State.ptpStep (State.reconsider { t with time := { t.time with ptpSync := some n } }) n m)) := by
  subst ht
  have hours : (s.ptpAllowed n && m.domain == s.rf .ftCtrl 4 8 && (s.eth n).linkUp) = true := by
    rw [State.ptpAllowed, hon, hport, hdomain, hup]
    simp
  refine onUnit_of_eq hn (congrArg State.settle ((if_neg ?_).trans ?_))
  · rw [hours]
    decide
  · simp only [if_pos hup]

section
variable {u : State} {n : Nat} {m : Sys2Proof.PtpMessage} {o : Nat × Nat} {x : PtpExchange}

/-- A one-step Sync is answered by a Delay_Req (R250). -/
theorem State.ptpStep_syncDeparted (hk : m.kind = .sync (some o)) :
    u.ptpStep n m = u.delayRequest { port := n, seq := m.seq, t1 := some (u.ftOf o), t2 := u.ft, t3 := none } := by
  rw [State.ptpStep, hk]
  rfl

/-- A two-step Sync waits for its Follow_Up (R250). -/
theorem State.ptpStep_syncTwoStep (hk : m.kind = .sync none) : u.ptpStep n m = { u with time := { u.time with
    ptp := some { port := n, seq := m.seq, t1 := none, t2 := u.ft, t3 := none } } } := by
  rw [State.ptpStep, hk]
  rfl

/-- The Follow_Up of a Sync without a time of departure is answered by a Delay_Req (R250). -/
theorem State.ptpStep_followUp (hk : m.kind = .followUp o) (hx : u.time.ptp = some x) (hport : x.port = n) (hseq : x.seq = m.seq)
    (hwaits : x.t1 = none) : u.ptpStep n m = u.delayRequest { x with t1 := some (u.ftOf o) } := by
  rw [State.ptpStep, hk]
  dsimp only
  rw [hx]
  exact if_pos ⟨hport, hseq, by rw [hwaits]; rfl⟩

/-- The Delay_Resp ends the exchange, and its offset disciplines the clock where the port's PTP is the source (R247, R250). -/
theorem State.ptpStep_delayResponse {t1 t3 : Word} {off : Int} (hk : m.kind = .delayResponse o) (hx : u.time.ptp = some x)
    (hport : x.port = n) (hseq : x.seq = m.seq) (ht1 : x.t1 = some t1) (ht3 : x.t3 = some t3) (hsrc : u.time.source = .ptp n)
    (hoff : off = ((u.ftOf o - t3).toInt - (x.t2 - t1).toInt) / 2) :
    u.ptpStep n m = State.discipline { u with time := { u.time with ptp := none } } off := by
  subst hoff
  rw [State.ptpStep, hk]
  dsimp only
  rw [hx]
  dsimp only
  rw [ht1, ht3]
  exact (if_neg (not_or.2 ⟨not_not.2 hport, not_not.2 hseq⟩)).trans (if_pos hsrc)

end

/-! ### The servo and the states of the clock -/

section
variable {s t : State} {off : Int} (ht : t = s.takeOffset off)
include ht

/-- ACQUIRING that was never LOCKED steps once to its source (R247, R251). -/
theorem State.discipline_steps (hacq : t.time.state = .acquiring) (hfirst : t.time.stepped = false)
    (hnever : t.time.lockedOnce = false) : s.discipline off =
      { t with ft := t.ft + BitVec.ofInt 64 off, time := { t.time with stepped := true, slew := 0 } } := by
  subst ht
  exact if_pos ⟨hacq, by rw [hfirst]; rfl, by rw [hnever]; rfl⟩

/-- Any other measurement is left to the servo (R247; assumption log 28). -/
theorem State.discipline_slews (h : t.time.state ≠ .acquiring ∨ t.time.stepped = true ∨ t.time.lockedOnce = true) :
    s.discipline off = { t with time := { t.time with stepped := true, slew := off } } := by
  subst ht
  refine if_neg fun ⟨hacq, hfirst, hnever⟩ => ?_
  rcases h with h | h | h
  · exact h hacq
  · rw [h] at hfirst
    exact Bool.false_ne_true hfirst
  · rw [h] at hnever
    exact Bool.false_ne_true hnever

end

/-- ACQUIRING within the bound for 1 s turns to LOCKED, and held commands settle (R251, R255). -/
theorem exec_ftLock_of_within {s : State} {since : Nat} (hacq : s.time.state = .acquiring)
    (hsince : s.time.withinSince = some since) (hlong : since + ticksS 1 ≤ s.now) : exec .ftLock s = .next (State.settle (State.settleHeld { s with time := { s.time with
      state := .locked, lockedOnce := true } } false)) := by
  refine next_settle_congr (if_pos ?_)
  rw [hacq, hsince]
  dsimp only
  rw [decide_eq_true hlong]
  rfl

/-- A port in service whose last time cell went out 16 µs ago sends one (R248). -/
theorem exec_timeCellSend_of_due {s : State} {n : Nat} (hn : n < 16)
    (hst : (s.port n).state = .discovered ∨ (s.port n).state = .admitted) (hdue : (s.port n).timeSentAt + ticksUs 16 ≤ s.now) :
    exec (.timeCellSend n) s = .next (s.sendTime n).settle := by
  refine onUnit_of_eq hn (congrArg State.settle (if_pos ?_))
  rw [decide_eq_true hdue]
  rcases hst with h | h <;> rw [h] <;> rfl

/-- FT_SOURCE_LOST with PTP as the source takes it out of sync, and what losing a source gives follows (R249, R251). -/
theorem exec_ftSourceLost_of_ptp {s : State} {n : Nat} (hsrc : s.time.source = .ptp n) :
    exec .ftSourceLost s = .next (State.settle (State.sourceLost { s with time := { s.time with
      ptpSync := s.time.ptpSync.filter (· != n) } })) := by
  have hlost : s.ptpLost n = State.sourceLost { s with time := { s.time with ptpSync := s.time.ptpSync.filter (· != n) } } :=
    if_pos hsrc
  show execFtSourceLost s = _
  rw [execFtSourceLost, hsrc, ← hlost]

/-- HOLDOVER for its limit turns to FREE, with its alarm (R251, R252). -/
theorem exec_ftHoldoverExpiry_of_late {s : State} (hhold : s.time.state = .holdover)
    (hlate : s.time.holdoverSince + ticksMs (s.rf .ftCtrl 20 16) ≤ s.now) : exec .ftHoldoverExpiry s =
      .next (State.settle (State.ftAlarm { s with time := { s.time with state := .free, stepped := false } })) := by
  refine congrArg Host.Outcome.next (if_pos ?_)
  rw [hhold, decide_eq_true hlate]
  rfl

/-- Settles O43: each row is what its message, measurement or wait asks of the clock (assumption log 28 and 74). -/
theorem fabricTimeRuns : Obligations.FabricTimeRuns := by
  intro s t u n since m o x t1 t3 off
  refine ⟨exec_timeCellSend_of_due, ?message, rfl, fun ht => ⟨State.discipline_steps ht, State.discipline_slews ht⟩,
    exec_ftLock_of_within, ?noSource, exec_ftSourceLost_of_ptp, ?cells, exec_ftHoldoverExpiry_of_late⟩
  case message =>
    intro hn hon hport hdomain hup ht
    have hrow := exec_ptpMessage_of_ours hn hon hport hdomain hup ht
    refine ⟨fun hbad => ?unsynced, fun hsync hrate hu => ?inSync⟩
    case unsynced =>
      refine hrow.trans (next_settle_congr (if_pos ?_))
      rcases hbad with h | h
      · rw [h]
        rfl
      · rw [decide_eq_false (Nat.not_le.2 h), Bool.and_false]
        rfl
    case inSync =>
      have hstep : exec (.ptpMessage n m) s = .next (u.ptpStep n m).settle := by
        subst hu
        refine hrow.trans (next_settle_congr (if_neg ?_))
        rw [hsync, decide_eq_true hrate]
        decide
      exact ⟨fun hk => hstep.trans (next_settle_congr (State.ptpStep_syncDeparted hk)),
        fun hk => hstep.trans (next_settle_congr (State.ptpStep_syncTwoStep hk)),
        fun hk hx hxport hseq hwaits => hstep.trans (next_settle_congr (State.ptpStep_followUp hk hx hxport hseq hwaits)),
        fun hk hx hxport hseq ht1 ht3 hsrc hoff =>
          hstep.trans (next_settle_congr (State.ptpStep_delayResponse hk hx hxport hseq ht1 ht3 hsrc hoff))⟩
  case noSource =>
    intro hsrc
    show execFtSourceLost s = _
    rw [execFtSourceLost, hsrc]
  case cells =>
    intro hsrc
    show execFtSourceLost s = _
    rw [execFtSourceLost, hsrc]

/-! ### Snapshots -/

section
variable {u : State} {c : OpenCmd} {x : CounterSnapshot}

/-- SNAPSHOT_READ of a complete snapshot replies its counters (R523). -/
theorem doSnapshotRead_complete (hx : u.snapshot (uAt c.params 0 4) = some x)
    (hroom : uAt c.params 4 4 + uAt c.params 8 4 ≤ counterCount) (hdone : x.complete = true) :
    doSnapshotRead c u = done u (x.data (uAt c.params 4 4) (uAt c.params 8 4)) := by
  rw [doSnapshotRead, hx]
  exact (if_neg (Nat.not_lt.2 hroom)).trans (if_pos hdone)

/-- SNAPSHOT_READ of one that is still incomplete waits (R523). -/
theorem doSnapshotRead_incomplete (hx : u.snapshot (uAt c.params 0 4) = some x)
    (hroom : uAt c.params 4 4 + uAt c.params 8 4 ≤ counterCount) (hopen : x.complete = false) :
    doSnapshotRead c u = ⟨.wait, u, id⟩ := by
  rw [doSnapshotRead, hx]
  exact (if_neg (Nat.not_lt.2 hroom)).trans (if_neg (Bool.eq_false_iff.1 hopen))

/-- SNAPSHOT_READ of a tag that no snapshot has, or beyond the counters, is refused (R523). -/
theorem doSnapshotRead_bad
    (hbad : u.snapshot (uAt c.params 0 4) = none ∨ counterCount < uAt c.params 4 4 + uAt c.params 8 4) :
    doSnapshotRead c u = refuse u .badParam := by
  unfold doSnapshotRead
  cases hx : u.snapshot (uAt c.params 0 4) with
  | none => rfl
  | some x => exact if_pos (hbad.resolve_left (by rw [hx]; exact Option.some_ne_none x))

end

/-- The read of journal sequence `j` asks for the snapshot of a tag. -/
def State.readsTag (s : State) (tag : BitVec 32) (j : Nat) : Bool :=
  match s.openCmd j with | some c => uAt c.params 0 4 == tag.toNat | none => false

/-- How a read that waited for the snapshot `x` is answered (R421, R523). -/
def State.answerWaiting (t : State) (x : CounterSnapshot) (j : Nat) : State :=
  match t.openCmd j with
  | some c =>
    if c.long || c.notBefore.isSome then t.closeCmd j .ok (x.data (uAt c.params 4 4) (uAt c.params 8 4))
    else if t.tooLate c then t.finish c .deadline []
    else t.finish c .ok (x.data (uAt c.params 4 4) (uAt c.params 8 4))
  | none => t

/-- A read that does not run long, and is in time, is answered by a reply (R523). -/
theorem State.answerWaiting_reply {x : CounterSnapshot} {t : State} {j : Nat} {c : OpenCmd} (hc : t.openCmd j = some c)
    (hshort : c.long = false) (hnow : c.notBefore = none) (hintime : t.tooLate c = false) :
    t.answerWaiting x j = t.finish c .ok (x.data (uAt c.params 4 4) (uAt c.params 8 4)) := by
  rw [State.answerWaiting, hc]
  refine (if_neg ?_).trans (if_neg (Bool.eq_false_iff.1 hintime))
  rw [hshort, hnow]
  decide

/-- A read that runs long is answered by COMMAND_DONE (R422, R523). -/
theorem State.answerWaiting_long {x : CounterSnapshot} {t : State} {j : Nat} {c : OpenCmd} (hc : t.openCmd j = some c)
    (hlong : c.long = true) : t.answerWaiting x j = t.closeCmd j .ok (x.data (uAt c.params 4 4) (uAt c.params 8 4)) := by
  rw [State.answerWaiting, hc]
  refine if_pos ?_
  rw [hlong]
  rfl

section
variable {s : State} {tag : BitVec 32} {i : Nat} {x : CounterSnapshot}
  (hx : s.obs.snapshots.find? (fun e => e.2.tag == tag) = some (i, x))
include hx

/-- A snapshot latched 1 µs ago is marked complete, and the reads that waited for its tag leave the waiting list and are answered
(R522, R523). -/
theorem exec_snapshotComplete_of_due {mine : List Nat} {v : State} (hopen : x.complete = false)
    (hdue : x.takenAt + ticksUs 1 ≤ s.now) (hmine : s.obs.waitingReads.filter (s.readsTag tag) = mine)
    (hv : v = { s with obs := { s.obs with
      snapshots := tabPut s.obs.snapshots i { x with complete := true }
      waitingReads := s.obs.waitingReads.filter fun j => !mine.contains j } }) :
    exec (.snapshotComplete tag) s = .next (mine.foldl (fun t j => t.answerWaiting x j) v) := by
  subst hmine hv
  refine congrArg Host.Outcome.next ?_
  rw [State.snapshotComplete, hx]
  exact if_neg (not_or.2 ⟨Bool.eq_false_iff.1 hopen, Nat.not_lt.2 hdue⟩)

/-- Before that, and once it is complete, nothing changes (R523). -/
theorem exec_snapshotComplete_of_notDue (h : x.complete = true ∨ s.now < x.takenAt + ticksUs 1) :
    exec (.snapshotComplete tag) s = .next s := by
  refine congrArg Host.Outcome.next ?_
  rw [State.snapshotComplete, hx]
  exact if_pos h

end

/-- Settles O52: the latch and the reads execute as their meanings say, and the completion answers the reads that waited. -/
theorem snapshotsLatchAndRead : Obligations.SnapshotsLatchAndRead := by
  intro s u c x tag i j mine
  refine ⟨?latch, ?read, fun h hbad => next_run_of_executes h (doSnapshotRead_bad hbad), ?due, exec_snapshotComplete_of_notDue⟩
  case latch =>
    rintro h rfl rfl
    exact next_run_of_executes h rfl
  case read =>
    refine fun h hx hroom => ⟨fun hdone => next_run_of_executes h (doSnapshotRead_complete hx hroom hdone), ?_⟩
    rintro hopen v rfl
    refine (next_run_of_executes h (doSnapshotRead_incomplete hx hroom hopen)).trans (congrArg Host.Outcome.next ?_)
    cases hl : c.long <;> simp [State.conclude, hl]
  case due =>
    intro hx hopen hdue hmine v hv
    have hrow := exec_snapshotComplete_of_due hx hopen hdue hmine hv
    refine ⟨?none, ?reply, ?long⟩
    case none =>
      rintro rfl
      exact hrow
    case reply =>
      rintro rfl hc hshort hnow hintime
      subst hv
      exact hrow.trans (congrArg Host.Outcome.next (State.answerWaiting_reply hc hshort hnow hintime))
    case long =>
      rintro rfl hc hlong
      subst hv
      exact hrow.trans (congrArg Host.Outcome.next (State.answerWaiting_long hc hlong))

/-! ### Held commands -/

/-- A command that none of the common refusals meets has its opcode's meaning. -/
theorem State.attempt_of_noRefusal {s : State} {c : OpenCmd} {f : OpenCmd → State → Result}
    (h : s.commonRefusal c.session c.opcode c.params = none) : s.attempt c f = f c s := by
  rw [State.attempt, h]

/-- The held command that is next executes once its fabric time has come and no timetable event goes first (R253, R254). -/
theorem State.executeHeld_of_due {s : State} {c : OpenCmd} {f : Nat → OpenCmd → State → Result} (hnext : s.nextHeld = some c)
    (hft : c.heldFt ≤ s.ft.toNat) (htable : s.tableFirst c.heldFt = false) (hb : s.benchUp = true)
    (hready : s.boot.commandReady = true) (hfits : s.journal.fits 0 = true)
    (href : s.commonRefusal c.session c.opcode c.params = none) :
    s.executeHeld f = State.conclude c true (f c.opcode c (s.begun c)) := by
  have hbegun : (s.begun c).commonRefusal c.session c.opcode c.params = none := by rw [State.commonRefusal_begun, href]
  rw [State.executeHeld, hnext]
  refine (if_neg ?_).trans ((if_neg ?_).trans (congrArg (State.conclude c true) (State.attempt_of_noRefusal hbegun)))
  · simp [Nat.not_lt.2 hft, htable, hb, hready]
  · simp [hfits]

/-- Before the fabric time of the held command that is next, nothing executes (R253). -/
theorem State.executeHeld_of_early {s : State} {f : Nat → OpenCmd → State → Result}
    (h : ∀ c, s.nextHeld = some c → s.ft.toNat < c.heldFt) : s.executeHeld f = s := by
  unfold State.executeHeld
  cases hnext : s.nextHeld with
  | none => rfl
  | some c => exact if_pos (.inl (h c hnext))

/-- NOT_BEFORE_LOCK_TIMEOUT acts 60 s after command-ready on a clock never LOCKED (R255). -/
theorem exec_notBeforeLockTimeout_of_late {s : State} (hb : s.benchUp = true) (hready : s.boot.commandReady = true)
    (hnever : s.time.lockedOnce = false) (hlate : s.boot.readyAt + ticksS 60 ≤ s.now) :
    exec .notBeforeLockTimeout s = .next (s.settleHeld true) := by
  refine congrArg Host.Outcome.next (if_pos ?_)
  rw [hb, hready, hnever, decide_eq_true hlate]
  rfl

/-! ### Ends of long operations -/

/-- The long operation of an open command that runs ends by its kind (R422). -/
theorem exec_longOperationEnd_of_running {s : State} {c : OpenCmd} {j : Nat} {op : LongOp} (errs : Sys2Proof.BitErrors)
    (hc : s.openCmd j = some c) (hop : tabFind s.longOps j = some op) (hphase : c.phase = .running) (hrails : s.power.rails = .on) :
    exec (.longOperationEnd j errs) s = .next ((s.hit errs).longEnds j op).unhit.settle := by
  show execLongOperationEnd j errs s = _
  rw [execLongOperationEnd, hc, hop]
  refine congrArg Host.Outcome.next (if_pos ?_)
  rw [hphase, hrails]
  rfl

section
variable {s : State} {j d a n : Nat}

/-- A fill under no clamp stores its pattern (R433). -/
theorem State.memoryEnd_fill {pattern : List Byte} (hclamp : s.clampedUnder [(a, n)] = false) :
    s.memoryEnd j (.memFill a n pattern) =
      (s.store .carcass a ((List.range (n / 16)).flatMap fun _ => pattern)).closeCmd j .ok [] :=
  if_neg (Bool.eq_false_iff.1 hclamp)

variable {f : State} (hf : f = s.fetch .carcass a n)
include hf

/-- A copy under no clamp ends with POISON at the first poisoned granule of its source and has moved nothing (R433; DEDUCED,
assumption log 39). -/
theorem State.memoryEnd_copy_poisoned {g : Nat} (hclamp : s.clampedUnder [(a, n), (d, n)] = false)
    (hg : f.firstPoison a n = some g) : s.memoryEnd j (.memCopy d a n) = f.closeCmd j .poison (le 8 g) := by
  subst hf
  refine (if_neg (Bool.eq_false_iff.1 hclamp)).trans ?_
  rw [hg]

/-- A copy under no clamp of a source without poison stores the bytes of its whole source (R433). -/
theorem State.memoryEnd_copy_clean (hclamp : s.clampedUnder [(a, n), (d, n)] = false) (hg : f.firstPoison a n = none) :
    s.memoryEnd j (.memCopy d a n) = (f.store .carcass d (f.bytesAt a n)).closeCmd j .ok [] := by
  subst hf
  refine (if_neg (Bool.eq_false_iff.1 hclamp)).trans ?_
  rw [hg]

/-- A digest under no clamp ends with POISON at the first poisoned granule (R433). -/
theorem State.memoryEnd_digest_poisoned {g : Nat} (hclamp : s.clampedUnder [(a, n)] = false)
    (hg : f.firstPoison a n = some g) : s.memoryEnd j (.memDigest a n) = f.closeCmd j .poison (le 8 g) := by
  subst hf
  refine (if_neg (Bool.eq_false_iff.1 hclamp)).trans ?_
  rw [hg]

/-- A digest under no clamp of bytes without poison replies their SHAKE256 (R433). -/
theorem State.memoryEnd_digest_clean (hclamp : s.clampedUnder [(a, n)] = false) (hg : f.firstPoison a n = none) :
    s.memoryEnd j (.memDigest a n) = f.closeCmd j .ok (exactly 32 (Config.shake256 (f.bytesAt a n) 32)) := by
  subst hf
  refine (if_neg (Bool.eq_false_iff.1 hclamp)).trans ?_
  rw [hg]

end

/-- Settles O56: a held command executes as its opcode's meaning says, and a long operation ends by its kind (R433; assumption
log 39 and 102). -/
theorem heldAndLongCommandsEnd : Obligations.HeldAndLongCommandsEnd := by
  intro s c errs failing v j op
  refine ⟨fun hnext hft htable hb hready hfits href =>
      next_settle_congr (State.executeHeld_of_due hnext hft htable hb hready hfits href),
    fun h => next_settle_congr (State.executeHeld_of_early h), exec_notBeforeLockTimeout_of_late, ?long⟩
  intro hc hop hphase hrails
  have hrow {w : State} (hw : (s.hit errs).longEnds j op = w) : exec (.longOperationEnd j errs) s = .next w.unhit.settle := by
    rw [exec_longOperationEnd_of_running errs hc hop hphase hrails, hw]
  refine ⟨?halted, ?recalled, ?done, ?image, ?program, ?field, fun hreset => ?memory⟩
  case halted =>
    rintro rfl hb
    exact hrow (if_pos hb)
  case recalled =>
    rintro a b x y rfl hb
    exact hrow (if_pos hb)
  case done =>
    rintro st data rfl hb
    exact hrow (if_pos hb)
  case image =>
    rintro r w rfl hb
    exact hrow (if_pos hb)
  case program =>
    rintro a n rfl hb
    exact hrow (if_neg (by rw [hb]; exact Bool.false_ne_true))
  case field =>
    rintro i k l rfl hb
    exact hrow (if_pos hb)
  case memory =>
    have hserves := Bool.eq_false_iff.1 hreset
    refine ⟨?fill, ?copy, ?digest⟩
    case fill =>
      rintro a n b rfl hclamp
      exact hrow ((if_neg hserves).trans (State.memoryEnd_fill hclamp))
    case copy =>
      rintro d a n f rfl hclamp hf
      refine hrow ((if_neg hserves).trans ?_)
      cases hg : f.firstPoison a n with
      | some g => exact State.memoryEnd_copy_poisoned hf hclamp hg
      | none => exact State.memoryEnd_copy_clean hf hclamp hg
    case digest =>
      rintro a n f rfl hclamp hf
      refine hrow ((if_neg hserves).trans ?_)
      cases hg : f.firstPoison a n with
      | some g => exact State.memoryEnd_digest_poisoned hf hclamp hg
      | none => exact State.memoryEnd_digest_clean hf hclamp hg

end Sys2Proof.Machine

/-! PROOFS. The statements of the family of chapter 9: the commands of the partition, the queue pairs and the destination table
(R295, R427, R428, R435), cells that arrive (R276, R278, R279, R287, R288, R291), and the timers and descriptors of streams
(R302 to R305, R315). -/

namespace Sys2Proof.Machine

/-! ### A row whose effect may let work go on -/

/-- A row whose command executes, and whose effect may let work go on, ends as what its meaning answers says. -/
theorem runSettle_of_executes {s u : State} {c : OpenCmd} {opcode : Nat} {f : OpenCmd → State → Result} {r : Result}
    (h : s.executes c opcode u) (hf : f c u = r) : s.runSettle opcode f = .next (State.conclude c false r).settle := by
  obtain ⟨ht, rfl⟩ := h
  exact next_settle_congr ((State.run_of_takes ht).trans (congrArg (State.conclude c false) hf))

/-! ### The partition -/

section
variable {u : State} {c : OpenCmd}

/-- PARTITION_SET of a descriptor that R295 refuses gives BAD_PARAM, whether or not the fabric is busy. -/
theorem doPartitionSet_bad (hbad : u.partitionBad c.params = true) : doPartitionSet c u = refuse u .badParam := if_pos hbad

/-- PARTITION_SET of a good descriptor while the fabric is busy gives BUSY (R295). -/
theorem doPartitionSet_busy (hgood : u.partitionBad c.params = false) (hbusy : u.partitionBusy = true) :
    doPartitionSet c u = refuse u .busy := (if_neg (Bool.eq_false_iff.1 hgood)).trans (if_pos hbusy)

/-- PARTITION_SET of a good descriptor puts it in force, with the twin's relation to it (R295, R378). -/
theorem doPartitionSet_idle (hgood : u.partitionBad c.params = false) (hidle : u.partitionBusy = false) :
    doPartitionSet c u = done { u with
      fabric := { u.fabric with partition := parsePartition c.params }
      twin := u.twin.under (parsePartition c.params) u.chip } [] :=
  (if_neg (Bool.eq_false_iff.1 hgood)).trans (if_neg (Bool.eq_false_iff.1 hidle))

end

/-! ### Queue pairs -/

/-- The free number that QP_CREATE takes is the lowest one without a queue pair (assumption log 40). -/
theorem EthPort.freeQp_some {p : EthPort} {q : Nat} (hq : q < 4096) (hfree : p.qps.any (·.1 == q) = false)
    (hlow : ∀ r < q, p.qps.any (·.1 == r) = true) : p.freeQp = some q := by
  rw [EthPort.freeQp]
  refine firstBelow_some _ _ q hq ?_ fun r hr => ?_
  · rw [hfree, Bool.not_false]
  · rw [hlow r hr, Bool.not_true]

/-- A port with a queue pair of every number has none free (R225). -/
theorem EthPort.freeQp_none {p : EthPort} (hfull : ∀ r < 4096, p.qps.any (·.1 == r) = true) : p.freeQp = none := by
  rw [EthPort.freeQp]
  refine firstBelow_none _ _ fun r hr => ?_
  rw [hfull r hr, Bool.not_true]

/-- A window of no bytes, or inside the Inlay and LPDDR6 regions, is none that QP_CREATE refuses (R435). -/
theorem QueuePair.not_windowOutside {x : QueuePair} (h : x.windowLength = 0 ∨ inStore x.windowBase x.windowLength = true) :
    ¬(x.windowLength ≠ 0 ∧ (!inStore x.windowBase x.windowLength) = true) := by
  rintro ⟨hlen, hout⟩
  rw [h.resolve_left hlen] at hout
  exact Bool.false_ne_true hout

section
variable {u : State} {c : OpenCmd} {x : QueuePair} {n q : Nat} (hn : n = uAt c.params 0 1) (hx : x = newQp c.params u.now)
include hx

/-- QP_CREATE with a window that has bytes outside the Inlay and LPDDR6 regions gives BAD_PARAM (R435). -/
theorem doQpCreate_outside (hlen : x.windowLength ≠ 0) (hout : inStore x.windowBase x.windowLength = false) :
    doQpCreate c u = refuse u .badParam := by
  have houtside : x.windowLength ≠ 0 ∧ (!inStore x.windowBase x.windowLength) = true := ⟨hlen, congrArg (!·) hout⟩
  simp only [doQpCreate, ← hx, if_pos houtside]

variable (hwindow : x.windowLength = 0 ∨ inStore x.windowBase x.windowLength = true)
include hn hwindow

/-- QP_CREATE gives its port's lowest free number the new queue pair (R435; assumption log 40). -/
theorem doQpCreate_free (hq : q < 4096) (hfree : (u.eth n).qps.any (·.1 == q) = false)
    (hlow : ∀ r < q, (u.eth n).qps.any (·.1 == r) = true) :
    doQpCreate c u = done (u.setEth n { u.eth n with qps := tabPut (u.eth n).qps q x }) (le 4 q) := by
  simp only [doQpCreate, ← hx, ← hn, if_neg (QueuePair.not_windowOutside hwindow), EthPort.freeQp_some hq hfree hlow]

/-- QP_CREATE on a port without a free number gives NO_RESOURCE (R435). -/
theorem doQpCreate_full (hfull : ∀ r < 4096, (u.eth n).qps.any (·.1 == r) = true) : doQpCreate c u = refuse u .noResource := by
  simp only [doQpCreate, ← hx, ← hn, if_neg (QueuePair.not_windowOutside hwindow), EthPort.freeQp_none hfull]

end

section
variable {u : State} {c : OpenCmd} {n q : Nat} (hn : n = uAt c.params 0 1) (hq : q = uAt c.params 4 4)
include hn hq

/-- QP_DESTROY of a queue pair that an enabled bridge or target names gives BUSY (R435). -/
theorem doQpDestroy_named (hnamed : u.qpNamed n q = true) : doQpDestroy c u = refuse u .busy := by
  subst hn hq
  exact if_pos hnamed

/-- QP_DESTROY of a queue pair that does not exist gives BAD_PARAM (R435). -/
theorem doQpDestroy_missing (hfree : u.qpNamed n q = false) (hnone : u.qp n q = none) : doQpDestroy c u = refuse u .badParam := by
  subst hn hq
  exact (if_neg (Bool.eq_false_iff.1 hfree)).trans (if_pos (congrArg Option.isNone hnone))

/-- QP_DESTROY of any other removes it and ends its outstanding operations (R435; assumption log 62). -/
theorem doQpDestroy_there {x : QueuePair} (hfree : u.qpNamed n q = false) (hx : u.qp n q = some x) :
    doQpDestroy c u = done (u.setEth n { u.eth n with
      qps := tabDel (u.eth n).qps q
      ended := x.endedAs q ++ (u.eth n).ended }) [] := by
  subst hn hq
  simp only [doQpDestroy, hfree, hx, Option.isNone_some, Bool.false_eq_true, if_false]

end

/-! ### The destination table -/

/-- Entry `i` of a DEST_TABLE_LOAD, as a register value (R435). -/
def OpenCmd.destValue (c : OpenCmd) (i : Nat) : Word := word (uAt c.params (8 + 8 * i) 8)

section
variable {u : State} {c : OpenCmd} {first count : Nat} (hfirst : first = uAt c.params 0 4) (hcount : count = uAt c.params 4 4)
include hfirst hcount

/-- DEST_TABLE_LOAD of entries inside the table with reserved bits zero sets each entry (R286, R435). -/
theorem doDestTableLoad_good (hroom : first + count ≤ 131072)
    (hreserved : ∀ i < count, c.destValue i &&& ~~~(Reg.destEntry 0).writable = 0) :
    doDestTableLoad c u = done ((List.range count).foldl (fun t i => t.setReg (.destEntry (first + i)) (c.destValue i)) u) [] := by
  subst hfirst hcount
  refine if_neg (not_or.2 ⟨Nat.not_lt.2 hroom, fun hany => ?_⟩)
  obtain ⟨i, hi, hne⟩ := List.any_eq_true.1 hany
  exact bne_iff_ne.1 hne (hreserved i (List.mem_range.1 hi))

/-- DEST_TABLE_LOAD of an entry outside the table, or with a reserved bit, gives BAD_PARAM (R428, R435). -/
theorem doDestTableLoad_bad
    (hbad : 131072 < first + count ∨ ∃ i < count, c.destValue i &&& ~~~(Reg.destEntry 0).writable ≠ 0) :
    doDestTableLoad c u = refuse u .badParam := by
  subst hfirst hcount
  refine if_pos (hbad.imp_right fun ⟨i, hi, hne⟩ => ?_)
  exact List.any_eq_true.2 ⟨i, List.mem_range.2 hi, bne_iff_ne.2 hne⟩

end

/-- Settles O27: each command executes as its meaning says, in the case that the hypotheses name (assumption log 38, 40 and 62). -/
theorem fabricCommandsComplete : Obligations.FabricCommandsComplete := by
  intro s u c x n q first count
  refine ⟨fun h => ?set, fun h => next_run_of_executes h rfl, fun h hn hx => ?create, fun h hn hq => ?destroy,
    fun h hfirst hcount => ?load⟩
  case set =>
    exact ⟨fun hgood hidle => runSettle_of_executes h (doPartitionSet_idle hgood hidle),
      fun hbad => runSettle_of_executes h (doPartitionSet_bad hbad),
      fun hgood hbusy => runSettle_of_executes h (doPartitionSet_busy hgood hbusy)⟩
  case create =>
    exact ⟨fun hlen hout => next_run_of_executes h (doQpCreate_outside hx hlen hout), fun hwindow =>
      ⟨fun hq hfree hlow => next_run_of_executes h (doQpCreate_free hn hx hwindow hq hfree hlow),
        fun hfull => next_run_of_executes h (doQpCreate_full hn hx hwindow hfull)⟩⟩
  case destroy =>
    exact ⟨fun hnamed => next_run_of_executes h (doQpDestroy_named hn hq hnamed),
      fun hfree hnone => next_run_of_executes h (doQpDestroy_missing hn hq hfree hnone),
      fun hfree hx => next_run_of_executes h (doQpDestroy_there hn hq hfree hx)⟩
  case load =>
    exact ⟨fun hroom hreserved => runSettle_of_executes h (doDestTableLoad_good hfirst hcount hroom hreserved),
      fun hbad => runSettle_of_executes h (doDestTableLoad_bad hfirst hcount hbad)⟩

/-! ### Rows of a cell -/

/-- The row of the opcode table that takes in cells of a TYPE (R276). -/
def CellRow (typ : Nat) (row : Nat → List Byte → Sys2Proof.Instr) : Prop :=
  typ = 0 ∧ row = .openCell ∨ typ = 1 ∧ row = .dataCell ∨ typ = 2 ∧ row = .ackCell ∨ typ = 3 ∧ row = .verdictCell ∨
    typ = 4 ∧ row = .sealCell ∨ typ = 5 ∧ row = .recallCell ∨ typ = 6 ∧ row = .timeCell ∨ typ = 7 ∧ row = .linkDarkCell ∨
    typ = 8 ∧ row = .creditCell

/-- Each of the nine rows is the arrival of a cell, of which it names the TYPE. -/
theorem exec_of_cellRow {typ : Nat} {row : Nat → List Byte → Sys2Proof.Instr} (h : CellRow typ row) (n : Nat) (bs : List Byte)
    (s : State) : exec (row n bs) s = onPort n (s.arriveCell n bs typ) := by
  obtain ⟨rfl, rfl⟩ | ⟨rfl, rfl⟩ | ⟨rfl, rfl⟩ | ⟨rfl, rfl⟩ | ⟨rfl, rfl⟩ | ⟨rfl, rfl⟩ | ⟨rfl, rfl⟩ | ⟨rfl, rfl⟩ | ⟨rfl, rfl⟩ := h
  all_goals rfl

/-- A port in service counts a cell and puts it to the checks of ingress, unless they let it pass and its TYPE is another row's
(R291, R521). -/
theorem State.arriveCell_of_inService {s : State} {n typ : Nat} {bs : List Byte} (hlen : bs.length = 64)
    (hst : (s.port n).state = .discovered ∨ (s.port n).state = .admitted)
    (htyp : cellCrcOk bs = true → typeAllowed (parseCell bs).typ (parseCell bs).vc = true → (parseCell bs).typ = typ) :
    s.arriveCell n bs typ = (s.count (1137 + 3 * n) 64).ingress n bs true ((s.port n).state == .admitted) := by
  unfold State.arriveCell
  rw [exactly_self bs 64 hlen]
  refine (if_neg ?service).trans (if_neg fun ⟨hcrc, hallowed, hne⟩ => hne (htyp hcrc hallowed))
  exact fun ⟨hdisc, hadm⟩ => hst.elim hdisc hadm

/-! ### The checks of ingress (R291) -/

/-- A cell whose CRC is bad is discarded (order 2). -/
theorem State.ingress_badCrc {v : State} {n : Nat} {bs : List Byte} {link full : Bool} (hcrc : cellCrcOk bs = false) :
    v.ingress n bs link full = v.discard n 1 2 bs := if_pos (congrArg (!·) hcrc)

section
variable {v : State} {n : Nat} {bs : List Byte} {full : Bool} (hcrc : cellCrcOk bs = true)
  (hallowed : typeAllowed (parseCell bs).typ (parseCell bs).vc = true)
include hcrc hallowed

/-- A link-local cell on its own link has its granules checked; then it reaches the time, the dark notice or the credits of the
port, or nothing where a granule is poisoned (R276, R279, R288; assumption log 124). -/
theorem State.ingress_linkLocal (htyp : 6 ≤ (parseCell bs).typ) : v.ingress n bs true full =
    if (parseCell bs).spoilt = true then v.checkCell bs
    else if (parseCell bs).typ = 6 then (v.checkCell bs).takeTime n (parseCell bs).payload
    else if (parseCell bs).typ = 7 then (v.checkCell bs).takeDark n (parseCell bs).payload
    else (v.checkCell bs).takeCredits n (parseCell bs).payload := by
  simp only [State.ingress, hcrc, hallowed, htyp, Bool.not_true, Bool.false_eq_true, false_or, if_false, if_true]

/-- A routed cell on an admitted port of an open router has its granules checked, then its partition and its destination. -/
theorem State.ingress_routed (htyp : (parseCell bs).typ ≤ 5) (hopen : (v.checkCell bs).routerClosed = false) :
    v.ingress n bs true true = (v.checkCell bs).routed n bs := by
  simp only [State.ingress, hcrc, hallowed, Nat.not_le.2 (Nat.lt_succ_of_le htyp), hopen, Bool.not_true, Bool.false_eq_true,
    or_self, if_false]

end

section
variable {f : State} {n : Nat} {bs : List Byte}

/-- A routed cell of another partition returns its credit and is discarded (order 5). -/
theorem State.routed_otherPartition (hne : (parseCell bs).ptag ≠ f.fabric.partition.tag) :
    f.routed n bs = (f.oweCredit (some n) (parseCell bs).vc).discard n 2 5 bs := if_pos (.inl hne)

section
variable (htag : (parseCell bs).ptag = f.fabric.partition.tag) (hzero : f.fabric.partition.tag ≠ 0)
  (hlast : f.fabric.partition.tag < 0xFFF)
include htag hzero hlast

/-- A cell of the partition in force for this chip returns its credit and is taken in (R278, R279). -/
theorem State.routed_here (hdest : (parseCell bs).dest = f.chip) :
    f.routed n bs = (f.oweCredit (some n) (parseCell bs).vc).eject n (parseCell bs) :=
  (if_neg (not_or.2 ⟨not_not.2 htag, not_or.2 ⟨hzero, Nat.not_le.2 hlast⟩⟩)).trans (if_pos hdest)

/-- A cell of the partition in force for another chip goes on, poisoned or not (R278). -/
theorem State.routed_elsewhere (hdest : (parseCell bs).dest ≠ f.chip) : f.routed n bs = f.forward (parseCell bs) (some n) :=
  (if_neg (not_or.2 ⟨not_not.2 htag, not_or.2 ⟨hzero, Nat.not_le.2 hlast⟩⟩)).trans (if_neg hdest)

end
end

/-! ### What a routed cell reaches (R276, R278) -/

/-- A cell that is no DATA has no effect where a granule is poisoned (assumption log 124). -/
theorem State.eject_spoilt {w : State} {n : Nat} {c : Cell} (h : c.spoilt = true) : w.eject n c = w := if_pos h

/-- Each TYPE of routed cell reaches its stream, the seal logic or the outcome logic. -/
theorem State.eject_clean {w : State} {n typ : Nat} {c : Cell} (h : c.spoilt = false) (htyp : c.typ = typ) (hrouted : typ ≤ 5) :
    w.eject n c =
      if typ = 0 then w.arriveOpen c
      else if typ = 1 then w.arriveData n c
      else if typ = 2 then w.arriveAck c
      else if typ = 3 then w.takeVerdict (if c.detour = true then none else some (n / 2)) c.payload
      else w.takeOutcome (outcomeOf (typ == 5) c.payload).1 (outcomeOf (typ == 5) c.payload).2 := by
  refine (if_neg (Bool.eq_false_iff.1 h)).trans ?_
  rw [htyp]
  match typ, hrouted with
  | 0, _ | 1, _ | 2, _ | 3, _ | 4, _ | 5, _ => rfl

/-- Settles O35: the row puts its cell to the checks of ingress, which pass it to the part of the module that its TYPE, partition
and destination name, or discard it (R291; assumption log 19 and 124). -/
theorem cellsReachTheirUnits : Obligations.CellsReachTheirUnits := by
  rintro s v f n bs c row typ hn hlen rfl rfl (hrow : CellRow typ row) hst
  have harrives {t : State} (htyp : cellCrcOk bs = true → typeAllowed (parseCell bs).typ (parseCell bs).vc = true →
        (parseCell bs).typ = typ)
      (ht : (s.count (1137 + 3 * n) 64).ingress n bs true ((s.port n).state == .admitted) = t) :
      exec (row n bs) s = .next t.settle :=
    (exec_of_cellRow hrow n bs s).trans (onPort_of_eq hn ((State.arriveCell_of_inService hlen hst htyp).trans ht))
  refine ⟨fun hcrc hallowed htyp hf => ?good, fun hcrc => ?bad⟩
  case bad => exact harrives (fun h => absurd (hcrc.symm.trans h) Bool.false_ne_true) (State.ingress_badCrc hcrc)
  case good =>
    subst hf
    refine ⟨fun hadm hopen hle => ?routed, ?linkLocal⟩
    case routed =>
      have hrouted {t : State} (ht : State.routed _ n bs = t) : exec (row n bs) s = .next t.settle :=
        harrives (fun _ _ => htyp) (by rw [hadm]; exact (State.ingress_routed hcrc hallowed (htyp ▸ hle) hopen).trans ht)
      refine ⟨fun htag hzero hlast => ⟨fun hdest hclean => ?_, fun hdest hspoilt => ?_, fun hdest => ?_⟩, fun hne => ?_⟩
      · exact hrouted ((State.routed_here htag hzero hlast hdest).trans (State.eject_clean hclean htyp hle))
      · exact hrouted ((State.routed_here htag hzero hlast hdest).trans (State.eject_spoilt hspoilt))
      · exact hrouted (State.routed_elsewhere htag hzero hlast hdest)
      · exact hrouted (State.routed_otherPartition hne)
    case linkLocal =>
      have hlink (hge : 6 ≤ typ) := harrives (fun _ _ => htyp) (State.ingress_linkLocal hcrc hallowed (htyp ▸ hge))
      simp only [htyp] at hlink
      refine ⟨fun hge hspoilt => (hlink hge).trans (next_settle_congr (if_pos hspoilt)), ?time, ?dark, ?credits⟩
      case time =>
        rintro rfl hclean
        exact (hlink (by decide)).trans (next_settle_congr ((if_neg (Bool.eq_false_iff.1 hclean)).trans (if_pos rfl)))
      case dark =>
        rintro rfl hclean
        exact (hlink (by decide)).trans
          (next_settle_congr ((if_neg (Bool.eq_false_iff.1 hclean)).trans ((if_neg (by decide)).trans (if_pos rfl))))
      case credits =>
        rintro rfl hclean
        exact (hlink (by decide)).trans
          (next_settle_congr ((if_neg (Bool.eq_false_iff.1 hclean)).trans ((if_neg (by decide)).trans (if_neg (by decide)))))

/-! ### Timers of streams and bridges -/

/-- A transmit half without progress for the timeout retries, or ends with TIMEOUT once its retries are used up (R302). -/
theorem exec_streamRetryTimeout_of_late {s : State} {n : Nat} {t : StreamTx} (hn : n < 16384) (ht : (s.context n).tx = some t)
    (hopen : s.routerClosed = false) (hlate : t.progressAt + s.streamTimeout ≤ s.now) :
    exec (.streamRetryTimeout n) s = .next (State.settle
      (if t.retries < s.streamRetries then s.retryTx n t else s.txEnds n t .timeout)) := by
  refine onUnit_of_eq hn (congrArg State.settle ?_)
  rw [ht]
  refine (if_neg (not_or.2 ⟨Bool.eq_false_iff.1 hopen, Nat.not_lt.2 hlate⟩)).trans ?_
  by_cases hleft : t.retries < s.streamRetries
  · exact (if_neg (Nat.not_le.2 hleft)).trans (if_pos hleft).symm
  · exact (if_pos (Nat.not_lt.1 hleft)).trans (if_neg hleft).symm

/-- A receive half that has heard nothing for the timeout times the retries and one fails with TIMEOUT (R301). -/
theorem exec_streamReceiveTimeout_of_late {s : State} {n : Nat} {r : StreamRx} (hn : n < 16384) (hr : (s.context n).rx = some r)
    (hreceives : r.receiving = true) (hopen : s.routerClosed = false)
    (hlate : r.lastAt + s.streamTimeout * (s.streamRetries + 1) ≤ s.now) :
    exec (.streamReceiveTimeout n) s = .next (s.rxFails n r .timeout).settle := by
  refine onUnit_of_eq hn (congrArg State.settle ?_)
  rw [hr]
  refine if_neg (not_or.2 ⟨?_, not_or.2 ⟨Bool.eq_false_iff.1 hopen, Nat.not_lt.2 hlate⟩⟩)
  rw [hreceives]
  exact Bool.false_ne_true

section
variable {s v w : State} {n base : Nat} {r : StreamRx} {st : Status} (hv : v = State.setRx (s.rxRecord n r st) n none)
include hv

/-- A receive half of a twin transfer fails it (R383). -/
theorem State.rxFails_transfer (ht : s.transferContext n = true) : s.rxFails n r st = v.failTransfer st := by
  subst hv
  exact if_pos ht

variable (hnot : s.transferContext n = false)
include hnot

/-- A receive half of a digest exchange only closes (R360). -/
theorem State.rxFails_digest (hd : s.digestContext n = true) : s.rxFails n r st = v := by
  subst hv
  exact (if_neg (Bool.eq_false_iff.1 hnot)).trans (if_pos hd)

variable (hstream : s.digestContext n = false) (hw : w = State.twinStreamFailed (v.streamVerdict r.step st) r st)
include hstream hw

/-- A receive half of a stream that no collective uses fails its step (R314, R346). -/
theorem State.rxFails_stream (hc : w.collOf n = none) : s.rxFails n r st = w := by
  subst hv hw
  refine (if_neg (Bool.eq_false_iff.1 hnot)).trans ((if_neg (Bool.eq_false_iff.1 hstream)).trans ?_)
  dsimp only
  rw [hc]

/-- A receive half of a collective fails the collective too (R308, R314). -/
theorem State.rxFails_collective {k : Collective} (hc : w.collOf n = some base) (hk : w.coll base = some k) :
    s.rxFails n r st = State.runColl (w.setColl base (k.fail k.issued st)) base := by
  subst hv hw
  refine (if_neg (Bool.eq_false_iff.1 hnot)).trans ((if_neg (Bool.eq_false_iff.1 hstream)).trans ?_)
  dsimp only
  rw [hc]
  dsimp only
  rw [hk]

end

/-- Cells packed for a bridge go out as they are 250 ticks after the first (R315). -/
theorem exec_bridgePackTimeout_of_late {s : State} {d : Nat} {b : Nat × List QueuedCell × Nat} (hd : d < 8)
    (hb : s.fabric.bridges.find? (·.1 == d) = some b) (hlate : b.2.2 + 250 ≤ s.now) :
    exec (.bridgePackTimeout d) s = .next (State.settle (s.withRouter (s.flushBridge d))) := by
  refine onUnit_of_eq hd (congrArg State.settle (if_pos ?_))
  rw [hb]
  exact decide_eq_true hlate

/-- A stream engine that may take its descriptor, and finds no poison in it, starts it (R305). -/
theorem exec_streamDescriptorStart_of_clean {s : State} {q : Nat} (hq : q < 16) (hrails : s.power.rails = .on)
    (hopen : s.routerClosed = false) (hqueue : s.sqOpen q = true) (hcount : s.sqCount q ≠ 0) (hheld : s.queueHeld q = false)
    (hclean : State.firstPoison (s.checkRange (s.sqEntry q 0) 64) (s.sqEntry q 0) 64 = none) :
    exec (.streamDescriptorStart q) s =
      .next (State.settle (State.streamDescriptorStart (s.checkRange (s.sqEntry q 0) 64) q)) := by
  have hlooks : (s.sqOpen q && s.sqCount q != 0 && !s.queueHeld q) = true := by
    rw [hqueue, hheld, bne_iff_ne.2 hcount]
    rfl
  have hruns : (s.power.rails == .on) = true ∧ (!s.routerClosed) = true := ⟨by rw [hrails]; rfl, congrArg (!·) hopen⟩
  refine onUnit_of_eq hq (congrArg State.settle ((if_pos hruns).trans ?_))
  simp only [hlooks, if_true, hclean]

/-- Settles O37: each row is the timer or the engine whose moment has come, in the case that the hypotheses name. -/
theorem streamsTimeOutAndStart : Obligations.StreamsTimeOutAndStart := by
  intro s v w n q d base k t r b
  refine ⟨exec_streamRetryTimeout_of_late, fun hn hr hreceives hopen hlate hv => ?receive, exec_bridgePackTimeout_of_late,
    exec_streamDescriptorStart_of_clean⟩
  have hrow := exec_streamReceiveTimeout_of_late hn hr hreceives hopen hlate
  refine ⟨fun ht => hrow.trans (next_settle_congr (State.rxFails_transfer hv ht)),
    fun hnot hd => hrow.trans (next_settle_congr (State.rxFails_digest hv hnot hd)), fun hnot hstream hw => ⟨?_, ?_⟩⟩
  · exact fun hc => hrow.trans (next_settle_congr (State.rxFails_stream hv hnot hstream hw hc))
  · exact fun hc hk => hrow.trans (next_settle_congr (State.rxFails_collective hv hnot hstream hw hc hk))

end Sys2Proof.Machine

/-! PROOFS. The statements of the family of chapter 10: the commands of the Square, its ledger and its field test (R344, R345,
R440), and the deadlines, replays and weight digests of a step's seal (R349 to R361). -/

namespace Sys2Proof.Machine

/-! ### Clamps by command -/

section
variable {u : State} {c : OpenCmd} {k : UnitKind} {n : Nat} (hk : k = unitKind (uAt c.params 0 1)) (hn : n = uAt c.params 2 2)
  (hunit : n < UnitKind.count k)
include hk hn hunit

/-- CLAMP of a unit that exists clamps it as by command (R440). -/
theorem doClamp_of_unit : doClamp c u = done (u.clampUnit k n (if k = .core then 7 else 4) true) [] := by
  subst hk hn
  exact if_neg (Nat.not_le.2 hunit)

/-- UNCLAMP while a step is open gives BUSY (R440). -/
theorem doUnclamp_stepOpen (hopen : u.stepOpen = true) : doUnclamp c u = refuse u .busy := by
  subst hk hn
  exact (if_neg (Nat.not_le.2 hunit)).trans (if_pos hopen)

/-- UNCLAMP with no step open, of a unit that a command has clamped and that no clamp encloses, releases it (R66, R440). -/
theorem doUnclamp_released (hidle : u.stepOpen = false) (hclamp : (u.ownClamp k n).2 = true)
    (hfree : u.enclosedClamp k n = false) : doUnclamp c u = done (u.unclampUnit k n) [] := by
  subst hk hn
  refine (if_neg (Nat.not_le.2 hunit)).trans ((if_neg (Bool.eq_false_iff.1 hidle)).trans (if_neg (not_or.2 ⟨?_, ?_⟩)))
  · rw [hclamp]
    exact Bool.false_ne_true
  · exact Bool.eq_false_iff.1 hfree

end

/-! ### The ledger and the field test -/

/-- LEDGER_READ of bytes inside an entry answers them, whatever the entry's state (R440; assumption log 93). -/
theorem doLedgerRead_inside {u : State} {c : OpenCmd} {i off len : Nat} (hi : i = uAt c.params 0 2) (hoff : off = uAt c.params 4 4)
    (hlen : len = uAt c.params 8 4) (hentry : i < 512) (hroom : off + len ≤ 2 ^ 20) :
    doLedgerRead c u = done u ((upFrom off len).map (u.ledgerEntry i).byte) := by
  subst hi hoff hlen
  exact if_neg (not_or.2 ⟨Nat.not_le.2 hentry, Nat.not_lt.2 hroom⟩)

/-- LEDGER_PIN of a valid entry sets or clears its pin (R344, R440). -/
theorem doLedgerPin_valid {u : State} {c : OpenCmd} {i : Nat} (hi : i = uAt c.params 0 2) (hentry : i < 512)
    (hvalid : (u.ledgerEntry i).state = 1) :
    doLedgerPin c u = done { u with square := { u.square with
      ledger := tabSet ledgerEntryReset u.square.ledger i { u.ledgerEntry i with pinned := uAt c.params 2 1 == 1 } } } [] := by
  subst hi
  exact if_neg (not_or.2 ⟨Nat.not_le.2 hentry, not_not.2 hvalid⟩)

/-- FIELD_TEST with entries to run, on a core neither clamped nor testing, with no step and no EVAL slot open, starts and marks
the core as testing (R345; assumption log 18). -/
theorem doFieldTest_starts {u : State} {c : OpenCmd} {i n : Nat} (failing : List (Nat × Nat × Nat)) (hi : i = uAt c.params 0 2)
    (hn : n = uAt c.params 2 2) (hentry : i < 512 ∨ i = 0xFFFF) (hcore : n < 384) (hclamp : u.faultClamped n = false)
    (hidle : u.stepOpen = false) (heval : u.steps.evalSlot = none) (hrest : (u.core n).testing = false)
    (hruns : u.testEntries i n ≠ []) :
    doFieldTest failing c u = began (u.setCore n { u.core n with testing := true }) (.fieldTest i n
      (failing.filter fun f => (u.testEntries i n).contains f.1 && decide (f.2.1 < 4 ∧ f.2.2 < u.tileWidth n))) := by
  subst hi hn
  have hparams : ¬((512 ≤ uAt c.params 0 2 ∧ uAt c.params 0 2 ≠ 0xFFFF) ∨ 384 ≤ uAt c.params 2 2) := by omega
  have hfree : ¬(u.stepOpen = true ∨ u.steps.evalSlot.isSome = true ∨ (u.core (uAt c.params 2 2)).testing = true) := by
    rw [hidle, heval, hrest]
    decide
  have hsome : ¬(u.testEntries (uAt c.params 0 2) (uAt c.params 2 2)).isEmpty = true := fun h => hruns (List.isEmpty_iff.1 h)
  exact (if_neg hparams).trans ((if_neg (Bool.eq_false_iff.1 hclamp)).trans ((if_neg hfree).trans (if_neg hsome)))

/-- Settles O30: each command executes as its meaning says, in the case that the hypotheses name (assumption log 18 and 93). -/
theorem squareCommandsComplete : Obligations.SquareCommandsComplete := by
  intro s u c k n i off len failing
  refine ⟨?clamp, ?unclamp, fun h => next_run_of_executes h rfl, ?read, ?pin, ?test⟩
  case clamp => exact fun h hk hn hunit => runSettle_of_executes h (doClamp_of_unit hk hn hunit)
  case unclamp =>
    exact fun h hk hn hunit =>
      ⟨fun hidle hclamp hfree => runSettle_of_executes h (doUnclamp_released hk hn hunit hidle hclamp hfree),
        fun hopen => runSettle_of_executes h (doUnclamp_stepOpen hk hn hunit hopen)⟩
  case read =>
    exact fun h hi hoff hlen hentry hroom => next_run_of_executes h (doLedgerRead_inside hi hoff hlen hentry hroom)
  case pin => exact fun h hi hentry hvalid => next_run_of_executes h (doLedgerPin_valid hi hentry hvalid)
  case test =>
    exact fun h hi hn hentry hcore hclamp hidle heval hrest hruns =>
      next_run_of_executes h (doFieldTest_starts failing hi hn hentry hcore hclamp hidle heval hrest hruns)

/-! ### Deadlines of a step's seal -/

section
variable {s : State} {step : Nat} {r : StepRec} {tc : Word} (hr : s.step? step = some r) (hclosed : r.closed = some tc)
include hr hclosed

/-- At the seal deadline a step whose combined verdict has not gone out fails with MISSING for the first child that is missing;
where none is, the coordinator names itself (R349, R351; assumption log 134). -/
theorem State.sealDeadline_of_late (hunsent : r.combinedSent = false) (hlate : (s.sealDeadlineAt tc).toNat ≤ s.ft.toNat)
    (hpartition : s.fabric.partition.tag ≠ 0) (hsends : s.missingChildren r ≠ [] ∨ s.isCoordinator = true) :
    s.sealDeadline step = s.sendCombined r true 8 ((s.missingChildren r).headD s.chip) := by
  have hdue : ¬(r.combinedSent = true ∨ s.ft.toNat < (s.sealDeadlineAt tc).toNat ∨ s.fabric.partition.tag = 0) :=
    not_or.2 ⟨Bool.eq_false_iff.1 hunsent, not_or.2 ⟨Nat.not_lt.2 hlate, hpartition⟩⟩
  simp only [State.sealDeadline, hr, hclosed, if_neg hdue]
  cases hmissing : s.missingChildren r with
  | cons n cs => rfl
  | nil => exact if_pos (hsends.resolve_left (not_not.2 hmissing))

/-- A step without an outcome at the limit is added to those overdue and reported, once (R354). -/
theorem State.outcomeOverdue_of_late (hlate : tc.toNat + ticksMs (s.rf .sqSealCtrl 40 16) ≤ s.ft.toNat)
    (hfirst : s.steps.overdue.contains step = false) :
    s.outcomeOverdue step = State.fault { s with steps := { s.steps with overdue := s.steps.overdue ++ [step] } }
      0x0013 .module .deadline step r.attempt := by
  simp only [State.outcomeOverdue, hr, hclosed]
  exact if_neg (not_or.2 ⟨Nat.not_lt.2 hlate, Bool.eq_false_iff.1 hfirst⟩)

end

/-! ### Replays -/

/-- A replay opens at its fabric time where its step may open; one that is late with no step open is reported (R356). -/
theorem State.replayOpen_of_due {s t : State} {m a : Nat} {ft : Word} {rest : List (Nat × Nat × Word)}
    (hreplays : s.steps.replays = (m, a, ft) :: rest) (hdue : ft.toNat ≤ s.ft.toNat) (hmay : s.mayOpen m = true)
    (ht : t = { s with steps := { s.steps with replays := rest } }) :
    s.replayOpen = State.openLoad
      (if ft.toNat < s.ft.toNat ∧ s.steps.opened = [] then t.fault 0x0014 .module .deadline m ((s.ft.toNat - ft.toNat) / 1250)
        else t) m a := by
  subst ht
  have hopens : ¬(s.ft.toNat < ft.toNat ∨ (!s.mayOpen m) = true) := by
    rw [hmay]
    exact not_or.2 ⟨Nat.not_lt.2 hdue, Bool.false_ne_true⟩
  simp only [State.replayOpen, hreplays, if_neg hopens, Nat.sub_pos_iff_lt, List.isEmpty_iff]

/-! ### Weight digests -/

/-- A digest that ends has read both arrays; its values are recorded and sent (R185, R358, R360). -/
theorem State.weightDigestEnd_running {s t v : State} {n letter : Nat} {invalid : Bool}
    (hrunning : s.digests.running = some (n, letter, invalid)) (ht : t = s.digestRead (s.ownMaster letter))
    (hv : v = t.digestRead (t.mirrorMaster letter)) :
    s.weightDigestEnd = State.sendDigests { v with digests := v.digests.ended v n letter invalid } := by
  subst ht hv
  rw [State.weightDigestEnd, hrunning]

/-- A comparison waits for all digests or its time (R361). -/
theorem State.digestCompare_waits {s : State} {at_ : Nat} (hended : s.digests.endedAt = some at_) (hout : s.digestsIn = false)
    (hearly : s.now < at_ + ticksMs (s.rf .sqDigestCtrl 24 16)) : s.digestCompare = s := by
  simp only [State.digestCompare, hended, hout, hearly, Bool.not_false, and_self, if_true]

/-- A comparison that names no member, and finds a majority and no record missing, changes and reports nothing (R361). -/
theorem State.digestMismatch_nil (s : State) (array : Nat) (invalid : Bool) :
    s.digestMismatch array [] false false invalid = s := by
  simp only [State.digestMismatch, List.contains_nil, Bool.or_false, List.isEmpty_nil, if_true]

/-- A group whose digests are all valid and of one value holds that value under each of its chips. -/
theorem State.groupDigests_of_agree {s : State} {value : List Byte} (hagree : ∀ x ∈ s.groupDigests, x.2 = some (true, value)) :
    s.groupDigests = (s.groupDigests.map (·.1)).map fun chip => (chip, some (true, value)) := by
  rw [List.map_map]
  exact (List.map_id'' (fun _ => rfl) _).symm.trans (List.map_congr_left fun x hx => Prod.ext rfl (hagree x hx))

/-- A comparison in which all digests of the group are valid and equal ends without a mismatch and without a report (R361). -/
theorem State.digestCompare_agree {s : State} {at_ : Nat} {value : List Byte} (hended : s.digests.endedAt = some at_)
    (hin : s.digestsIn = true) (hrole : s.twin.role ≠ 1) (hagree : ∀ x ∈ s.groupDigests, x.2 = some (true, value)) :
    s.digestCompare = { s with digests := { s.digests with endedAt := none, mismatch := false } } := by
  have hgroup := State.groupDigests_of_agree hagree
  generalize s.groupDigests.map (·.1) = chips at hgroup
  -- No value differs from that of the first member and no record is missing, so no member is named and nothing is reported.
  cases chips with
  | nil => simp [State.digestCompare, hended, hin, hgroup, hrole, State.digestMismatch_nil]
  | cons chip chips =>
    have hnone : (chips.any fun _ => false) = false := List.any_eq_false.2 fun _ _ => Bool.false_ne_true
    simp [State.digestCompare, hended, hin, hgroup, hrole, State.digestMismatch_nil, List.filterMap_map, Function.comp_def, hnone]

/-- Settles O44: each row is the operation that its hypotheses name (assumption log 134). -/
theorem sealsReplaysAndDigests : Obligations.SealsReplaysAndDigests := by
  intro s t v step n m a at_ r tc ft rest letter invalid cs value
  refine ⟨?deadline, ?copies, ?overdue, ?replay, ?digest, ?waits, ?agree⟩
  case deadline =>
    intro hr hclosed hunsent hlate hpartition
    refine ⟨fun hmissing => next_settle_congr ?_, fun hmissing hcoordinator => next_settle_congr ?_⟩
    · rw [State.sealDeadline_of_late hr hclosed hunsent hlate hpartition (.inl (by rw [hmissing]; exact List.cons_ne_nil n cs)),
        hmissing, List.headD_cons]
    · rw [State.sealDeadline_of_late hr hclosed hunsent hlate hpartition (.inr hcoordinator), hmissing, List.headD_nil]
  case copies =>
    rintro rfl
    rfl
  case overdue =>
    exact fun hr hclosed hlate hfirst => congrArg Host.Outcome.next (State.outcomeOverdue_of_late hr hclosed hlate hfirst)
  case replay => exact fun hreplays hdue hmay ht => next_settle_congr (State.replayOpen_of_due hreplays hdue hmay ht)
  case digest => exact fun hrunning ht hv => next_settle_congr (State.weightDigestEnd_running hrunning ht hv)
  case waits => exact fun hended hout hearly => congrArg Host.Outcome.next (State.digestCompare_waits hended hout hearly)
  case agree =>
    exact fun hended hin hrole hagree => congrArg Host.Outcome.next (State.digestCompare_agree hended hin hrole hagree)

end Sys2Proof.Machine

/-! PROOFS. The statements of the family of chapter 11: STEP_CONTROL and STEP_STATUS (R381, R394, R436, R439), the commands of the
twin and of glue-up images (R383 to R385, R392 to R395, R441), the feeds, pins and rails (R542 to R548, R553), and the power-fail
sequence (R400, R401). -/

namespace Sys2Proof.Machine

/-! ### STEP_CONTROL -/

/-- A row that serves some actions of an opcode, and whose effect may let work go on, ends as what the meaning of an executing
command with such an action answers. -/
theorem runFront_settle_of_executes {s u : State} {c : OpenCmd} {opcode : Nat} {p : OpenCmd → Bool}
    {f : OpenCmd → State → Result} {r : Result} (h : s.executes c opcode u) (hp : p c = true) (hf : f c u = r) :
    (.next (s.runFront opcode p f).settle : Host.Outcome State Fault Refusal) = .next (State.conclude c false r).settle := by
  obtain ⟨ht, rfl⟩ := h
  exact next_settle_congr ((State.runFront_of_takes ht hp).trans (congrArg (State.conclude c false) hf))

section
variable {u : State} {c : OpenCmd} {o : Outcome}

/-- RESUME of a module that CKPT_CUT holds lets the held step go on (R394; DEDUCED, assumption log 36). -/
theorem doResume_held (hheld : u.heldByCut = true) (hfree : u.retentionBusy = false) :
    doResume c u = done { u with steps := { u.steps with opened := u.steps.opened.map fun r => { r with cut := none } } } [] :=
  if_pos ⟨hheld, by rw [hfree]; rfl⟩

/-- RESUME with no step open and no retention work ends the halt and names the next step and attempt (R439). -/
theorem doResume_idle (hopen : u.stepOpen = false) (hfree : u.retentionBusy = false) (hheld : u.heldByCut = false) :
    doResume c u = done { u with steps := { u.steps with
      halted := false, next := some (uAt c.params 8 8, uAt c.params 2 1) } } [] :=
  (if_neg fun h => Bool.eq_false_iff.1 hheld h.1).trans
    (if_neg (not_or.2 ⟨Bool.eq_false_iff.1 hopen, Bool.eq_false_iff.1 hfree⟩))

/-- SEAL of an outcome that matches a step takes it after the answer (R439). -/
theorem doStepSeal_matches (ho : o = commandOutcome c u false) (hmatch : u.matches_ o = true) :
    doStepSeal c u = doneThen u [] fun t => t.takeOutcome o 0 := by
  subst ho
  exact if_pos hmatch

/-- SEAL of an outcome that has arrived already is done without effect (R439). -/
theorem doStepSeal_arrived (ho : o = commandOutcome c u false) (hmatch : u.matches_ o = false) (harrived : u.arrived o = true) :
    doStepSeal c u = done u [] := by
  subst ho
  exact (if_neg (Bool.eq_false_iff.1 hmatch)).trans (if_pos harrived)

/-- SEAL of any other outcome gives BAD_PARAM (R439). -/
theorem doStepSeal_unknown (ho : o = commandOutcome c u false) (hmatch : u.matches_ o = false) (hnew : u.arrived o = false) :
    doStepSeal c u = refuse u .badParam := by
  subst ho
  exact (if_neg (Bool.eq_false_iff.1 hmatch)).trans (if_neg (Bool.eq_false_iff.1 hnew))

/-- RECALL of an outcome that matches a step starts and takes it after the answer (R439). -/
theorem doStepRecall_matches (ho : o = commandOutcome c u true) (hmatch : u.matches_ o = true) :
    doStepRecall c u = ⟨.start (.stepRecall o.step o.attempt o.halt o.replayFt.toNat), u, fun t => t.takeOutcome o 0⟩ := by
  subst ho
  exact if_pos hmatch

/-- RECALL of an outcome that has arrived already starts without effect (R439). -/
theorem doStepRecall_arrived (ho : o = commandOutcome c u true) (hmatch : u.matches_ o = false) (harrived : u.arrived o = true) :
    doStepRecall c u = began u (.stepRecall o.step o.attempt o.halt o.replayFt.toNat) := by
  subst ho
  exact (if_neg (Bool.eq_false_iff.1 hmatch)).trans (if_pos harrived)

/-- RECALL of any other outcome gives BAD_PARAM (R439). -/
theorem doStepRecall_unknown (ho : o = commandOutcome c u true) (hmatch : u.matches_ o = false) (hnew : u.arrived o = false) :
    doStepRecall c u = refuse u .badParam := by
  subst ho
  exact (if_neg (Bool.eq_false_iff.1 hmatch)).trans (if_neg (Bool.eq_false_iff.1 hnew))

end

/-- Settles O29: each action of STEP_CONTROL ends as its meaning says in the case that the hypotheses name, and STEP_STATUS replies
what it reads (assumption log 36, 37 and 119). -/
theorem stepControlCompletes : Obligations.StepControlCompletes := by
  intro s u c o
  refine ⟨?resume, ?halt, ?sealed, ?recalled, fun h => next_run_of_executes h rfl⟩
  case resume =>
    intro h haction
    have hserved : (uAt c.params 0 1 == 0 || decide (3 < uAt c.params 0 1)) = true := by rw [haction]; rfl
    exact ⟨fun hopen hfree hheld => runFront_settle_of_executes h hserved (doResume_idle hopen hfree hheld),
      fun hheld hfree => runFront_settle_of_executes h hserved (doResume_held hheld hfree)⟩
  case halt => exact fun h haction => runFront_settle_of_executes h (beq_iff_eq.2 haction) rfl
  case sealed =>
    intro h haction ho
    have hserved := beq_iff_eq.2 haction
    exact ⟨fun hmatch => runFront_settle_of_executes h hserved (doStepSeal_matches ho hmatch),
      fun hmatch harrived => runFront_settle_of_executes h hserved (doStepSeal_arrived ho hmatch harrived),
      fun hmatch hnew => runFront_settle_of_executes h hserved (doStepSeal_unknown ho hmatch hnew)⟩
  case recalled =>
    intro h haction ho
    have hserved := beq_iff_eq.2 haction
    exact ⟨fun hmatch => runFront_settle_of_executes h hserved (doStepRecall_matches ho hmatch),
      fun hmatch harrived => runFront_settle_of_executes h hserved (doStepRecall_arrived ho hmatch harrived),
      fun hmatch hnew => runFront_settle_of_executes h hserved (doStepRecall_unknown ho hmatch hnew)⟩

/-! ### The twin -/

section
variable {u : State} {c : OpenCmd} {x : TwinTransfer}

/-- With no retention work, no step open and no context of the transfer busy, neither side answers BUSY (R385). -/
theorem State.not_transferBusy (hfree : u.retentionBusy = false) (hopen : u.stepOpen = false)
    (hidle : x.contexts.any (fun n => (u.context n).busy) = false) :
    ¬(u.retentionBusy = true ∨ u.stepOpen = true ∨ x.contexts.any (fun n => (u.context n).busy) = true) := by
  rw [hfree, hopen, hidle]
  decide

/-- TWIN_SEND of the sealed step from a module with a valid mirror records the transfer, and starts it after the answer (R383). -/
theorem doTwinSend_starts (hx : x = transferOf true c) (hgood : u.transferBad x = false)
    (hgeneration : x.generation = u.fabric.partition.generation) (hfree : u.retentionBusy = false) (hopen : u.stepOpen = false)
    (hidle : x.contexts.any (fun n => (u.context n).busy) = false) (hmirror : u.twin.mirrorValid = true)
    (hrestored : u.steps.restoreFailed = false) (hstep : x.step = u.steps.sealedStep) (hletter : x.letter = u.steps.sealedLetter) :
    doTwinSend c u =
      ⟨.start .twinSend, { u with twin := { u.twin with transfer := some x } }, fun t => t.startTransfer x⟩ := by
  subst hx
  have hparams := not_or.2 ⟨Bool.eq_false_iff.1 hgood, not_not.2 hgeneration⟩
  have hsealed : ¬((!u.twin.mirrorValid) = true ∨ u.steps.restoreFailed = true ∨
      (transferOf true c).step ≠ u.steps.sealedStep ∨ (transferOf true c).letter ≠ u.steps.sealedLetter) := by
    simp [hmirror, hrestored, hstep, hletter]
  exact (if_neg hparams).trans ((if_neg (State.not_transferBusy hfree hopen hidle)).trans (if_neg hsealed))

/-- TWIN_RECEIVE closes old receivers of its contexts and takes the receiving role (R380, R383). -/
theorem doTwinReceive_starts {v : State} (hx : x = transferOf false c) (hgood : u.transferBad x = false)
    (hfree : u.retentionBusy = false) (hopen : u.stepOpen = false)
    (hidle : x.contexts.any (fun n => (u.context n).busy) = false) (hv : v = x.contexts.foldl (fun t n => t.setRx n none) u) :
    doTwinReceive c u = began { v with twin := { v.twin with
      transfer := some x, role := 3, mirrorValid := false, peer := x.peer, newPairing := false } } .twinReceive := by
  subst hx hv
  exact (if_neg (Bool.eq_false_iff.1 hgood)).trans (if_neg (State.not_transferBusy hfree hopen hidle))

/-- TWIN_ADOPT with a step open or retention work gives BUSY (R384). -/
theorem doTwinAdopt_busy (hbusy : u.stepOpen = true ∨ u.retentionBusy = true) : doTwinAdopt c u = refuse u .busy := if_pos hbusy

section
variable (hopen : u.stepOpen = false) (hfree : u.retentionBusy = false)
include hopen hfree

/-- TWIN_ADOPT of a valid mirror that is not yet adopted takes the adopted role (R384). -/
theorem doTwinAdopt_valid (hmirror : u.twin.mirrorValid = true) (hrole : u.twin.role ≠ 2) :
    doTwinAdopt c u = done { u with twin := { u.twin with role := 2, mirrorValid := false } } [] :=
  (if_neg (not_or.2 ⟨Bool.eq_false_iff.1 hopen, Bool.eq_false_iff.1 hfree⟩)).trans
    (if_neg (not_or.2 ⟨by rw [hmirror]; exact Bool.false_ne_true, hrole⟩))

/-- TWIN_ADOPT without a valid mirror, or a second time, gives BAD_PARAM (R384). -/
theorem doTwinAdopt_invalid (hbad : u.twin.mirrorValid = false ∨ u.twin.role = 2) : doTwinAdopt c u = refuse u .badParam :=
  (if_neg (not_or.2 ⟨Bool.eq_false_iff.1 hopen, Bool.eq_false_iff.1 hfree⟩)).trans
    (if_pos (hbad.imp_left fun h => by rw [h]; rfl))

end

end

/-- Settles O48: each command of the twin ends as its meaning says in the case that the hypotheses name. -/
theorem twinCommandsComplete : Obligations.TwinCommandsComplete := by
  intro s u c x
  refine ⟨?send, ?receive, ?adopt, fun h hbusy => runSettle_of_executes h (doTwinAdopt_busy hbusy)⟩
  case send =>
    exact fun h hx hgood hgeneration hfree hopen hidle hmirror hrestored hstep hletter => runSettle_of_executes h
      (doTwinSend_starts hx hgood hgeneration hfree hopen hidle hmirror hrestored hstep hletter)
  case receive =>
    exact fun h hx hgood hfree hopen hidle =>
      ⟨_, rfl, runSettle_of_executes h (doTwinReceive_starts hx hgood hfree hopen hidle rfl)⟩
  case adopt =>
    exact fun h hopen hfree =>
      ⟨fun hmirror hrole => runSettle_of_executes h (doTwinAdopt_valid hopen hfree hmirror hrole),
        fun hbad => runSettle_of_executes h (doTwinAdopt_invalid hopen hfree hbad)⟩

/-! ### Glue-up images -/

section
variable {u : State} {c : OpenCmd}

/-- CKPT_CUT of a step in LOAD or FWD that is not cut, with no retention work and no other cut running, marks the step with
CONTINUE and starts (R394; DEDUCED, assumption log 65). -/
theorem doCkptCut_starts {r : StepRec} (hr : u.step? (uAt c.params 0 8) = some r) (hfree : u.retentionBusy = false)
    (hfirst : (u.longOps.any fun o => o.2 == .ckptCut) = false) (hphase : r.phase = 1 ∨ r.phase = 2) (huncut : r.cut = none) :
    doCkptCut c u = began (u.setStep { r with cut := some (uAt c.params 8 1 == 1) }) .ckptCut := by
  have hopen : ¬((!within r.phase 1 2) = true ∨ r.cut.isSome = true) := by
    rw [huncut]
    rcases hphase with h | h <;> rw [h] <;> decide
  rw [doCkptCut, hr]
  exact (if_neg (not_or.2 ⟨Bool.eq_false_iff.1 hfree, Bool.eq_false_iff.1 hfirst⟩)).trans (if_neg hopen)

/-- CHECKPOINT_RELEASE of the frozen step, with no image being written, thaws it (R392). -/
theorem doCheckpointRelease_frozen {v : Nat} (hwriting : u.ckpt.writing = none)
    (hfrozen : u.ckpt.frozen = some (v, uAt c.params 0 8)) :
    doCheckpointRelease c u = done { u with ckpt := { u.ckpt with frozen := none } } [] := by
  rw [doCheckpointRelease, hwriting, hfrozen]
  exact if_pos rfl

/-- CKPT_RETRY of the failed image of the frozen step starts the image again, under the retry's command (R393). -/
theorem doCkptRetry_failed {w : ImageWrite} {v n : Nat} (hfree : u.retentionBusy = false) (hlast : u.ckpt.last = some w)
    (hfrozen : u.ckpt.frozen = some (v, n)) (hstate : u.ckpt.state = 3) (hn : n = uAt c.params 0 8) (hw : w.step = n) :
    doCkptRetry c u = ⟨.start .ckptRetry, u, fun t =>
      t.startImage { w with cmd := some c.jseq, holdEntry := none, continueAfter := false }⟩ := by
  rw [doCkptRetry, hlast, hfrozen]
  exact (if_neg (Bool.eq_false_iff.1 hfree)).trans (if_pos ⟨hstate, hn, hw⟩)

/-- RESTORE with good parameters, no step open but one that a cut holds, and no retention work, asks for the header of shard 0 and
starts (R395; DESIGN CHOICE, assumption log 136). -/
theorem doRestore_starts {f : State} (hslot : uAt c.params 0x14 1 ≤ 1) (hchip : uAt c.params 0xC 4 < 2 ^ 17)
    (hstep : uAt c.params 0 8 < 2 ^ 48) (hopen : u.stepOpen = false ∨ u.heldByCut = true) (hfree : u.retentionBusy = false)
    (hf : f = u.connectTargets.readObject (uAt c.params 0x14 1) 0 0 4096) :
    doRestore c u = began { f with ckpt := { f.ckpt with
      state := 4
      restore := some { step := uAt c.params 0 8, generation := uAt c.params 8 4, chip := uAt c.params 0xC 4,
                        imageNumber := uAt c.params 0x10 4, slot := uAt c.params 0x14 1, cmd := c.jseq, headers := [] }
      engineKeys := f.security.keys } } .restore := by
  subst hf
  have hheld : ¬(u.stepOpen = true ∧ (!u.heldByCut) = true) := by
    rcases hopen with h | h <;> simp [h]
  exact (if_neg (not_or.2 ⟨Nat.not_lt.2 hslot, not_or.2 ⟨Nat.not_le.2 hchip, Nat.not_le.2 hstep⟩⟩)).trans
    (if_neg (not_or.2 ⟨hheld, Bool.eq_false_iff.1 hfree⟩))

end

/-- Settles O49: each command of a glue-up image ends as its meaning says in the case that the hypotheses name (assumption log 36,
65 and 136). -/
theorem checkpointCommandsComplete : Obligations.CheckpointCommandsComplete := by
  intro s u f c r w v n
  refine ⟨?cut, ?release, fun h hwriting => runSettle_of_executes h (if_pos hwriting), ?retry, ?restore⟩
  case cut =>
    exact fun h hr hfree hfirst hphase huncut =>
      runSettle_of_executes h (doCkptCut_starts hr hfree hfirst hphase huncut)
  case release => exact fun h hwriting hfrozen => runSettle_of_executes h (doCheckpointRelease_frozen hwriting hfrozen)
  case retry =>
    exact fun h hfree hlast hfrozen hstate hn hw =>
      runSettle_of_executes h (doCkptRetry_failed hfree hlast hfrozen hstate hn hw)
  case restore =>
    exact fun h hslot hchip hstep hopen hfree hf =>
      runSettle_of_executes h (doRestore_starts hslot hchip hstep hopen hfree hf)

/-! ### Feeds (R542, R543) -/

section
variable (p : Power) (feed : Nat) (b : Bool)

@[simp] theorem Power.setFeed_rails : (p.setFeed feed b).rails = p.rails := by unfold Power.setFeed; split <;> rfl
@[simp] theorem Power.setFeed_coldResetHeld : (p.setFeed feed b).coldResetHeld = p.coldResetHeld := by
  unfold Power.setFeed; split <;> rfl
@[simp] theorem Power.setFeed_tripped : (p.setFeed feed b).tripped = p.tripped := by unfold Power.setFeed; split <;> rfl
@[simp] theorem Power.setFeed_svcEn : (p.setFeed feed b).svcEn = p.svcEn := by unfold Power.setFeed; split <;> rfl

/-- Whether FEED_LOST is outstanding for a feed does not change as a feed comes or goes. -/
@[simp] theorem Power.setFeed_feedLost (n : Nat) : (p.setFeed feed b).feedLost n = p.feedLost n := by
  unfold Power.setFeed; split <;> rfl

/-- With a feed that qualifies the module is fed. -/
@[simp] theorem Power.setFeed_true_fed : (p.setFeed feed true).fed = true := by
  unfold Power.setFeed Power.fed; split <;> simp

/-- Without one feed the module is fed if the other is qualified. -/
@[simp] theorem Power.setFeed_false_fed : (p.setFeed feed false).fed = p.qualified (1 - feed) := by
  unfold Power.setFeed Power.fed Power.qualified
  split
  case isTrue h => simp [h]
  case isFalse h => simp [Nat.sub_eq_zero_of_le (Nat.one_le_iff_ne_zero.2 h)]

end

/-! ### The rails (R545 to R548) -/

section
variable {s : State}

/-- Rails that are off and may come up start the power-up sequence (R545). -/
theorem State.powerUp_of_mayRise (hoff : s.power.rails = .off) (hrise : s.power.mayRise = true) :
    s.powerUp = State.serviceLine { s with power := { s.power with rails := .rising s.now } } :=
  congrArg State.serviceLine (if_pos (by rw [hoff, hrise]; rfl))

/-- Where the rails are not off, no power-up sequence starts. -/
theorem State.powerUp_of_not_off (h : s.power.rails ≠ .off) : s.powerUp = s.serviceLine :=
  congrArg State.serviceLine (if_neg fun hrise => h (beq_iff_eq.1 (Bool.and_eq_true_iff.1 hrise).1))

/-- Rails that stand fail with a declared power fail (R546). -/
theorem State.failOrOff_of_on (hon : s.power.rails = .on) : s.failOrOff = s.declareFail := by
  rw [State.failOrOff, hon]

variable {feed : Nat}

/-- A feed that qualifies where the rails are off and nothing holds them starts the power-up sequence (R542, R545). -/
theorem State.feedIn_rises (hout : s.power.qualified feed = false) (hoff : s.power.rails = .off)
    (hheld : s.power.coldResetHeld = false) (htrip : s.power.tripped = false) (hservice : s.power.svcEn = false) :
    s.feedIn feed = State.serviceLine { s with power := { s.power.setFeed feed true with
      bothLostAt := none, rails := .rising s.now } } := by
  have hrise : (s.power.setFeed feed true).mayRise = true := by simp [Power.mayRise, hheld, htrip, hservice]
  have hdown : (s.power.setFeed feed true).rails = .off := (Power.setFeed_rails ..).trans hoff
  refine (if_neg (Bool.eq_false_iff.1 hout)).trans
    ((congrArg State.powerUp (if_neg ?_)).trans (State.powerUp_of_mayRise hdown hrise))
  simp [hoff]

/-- A feed that qualifies while the rails stand clears the report of its loss (R542, R543). -/
theorem State.feedIn_recovers (hout : s.power.qualified feed = false) (hon : s.power.rails = .on)
    (hlost : s.power.feedLost feed = true) :
    s.feedIn feed = State.powerUp (State.faultRecovered
      { s with power := { s.power.setFeed feed true with bothLostAt := none }.setLost feed false } 0x0016 .module .ok feed 0) := by
  have hreported : ((s.power.setFeed feed true).feedLost feed && (s.power.setFeed feed true).rails == .on) = true := by
    simp [hlost, hon]
  exact (if_neg (Bool.eq_false_iff.1 hout)).trans (congrArg State.powerUp (if_pos hreported))

/-- A feed that leaves range while the other carries on is reported with FEED_LOST where the rails stand (R543). -/
theorem State.feedOut_reported (hin : s.power.qualified feed = true) (hother : s.power.qualified (1 - feed) = true)
    (hon : s.power.rails = .on) :
    s.feedOut feed = State.fault { s with power := (s.power.setFeed feed false).setLost feed true } 0x0016 .module .ok feed 0 := by
  have hfed : (s.power.setFeed feed false).fed = true := (Power.setFeed_false_fed ..).trans hother
  have hrails : ((s.power.setFeed feed false).rails == .on) = true := by rw [Power.setFeed_rails, hon]; rfl
  exact (if_neg (by rw [hin]; exact Bool.false_ne_true)).trans ((if_pos hfed).trans (if_pos hrails))

/-- The last feed that leaves range while the rails stand marks the loss of both (R546). -/
theorem State.feedOut_last (hin : s.power.qualified feed = true) (hother : s.power.qualified (1 - feed) = false)
    (hon : s.power.rails = .on) :
    s.feedOut feed =
      State.serviceLine { s with power := { s.power.setFeed feed false with bothLostAt := some s.now } } := by
  have hunfed : (s.power.setFeed feed false).fed = false := (Power.setFeed_false_fed ..).trans hother
  refine (if_neg (by rw [hin]; exact Bool.false_ne_true)).trans ((if_neg (Bool.eq_false_iff.1 hunfed)).trans ?_)
  simp only [Power.setFeed_rails, hon]

/-! ### Pins (R545 to R548) -/

/-- The power-up sequence ends after 16 ms in a module cold reset, of cause 5 after a declared power fail and else 0 (R402, R483,
R545). -/
theorem exec_powerGood_of_risen {t : State} {since : Nat} (hrising : s.power.rails = .rising since)
    (hdue : since + ticksMs 16 ≤ s.now) (ht : t = s.coldReset (if s.boot.failDeclared then 5 else 0) false) :
    exec .powerGood s =
      .next { t with power := { t.power with rails := .on }, boot := { t.boot with failDeclared := false } } := by
  subst ht
  show execPowerGood s = _
  rw [execPowerGood, hrising]
  exact congrArg Host.Outcome.next (if_neg (Nat.not_lt.2 hdue))

section
variable {ns : Nat} (hon : s.power.rails = .on)
include hon

/-- COLD_RESET_N that goes low while the rails stand acts by how long it has been low (R547). -/
theorem exec_coldResetN_low :
    exec (.coldResetN false ns) s = .next (if 10000 ≤ ns ∨ (1000 ≤ ns ∧ Config.shortResetActs ns = true) then
      State.serviceLine (State.failOrOff { s with power := { s.power with coldResetHeld := true } }) else s) :=
  congrArg Host.Outcome.next ((if_neg Bool.false_ne_true).trans (if_neg (by rw [hon]; exact Bool.false_ne_true)))

/-- COLD_RESET_N low for 10 µs starts the power-fail sequence where the rails stand (R547). -/
theorem exec_coldResetN_of_long (hlong : 10000 ≤ ns) :
    exec (.coldResetN false ns) s = .next (State.serviceLine (State.declareFail
      { s with power := { s.power with coldResetHeld := true } })) := by
  rw [exec_coldResetN_low hon, if_pos (.inl hlong)]
  exact congrArg (fun t => Host.Outcome.next (State.serviceLine t)) (State.failOrOff_of_on hon)

/-- COLD_RESET_N low for less than 1 µs does nothing (R547). -/
theorem exec_coldResetN_of_short (hshort : ns < 1000) : exec (.coldResetN false ns) s = .next s := by
  rw [exec_coldResetN_low hon, if_neg (by omega)]

/-- A thermal trip starts the power-fail sequence where the rails stand (R548). -/
theorem exec_thermalTrip_of_on {die : Nat} (hdie : die < 26) :
    exec (.thermalTrip die) s = .next (State.declareFail { s with power := { s.power with tripped := true } }) :=
  onUnit_of_eq hdie ((if_neg (by rw [hon]; decide)).trans (State.failOrOff_of_on hon))

end

end

/-- Settles O59: each row of a feed or a pin reaches the state that its hypotheses name (assumption log 47 and 48). -/
theorem railsRiseAndFall : Obligations.RailsRiseAndFall := by
  intro s t feed other since ns die on hfeed hdie
  refine ⟨?rises, ?recovers, ?reported, ?last, exec_powerGood_of_risen, exec_coldResetN_of_long, exec_coldResetN_of_short, rfl,
    fun hon => exec_thermalTrip_of_on hon hdie, rfl, fun h => congrArg Host.Outcome.next (State.powerUp_of_not_off h), rfl⟩
  case rises =>
    exact fun hout hoff hheld htrip hservice => onUnit_of_eq hfeed (State.feedIn_rises hout hoff hheld htrip hservice)
  case recovers => exact fun hout hon hlost => onUnit_of_eq hfeed (State.feedIn_recovers hout hon hlost)
  case reported =>
    rintro hin rfl hother hon
    exact onUnit_of_eq hfeed (State.feedOut_reported hin hother hon)
  case last =>
    rintro hin rfl hother hon
    exact onUnit_of_eq hfeed (State.feedOut_last hin hother hon)

/-! ### The power-fail sequence (R400) -/

/-- The ports go dark: each queue of waiting cells empties, and a port that is not down enters DARK (R400). -/
theorem State.goDark_eq (s : State) :
    s.goDark = (List.range 16).foldl (fun t n =>
      if ((t.setPort n { t.port n with egress := [] }).port n).state = .down then t.setPort n { t.port n with egress := [] }
      else (t.setPort n { t.port n with egress := [] }).portTo n .dark)
      { s with power := { s.power with dark := true }, fabric := { s.fabric with waiting := [], bridges := [] } } := by
  simp only [State.goDark, beq_iff_eq]

section
variable {s : State} {since : Nat}

/-- Both feeds below range for 20 µs while the rails stand declare power fail (R400, R546). -/
theorem exec_powerFail_of_lost (hlost : s.power.bothLostAt = some since) (hon : s.power.rails = .on)
    (hdue : since + ticksUs 20 ≤ s.now) : exec .powerFail s = .next s.declareFail.serviceLine := by
  show execPowerFail s = _
  rw [execPowerFail, hlost]
  exact congrArg Host.Outcome.next (if_pos (by rw [hon, decide_eq_true hdue]; rfl))

section
variable (hfailing : s.power.rails = .failing since)
include hfailing

/-- Time since the declaration has reached `us`. -/
theorem State.failedFor_of_due {us : Nat} (hdue : since + ticksUs us ≤ s.now) : s.failedFor us = true := by
  rw [State.failedFor, hfailing]
  exact decide_eq_true hdue

/-- 20 µs after the declaration the notice and LINK_DARK go out, once (R400). -/
theorem exec_powerFailNotice_of_due (hdue : since + ticksUs 20 ≤ s.now) (hfirst : s.power.noticed = false) :
    exec .powerFailNotice s = .next s.failNotice :=
  congrArg Host.Outcome.next (if_pos (by rw [State.failedFor_of_due hfailing hdue, hfirst]; rfl))

/-- 120 µs after the declaration the ports go dark, once (R400). -/
theorem exec_darkFtReached_of_due (hdue : since + ticksUs 120 ≤ s.now) (hfirst : s.power.dark = false) :
    exec .darkFtReached s = .next s.goDark :=
  congrArg Host.Outcome.next (if_pos (by rw [State.failedFor_of_due hfailing hdue, hfirst]; rfl))

/-- 180 µs after the declaration the rails go off (R400, R401). -/
theorem exec_powerFailRailsOff_of_due (hdue : since + ticksUs 180 ≤ s.now) : exec .powerFailRailsOff s = .next s.railsOff :=
  congrArg Host.Outcome.next (if_pos (State.failedFor_of_due hfailing hdue))

end

/-- The second copy of a UDP notice goes out 10 µs after the first where the port's link is up (R480). -/
theorem exec_noticeUdpRepeat_of_due {t : State} {o : Output} {at_ : Nat} {rest : List (Output × Nat)}
    (hfirst : s.notices.repeats = (o, at_) :: rest) (hdue : at_ + ticksUs 10 ≤ s.now)
    (ht : t = { s with notices := { s.notices with repeats := rest } }) :
    exec .noticeUdpRepeat s = .next (if (s.eth 0).linkUp = true then t.putNotice o else t) := by
  subst ht
  show execNoticeUdpRepeat s = _
  rw [execNoticeUdpRepeat, hfirst]
  exact congrArg Host.Outcome.next (if_neg (Nat.not_lt.2 hdue))

end

/-- Settles O60: each row of the sequence reaches the state that its hypotheses name (assumption log 13 and 47). -/
theorem powerFailRunsItsCourse : Obligations.PowerFailRunsItsCourse := by
  intro s t since tm o at_ rest
  refine ⟨exec_powerFail_of_lost, ?notice, ?dark, ?off, fun hup => congrArg Host.Outcome.next (if_pos hup),
    exec_noticeUdpRepeat_of_due⟩
  case notice =>
    rintro hfailing hdue hfirst rfl
    exact exec_powerFailNotice_of_due hfailing hdue hfirst
  case dark =>
    intro hfailing hdue hfirst
    rw [exec_darkFtReached_of_due hfailing hdue hfirst, State.goDark_eq]
  case off =>
    rintro hfailing hdue rfl
    exact exec_powerFailRailsOff_of_due hfailing hdue

end Sys2Proof.Machine

/-! PROOFS. The statements of the families of chapters 12 to 15: the queue, the queries, sessions, ownership, the registers and the
journal (R417 to R456, R503 to R506), resets and hangs (R462 to R478), images, keys and the alarm (R494 to R515), and counters,
traces and power (R521 to R541). -/

namespace Sys2Proof.Machine

/-! ### The queue -/

/-- Settles O3: the row of every command keeps the queue that it is given. -/
theorem commandsKeepTheQueue : Obligations.CommandsKeepTheQueue := by
  intro i s t hs hexec
  exact (exec_keeps (kept_of_canonical hs) i t hexec).1

/-- Settles O1: a step looks at the queue alone to choose between a command and a tick (assumption log 1). -/
theorem stepRunsTheFrontCommand : Obligations.StepRunsTheFrontCommand := by
  refine ⟨fun i s => rfl, fun i rest s hp => ?_, fun s hp => ?_⟩
  · simp only [step, hp]
  · simp only [step, hp]

/-! ### Queries -/

/-- What a command's meaning answers leaves the state it began in, with nothing after its reply. -/
def Result.Leaves (r : Result) (u : State) : Prop := r.state = u ∧ r.post = id

theorem refuse_leaves (u : State) (st : Status) : (refuse u st).Leaves u := ⟨rfl, rfl⟩

theorem done_leaves (u : State) (data : List Byte) : (done u data).Leaves u := ⟨rfl, rfl⟩

/-- A meaning that chooses between two answers leaves the state if both do. -/
theorem ite_leaves {p : Prop} [Decidable p] {a b : Result} {u : State} (ha : a.Leaves u) (hb : b.Leaves u) :
    (if p then a else b).Leaves u := by
  split
  · exact ha
  · exact hb

/-! CERT_READ, REG_READ, TT_READ, LEDGER_READ and JOURNAL_READ choose between two answers by their parameters. -/

theorem doCertRead_leaves (c : OpenCmd) (u : State) : (doCertRead c u).Leaves u := ite_leaves (refuse_leaves ..) (done_leaves ..)

theorem doRegRead_leaves (c : OpenCmd) (u : State) : (doRegRead c u).Leaves u := ite_leaves (refuse_leaves ..) (done_leaves ..)

theorem doTtRead_leaves (c : OpenCmd) (u : State) : (doTtRead c u).Leaves u := ite_leaves (refuse_leaves ..) (done_leaves ..)

theorem doLedgerRead_leaves (c : OpenCmd) (u : State) : (doLedgerRead c u).Leaves u :=
  ite_leaves (refuse_leaves ..) (done_leaves ..)

theorem doJournalRead_leaves (c : OpenCmd) (u : State) : (doJournalRead c u).Leaves u :=
  ite_leaves (done_leaves ..) (done_leaves ..)

/-- SNAPSHOT_READ refuses, replies, or waits for its snapshot (R523). -/
theorem doSnapshotRead_leaves (c : OpenCmd) (u : State) : (doSnapshotRead c u).Leaves u := by
  rw [doSnapshotRead]
  split
  · exact refuse_leaves ..
  · exact ite_leaves (refuse_leaves ..) (ite_leaves (done_leaves ..) ⟨rfl, rfl⟩)

/-- TRACE_READ of a selector that names one ring refuses or replies, and refuses any other (R525). -/
theorem doTraceRead_leaves (c : OpenCmd) (u : State) : (doTraceRead c u).Leaves u := by
  rw [doTraceRead]
  split
  · exact ite_leaves (refuse_leaves ..) (ite_leaves (refuse_leaves ..) (done_leaves ..))
  · exact refuse_leaves ..

/-- The row of a meaning that leaves the state changes only what answering a command changes, whether it executes or not. -/
theorem answers_of_leaves {op : Nat} {f : OpenCmd → State → Result} (hf : ∀ c u, (f c u).Leaves u) (s : State) :
    ∃ t, (.next (s.run op f) : Host.Outcome State Fault Refusal) = .next t ∧ t = { s with
      outbox := t.outbox, journal := t.journal, notices := t.notices, cmds := t.cmds, speas := t.speas, obs := t.obs
      longOps := t.longOps } :=
  ⟨_, rfl, rest_spec (run_rest hf)⟩

/-- Settles O6: the meaning of every query leaves the state it began in. -/
theorem queriesChangeNothing : Obligations.QueriesChangeNothing := by
  intro i s hi
  simp only [List.mem_cons, List.not_mem_nil, or_false] at hi
  rcases hi with rfl | rfl | rfl | rfl | rfl | rfl | rfl | rfl | rfl | rfl | rfl | rfl | rfl | rfl | rfl | rfl | rfl | rfl | rfl
  · exact answers_of_leaves (f := doPing) (fun _ _ => done_leaves ..) s
  · exact answers_of_leaves (f := doSessionList) (fun _ _ => done_leaves ..) s
  · exact answers_of_leaves (f := doIdentity) (fun _ _ => done_leaves ..) s
  · exact answers_of_leaves doCertRead_leaves s
  · exact answers_of_leaves (f := doAttest) (fun _ _ => done_leaves ..) s
  · exact answers_of_leaves doRegRead_leaves s
  · exact answers_of_leaves (f := doPartitionGet) (fun _ _ => done_leaves ..) s
  · exact answers_of_leaves doTtRead_leaves s
  · exact answers_of_leaves (f := doStepStatus) (fun _ _ => done_leaves ..) s
  · exact answers_of_leaves (f := doLedgerIndex) (fun _ _ => done_leaves ..) s
  · exact answers_of_leaves doLedgerRead_leaves s
  · exact answers_of_leaves (f := doJournalSummary) (fun _ _ => done_leaves ..) s
  · exact answers_of_leaves doJournalRead_leaves s
  · exact answers_of_leaves doSnapshotRead_leaves s
  · exact answers_of_leaves doTraceRead_leaves s
  · exact answers_of_leaves (f := doTelemetryRead) (fun _ _ => done_leaves ..) s
  · exact answers_of_leaves (f := doPwrStatus) (fun _ _ => done_leaves ..) s
  · exact answers_of_leaves (f := doResetStatus) (fun _ _ => done_leaves ..) s
  · exact answers_of_leaves (f := doAlarmStatus) (fun _ _ => done_leaves ..) s

/-! ### Closing, PING and SESSION_LIST -/

/-- A command executes at the fabric time of its step. -/
theorem State.executes.ft_eq {s u : State} {c : OpenCmd} {opcode : Nat} (h : s.executes c opcode u) : u.ft = s.ft := by
  obtain ⟨-, rfl⟩ := h
  exact s.begun_ft c

/-- A command executes with the sessions and the owner of its step. -/
theorem State.executes.cmds_eq {s u : State} {c : OpenCmd} {opcode : Nat} (h : s.executes c opcode u) : u.cmds = s.cmds := by
  obtain ⟨-, rfl⟩ := h
  exact s.begun_cmds c

/-- Settles O9: each command ends as its meaning says; its trace entry leaves the fabric time and the sessions. -/
theorem linkCommandsComplete : Obligations.LinkCommandsComplete := by
  intro s u c
  refine ⟨fun h => next_run_of_executes h rfl, fun h => ?ping, fun h => ?list⟩
  case ping =>
    rw [← h.ft_eq]
    exact next_run_of_executes h rfl
  case list =>
    have hopen : s.openSessions = u.openSessions := congrArg (fun m => m.sessions.filter (·.confirmed)) h.cmds_eq.symm
    rw [hopen, ← h.cmds_eq]
    exact next_run_of_executes h rfl

/-! ### Ownership -/

section
variable {u : State} {c : OpenCmd} {x o : Session} {e : PrincipalEntry} (he : u.principal c.principal = some e)
include he

/-- OWNER_CLAIM from a principal that may not own gives NOT_OWNER, whatever the owner (R506). -/
theorem doOwnerClaim_notAllowed (hnot : e.ownerAllowed = false) : doOwnerClaim c u = refuse u .notOwner := by
  rw [doOwnerClaim, he]
  cases u.session c.session with
  | none => rfl
  | some x => exact if_neg (by rw [hnot]; exact Bool.false_ne_true)

variable (hx : u.session c.session = some x)
include hx

/-- Any other OWNER_CLAIM while another session owns the module gives NOT_OWNER (R425). -/
theorem doOwnerClaim_denied (hown : u.ownerSession = some o) (hother : o.id ≠ c.session)
    (hdenied : o.principal ≠ c.principal ∨ uAt c.params 0 1 ≠ 1) : doOwnerClaim c u = refuse u .notOwner := by
  have hgrant : (o.id == c.session || (uAt c.params 0 1 == 1 && o.principal == c.principal)) = false := by
    rw [beq_false_of_ne hother, Bool.false_or, Bool.and_eq_false_iff]
    exact hdenied.symm.imp beq_false_of_ne beq_false_of_ne
  simp only [doOwnerClaim, hx, he, hown, hgrant, Bool.and_false, Bool.false_eq_true, if_false]

variable (hallowed : e.ownerAllowed = true)
include hallowed

/-- OWNER_CLAIM while nobody owns the module gains ownership (R425). -/
theorem doOwnerClaim_unowned (hnone : u.ownerSession = none) :
    doOwnerClaim c u = doneThen { u with cmds := { u.cmds with owner := some c.session } } (le 4 0)
      fun t => t.emit (sessionEvent c.session 2) := by
  simp only [doOwnerClaim, hx, he, hnone, hallowed, Bool.and_self, if_true]

/-- OWNER_CLAIM by the owner keeps it the owner, and nothing is reported (R425). -/
theorem doOwnerClaim_own (hown : u.ownerSession = some o) (hsame : o.id = c.session) :
    doOwnerClaim c u = doneThen { u with cmds := { u.cmds with owner := some c.session } } (le 4 o.id) id := by
  simp only [doOwnerClaim, hx, he, hown, hallowed, hsame, BEq.rfl, Bool.true_or, Bool.and_self, if_true]
  rfl

/-- OWNER_CLAIM with TAKEOVER from the owner's principal takes the ownership over (R425). -/
theorem doOwnerClaim_takeover (hown : u.ownerSession = some o) (hother : o.id ≠ c.session)
    (hprincipal : o.principal = c.principal) (htake : uAt c.params 0 1 = 1) :
    doOwnerClaim c u = doneThen { u with cmds := { u.cmds with owner := some c.session } } (le 4 o.id)
      fun t => (t.emit (sessionEvent o.id 3)).emit (sessionEvent c.session 2) := by
  simp only [doOwnerClaim, hx, he, hown, hallowed, hprincipal, htake, BEq.rfl, Bool.or_true, Bool.and_self, if_true, if_neg hother]

end

/-- OWNER_RELEASE by the owner ends the ownership (R425). -/
theorem doOwnerRelease_owner {u : State} {c : OpenCmd} (hown : u.cmds.owner = some c.session) :
    doOwnerRelease c u = doneThen { u with cmds := { u.cmds with owner := none } } []
      fun t => t.emit (sessionEvent c.session 3) := if_pos hown

/-- Settles O10: OWNER_CLAIM by whether and by whom the module is owned, and OWNER_RELEASE. -/
theorem ownershipChanges : Obligations.OwnershipChanges := by
  intro s u c x o e
  refine ⟨fun h hx he hallowed => ⟨?unowned, ?own, ?takeover, ?denied⟩,
    fun h hown => next_run_of_executes h (doOwnerRelease_owner hown)⟩
  case unowned => exact fun hnone => next_run_of_executes h (doOwnerClaim_unowned he hx hallowed hnone)
  case own => exact fun hown hsame => next_run_of_executes h (doOwnerClaim_own he hx hallowed hown hsame)
  case takeover =>
    exact fun hown hother hprincipal htake =>
      next_run_of_executes h (doOwnerClaim_takeover he hx hallowed hown hother hprincipal htake)
  case denied => exact fun hown hother hdenied => next_run_of_executes h (doOwnerClaim_denied he hx hown hother hdenied)

/-- Settles O11: such a claim is refused before its owner is looked at. -/
theorem claimNeedsOwnerAllowed : Obligations.ClaimNeedsOwnerAllowed :=
  fun _ _ _ _ h he hnot => next_run_of_executes h (doOwnerClaim_notAllowed he hnot)

/-! ### The handshake and the expiries of a session -/

/-- The number of bytes of a little-endian field. -/
theorem le_length (n v : Nat) : (le n v).length = n := by
  induction n generalizing v with
  | zero => rfl
  | succ n ih => exact congrArg (· + 1) (ih _)

/-- SESSION_INIT of a known principal on a port with room, on a module with an identity, adds a half-open session under the next
session ID, which heads the reply (R424, R503). -/
theorem doSessionInit_opens {u : State} {c : OpenCmd} {e : PrincipalEntry} (he : u.principal (uAt c.params 0 2) = some e)
    (hidentity : u.security.noIdentity = false) (hroom : (u.cmds.sessions.filter (·.port == c.port)).length < 4) :
    ∃ (y : Session) (data : List Byte), doSessionInit c u = done
        { u with cmds := { u.cmds with sessions := u.cmds.sessions ++ [y], lastSession := u.cmds.lastSession + 1 } } data ∧
      y.id = u.cmds.lastSession + 1 ∧ y.port = c.port ∧ y.principal = uAt c.params 0 2 ∧ y.confirmed = false ∧
      data.take 8 = le 4 y.id ++ zeros 4 := by
  have hknown : ¬(u.principal (uAt c.params 0 2)).isNone = true := by
    rw [he]
    exact Bool.false_ne_true
  exact ⟨_, _, (if_neg hknown).trans ((if_neg (Bool.eq_false_iff.1 hidentity)).trans (if_neg (Nat.not_le.2 hroom))),
    rfl, rfl, rfl, rfl, List.take_left' (by rw [List.length_append, le_length]; rfl)⟩

section
variable {u : State} {c : OpenCmd} {x : Session} (hx : u.session c.session = some x)
include hx

/-- SESSION_CONFIRM whose key and signature check opens the session (R505). -/
theorem doSessionConfirm_good (hkey : c.facts.keyOk = true) (hsig : c.facts.sigOk = true) :
    doSessionConfirm c u = doneThen (u.setSession { x with confirmed := true, openedFt := u.ft }) []
      fun t => (t.emit (sessionEvent x.id 0)).releaseHeld := by
  simp only [doSessionConfirm, hx, hkey, hsig, Bool.and_self, if_true]
  rfl

/-- SESSION_CONFIRM that fails counts an authentication failure and closes the session (R505, R512). -/
theorem doSessionConfirm_bad (hbad : (c.facts.keyOk && c.facts.sigOk) = false) :
    doSessionConfirm c u = ⟨.reply .badTag [], u.authFail, fun t => t.closeSession x.id⟩ := by
  simp only [doSessionConfirm, hx, hbad, Bool.false_eq_true, if_false]

end

section
variable {s : State} {x : Session} {n : Nat} (hx : s.session n = some x)
include hx

/-- A half-open session closes once it has waited 1 s (R505). -/
theorem exec_sessionHalfOpenExpiry_of_late (hopen : x.confirmed = false) (hlate : x.initAt + ticksS 1 ≤ s.now) :
    exec (.sessionHalfOpenExpiry n) s = .next (s.closeSession n) := by
  show execSessionHalfOpenExpiry n s = _
  rw [execSessionHalfOpenExpiry, hx]
  exact congrArg Host.Outcome.next (if_pos ⟨by rw [hopen]; rfl, hlate⟩)

/-- A session closes once it has been idle for CMD_CTRL.IDLE_S seconds (R424). -/
theorem exec_sessionIdleExpiry_of_late (hlate : x.lastAt + ticksS (s.rf .cmdCtrl 0 16) ≤ s.now) :
    exec (.sessionIdleExpiry n) s = .next (s.closeSession n) := by
  show execSessionIdleExpiry n s = _
  rw [execSessionIdleExpiry, hx]
  exact congrArg Host.Outcome.next (if_pos hlate)

end

/-- Settles O12: both messages of the handshake, and the two expiries. -/
theorem sessionsOpenAndExpire : Obligations.SessionsOpenAndExpire := by
  intro s u c x e n
  refine ⟨?init, fun h hx hkey hsig => next_run_of_executes h (doSessionConfirm_good hx hkey hsig),
    fun h hx hbad => next_run_of_executes h (doSessionConfirm_bad hx hbad), exec_sessionHalfOpenExpiry_of_late,
    exec_sessionIdleExpiry_of_late⟩
  case init =>
    intro h he hidentity hroom
    obtain ⟨y, data, hinit, hfacts⟩ := doSessionInit_opens he hidentity hroom
    exact ⟨y, data, next_run_of_executes h hinit, hfacts⟩

/-! ### Identity queries -/

/-- CERT_READ inside the certificate replies its bytes from NOR region 6 (R430, R495). -/
theorem doCertRead_inside {u : State} {c : OpenCmd} (hinside : uAt c.params 0 4 + uAt c.params 4 4 ≤ u.certLength) :
    doCertRead c u = done u (u.norBytes ((norRegion 6).1 + uAt c.params 0 4) (uAt c.params 4 4)) :=
  if_neg (Nat.not_lt.2 hinside)

/-- Settles O13: each query ends as its meaning says. -/
theorem identityQueriesComplete : Obligations.IdentityQueriesComplete := by
  intro s u c
  exact ⟨fun h => next_run_of_executes h rfl, fun h hinside => next_run_of_executes h (doCertRead_inside hinside),
    fun h => next_run_of_executes h rfl, fun h => next_run_of_executes h rfl, fun h => next_run_of_executes h rfl⟩

/-! ### Registers -/

/-- REG_READ of addresses that all name registers replies with what each reads as, in list order (R431). -/
theorem doRegRead_named {u : State} {c : OpenCmd} {rs : List Reg}
    (hnamed : ((List.range (uAt c.params 0 4)).map fun i => Reg.ofAddr (uAt c.params (8 + 8 * i) 8)) = rs.map some) :
    doRegRead c u = done u (rs.flatMap fun r => le 8 (u.readReg r).toNat) := by
  have hall : (rs.map some).any (·.isNone) = false := by simp
  simp only [doRegRead, hnamed, hall, Bool.false_eq_true, if_false, List.flatMap_map]

/-- A register write none of whose pairs refuses takes them all in list order (R432). -/
theorem State.run_doRegWrite_ok {s u : State} {c : OpenCmd} {pairs : List (Nat × Word × Word)} (h : s.writes c u pairs) :
    s.run c.opcode doRegWrite = State.ended (u.writePairs pairs) c (le 4 0xFFFFFFFF) id := by
  obtain ⟨opcode, -, ⟨ht, rfl⟩, rfl, hpairs⟩ := h
  obtain rfl := takes_opcode ht
  rw [State.run_of_takes ht, doRegWrite_ok hpairs]
  rfl

section
variable {s a : State} {c : OpenCmd} {sets : List (Nat × Word)}
  (hrun : ({ s with colliding := sets } : State).run c.opcode doRegWrite = a)
include hrun

/-- REG_WRITE ends as its write does, then what settles by itself follows (R432). -/
theorem exec_regWrite_of_run (hop : c.opcode = 0x0201) : exec (.regWrite sets) s = .next a.uncollide.settle := by
  rw [← hrun, hop]
  rfl

/-- REG_WRITE_MASKED ends as its write does, then what settles by itself follows (R432). -/
theorem exec_regWriteMasked_of_run (hop : c.opcode = 0x0202) : exec (.regWriteMasked sets) s = .next a.uncollide.settle := by
  rw [← hrun, hop]
  rfl

end

/-- Settles O17: reads by whether every address names a register, writes by the first pair that refuses. -/
theorem registersReadAndWritten : Obligations.RegistersReadAndWritten := by
  rintro s u c rs pairs pre post p st sets z rfl
  refine ⟨fun h hnamed => next_run_of_executes h (doRegRead_named hnamed), ?unnamed,
    fun h hop => exec_regWrite_of_run (State.run_doRegWrite_ok h) hop,
    fun h hop => exec_regWriteMasked_of_run (State.run_doRegWrite_ok h) hop, ?refused⟩
  case unnamed =>
    rintro h ⟨i, hi, hnone⟩
    exact next_run_of_executes h (doRegRead_bad hi hnone)
  case refused =>
    intro h hpairs hpre hp
    have hrun := State.run_doRegWrite_bad h hpairs hpre hp
    exact ⟨exec_regWrite_of_run hrun, exec_regWriteMasked_of_run hrun⟩

/-! ### The counters' registers -/

/-- The address of CNT_VALUE_i names it (R534). -/
theorem Reg.ofAddr_cntValue {i : Nat} (hi : i < 1208) :
    Reg.ofAddr (0x020000000000 + 0x17 * 0x1000000 + 0x10000 + 8 * i) = some (.cntValue i) := by
  have hblock : (0x020000000000 + 0x17 * 0x1000000 + 0x10000 + 8 * i - registerBase) / 0x1000000 = 0x17 := by
    simp only [registerBase]; omega
  have hoffset : (0x020000000000 + 0x17 * 0x1000000 + 0x10000 + 8 * i - registerBase) % 0x1000000 = 0x10000 + 8 * i := by
    simp only [registerBase]; omega
  have hrange : (0x020000000000 + 0x17 * 0x1000000 + 0x10000 + 8 * i) % 8 = 0 ∧
      registerBase ≤ 0x020000000000 + 0x17 * 0x1000000 + 0x10000 + 8 * i ∧
      0x020000000000 + 0x17 * 0x1000000 + 0x10000 + 8 * i < registerBase + 0x18000000 := by
    simp only [registerBase]; omega
  have hindex : (0x10000 + 8 * i - 0x10000) / 8 = i := by omega
  rw [Reg.ofAddr, if_pos hrange, hblock, hoffset]
  show (if 0x10000 + 8 * i < 0x10000 then _ else arrayAt (0x10000 + 8 * i) 0x10000 8 1208 .cntValue) = _
  rw [if_neg (by omega), arrayAt, hindex, if_pos (by omega)]

/-- CNT_VALUE_i reads what counter i counts now, under the tag 0 (R534). -/
theorem State.readReg_cntValue (s : State) (i : Nat) : s.readReg (.cntValue i) = s.counterNow 0 i := by
  have hreserved : (Reg.cntValue i).writable ||| (Reg.cntValue i).w1c = 0#64 := BitVec.or_self
  rw [State.readReg, hreserved, BitVec.and_zero, BitVec.zero_or]
  rfl

/-- The first four counters are fabric time, tag, partition generation and 0; the others run (R521). -/
theorem State.counterNow_zero (s : State) (i : Nat) :
    s.counterNow 0 i = if i = 0 then s.ft else if i = 1 then 0 else if i = 2 then word s.fabric.partition.generation
      else if i = 3 then 0 else tabGet 0 s.obs.counters i := by
  match i with
  | 0 | 1 | 2 | 3 => rfl
  | _ + 4 => rfl

/-- Settles O20: the address, the access and the value of CNT_VALUE_i, and its REG_READ. -/
theorem counterRegistersReadLive : Obligations.CounterRegistersReadLive := by
  intro i hi
  refine ⟨Reg.ofAddr_cntValue hi, rfl, rfl, rfl, ?reset, fun s => (s.readReg_cntValue i).trans (s.counterNow_zero i), ?read⟩
  case reset =>
    rw [State.readReg_cntValue, State.counterNow_zero]
    split_ifs <;> rfl
  case read =>
    intro s u c h hone haddr
    have hnamed : ((List.range (uAt c.params 0 4)).map fun j => Reg.ofAddr (uAt c.params (8 + 8 * j) 8)) =
        [Reg.cntValue i].map some := by
      rw [hone]
      exact congrArg (fun r => [r]) ((congrArg Reg.ofAddr haddr).trans (Reg.ofAddr_cntValue hi))
    refine (next_run_of_executes h (doRegRead_named hnamed)).trans ?_
    rw [List.flatMap_cons, List.flatMap_nil, List.append_nil]
    rfl

/-! ### The journal -/

section
variable {u : State} {c : OpenCmd}

/-- JOURNAL_READ of source 0 replies the records from the first sequence asked for that fit (R456). -/
theorem doJournalRead_records (hsource : uAt c.params 12 1 = 0) :
    doJournalRead c u = done u (journalReadData (uAt c.params 0 8) (uAt c.params 8 4)
      ((u.journal.records.filter (fun r => decide (uAt c.params 0 8 ≤ r.seq))).map fun r => (r.seq, recordBytes r))) :=
  if_pos hsource

/-- JOURNAL_READ of source 1 replies the outcome entries of the active snapshot (R456). -/
theorem doJournalRead_outcomes (hsource : uAt c.params 12 1 ≠ 0) :
    doJournalRead c u = done u (journalReadData (uAt c.params 0 8) (uAt c.params 8 4)
      (((u.journal.active.outcomes.foldl (fun l e => insertEntry e l) []).filter
        (fun e => decide (uAt c.params 0 8 ≤ e.seq))).map fun e => (e.seq, outcomeEntryBytes e))) :=
  if_neg hsource

/-- JOURNAL_COMPACT with no compaction running starts one up to the last record (R452). -/
theorem doJournalCompact_starts (hidle : u.journal.compacting = none) : doJournalCompact c u = began
    { u with journal := { u.journal with compacting := some (u.journal.nextSeq - 1, [c.jseq]) } } .compact := by
  rw [doJournalCompact, hidle]

/-- JOURNAL_COMPACT while a compaction runs joins it (R452). -/
theorem doJournalCompact_joins {n : Nat} {cs : List Nat} (hruns : u.journal.compacting = some (n, cs)) :
    doJournalCompact c u = began { u with journal := { u.journal with compacting := some (n, cs ++ [c.jseq]) } } .compact := by
  rw [doJournalCompact, hruns]

end

/-- Settles O50: each command by what it reads or finds running, and the end of a compaction. -/
theorem journalCommandsComplete : Obligations.JournalCommandsComplete := by
  intro s u c n cs
  refine ⟨fun h => next_run_of_executes h rfl, fun h hsource => next_run_of_executes h (doJournalRead_records hsource),
    fun h hsource => next_run_of_executes h (doJournalRead_outcomes hsource),
    fun h hidle => next_run_of_executes h (doJournalCompact_starts hidle),
    fun h hruns => next_run_of_executes h (doJournalCompact_joins hruns), fun hruns => ?ends, fun hidle => ?idle⟩
  case ends =>
    refine congrArg Host.Outcome.next ?_
    rw [State.compactionEnd, hruns]
  case idle =>
    refine congrArg Host.Outcome.next ?_
    rw [State.compactionEnd, hidle]

/-! ### Traces and power -/

section
variable {u : State} {c : OpenCmd}

/-- TRACE_CTRL acts on every ring that its selector names (R524, R525). -/
theorem doTraceCtrl_named {rs : List Nat} {a : Nat} {f : TraceRing → TraceRing} (hrings : ringsOf (uAt c.params 0 4) true = some rs)
    (ha : uAt c.params 4 1 = a) (hf : (fun x : TraceRing => x.act a) = f) :
    doTraceCtrl c u = done { u with obs := { u.obs with
      rings := rs.foldl (fun t r => tabMod traceRingReset t r f) u.obs.rings } } [] := by
  subst ha hf
  rw [doTraceCtrl, hrings]

section
variable {r : Nat} {x : TraceRing} (hring : ringsOf (uAt c.params 0 4) false = some [r])
  (hx : x = tabGet traceRingReset u.obs.rings r)
include hring hx

/-- TRACE_READ of a ring that is ON gives BUSY (R525). -/
theorem doTraceRead_on (hon : x.state = 1) : doTraceRead c u = refuse u .busy := by
  subst hx
  rw [doTraceRead, hring]
  exact if_pos hon

/-- TRACE_READ of a ring that is not ON replies the entries asked for from the oldest held (R525). -/
theorem doTraceRead_held (hoff : x.state ≠ 1) (hheld : uAt c.params 4 4 + uAt c.params 8 4 ≤ x.entries.length) :
    doTraceRead c u = done u (((x.entries.reverse.drop (uAt c.params 4 4)).take (uAt c.params 8 4)).flatMap id) := by
  subst hx
  rw [doTraceRead, hring]
  exact (if_neg hoff).trans (if_neg (Nat.not_lt.2 hheld))

end

/-- PWR_CAP of a value that its scope does not take gives BAD_PARAM (R531). -/
theorem doPwrCap_bad (hbad : capOk (uAt c.params 4 1 != 0) (uAt c.params 0 4) = false) : doPwrCap c u = refuse u .badParam :=
  if_pos (by rw [hbad]; rfl)

/-- PWR_CAP of a value that its scope takes stores it in the cap register of its scope (R531). -/
theorem doPwrCap_good (hgood : capOk (uAt c.params 4 1 != 0) (uAt c.params 0 4) = true) :
    doPwrCap c u = done (u.setReg (if uAt c.params 4 1 = 0 then .pwrCapModule else .pwrCapDie (uAt c.params 4 1 - 1))
      (word (uAt c.params 0 4))) [] :=
  if_neg (by rw [hgood]; exact Bool.false_ne_true)

/-- PWR_CAP of the module takes 1,000 to 3,800 W (R531). -/
theorem doPwrCap_module (hscope : uAt c.params 4 1 = 0) (hlow : 1000 ≤ uAt c.params 0 4) (hhigh : uAt c.params 0 4 ≤ 3800) :
    doPwrCap c u = done (u.setReg .pwrCapModule (word (uAt c.params 0 4))) [] := by
  have hgood : capOk (uAt c.params 4 1 != 0) (uAt c.params 0 4) = true := by
    rw [hscope]
    exact decide_eq_true ⟨hlow, hhigh⟩
  rw [doPwrCap_good hgood, if_pos hscope]

/-- PWR_CAP of a die takes 0, which is no cap, or 30 to 140 W (R531). -/
theorem doPwrCap_die (hscope : uAt c.params 4 1 ≠ 0)
    (hvalue : uAt c.params 0 4 = 0 ∨ 30 ≤ uAt c.params 0 4 ∧ uAt c.params 0 4 ≤ 140) :
    doPwrCap c u = done (u.setReg (.pwrCapDie (uAt c.params 4 1 - 1)) (word (uAt c.params 0 4))) [] := by
  have hgood : capOk (uAt c.params 4 1 != 0) (uAt c.params 0 4) = true := by
    rw [bne_iff_ne.2 hscope]
    exact Bool.or_eq_true_iff.2 (hvalue.imp beq_iff_eq.2 decide_eq_true)
  rw [doPwrCap_good hgood, if_neg hscope]

end

/-- A row that serves some actions of an opcode ends as what the meaning of an executing command with such an action answers. -/
theorem next_runFront_of_executes {s u : State} {c : OpenCmd} {opcode : Nat} {p : OpenCmd → Bool} {f : OpenCmd → State → Result}
    {r : Result} (h : s.executes c opcode u) (hp : p c = true) (hf : f c u = r) :
    (.next (s.runFront opcode p f) : Host.Outcome State Fault Refusal) = .next (State.conclude c false r) := by
  obtain ⟨ht, rfl⟩ := h
  rw [State.runFront_of_takes ht hp, hf]

/-- Settles O53: TRACE_CTRL by its action, TRACE_READ by the ring's state, PWR_CAP by its scope and value. -/
theorem traceAndPowerCommands : Obligations.TraceAndPowerCommands := by
  intro s u c rs r first count
  refine ⟨?ctrl, ?read, fun h => next_run_of_executes h rfl, fun h => next_run_of_executes h rfl,
    fun h hscope hlow hhigh => next_run_of_executes h (doPwrCap_module hscope hlow hhigh),
    fun h hscope hvalue => next_run_of_executes h (doPwrCap_die hscope hvalue),
    fun h hbad => next_run_of_executes h (doPwrCap_bad hbad)⟩
  case ctrl =>
    rintro h hrings f t rfl
    refine ⟨?off, ?on, ?freeze, ?clear⟩
    case off =>
      exact fun ha hf => next_runFront_of_executes h (by simp only [ha]; rfl) (doTraceCtrl_named hrings ha hf.symm)
    case on | freeze | clear =>
      exact fun ha hf => next_runFront_of_executes h (beq_iff_eq.2 ha) (doTraceCtrl_named hrings ha hf.symm)
  case read =>
    rintro h hring rfl rfl
    exact ⟨fun hoff hheld => next_run_of_executes h (doTraceRead_held hring rfl hoff hheld),
      fun hon => next_run_of_executes h (doTraceRead_on hring rfl hon)⟩

/-! ### The commands of resets -/

section
variable {u : State} {c : OpenCmd} {d : DomainCode} {i : Nat} (hi : i = uAt c.params 2 2)
include hi

/-- RESET_DOMAIN of a unit beyond the domain's count gives BAD_PARAM (R462, R467). -/
theorem doReset_beyond (hbeyond : instances d ≤ i) : doReset d c u = refuse u .badParam := by
  subst hi
  exact if_pos hbeyond

variable (hthere : i < instances d)
include hthere

/-- RESET_DOMAIN of a clamped unit gives CLAMPED (R467). -/
theorem doReset_clamped (hclamped : u.resetClamped d i = true) : doReset d c u = refuse u .clamped := by
  subst hi
  exact (if_neg (Nat.not_le.2 hthere)).trans (if_pos hclamped)

variable (hfree : u.resetClamped d i = false)
include hfree

/-- RESET_DOMAIN gives BUSY for what R467 names. -/
theorem doReset_busy (hbusy : u.resetBusy d i = true) : doReset d c u = refuse u .busy := by
  subst hi
  exact (if_neg (Nat.not_le.2 hthere)).trans ((if_neg (Bool.eq_false_iff.1 hfree)).trans (if_pos hbusy))

/-- RESET_DOMAIN of a unit that is neither clamped nor busy: the Bench's reset follows its reply, any other is a long operation
(R443, R444). -/
theorem doReset_idle (hidle : u.resetBusy d i = false) : doReset d c u =
    if d = .bench then ⟨.direct .ok [], u, fun t => t.resetBench 2 true⟩
    else ⟨.start (.resetDomain d i), u, fun t => t.startReset d i (some c.jseq) false⟩ := by
  subst hi
  exact (if_neg (Nat.not_le.2 hthere)).trans
    ((if_neg (Bool.eq_false_iff.1 hfree)).trans (if_neg (Bool.eq_false_iff.1 hidle)))

end

/-- The row of RESET_DOMAIN that serves a domain code, and the domain of that code (R443). -/
def ResetRow (code : Nat) (d : DomainCode) (row : Sys2Proof.Instr) : Prop :=
  (code = 0 ∧ d = .core ∧ row = .resetCore) ∨ (code = 1 ∧ d = .cluster ∧ row = .resetCluster) ∨
    (code = 2 ∧ d = .die ∧ row = .resetComputeDie) ∨ (code = 3 ∧ d = .router ∧ row = .resetCarcassRouter) ∨
    (code = 4 ∧ d = .memory ∧ row = .resetCarcassMemory) ∨ (code = 5 ∧ d = .bench ∧ row = .resetBench)

/-- The row of a domain code ends as the reset of its domain does, then what settles by itself follows. -/
theorem exec_of_resetRow {s u : State} {c : OpenCmd} {d : DomainCode} {row : Sys2Proof.Instr} {r : Result}
    (h : s.executes c 0x0B00 u) (hrow : ResetRow (uAt c.params 0 1) d row) (hr : doReset d c u = r) :
    exec row s = .next (State.conclude c false r).settle := by
  rcases hrow with ⟨hcode, rfl, rfl⟩ | hrow
  · exact runFront_settle_of_executes h (by rw [hcode]; rfl) ((if_pos hcode).trans hr)
  · rcases hrow with ⟨hcode, rfl, rfl⟩ | ⟨hcode, rfl, rfl⟩ | ⟨hcode, rfl, rfl⟩ | ⟨hcode, rfl, rfl⟩ | ⟨hcode, rfl, rfl⟩ <;>
      exact runFront_settle_of_executes h (beq_iff_eq.2 hcode) hr

/-- Settles O54: RESET_DOMAIN by what its unit is found to be, and COLD_RESET (assumption log 41). -/
theorem resetCommandsComplete : Obligations.ResetCommandsComplete := by
  intro s u c d i row
  refine ⟨fun h hi hrow => ⟨?idle, ?beyond, ?clamped, ?busy⟩, fun h => runSettle_of_executes h rfl⟩
  case idle =>
    intro hthere hfree hidle
    rw [exec_of_resetRow h hrow (doReset_idle hi hthere hfree hidle)]
    by_cases hbench : d = .bench
    · rw [if_pos hbench, if_pos hbench]
    · rw [if_neg hbench, if_neg hbench]
      rfl
  case beyond => exact fun hbeyond => exec_of_resetRow h hrow (doReset_beyond hi hbeyond)
  case clamped => exact fun hthere hclamped => exec_of_resetRow h hrow (doReset_clamped hi hthere hclamped)
  case busy => exact fun hthere hfree hbusy => exec_of_resetRow h hrow (doReset_busy hi hthere hfree hbusy)

/-! ### The course of a reset -/

section
variable {s : State} {d : DomainCode} {i since : Nat} {r : ResetRun} (hr : s.resetRun d i = some r)
include hr

section
variable (hphase : r.phase = .fenced since)
include hphase

/-- Nothing happens before a drain window has passed (R465). -/
theorem State.drainEnds_early (hearly : s.now < since + s.drainTicks d) : s.drainEnds d i = s := by
  simp only [State.drainEnds, hr, hphase]
  exact if_pos (.inr hearly)

/-- A domain other than the router asserts once its drain window has passed (R465). -/
theorem State.drainEnds_due (hd : d ≠ .router) (hdue : since + s.drainTicks d ≤ s.now) : s.drainEnds d i = s.assertReset r := by
  simp only [State.drainEnds, hr, hphase]
  exact if_neg (not_or.2 ⟨hd, Nat.not_lt.2 hdue⟩)

end

section
variable {passed : Bool} (hphase : r.phase = .asserted since)
  (hunheld : s.resets.any (fun x => (x.domain != d || x.inst != i) && contains_ x.domain x.inst d i) = false)
include hphase hunheld

/-- The router is released 5 ms after its assert, with bring-up on its 16 ports (R470). -/
theorem State.release_router (hd : d = .router) (hdue : since + ticksMs 5 ≤ s.now) :
    s.release d i passed = (List.range 16).foldl (fun t n => t.bringUp n) (s.setRun { r with phase := .returning s.now }) := by
  simp only [State.release, hr, hphase, hunheld, Bool.false_eq_true, if_false, if_pos hd]
  exact if_neg (Nat.not_lt.2 hdue)

variable (hdue : since + ticksMs 1 ≤ s.now)
include hdue

/-- A Bench that is released returns (R464, R472). -/
theorem State.release_bench (hd : d = .bench) :
    s.release d i passed = State.benchReturns { s with resets := s.resets.filter fun x => x.domain != .bench } := by
  subst hd
  simp only [State.release, hr, hphase, hunheld, Bool.false_eq_true, if_false, reduceCtorEq, if_neg (Nat.not_lt.2 hdue), if_true]

/-- A domain other than the router and the Bench is released after at least 1 ms (R464, R465). -/
theorem State.release_unit (hrouter : d ≠ .router) (hbench : d ≠ .bench) : s.release d i passed = s.releaseUnit r passed := by
  simp only [State.release, hr, hphase, hunheld, Bool.false_eq_true, if_false, if_neg hrouter, if_neg hbench,
    if_neg (Nat.not_lt.2 hdue)]

end

/-- The router's run ends once no port trains, at the latest 20 ms after its release (R466, R470). -/
theorem State.release_returned {passed : Bool} (hphase : r.phase = .returning since)
    (hover : s.portsTrain = false ∨ since + ticksMs 20 ≤ s.now) : s.release d i passed = s.endRun r .ok := by
  simp only [State.release, hr, hphase]
  refine if_neg fun ⟨htrain, hearly⟩ => ?_
  rcases hover with hover | hover
  · exact Bool.eq_false_iff.1 hover htrain
  · exact Nat.not_lt.2 hover hearly

end

/-- The router's ingress closes 100 µs after its fence (R470). -/
theorem exec_routerIngressClose_of_due {s : State} {since : Nat} {r : ResetRun} (hr : s.resetRun .router 0 = some r)
    (hphase : r.phase = .fenced since) (hdue : since + ticksUs 100 ≤ s.now) :
    exec .routerIngressClose s = .next (s.setRun { r with phase := .ingressClosed since }).settle := by
  show execRouterIngressClose s = _
  simp only [execRouterIngressClose, hr, hphase]
  exact next_settle_congr (if_neg (Nat.not_lt.2 hdue))

/-- The router's reset asserts 150 µs after its fence (R470). -/
theorem exec_routerAssert_of_due {s : State} {since : Nat} {r : ResetRun} (hr : s.resetRun .router 0 = some r)
    (hphase : r.phase = .ingressClosed since) (hdue : since + ticksUs 150 ≤ s.now) :
    exec .routerAssert s = .next (s.assertReset r).settle := by
  show execRouterAssert s = _
  simp only [execRouterAssert, hr, hphase]
  exact next_settle_congr (if_neg (Nat.not_lt.2 hdue))

/-- Settles O55: each end of a phase reaches the state that its time allows. -/
theorem resetsRunTheirCourse : Obligations.ResetsRunTheirCourse := by
  intro s d i since r passed hi hr
  refine ⟨?drain, ?ingress, ?router, ?release, ?returned⟩
  case drain =>
    intro hphase hd
    exact ⟨fun hdue => onUnit_of_eq hi (congrArg State.settle (State.drainEnds_due hr hphase hd hdue)),
      fun hearly => onUnit_of_eq hi (congrArg State.settle (State.drainEnds_early hr hphase hearly))⟩
  case ingress =>
    rintro rfl rfl hphase hdue
    exact exec_routerIngressClose_of_due hr hphase hdue
  case router =>
    rintro rfl rfl hphase hdue
    exact exec_routerAssert_of_due hr hphase hdue
  case release =>
    intro hphase hunheld
    exact ⟨fun hrouter hbench hdue =>
        onUnit_of_eq hi (congrArg State.settle (State.release_unit hr hphase hunheld hdue hrouter hbench)),
      fun hd hdue => onUnit_of_eq hi (congrArg State.settle (State.release_bench hr hphase hunheld hdue hd)),
      fun hd hdue => onUnit_of_eq hi (congrArg State.settle (State.release_router hr hphase hunheld hd hdue))⟩
  case returned => exact fun hphase hover => onUnit_of_eq hi (congrArg State.settle (State.release_returned hr hphase hover))

/-! ### Hangs -/

section
variable {s f g : State} {c : Nat} (hf : f = s.freezeFor (coreRings c))
include hf

/-- A core that hangs by itself is reported and reset, or clamped if it hung before (R475, R476). -/
theorem State.coreHang_alone (halone : (f.hungCores (clusterOf c)).length < 3 ∨ f.inReset .bench 0 = true)
    (hg : g = f.fault 0x0001 (.core c) .deadline (f.core c).tilesRetired.toNat
      (match (f.core c).item with | some it => it.tag.toNat | none => 0)) :
    s.coreHang c = if g.coreHungAgain c = true then g.clampCore c 5 false else g.startReset .core c none true := by
  subst hf hg
  refine if_neg fun ⟨hthree, hbench⟩ => ?_
  rcases halone with hfew | hreset
  · exact Nat.not_lt.2 hthree hfew
  · rw [hreset] at hbench
    exact Bool.false_ne_true hbench

/-- Three hung cores of a cluster are reported as the cluster, which is reset, or clamped if it hung before (R475, R476). -/
theorem State.coreHang_cluster (hthree : 3 ≤ (f.hungCores (clusterOf c)).length) (hbench : f.inReset .bench 0 = false)
    (hg : g = State.fault (f.freezeFor ((upFrom (4 * clusterOf c) 4).flatMap coreRings)) 0x0002 (.cluster (clusterOf c)) .deadline
      (((f.hungCores (clusterOf c)).map fun j => 2 ^ (j - 4 * clusterOf c)).sum) 0) :
    s.coreHang c = if g.clusterHungAgain (clusterOf c) = true then g.clampCluster (clusterOf c) 3 false
      else g.startReset .cluster (clusterOf c) none true := by
  subst hf hg
  exact if_pos ⟨hthree, by rw [hbench]; rfl⟩

end

/-- Freezing one ring changes nothing but the trace rings (R527). -/
theorem State.freezeRing_eq (s : State) (k : Nat) : ∃ x, s.freezeRing k = { s with obs := { s.obs with rings := x } } := by
  unfold State.freezeRing State.withComms
  dsimp only
  split
  · exact ⟨_, rfl⟩
  · exact ⟨s.obs.rings, rfl⟩

/-- Freezing rings in turn changes nothing but the trace rings (R527). -/
theorem State.foldl_freezeRing_eq (s : State) (rings : List Nat) :
    ∃ x, rings.foldl (fun t k => t.freezeRing k) s = { s with obs := { s.obs with rings := x } } := by
  induction rings generalizing s with
  | nil => exact ⟨s.obs.rings, rfl⟩
  | cons k ks ih =>
    obtain ⟨x, hx⟩ := s.freezeRing_eq k
    rw [List.foldl_cons, hx]
    exact ih _

/-- Freezing rings for a hang changes nothing but the trace rings (R527). -/
theorem State.freezeFor_eq (s : State) (rings : List Nat) :
    ∃ x, s.freezeFor rings = { s with obs := { s.obs with rings := x } } := by
  rw [State.freezeFor]
  split
  · exact s.foldl_freezeRing_eq rings
  · exact ⟨s.obs.rings, rfl⟩

/-- Freezing rings for a hang leaves the boot block. -/
theorem State.freezeFor_boot (s : State) (rings : List Nat) : (s.freezeFor rings).boot = s.boot := by
  obtain ⟨x, hx⟩ := s.freezeFor_eq rings
  rw [hx]

/-- Freezing rings for a hang leaves the local clock. -/
theorem State.freezeFor_now (s : State) (rings : List Nat) : (s.freezeFor rings).now = s.now := by
  obtain ⟨x, hx⟩ := s.freezeFor_eq rings
  rw [hx]

/-- A lapsed heartbeat is reported, and the third within an hour resets the module, any other the Bench (R478). -/
theorem State.benchHang_eq {s g : State} {lapsed : BitVec 4} {hangs : List Nat}
    (hhangs : hangs = s.now :: s.boot.benchHangs.filter (fun t => decide (s.now < t + ticksS 3600)))
    (hg : g = State.fault { s.freezeFor [benchRing] with boot := { (s.freezeFor [benchRing]).boot with benchHangs := hangs } }
      0x0003 .module .deadline lapsed.toNat hangs.length) :
    s.benchHang lapsed = if hangs.length < 3 then g.resetBench 3 false else (g.sendDark g.ft 1).coldReset 4 true := by
  have hfrozen : hangs = (s.freezeFor [benchRing]).now :: (s.freezeFor [benchRing]).boot.benchHangs.filter
      (fun t => decide ((s.freezeFor [benchRing]).now < t + ticksS 3600)) := by
    rw [State.freezeFor_now, State.freezeFor_boot, hhangs]
  subst hg
  rw [State.benchHang]
  simp only [← hfrozen]
  by_cases hfew : hangs.length < 3
  · rw [if_pos hfew, if_neg (Nat.not_le.2 hfew)]
  · rw [if_neg hfew, if_pos (Nat.not_lt.1 hfew)]

section
variable {s : State} (hon : s.power.rails = .on)
include hon

/-- The hang of a core whose window has expired is followed (R474). -/
theorem exec_coreHang_of_expired {c : Nat} {t : State} (hc : c < 384) (hexpired : s.coreExpired c = true) (ht : s.coreHang c = t) :
    exec (.coreHang c) s = .next t.settle := by
  subst ht
  refine onUnit_of_eq hc (congrArg State.settle (if_pos ?_))
  rw [hon, hexpired]
  rfl

/-- The stall of an engine whose window has expired is followed (R477). -/
theorem exec_streamStall_of_expired {e : Nat} (he : e < 4) (hexpired : s.engineExpired e = true) :
    exec (.streamStall e) s = .next (s.engineStall e).settle := by
  refine onUnit_of_eq he (congrArg State.settle (if_pos ?_))
  rw [hon, hexpired]
  rfl

/-- A port whose window has expired is traced frozen, reported and retrained (R474). -/
theorem exec_portStall_of_expired {n : Nat} (hn : n < 16) (hexpired : s.portExpired n = true) :
    exec (.portStall n) s = .next (State.settle (State.retrainPort
      (State.fault (s.freezeFor [1920 + n]) 0x0006 (.port n) .deadline (s.port n).egress.length 0) n)) := by
  refine onUnit_of_eq hn (congrArg State.settle (if_pos ?_))
  rw [hon, hexpired]
  rfl

/-- A lapsed heartbeat of a watched Bench that is not in reset is followed (R478). -/
theorem exec_benchHang_of_lapsed {lapsed : BitVec 4} {t : State} (harmed : s.boot.watchdogArmed = true)
    (hup : s.underReset .bench 0 = false) (hlapsed : lapsed ≠ 0) (ht : s.benchHang lapsed = t) :
    exec (.benchHang lapsed) s = .next t.settle := by
  subst ht
  refine next_settle_congr (if_pos ?_)
  rw [hon, harmed, hup, bne_iff_ne.2 hlapsed]
  rfl

/-- The ROM timer resets a Bench that has stood in boot stage 0 for 5 s (R478; assumption log 42). -/
theorem exec_romTimer_of_late (hrom : s.boot.watchdogArmed = false) (hup : s.underReset .bench 0 = false)
    (hstage : s.boot.stage = 0) (hlate : s.boot.startedAt + ticksS 5 ≤ s.now) :
    exec .romTimer s = .next (s.resetBench s.boot.cause false).settle := by
  refine next_settle_congr (if_pos ?_)
  rw [hon, hrom, hup, hstage, decide_eq_true hlate]
  rfl

end

/-- A core whose window has not expired does not hang (R474). -/
theorem exec_coreHang_of_notExpired {s : State} {c : Nat} (hc : c < 384) (hrunning : s.coreExpired c = false) :
    exec (.coreHang c) s = .next s.settle := by
  refine onUnit_of_eq hc (congrArg State.settle (if_neg ?_))
  rw [hrunning, Bool.and_false]
  exact Bool.false_ne_true

/-- Settles O45: each kind of hang by what has expired (assumption log 41, 42 and 141). -/
theorem hangsAreFound : Obligations.HangsAreFound := by
  intro s f c e n lapsed hangs hon
  refine ⟨?core, exec_coreHang_of_notExpired, exec_streamStall_of_expired hon, exec_portStall_of_expired hon, ?bench,
    exec_romTimer_of_late hon⟩
  case core =>
    intro hc hexpired hf
    exact ⟨fun halone g hg => exec_coreHang_of_expired hon hc hexpired (State.coreHang_alone hf halone hg),
      fun hthree hbench g hg => exec_coreHang_of_expired hon hc hexpired (State.coreHang_cluster hf hthree hbench hg)⟩
  case bench =>
    intro harmed hup hlapsed hhangs g hg
    exact exec_benchHang_of_lapsed hon harmed hup hlapsed (State.benchHang_eq hhangs hg)

/-! ### Images in the NOR -/

section
variable {u : State} {c : OpenCmd}

section
variable (hregion : uAt c.params 0 1 < 6) (hinside : uAt c.params 4 4 + uAt c.params 8 4 ≤ (norRegion (uAt c.params 0 1)).2)
include hregion hinside

/-- A range inside one of regions 0 to 5 is none that IMAGE_WRITE refuses (R501). -/
theorem imageWrite_not_beyond :
    ¬(6 ≤ uAt c.params 0 1 ∨ (norRegion (uAt c.params 0 1)).2 < uAt c.params 4 4 + uAt c.params 8 4) :=
  not_or.2 ⟨Nat.not_le.2 hregion, Nat.not_lt.2 hinside⟩

/-- IMAGE_WRITE inside a region whose copy does not run stores its data there (R497, R501). -/
theorem doImageWrite_stores (hidle : u.runningRegions.contains (uAt c.params 0 1) = false) :
    doImageWrite c u = done { u with security := { u.security with
      nor := norWrite u.security.nor ((norRegion (uAt c.params 0 1)).1 + uAt c.params 4 4)
        (slice c.params 16 (uAt c.params 8 4)) } } [] :=
  (if_neg (imageWrite_not_beyond hregion hinside)).trans (if_neg (Bool.eq_false_iff.1 hidle))

/-- IMAGE_WRITE of the region of the running copy gives BUSY (R501). -/
theorem doImageWrite_running (hruns : u.runningRegions.contains (uAt c.params 0 1) = true) : doImageWrite c u = refuse u .busy :=
  (if_neg (imageWrite_not_beyond hregion hinside)).trans (if_pos hruns)

end

/-- IMAGE_WRITE of a region from 6 on, or beyond its region, gives BAD_PARAM (R501). -/
theorem doImageWrite_beyond
    (hbeyond : 6 ≤ uAt c.params 0 1 ∨ (norRegion (uAt c.params 0 1)).2 < uAt c.params 4 4 + uAt c.params 8 4) :
    doImageWrite c u = refuse u .badParam := if_pos hbeyond

/-- IMAGE_COMMIT of an image's region starts its verification (R501). -/
theorem doImageCommit_starts (v : List Byte) (hregion : uAt c.params 0 1 < 6) :
    doImageCommit v c u = began u (.imageCommit (uAt c.params 0 1) v) := if_neg (Nat.not_le.2 hregion)

end

/-- Settles O14: IMAGE_WRITE by its region and range, and IMAGE_COMMIT. -/
theorem imageUpdates : Obligations.ImageUpdates := by
  intro s u c v
  exact ⟨fun h hregion hinside =>
      ⟨fun hidle => next_run_of_executes h (doImageWrite_stores hregion hinside hidle),
        fun hruns => next_run_of_executes h (doImageWrite_running hregion hinside hruns)⟩,
    fun h hbeyond => next_run_of_executes h (doImageWrite_beyond hbeyond),
    fun h hregion => next_run_of_executes h (doImageCommit_starts v hregion)⟩

/-! ### Keys -/

section
variable {u : State} {c : OpenCmd} (hreserved : zeroFrom c.params 68 72 = true)
include hreserved

section
variable (hid : uAt c.params 0 4 = noticeKeyId)
include hid

/-- JOB_KEY_INSTALL of the notice key stores a key that unwraps, and held notices go out (R508). -/
theorem doJobKeyInstall_notice (hok : c.facts.unwrapOk = true) : doJobKeyInstall c u =
    doneThen { u with security := { u.security with noticeKey := some (exactly 32 c.facts.key) } } [] State.releaseHeld := by
  simp only [doJobKeyInstall, hreserved, hid, hok, Bool.not_true, Bool.false_eq_true, if_false, if_true]
  rfl

/-- JOB_KEY_INSTALL of a notice key that does not unwrap fails its tag (R507, R508). -/
theorem doJobKeyInstall_noticeBad (hbad : c.facts.unwrapOk = false) : doJobKeyInstall c u = keyFails u := by
  simp only [doJobKeyInstall, hreserved, hid, hbad, Bool.not_true, Bool.false_eq_true, if_false, if_true]

end

section
variable {slot : Nat} (hid : uAt c.params 0 4 ≠ noticeKeyId)
  (hnew : u.security.keys.any (fun k => k.2.id == uAt c.params 0 4) = false) (hslot : u.freeSlot = some slot)
include hid hnew hslot

/-- JOB_KEY_INSTALL of an ID above the highest so far stores the key in the lowest free slot and makes it active (R508). -/
theorem doJobKeyInstall_fresh (hok : c.facts.unwrapOk = true) (habove : u.security.highestKey < uAt c.params 0 4) :
    doJobKeyInstall c u = done
      { u with
        security := { u.security with
          keys := tabPut u.security.keys slot { id := uAt c.params 0 4, key := exactly 32 c.facts.key, restoreOnly := false }
          active := some slot, highestKey := uAt c.params 0 4, highestCheck := u.jobKeyCheck (exactly 32 c.facts.key) }
        ckpt := { u.ckpt with underKey := 0 } } [] := by
  simp only [doJobKeyInstall, hreserved, hnew, hslot, hok, Bool.not_true, Bool.false_eq_true, if_false, if_neg hid, if_pos habove]
  rfl

/-- JOB_KEY_INSTALL of a key that does not unwrap fails its tag (R507, R508). -/
theorem doJobKeyInstall_bad (hbad : c.facts.unwrapOk = false) : doJobKeyInstall c u = keyFails u := by
  simp only [doJobKeyInstall, hreserved, hnew, hslot, hbad, Bool.not_true, Bool.not_false, Bool.false_eq_true, if_false, if_true,
    if_neg hid]

end

end

section
variable {u : State} {c : OpenCmd}

/-- JOB_KEY_ERASE of an installed ID removes its key, and with it the active key if it is that (R509). -/
theorem doJobKeyErase_installed {k : Nat × JobKey} (hid : uAt c.params 0 4 ≠ noticeKeyId)
    (hk : u.security.keys.find? (fun k => k.2.id == uAt c.params 0 4) = some k) :
    doJobKeyErase c u = done { u with security := { u.security with
      keys := tabDel u.security.keys k.1
      active := if u.security.active = some k.1 then none else u.security.active } } [] := by
  simp only [doJobKeyErase, if_neg hid, hk]

/-- JOB_KEY_ERASE of the notice key removes it (R509). -/
theorem doJobKeyErase_notice (hid : uAt c.params 0 4 = noticeKeyId) (hthere : u.security.noticeKey.isSome = true) :
    doJobKeyErase c u = done { u with security := { u.security with noticeKey := none } } [] :=
  (if_pos hid).trans (if_pos hthere)

end

/-- Settles O15: JOB_KEY_INSTALL by its ID and by whether its key unwraps, and JOB_KEY_ERASE. -/
theorem keysInstallAndErase : Obligations.KeysInstallAndErase := by
  intro s u c slot k
  refine ⟨fun h hreserved hid => ⟨fun hok => ?_, fun hbad => ?_⟩,
    fun h hreserved hid hnew hslot => ⟨fun hok habove => ?_, fun hbad => ?_⟩,
    fun h hid hk => next_run_of_executes h (doJobKeyErase_installed hid hk),
    fun h hid hthere => next_run_of_executes h (doJobKeyErase_notice hid hthere)⟩
  · exact next_run_of_executes h (doJobKeyInstall_notice hreserved hid hok)
  · exact next_run_of_executes h (doJobKeyInstall_noticeBad hreserved hid hbad)
  · exact next_run_of_executes h (doJobKeyInstall_fresh hreserved hid hnew hslot hok habove)
  · exact next_run_of_executes h (doJobKeyInstall_bad hreserved hid hnew hslot hbad)

/-! ### The alarm -/

section
variable {s : State} {src : BitVec 7} (sensor reading : BitVec 16)

/-- A trigger at or below the latched level does nothing (R513). -/
theorem State.raiseAlarm_below (hbelow : s.levelOf (s.watched src) ≤ s.security.level) : s.raiseAlarm src sensor reading = s :=
  if_pos hbelow

/-- A trigger above the latched level, with the rails on, latches and acts as far as its level reaches (R513, R514). -/
theorem State.raiseAlarm_above (habove : s.security.level < s.levelOf (s.watched src)) (hon : s.power.rails = .on) :
    s.raiseAlarm src sensor reading =
      (let level := s.levelOf (s.watched src)
       let a := s.latchAlarm (s.watched src) level sensor reading
       let e := event 0x0004 .fault .alarm a.alarmRecord
       let b := if level = 3 then a.alarmUntagged e else a.emit e
       let d := if 2 ≤ level then b.alarmActions else b
       if level = 3 then d.burnHelper else d) := by
  have hlatched : (s.latchAlarm (s.watched src) (s.levelOf (s.watched src)) sensor reading).power.rails = .on := hon
  refine (if_neg (Nat.not_le.2 habove)).trans ?_
  simp only [hlatched, if_true]

variable (hstandby : s.standby = true)
include hstandby

/-- With the standby domain powered a trigger is taken, then what settles by itself follows (R512). -/
theorem exec_alarmTrigger_of_standby {t : State} (ht : s.raiseAlarm src sensor reading = t) :
    exec (.alarmTrigger src sensor reading) s = .next t.settle := by
  subst ht
  exact congrArg Host.Outcome.next (if_pos hstandby)

end

/-- The wipe of a latched level ends (R513; assumption log 91). -/
theorem exec_wipeEnd_of_pending {s : State} (hlevel : 2 ≤ s.security.level) (hpending : s.security.wipeDone = false)
    (hon : s.power.rails = .on) : exec .wipeEnd s = .next s.wipe := by
  refine congrArg Host.Outcome.next (if_pos ?_)
  rw [State.wipePending, decide_eq_true hlevel, hpending, hon]
  rfl

section
variable {u : State} {c : OpenCmd}

/-- ALARM_CLEAR that names a level it may clear clears the alarm (R515; assumption log 51). -/
theorem doAlarmClear_clears (hlow : 1 ≤ uAt c.params 0 1) (hhigh : uAt c.params 0 1 ≤ 2)
    (hlevel : u.security.level ≤ uAt c.params 0 1) (hwiped : u.security.level = 2 → u.security.wipeDone = true) :
    doAlarmClear c u = done
      { u with
        security := { u.security with level := 0, eventLevel := 0, sources := 0, firstFt := 0, wipeFt := 0
                                      wipeDone := false, sensor := 0, reading := 0 }
        cmds := { u.cmds with authFailures := [] } } [] := by
  have hnamed : (!within (uAt c.params 0 1) 1 2) = false := by
    rw [within, decide_eq_true ⟨hlow, hhigh⟩]
    rfl
  refine (if_neg (not_or.2 ⟨Bool.eq_false_iff.1 hnamed, Nat.not_lt.2 hlevel⟩)).trans (if_neg fun ⟨htwo, hundone⟩ => ?_)
  rw [hwiped htwo] at hundone
  exact Bool.false_ne_true hundone

/-- ALARM_CLEAR of a level below the latched one gives BAD_PARAM (R515). -/
theorem doAlarmClear_below (hbelow : uAt c.params 0 1 < u.security.level) : doAlarmClear c u = refuse u .badParam :=
  if_pos (.inr hbelow)

end

/-- Settles O16: a trigger by the level of its watched sources, the wipe, and ALARM_CLEAR (assumption log 51, 90 and 91). -/
theorem alarmActsAndClears : Obligations.AlarmActsAndClears := by
  intro s u c src sensor reading
  refine ⟨?below, ?above, exec_wipeEnd_of_pending, ?clears, fun h hbelow => next_run_of_executes h (doAlarmClear_below hbelow)⟩
  case below =>
    exact fun hstandby hbelow => exec_alarmTrigger_of_standby sensor reading hstandby (State.raiseAlarm_below sensor reading hbelow)
  case above =>
    exact fun hstandby habove hon =>
      exec_alarmTrigger_of_standby sensor reading hstandby (State.raiseAlarm_above sensor reading habove hon)
  case clears =>
    exact fun h hlow hhigh hlevel hwiped => next_run_of_executes h (doAlarmClear_clears hlow hhigh hlevel hwiped)

end Sys2Proof.Machine
